-- ==== Sys2Proof/Word.lean ====
section
/-! DEFINITION. The word types of the LG9 (R36: bit 0 is the least significant bit, fields are unsigned
unless said otherwise) and the plain types that hold them: sparse tables, and the exact numbers of
"Number formats, scales and the order of sums". -/
namespace Sys2Proof

/-- A 64-bit register, payload or address. -/
abbrev Word := BitVec 64
/-- A byte of storage. -/
abbrev Byte := BitVec 8
/-- A control-core register number (g0 to g31). -/
abbrev Reg := BitVec 5

/-- A sparse table in canonical form: keys strictly rising, no entry equal to what an unlisted key reads as.
The operations that keep the form are in `Sys2Proof.Machine.Sparse`. -/
abbrev Sparse (α : Type) := List (Nat × α)

/-- An exact value (R76): NaN with the sign that ranking uses (R72, R88), an infinity, or the rational
`± num / den` with `den ≥ 1`; a zero keeps its sign. -/
inductive Num where
  | nan (neg : Bool)
  | inf (neg : Bool)
  | fin (neg : Bool) (num den : Nat)
deriving DecidableEq, Repr, Inhabited

end Sys2Proof
end

