-- ==== Sys2Proof/Syntax.lean ====
section
/-! DEFINITION. The syntax: slots of elements (R42, R43, R44), the data that events carry, and `Instr`, one
constructor for each row of the table of operations and events. -/
namespace Sys2Proof

/-- A destination of the route plane (R43). -/
structure Dest where
  valid : Bool
  net   : Bool
  port  : BitVec 2
  slot  : BitVec 5
  elem  : BitVec 16
  tagop : BitVec 3
  rsv   : BitVec 4
deriving DecidableEq, Repr, Inhabited

/-- A handler slot without its major opcode: the fields of R42, the two destinations of R43 and the constants
plane of R44. The opcode is the constructor of `Instr`. -/
structure Slot where
  fn    : BitVec 5
  fire  : BitVec 3
  amode : BitVec 2
  bmode : BitVec 2
  cmode : BitVec 2
  arity : BitVec 2
  flags : BitVec 3
  out   : BitVec 5
  d0    : Dest
  d1    : Dest
  const : BitVec 32
deriving DecidableEq, Repr, Inhabited

/-- A 128-bit token (R37). -/
structure Token where
  rsv     : BitVec 2
  net     : Bool
  last    : Bool
  kind    : BitVec 4
  dest    : BitVec 16
  port    : BitVec 2
  slot    : BitVec 5
  chan    : BitVec 5
  seq     : BitVec 4
  ctx     : BitVec 8
  iter    : BitVec 16
  payload : Word
deriving DecidableEq, Repr, Inhabited

/-- Who writes a wake word or reaches a dormant device (R347). -/
inductive Waker where
  | host
  | vd (pkg : Nat) (vd : Nat)
deriving DecidableEq, Repr, Inhabited

/-- The image of one boot stage as the previous stage sees it (R354): its digest, its signature, its version,
whether it parses, and what the stage itself reports. -/
structure BootImage where
  digest    : BitVec 256
  claimed   : BitVec 256
  signature : Nat
  version   : Nat
  wellFormed : Bool
  poisoned  : Bool
  reported  : Option (BitVec 4)
deriving DecidableEq, Repr, Inhabited

/-- Where an uncorrectable error strikes (R110, R179, R311). -/
inductive Upset where
  | line   (pa : Nat)
  | accWord (core n i j : Nat)
  | entry  (r a k : Nat)
  | spill  (r a k : Nat)
  | latch  (r a conf slot port : Nat)
  | planes (r a conf slot : Nat)
  | chan   (r a conf ch : Nat)
deriving DecidableEq, Repr, Inhabited

/-- The kinds of remote access that reach a home from another package (R366). -/
inductive RemoteKind where
  | load
  | store (v : Word)
  | atomic (op : Nat) (b c : Word)
  | bytes (v : Nat)          -- copy data of a record: up to 64 bytes of one line (R360)
deriving DecidableEq, Repr, Inhabited

/-- A remote access as it reaches this package, or one of this package's own that is under way. -/
structure RemoteReq where
  pod   : Nat := 0
  pkg   : Nat
  vd    : Nat
  die   : Nat
  pa    : Nat
  size  : Nat
  kind  : RemoteKind
deriving DecidableEq, Repr, Inhabited

/-- A source of a reduction (R373): its package as 256 × pod + package, its index, and the number under which that package keeps
the contribution. -/
structure RedSrc where
  pkg : Nat
  x   : Nat
  id  : Nat
deriving DecidableEq, Repr, Inhabited

/-- A node of a reduction (R372): it stands for `Tree(lo, m)` of R84, under the fields of R194 that its contributions carry. -/
structure RedNode where
  win    : Nat
  addr   : Nat
  lo     : Nat
  m      : Nat
  val    : Word
  srcs   : List RedSrc
  retx   : Bool
  terms  : Nat
  fmt    : Nat
  size   : Nat
  fadd   : Bool
deriving DecidableEq, Repr, Inhabited

/-- A member of a span (R363). -/
structure SpanMember where
  pkg   : Nat
  vd    : Nat
  ports : BitVec 40
  pod   : Nat
deriving DecidableEq, Repr, Inhabited

/-- A message of another package's firmware (R360: lane 3). The spec gives what firmware does with it, and no form for it. -/
inductive FarMsg where
  | spanSubmit (pod pkg vd : Nat) (id : Word) (edge : Bool) (members : List SpanMember)         -- SPAN there (R363)
  | spanLeave (pod pkg vd : Nat)                                                                -- SPANLEAVE there (R365)
  | prepare (pod pkg vd gang : Nat) (own cluster : Nat) (desc task : Word)                      -- a leader's prepare (R377)
  | go (pod pkg vd gang : Nat)                                                                  -- its go
  | discard (pod pkg vd gang : Nat)                                                             -- a prepare has failed
  | fail (pod pkg vd gang : Nat)                                                                -- a go was not acknowledged
  | part (pkg vd : Nat) (own : Nat) (desc : Word) (pkgs : List Nat)                             -- cores of a region there (R368)
  | partConf (r c : Nat)                                                                        -- its sequencer's next configuration
  | partStart (r : Nat)                                                                         -- the step begins
  | partEnd (r : Nat) (kill : Bool)                                                             -- its end
  | done (r : Nat) (stop : Bool)                                                                -- DONE in a part over there
deriving DecidableEq, Repr, Inhabited

/-- What a flit stands for (R359, R360): the spec gives requests, nodes and messages no form of tokens. -/
inductive FlitMsg where
  | none
  | request (q : RemoteReq)
  | reply
  | node (d : RedNode)
  | stream (vd port : Nat)
  | element (r : Nat)
  | firmware (m : FarMsg)
deriving DecidableEq, Repr, Inhabited

/-- A flit and its link word (R359): lane, type, count field, tokens (a data line is four), destination and source device; what it
stands for, whether a data line follows it, and whether its CRC is good. -/
structure Flit where
  lane   : Nat
  ftype  : Nat
  count  : Nat
  tokens : List Token
  pkg    : Nat
  pod    : Nat
  srcVd  : Nat
  msg    : FlitMsg
  line   : Bool
  good   : Bool
deriving DecidableEq, Repr, Inhabited

/-- Whether a flit keeps the form of R359: one to four tokens and the count field one less, or a data line of 64 bytes, or an idle
flit. -/
def Flit.formOk (f : Flit) : Bool :=
  match f.ftype with
  | 0 => decide (1 ≤ f.tokens.length) && decide (f.tokens.length ≤ 4) && f.count + 1 == f.tokens.length
  | 1 => f.tokens.length == 4
  | 2 => f.tokens.isEmpty
  | _ => false

/-- A breakpoint of `ifepel` (R32, R305, R340): a firing is named by its region's descriptor, element and slot. -/
inductive Brk where
  | fire  (desc : Word) (a slot : Nat) (tag : Option (BitVec 24))
  | tag   (t : BitVec 24)
  | addr  (lo len : Nat) (rd wr : Bool)
  | event (code : Nat) (hold : Bool)
  | pc    (a : Word)
deriving DecidableEq, Repr, Inhabited

/-- The data-line types by which memory is shown (R29, R32). -/
inductive DataType where
  | i8 | i16 | i32 | i64 | bf16 | fp16 | fp32 | fp8e4m3 | fp8e5m2 | bytes
deriving DecidableEq, Repr, Inhabited

/-- One configuration of an image: extents (R250), slots, channel entries, scale registers and routes by element
address (R323), and the declared depth (R28). -/
structure ImgConf where
  extents : List Nat
  depth   : Nat
  imageAt : Word
  slots   : List (BitVec 16 × Nat × (BitVec 32 × BitVec 64 × BitVec 32))
  chans   : List (BitVec 16 × Nat × BitVec 32)
  scales  : List (BitVec 16 × Nat × BitVec 32)
  routes  : List (BitVec 16 × Nat × Byte)
deriving DecidableEq, Repr, Inhabited

/-- A region of an image (R27, R249, R306). -/
structure ImgRegion where
  name    : String
  descAt  : Word
  listAt  : Word
  cores   : Nat
  tagwin  : Nat
  rank    : Nat
  fedge   : Word
  mbox    : Word
  gates   : BitVec 32
  idem    : Bool
  peek    : Bool
  readers : List Nat
  confs   : List ImgConf
deriving DecidableEq, Repr, Inhabited

/-- Where a data block lives (R29). -/
inductive DataSpace where
  | scratch | abuf | wbuf | hbm | commons
deriving DecidableEq, Repr, Inhabited

/-- A data block of an image: space, address, contents, whether its pages are deferred (R339), and, for a block in the storage of
cores, where the loader keeps its copy in the device's memory (R247). -/
structure ImgData where
  space    : DataSpace
  addr     : Word
  bytes    : List Byte
  deferred : Bool
  copyAt   : Word := 0
deriving DecidableEq, Repr, Inhabited

/-- A task of an image (R30, R303, R307). -/
structure ImgTask where
  recAt   : Word
  region  : Nat
  prio    : Nat
  arg0    : Word
  arg1    : Word
  reads   : List (Word × Word)
  writes  : List (Word × Word)
  tilesAt : Word
  after   : Option (List Nat)
  blockAt : Word
  doneAt  : Word
  doneTarget : Word
deriving DecidableEq, Repr, Inhabited

/-- A constant expression of 64-bit integers (R26) in which the names of shelf partitions stand (R306); all other names are values. -/
inductive ConstExpr where
  | num (v : Word)
  | part (i : Nat)
  | add (x y : ConstExpr)
  | sub (x y : ConstExpr)
  | mul (x y : ConstExpr)
  | shl (x y : ConstExpr)
  | shr (x y : ConstExpr)
  | band (x y : ConstExpr)
  | bor (x y : ConstExpr)
deriving DecidableEq, Repr, Inhabited

/-- Where such an expression stands: the constants plane of entry `i` of a configuration's slots; address or length of tile pair `i`
of a task; arg0 or arg1, or address or target of the completion counter of a task; `n` bytes of a data block. -/
inductive UsePlace where
  | slot (region conf i : Nat)
  | tile (task i : Nat)
  | tileLen (task i : Nat)
  | arg (task i : Nat)
  | done (task i : Nat)
  | data (block off n : Nat)
deriving DecidableEq, Repr, Inhabited

/-- A use of the names of partitions (R306): the loader writes the value of the expression into `width` bits from bit `lo` on. -/
structure NameUse where
  place : UsePlace
  expr  : ConstExpr
  lo    : Nat
  width : Nat
deriving DecidableEq, Repr, Inhabited

/-- An image as `ifepel load` takes it, with what the loader and Bextex choose for it: the addresses of its parts, the
name, number, floor and ceiling of its partitions, and the page-table entries they write (physical place, entry). -/
structure Image where
  name    : String
  regions : List ImgRegion
  datas   : List ImgData
  tasks   : List ImgTask
  parts   : List (String × Nat × Nat × Nat)
  names   : List NameUse
  ptes    : List (Nat × Nat)
  clusters  : Nat
  hbmgroups : Nat
  commons   : Nat
  wakeclass : Nat
  pinned    : Bool
deriving DecidableEq, Repr, Inhabited

/-- One constructor for each row of spec/opcode_table.json: the firings of element instructions (their slot), the
control-core instructions (their fields, R51 to R55), and the steps and events of the machine (the unit they happen at). -/
inductive Instr where
  | elemAdd (w : Slot)
  | elemSub (w : Slot)
  | elemMul (w : Slot)
  | mulhi (w : Slot)
  | mad (w : Slot)
  | elemDiv (w : Slot)
  | elemRem (w : Slot)
  | elemAnd (w : Slot)
  | elemOr (w : Slot)
  | elemXor (w : Slot)
  | andn (w : Slot)
  | shl (w : Slot)
  | shr (w : Slot)
  | sar (w : Slot)
  | rot (w : Slot)
  | elemClz (w : Slot)
  | elemPopc (w : Slot)
  | elemMin (w : Slot)
  | elemMax (w : Slot)
  | abs (w : Slot)
  | fadd (w : Slot)
  | fsub (w : Slot)
  | fmul (w : Slot)
  | fma (w : Slot)
  | fmin (w : Slot)
  | fmax (w : Slot)
  | fsgn (w : Slot)
  | frcp (w : Slot)
  | frsq (w : Slot)
  | fexp2 (w : Slot)
  | flog2 (w : Slot)
  | fcvt (w : Slot)
  | fclass (w : Slot)
  | fdot (w : Slot)
  | amax (w : Slot)
  | cmp (w : Slot)
  | fcmp (w : Slot)
  | sel (w : Slot)
  | bcmp (w : Slot)
  | bfind (w : Slot)
  | bperm (w : Slot)
  | hash64 (w : Slot)
  | crc32c (w : Slot)
  | dfastep (w : Slot)
  | steer (w : Slot)
  | merge (w : Slot)
  | gate (w : Slot)
  | fork (w : Slot)
  | sink (w : Slot)
  | const (w : Slot)
  | tagget (w : Slot)
  | tagset (w : Slot)
  | ctxalloc (w : Slot)
  | ctxret (w : Slot)
  | ctxfree (w : Slot)
  | seqset (w : Slot)
  | loopgen (w : Slot)
  | loopret (w : Slot)
  | accum (w : Slot)
  | compress (w : Slot)
  | topk (w : Slot)
  | merge2 (w : Slot)
  | tokout (w : Slot)
  | elemTrap (w : Slot)
  | elemEtrig (w : Slot)
  | done (w : Slot)
  | chbind (w : Slot)
  | sclset (w : Slot)
  | cntwatch (w : Slot)
  | elemChain (w : Slot)
  | nop (w : Slot)
  | elemLd (w : Slot)
  | elemSt (w : Slot)
  | agstream (w : Slot)
  | gather (w : Slot)
  | scatter (w : Slot)
  | atom (w : Slot)
  | red (w : Slot)
  | elemFence (w : Slot)
  | elemApcvt (w : Slot)
  | elemAptest (w : Slot)
  | fibOpen (w : Slot)
  | fibAdv (w : Slot)
  | fibEnd (w : Slot)
  | fibClose (w : Slot)
  | mldt (w : Slot)
  | pref (w : Slot)
  | mma (w : Slot)
  | mmaZ (w : Slot)
  | accRd (w : Slot)
  | accWr (w : Slot)
  | accCvt (w : Slot)
  | accChk (w : Slot)
  | accVfy (w : Slot)
  | accFix (w : Slot)
  | sclLd (w : Slot)
  | shalloc (w : Slot)
  | shseal (w : Slot)
  | shld (w : Slot)
  | shpeek (w : Slot)
  | shabandon (w : Slot)
  | shquery (w : Slot)
  | add (d a b : Reg)
  | sub (d a b : Reg)
  | mul (d a b : Reg)
  | mulh (d a b : Reg)
  | div (d a b : Reg)
  | divu (d a b : Reg)
  | rem (d a b : Reg)
  | remu (d a b : Reg)
  | and (d a b : Reg)
  | or (d a b : Reg)
  | xor (d a b : Reg)
  | sll (d a b : Reg)
  | srl (d a b : Reg)
  | sra (d a b : Reg)
  | slt (d a b : Reg)
  | sltu (d a b : Reg)
  | min (d a b : Reg)
  | max (d a b : Reg)
  | clz (d a : Reg)
  | popc (d a : Reg)
  | addi (d a : Reg) (imm : BitVec 15)
  | andi (d a : Reg) (imm : BitVec 15)
  | ori (d a : Reg) (imm : BitVec 15)
  | xori (d a : Reg) (imm : BitVec 15)
  | slli (d a : Reg) (imm : BitVec 15)
  | srli (d a : Reg) (imm : BitVec 15)
  | srai (d a : Reg) (imm : BitVec 15)
  | slti (d a : Reg) (imm : BitVec 15)
  | ldhi (d : Reg) (imm : BitVec 20)
  | bt (a : Reg) (c : BitVec 3) (off : BitVec 15)
  | bc (a b : Reg) (c : BitVec 3) (off : BitVec 12)
  | bdec (a : Reg) (off : BitVec 15)
  | jrel (d : Reg) (off : BitVec 20)
  | jind (d a : Reg) (imm : BitVec 15)
  | ld (d b : Reg) (ord : BitVec 2) (scope : BitVec 3) (size : BitVec 2) (off : BitVec 8)
  | ldu (d b : Reg) (ord : BitVec 2) (scope : BitVec 3) (size : BitVec 2) (off : BitVec 8)
  | st (d b : Reg) (ord : BitVec 2) (scope : BitVec 3) (size : BitVec 2) (off : BitVec 8)
  | amo (d a b : Reg) (op : BitVec 3) (ord : BitVec 2) (scope : BitVec 3) (size : BitVec 2)
  | cas (d a b : Reg) (ord : BitVec 2) (scope : BitVec 3) (size : BitVec 2)
  | fence (ord : BitVec 2) (scope : BitVec 3)
  | apcvt (d a : Reg) (ap : BitVec 3)
  | aptest (d a : Reg) (ap : BitVec 3)
  | waitc (l st c tl : BitVec 3)
  | waitge (d a b : Reg)
  | taskpub (d a : Reg)
  | taskjoin (d a b : Reg)
  | taskres (d a b : Reg)
  | etrig (d a : Reg)
  | rgnload (d a b : Reg)
  | rgnstart (d a b : Reg)
  | rgnswap (d a b : Reg)
  | rgndrain (d a : Reg)
  | rgnsave (d a b : Reg)
  | rgnrest (d a b : Reg)
  | rgnkill (d a : Reg)
  | rgnconst (d a b : Reg)
  | chain (d a b : Reg)
  | uisend (a : Reg)
  | uiret
  | uimask (d a : Reg) (v : BitVec 6)
  | uimaskEnt (d a : Reg)
  | vdsleep (d a : Reg)
  | vdquery (d a b : Reg)
  | sysrd (d : Reg) (n : BitVec 15)
  | syswr (a : Reg) (n : BitVec 15)
  | sysset (d a : Reg) (n : BitVec 15)
  | sysclr (d a : Reg) (n : BitVec 15)
  | trap (v : BitVec 15)
  | eret
  | wfi
  | tlbinv (d a b : Reg)
  | cflush (a b : Reg) (scope : BitVec 3)
  | cinv (a b : Reg) (scope : BitVec 3)
  | chainKindStop (q : Nat)
  | copy (q : Nat)
  | stream (q : Nat)
  | fill (q : Nat)
  | scaleput (q : Nat)
  | gathercopy (q : Nat)
  | reduce (q : Nat)
  | bcast (q : Nat)
  | count (q : Nat)
  | countSatisfy (q : Nat)
  | link (q : Nat)
  | nopRecord (q : Nat)
  | illegalInstruction
  | instructionFetchFault
  | userInterruptTake (t : Nat)
  | tokenArrival (k : Nat)
  | refill (r a : Nat)
  | retireToken (k : Nat)
  | windowBaseToken (k : Nat)
  | loopgenEmit (r a slot : Nat)
  | configSwitch (r a : Nat)
  | stepComplete (r : Nat)
  | memoryRequestIssue (r a k : Nat)
  | memoryReply (r a k : Nat)
  | storeStreamData (r a x : Nat)
  | redContribution (c k : Nat)
  | counterWatchComplete (core k : Nat)
  | kstepTriggerArrival (core mx : Nat)
  | kstepApply (core n : Nat)
  | accPerform (core mx : Nat)
  | shallocServe (c p : Nat)
  | shldRead (r a x : Nat)
  | shelfStarved (c p : Nat)
  | stageBalancer (c p : Nat)
  | gatewayPost (k : Nat)
  | wfiWake (t : Nat)
  | waitgeSatisfy (t : Nat)
  | waitcSatisfy (t : Nat)
  | taskDecrement (k : Nat)
  | taskPlacement (c : Nat)
  | taskRetirement (r : Nat)
  | idempotentRestart (r : Nat)
  | timeSliceExpiry (v : Nat)
  | queueNotify (c v : Nat) (q : Word)
  | launchSlotConsume (c k : Nat)
  | watchdog (r : Nat)
  | throttleStarve (r : Nat)
  | tstatWrite (a : Reg)
  | uipendWrite (a : Reg)
  | xpredWrite (a : Reg)
  | qchanWrite (q : Nat) (v : Word)
  | qstatWrite (q : Nat) (v : Word)
  | streamPortDelivery (p : Nat)
  | configLoadRecord (r : Nat)
  | configLoadComplete (r : Nat)
  | preemptionRequest (r : Nat)
  | drainEnd (r : Nat)
  | bankSpill (r : Nat)
  | createVd (pa : Word)
  | destroyVd (size : Nat) (v : Word)
  | wakeWrite (v : Nat) (who : Waker) (size : Nat)
  | automaticCollapse (v : Nat)
  | wakeComplete (v : Nat)
  | wakeMiss (v : Nat)
  | predictorObservation (die : Nat)
  | predictorHint (die : Nat)
  | coldReset
  | bootStage (img : BootImage)
  | bootStageTimeout
  | attestationRequest (nonce : BitVec 256)
  | powerThrottle (r : Nat)
  | flitReceive (p : Nat) (f : Flit)
  | laneStop (p l : Nat)
  | laneGo (p l : Nat)
  | linkDown (p : Nat)
  | routeRewrite (sw : Nat)
  | remoteAccess (k : Nat)
  | targetFailureDetected (pkg : Nat)
  | switchNode (sw k : Nat) (fwd : Bool)
  | homeNode (k : Nat)
  | contributionAck (k : Nat)
  | serdexPortDelivery (p : Nat)
  | gangPrepareAck (g m : Nat) (ok : Bool)
  | gangGoAck (g m : Nat)
  | gangBoundExpiry (g : Nat)
  | gangRelaunch (g : Nat)
  | span (t : Nat)
  | winopen (t : Nat)
  | winclose (t : Nat)
  | gang (t : Nat)
  | sbind (t : Nat)
  | qbind (t : Nat)
  | pbind (t : Nat)
  | part (t : Nat)
  | rlist (t : Nat)
  | spanleave (t : Nat)
  | firmwareServiceUnknown (t : Nat)
  | breakpointStop (n : Nat)
  | ifepelLoad (v : Nat) (img : Image)
  | ifepelRun (task : Option Nat)
  | ifepelCont
  | ifepelContRegion (r : Nat)
  | ifepelStep (n : Nat)
  | ifepelBreakFire (desc : Word) (a slot : Nat) (tag : Option (BitVec 24))
  | ifepelBreakTag (tag : BitVec 24)
  | ifepelBreakAddr (lo len : Nat) (rd wr : Bool)
  | ifepelBreakEvent (code : Nat)
  | ifepelBreakEventHold (code : Nat)
  | ifepelBreakPc (pc : Word)
  | ifepelDelete (n : Nat)
  | ifepelList
  | ifepelShowMs (r a : Nat)
  | ifepelShowSlot (r a slot : Nat) (verbose : Bool)
  | ifepelShowTask (va : Word)
  | ifepelShowShelf (handle : Bool) (x : BitVec 32)
  | ifepelShowCounter (va : Word)
  | ifepelShowAcc (core n : Nat) (words : List (Nat × Nat)) (rows cols : List Nat)
  | ifepelShowMem (va : Word) (typed : Bool) (n : Nat) (ty : DataType)
  | ifepelQuit
  | ifepelSetSys (n : BitVec 15) (v : Word)
  | ifepelInjectAcc (core n row col bit : Nat)
  | ifepelStart (pc : Word)
  | ifepelStepThread (n : Nat)
  | ifepelShowReg (rs : List (Option Reg))
  | ifepelShowEvent
  | ifepelWait
  | ifepelKill (r : Nat)
  | ifepelRelease
  | ifepelShowStream (r a : Nat)
  | ifepelShowAccum (r a : Nat)
  | ifepelShowPte (va : Word)
  | collapseComplete (v : Nat)
  | threadOperationComplete (t k : Nat)
  | uncorrectableError (u : Upset)
  | linkTrained (p nbr : Nat)
  | throttleLifted (r : Nat)
deriving DecidableEq, Repr, Inhabited

/-- Who moves next: a control-core thread issues, an element of a region performs its firing, a copy-engine queue
executes the record at which it stands, or one of the other steps of the table happens. -/
inductive Turn where
  | thread (t : Nat)
  | element (r a : Nat)
  | engine (q : Nat)
  | event (i : Instr)
deriving DecidableEq, Repr, Inhabited

end Sys2Proof
end

