-- ==== Sys2Proof/WellFormed.lean ====
section
/-! DEFINITION. Well-formed instructions: the limits of R54, R55 and R57 on the fields of control-core instructions,
the limits of R42, R43 and R45 on slots, and for the steps of the machine the units that R2 gives the package. -/
namespace Sys2Proof

/-- System register numbers that R57 lists. -/
def sysListed (n : BitVec 15) : Bool :=
  [0x001, 0x002, 0x003, 0x004, 0x005, 0x006, 0x010, 0x020, 0x030, 0x040, 0x050, 0x051].contains n.toNat
/-- Registers that have a write level (R57): BOOTSTAT has none. -/
def sysWritable (n : BitVec 15) : Bool := sysListed n && n.toNat != 0x020
/-- Registers whose write is a row of its own in the table. -/
def sysOwnRow (n : BitVec 15) : Bool := n.toNat == 0x010 || n.toNat == 0x030 || n.toNat == 0x050

/-- LD and LDU define plain and acquire order (R283); scope codes 6 and 7 are reserved (R52). -/
def okLoad (ord : BitVec 2) (scope : BitVec 3) : Bool := ord.toNat ≤ 1 && scope.toNat ≤ 5
/-- Scopes of CFLUSH and CINV (R54). -/
def okScope (scope : BitVec 3) : Bool := 1 ≤ scope.toNat && scope.toNat ≤ 5

/-- An element index of R41 with a handler table. -/
def hasTable (a : Nat) : Bool := a % 128 < 96
/-- An assigned element index (R41). -/
def assignedElem (a : Nat) : Bool :=
  let k := a % 128
  k < 99 || (100 ≤ k && k < 104) || (120 ≤ k && k < 124)

/-- A destination (R43, R45), apart from the region's core count. -/
def destOk (d : Dest) : Bool :=
  if d.valid then d.tagop.toNat ≤ 5 && d.rsv == 0 && assignedElem d.elem.toNat && (hasTable d.elem.toNat || d.slot == 0)
  else !d.net && d.port == 0 && d.slot == 0 && d.elem == 0 && d.tagop == 0 && d.rsv == 0

/-- A slot that the loader accepts (R45, R96), apart from the region's core count. -/
def slotOk (w : Slot) : Bool :=
  w.fire.toNat ≤ 3 && w.arity != 0 && (2 ≤ w.arity.toNat || w.bmode == 0) && (3 ≤ w.arity.toNat || w.cmode == 0) &&
    (w.fire.toNat != 3 || w.bmode == 2) && destOk w.d0 && destOk w.d1

def okThread (t : Nat) : Bool := t < 64
def okCluster (c : Nat) : Bool := c < 4
def okCore (c : Nat) : Bool := c < 96
def okMx (m : Nat) : Bool := m < 3
def okRegion (r : Nat) : Bool := r < 256
/-- An element address with a handler table in one of 512 cores (R41). -/
def okElem (a : Nat) : Bool := a < 65536 && hasTable a
def okSlot (n : Nat) : Bool := n < 32
def okQueue (q : Nat) : Bool := q < 2048
def okPort (p : Nat) : Bool := p < 512
def okSerdex (p : Nat) : Bool := p < 40
def okLane (l : Nat) : Bool := l < 4
def okVd (v : Nat) : Bool := v < 1024
def okDie (d : Nat) : Bool := d < 2
def okPart (p : Nat) : Bool := p < 16
def okAcc (n : Nat) : Bool := n < 256
def okSwitch (n : Nat) : Bool := n < 128

/-- Well-formed instructions. -/
def Instr.wf : Instr → Bool
  | .elemAdd w => slotOk w
  | .elemSub w => slotOk w
  | .elemMul w => slotOk w
  | .mulhi w => slotOk w
  | .mad w => slotOk w
  | .elemDiv w => slotOk w
  | .elemRem w => slotOk w
  | .elemAnd w => slotOk w
  | .elemOr w => slotOk w
  | .elemXor w => slotOk w
  | .andn w => slotOk w
  | .shl w => slotOk w
  | .shr w => slotOk w
  | .sar w => slotOk w
  | .rot w => slotOk w
  | .elemClz w => slotOk w
  | .elemPopc w => slotOk w
  | .elemMin w => slotOk w
  | .elemMax w => slotOk w
  | .abs w => slotOk w
  | .fadd w => slotOk w
  | .fsub w => slotOk w
  | .fmul w => slotOk w
  | .fma w => slotOk w
  | .fmin w => slotOk w
  | .fmax w => slotOk w
  | .fsgn w => slotOk w
  | .frcp w => slotOk w
  | .frsq w => slotOk w
  | .fexp2 w => slotOk w
  | .flog2 w => slotOk w
  | .fcvt w => slotOk w
  | .fclass w => slotOk w
  | .fdot w => slotOk w
  | .amax w => slotOk w
  | .cmp w => slotOk w
  | .fcmp w => slotOk w
  | .sel w => slotOk w
  | .bcmp w => slotOk w
  | .bfind w => slotOk w
  | .bperm w => slotOk w
  | .hash64 w => slotOk w
  | .crc32c w => slotOk w
  | .dfastep w => slotOk w
  | .steer w => slotOk w
  | .merge w => slotOk w
  | .gate w => slotOk w
  | .fork w => slotOk w
  | .sink w => slotOk w
  | .const w => slotOk w
  | .tagget w => slotOk w
  | .tagset w => slotOk w
  | .ctxalloc w => slotOk w
  | .ctxret w => slotOk w
  | .ctxfree w => slotOk w
  | .seqset w => slotOk w
  | .loopgen w => slotOk w
  | .loopret w => slotOk w
  | .accum w => slotOk w
  | .compress w => slotOk w
  | .topk w => slotOk w
  | .merge2 w => slotOk w
  | .tokout w => slotOk w
  | .elemTrap w => slotOk w
  | .elemEtrig w => slotOk w
  | .done w => slotOk w
  | .chbind w => slotOk w
  | .sclset w => slotOk w
  | .cntwatch w => slotOk w
  | .elemChain w => slotOk w
  | .nop w => slotOk w
  | .elemLd w => slotOk w
  | .elemSt w => slotOk w
  | .agstream w => slotOk w
  | .gather w => slotOk w
  | .scatter w => slotOk w
  | .atom w => slotOk w
  | .red w => slotOk w
  | .elemFence w => slotOk w
  | .elemApcvt w => slotOk w
  | .elemAptest w => slotOk w
  | .fibOpen w => slotOk w
  | .fibAdv w => slotOk w
  | .fibEnd w => slotOk w
  | .fibClose w => slotOk w
  | .mldt w => slotOk w
  | .pref w => slotOk w
  | .mma w => slotOk w
  | .mmaZ w => slotOk w
  | .accRd w => slotOk w
  | .accWr w => slotOk w
  | .accCvt w => slotOk w
  | .accChk w => slotOk w
  | .accVfy w => slotOk w
  | .accFix w => slotOk w
  | .sclLd w => slotOk w
  | .shalloc w => slotOk w
  | .shseal w => slotOk w
  | .shld w => slotOk w
  | .shpeek w => slotOk w
  | .shabandon w => slotOk w
  | .shquery w => slotOk w
  | .add _ _ _ => true
  | .sub _ _ _ => true
  | .mul _ _ _ => true
  | .mulh _ _ _ => true
  | .div _ _ _ => true
  | .divu _ _ _ => true
  | .rem _ _ _ => true
  | .remu _ _ _ => true
  | .and _ _ _ => true
  | .or _ _ _ => true
  | .xor _ _ _ => true
  | .sll _ _ _ => true
  | .srl _ _ _ => true
  | .sra _ _ _ => true
  | .slt _ _ _ => true
  | .sltu _ _ _ => true
  | .min _ _ _ => true
  | .max _ _ _ => true
  | .clz _ _ => true
  | .popc _ _ => true
  | .addi _ _ _ => true
  | .andi _ _ _ => true
  | .ori _ _ _ => true
  | .xori _ _ _ => true
  | .slli _ _ imm => imm.toNat ≤ 63
  | .srli _ _ imm => imm.toNat ≤ 63
  | .srai _ _ imm => imm.toNat ≤ 63
  | .slti _ _ _ => true
  | .ldhi _ _ => true
  | .bt _ _ _ => true
  | .bc _ _ _ _ => true
  | .bdec _ _ => true
  | .jrel _ _ => true
  | .jind _ _ _ => true
  | .ld _ _ ord scope _ _ => okLoad ord scope
  | .ldu _ _ ord scope size _ => okLoad ord scope && size.toNat ≤ 2
  | .st _ _ ord scope _ _ => (ord.toNat == 0 || ord.toNat == 2) && scope.toNat ≤ 5
  | .amo _ _ _ op _ scope size => op.toNat ≤ 6 && scope.toNat ≤ 5 && 2 ≤ size.toNat
  | .cas _ _ _ _ scope size => scope.toNat ≤ 5 && 2 ≤ size.toNat
  | .fence ord scope => ord.toNat != 0 && scope.toNat ≤ 5
  | .apcvt _ _ ap => ap.toNat ≤ 4
  | .aptest _ _ ap => ap.toNat ≤ 4
  | .waitc _ _ _ _ => true
  | .waitge _ _ _ => true
  | .taskpub _ _ => true
  | .taskjoin _ _ _ => true
  | .taskres _ _ _ => true
  | .etrig _ _ => true
  | .rgnload _ _ _ => true
  | .rgnstart _ _ _ => true
  | .rgnswap _ _ _ => true
  | .rgndrain _ _ => true
  | .rgnsave _ _ _ => true
  | .rgnrest _ _ _ => true
  | .rgnkill _ _ => true
  | .rgnconst _ _ _ => true
  | .chain _ _ _ => true
  | .uisend _ => true
  | .uiret => true
  | .uimask _ _ _ => true
  | .uimaskEnt _ _ => true
  | .vdsleep _ _ => true
  | .vdquery _ _ _ => true
  | .sysrd _ n => sysListed n
  | .syswr _ n => sysWritable n && !sysOwnRow n
  | .sysset _ _ n => sysWritable n
  | .sysclr _ _ n => sysWritable n
  | .trap _ => true
  | .eret => true
  | .wfi => true
  | .tlbinv _ _ _ => true
  | .cflush _ _ scope => okScope scope
  | .cinv _ _ scope => okScope scope
  | .tokenArrival _ => true
  | .refill r a => okRegion r && okElem a
  | .retireToken _ => true
  | .windowBaseToken _ => true
  | .loopgenEmit r a slot => okRegion r && okElem a && okSlot slot
  | .configSwitch r a => okRegion r && okElem a
  | .stepComplete r => okRegion r
  | .memoryRequestIssue r a _ => okRegion r && okElem a
  | .memoryReply r a _ => okRegion r && okElem a
  | .storeStreamData r a _ => okRegion r && okElem a
  | .redContribution c _ => okCluster c
  | .counterWatchComplete core _ => okCore core
  | .kstepTriggerArrival core mx => okCore core && okMx mx
  | .kstepApply core n => okCore core && okAcc n
  | .accPerform core mx => okCore core && okMx mx
  | .shallocServe c p => okCluster c && okPart p
  | .shldRead r a _ => okRegion r && okElem a
  | .shelfStarved c p => okCluster c && okPart p
  | .stageBalancer c p => okCluster c && okPart p
  | .gatewayPost _ => true
  | .userInterruptTake t => okThread t
  | .wfiWake t => okThread t
  | .waitgeSatisfy t => okThread t
  | .waitcSatisfy t => okThread t
  | .taskDecrement _ => true
  | .taskPlacement c => okCluster c
  | .taskRetirement r => okRegion r
  | .idempotentRestart r => okRegion r
  | .timeSliceExpiry v => okVd v
  | .queueNotify c v _ => okCluster c && okVd v
  | .launchSlotConsume c _ => okCluster c
  | .watchdog r => okRegion r
  | .throttleStarve r => okRegion r
  | .tstatWrite _ => true
  | .uipendWrite _ => true
  | .xpredWrite _ => true
  | .qchanWrite q _ => okQueue q
  | .qstatWrite q _ => okQueue q
  | .copy q => okQueue q
  | .stream q => okQueue q
  | .fill q => okQueue q
  | .scaleput q => okQueue q
  | .gathercopy q => okQueue q
  | .reduce q => okQueue q
  | .bcast q => okQueue q
  | .count q => okQueue q
  | .countSatisfy q => okQueue q
  | .link q => okQueue q
  | .nopRecord q => okQueue q
  | .streamPortDelivery p => okPort p
  | .configLoadRecord r => okRegion r
  | .configLoadComplete r => okRegion r
  | .preemptionRequest r => okRegion r
  | .drainEnd r => okRegion r
  | .bankSpill r => okRegion r
  | .createVd _ => true
  | .destroyVd _ _ => true
  | .wakeWrite v _ _ => okVd v
  | .automaticCollapse v => okVd v
  | .wakeComplete v => okVd v
  | .wakeMiss v => okVd v
  | .predictorObservation die => okDie die
  | .predictorHint die => okDie die
  | .coldReset => true
  | .bootStage _ => true
  | .bootStageTimeout => true
  | .attestationRequest _ => true
  | .powerThrottle r => okRegion r
  | .flitReceive p f => okSerdex p && decide (f.lane < 4) && f.formOk
  | .laneStop p l => okSerdex p && okLane l
  | .laneGo p l => okSerdex p && okLane l
  | .linkDown p => okSerdex p
  | .routeRewrite sw => okSwitch sw
  | .remoteAccess _ => true
  | .targetFailureDetected _ => true
  | .switchNode sw _ _ => okSwitch sw
  | .homeNode _ => true
  | .contributionAck _ => true
  | .serdexPortDelivery p => okSerdex p
  | .gangPrepareAck _ _ _ => true
  | .gangGoAck _ _ => true
  | .gangBoundExpiry _ => true
  | .gangRelaunch _ => true
  | .span t => okThread t
  | .winopen t => okThread t
  | .winclose t => okThread t
  | .gang t => okThread t
  | .sbind t => okThread t
  | .qbind t => okThread t
  | .pbind t => okThread t
  | .part t => okThread t
  | .rlist t => okThread t
  | .spanleave t => okThread t
  | .firmwareServiceUnknown t => okThread t
  | .breakpointStop _ => true
  | .ifepelLoad v _ => okVd v
  | .ifepelRun _ => true
  | .ifepelCont => true
  | .ifepelContRegion r => okRegion r
  | .ifepelStep _ => true
  | .ifepelBreakFire _ a slot _ => okElem a && okSlot slot
  | .ifepelBreakTag _ => true
  | .ifepelBreakAddr _ _ _ _ => true
  | .ifepelBreakEvent _ => true
  | .ifepelBreakEventHold _ => true
  | .ifepelBreakPc _ => true
  | .ifepelDelete _ => true
  | .ifepelList => true
  | .ifepelShowMs r a => okRegion r && okElem a
  | .ifepelShowSlot r a slot _ => okRegion r && okElem a && okSlot slot
  | .ifepelShowTask _ => true
  | .ifepelShowShelf _ _ => true
  | .ifepelShowCounter _ => true
  | .ifepelShowAcc core n _ _ _ => okCore core && okAcc n
  | .ifepelShowMem _ _ _ _ => true
  | .ifepelQuit => true
  | .ifepelSetSys _ _ => true
  | .ifepelInjectAcc core n _ _ _ => okCore core && okAcc n
  | .ifepelStart _ => true
  | .ifepelStepThread _ => true
  | .ifepelShowReg _ => true
  | .ifepelShowEvent => true
  | .ifepelWait => true
  | .ifepelKill r => okRegion r
  | .ifepelRelease => true
  | .ifepelShowStream r a => okRegion r && okElem a
  | .ifepelShowAccum r a => okRegion r && okElem a
  | .ifepelShowPte _ => true
  | .illegalInstruction => true
  | .instructionFetchFault => true
  | .chainKindStop q => okQueue q
  | .collapseComplete v => okVd v
  | .threadOperationComplete t _ => okThread t
  | .uncorrectableError _ => true
  | .linkTrained p _ => okSerdex p
  | .throttleLifted r => okRegion r

end Sys2Proof
end

