-- ==== Sys2Proof/Decode.lean ====
section
/-! DEFINITION. The decoder of control-core words (R51 to R55, R57) and of handler slots (R42 to R44, R47), total on
any bits and rejecting by name, and after it the encoders. A word that matches a row's fixed bits is that row's
instruction; the limits of R54 and R55 on its fields are `Instr.wf` (R56 makes both an IllegalInstruction). -/
namespace Sys2Proof

/-- Why bits are no instruction. -/
inductive Reject where
  /-- fewer bytes than an instruction has -/
  | short
  /-- the op field is reserved (R53), or the major opcode (R47) -/
  | reservedOp
  /-- a field that the instruction does not use is not 0 (R54) -/
  | reservedField
  /-- the slot is empty (R45) -/
  | emptySlot
deriving DecidableEq, Repr, Inhabited

/-- Bits [hi:lo] of a word. -/
def bits (w hi lo : Nat) : Nat := w / 2 ^ lo % 2 ^ (hi + 1 - lo)

/-- Bits [hi:lo] of a word as a field of width `n`. -/
def fld {n : Nat} (w hi lo : Nat) : BitVec n := BitVec.ofNat n (bits w hi lo)

/-- A write of a system register (R57): TSTAT, UIPEND and XPRED have rows of their own. -/
def sysWrite (a : Reg) (n : BitVec 15) : Instr :=
  if n = 0x010 then .tstatWrite a else if n = 0x030 then .uipendWrite a else if n = 0x050 then .xpredWrite a
  else .syswr a n

/-- The instruction of a 32-bit control-core word (R51 to R55); op is bits [31:25]. -/
def decodeWord (w : Nat) : Except Reject Instr :=
  match bits w 31 25 with
  | 1 => if bits w 9 0 == 0 then .ok (.add (fld w 24 20) (fld w 19 15) (fld w 14 10)) else .error .reservedField
  | 2 => if bits w 9 0 == 0 then .ok (.sub (fld w 24 20) (fld w 19 15) (fld w 14 10)) else .error .reservedField
  | 3 => if bits w 9 0 == 0 then .ok (.mul (fld w 24 20) (fld w 19 15) (fld w 14 10)) else .error .reservedField
  | 4 => if bits w 9 0 == 0 then .ok (.mulh (fld w 24 20) (fld w 19 15) (fld w 14 10)) else .error .reservedField
  | 5 => if bits w 9 0 == 0 then .ok (.div (fld w 24 20) (fld w 19 15) (fld w 14 10)) else .error .reservedField
  | 6 => if bits w 9 0 == 0 then .ok (.divu (fld w 24 20) (fld w 19 15) (fld w 14 10)) else .error .reservedField
  | 7 => if bits w 9 0 == 0 then .ok (.rem (fld w 24 20) (fld w 19 15) (fld w 14 10)) else .error .reservedField
  | 8 => if bits w 9 0 == 0 then .ok (.remu (fld w 24 20) (fld w 19 15) (fld w 14 10)) else .error .reservedField
  | 9 => if bits w 9 0 == 0 then .ok (.and (fld w 24 20) (fld w 19 15) (fld w 14 10)) else .error .reservedField
  | 10 => if bits w 9 0 == 0 then .ok (.or (fld w 24 20) (fld w 19 15) (fld w 14 10)) else .error .reservedField
  | 11 => if bits w 9 0 == 0 then .ok (.xor (fld w 24 20) (fld w 19 15) (fld w 14 10)) else .error .reservedField
  | 12 => if bits w 9 0 == 0 then .ok (.sll (fld w 24 20) (fld w 19 15) (fld w 14 10)) else .error .reservedField
  | 13 => if bits w 9 0 == 0 then .ok (.srl (fld w 24 20) (fld w 19 15) (fld w 14 10)) else .error .reservedField
  | 14 => if bits w 9 0 == 0 then .ok (.sra (fld w 24 20) (fld w 19 15) (fld w 14 10)) else .error .reservedField
  | 15 => if bits w 9 0 == 0 then .ok (.slt (fld w 24 20) (fld w 19 15) (fld w 14 10)) else .error .reservedField
  | 16 => if bits w 9 0 == 0 then .ok (.sltu (fld w 24 20) (fld w 19 15) (fld w 14 10)) else .error .reservedField
  | 17 => if bits w 9 0 == 0 then .ok (.min (fld w 24 20) (fld w 19 15) (fld w 14 10)) else .error .reservedField
  | 18 => if bits w 9 0 == 0 then .ok (.max (fld w 24 20) (fld w 19 15) (fld w 14 10)) else .error .reservedField
  | 19 => if bits w 14 0 == 0 then .ok (.clz (fld w 24 20) (fld w 19 15)) else .error .reservedField
  | 20 => if bits w 14 0 == 0 then .ok (.popc (fld w 24 20) (fld w 19 15)) else .error .reservedField
  | 24 => .ok (.addi (fld w 24 20) (fld w 19 15) (fld w 14 0))
  | 25 => .ok (.andi (fld w 24 20) (fld w 19 15) (fld w 14 0))
  | 26 => .ok (.ori (fld w 24 20) (fld w 19 15) (fld w 14 0))
  | 27 => .ok (.xori (fld w 24 20) (fld w 19 15) (fld w 14 0))
  | 28 => .ok (.slli (fld w 24 20) (fld w 19 15) (fld w 14 0))
  | 29 => .ok (.srli (fld w 24 20) (fld w 19 15) (fld w 14 0))
  | 30 => .ok (.srai (fld w 24 20) (fld w 19 15) (fld w 14 0))
  | 31 => .ok (.slti (fld w 24 20) (fld w 19 15) (fld w 14 0))
  | 32 => .ok (.ldhi (fld w 24 20) (fld w 19 0))
  | 36 => if bits w 16 15 == 0 then .ok (.bt (fld w 24 20) (fld w 19 17) (fld w 14 0)) else .error .reservedField
  | 37 => .ok (.bc (fld w 24 20) (fld w 19 15) (fld w 14 12) (fld w 11 0))
  | 38 => if bits w 19 15 == 0 then .ok (.bdec (fld w 24 20) (fld w 14 0)) else .error .reservedField
  | 39 => .ok (.jrel (fld w 24 20) (fld w 19 0))
  | 40 => .ok (.jind (fld w 24 20) (fld w 19 15) (fld w 14 0))
  | 48 => .ok (.ld (fld w 24 20) (fld w 19 15) (fld w 14 13) (fld w 12 10) (fld w 9 8) (fld w 7 0))
  | 49 => .ok (.ldu (fld w 24 20) (fld w 19 15) (fld w 14 13) (fld w 12 10) (fld w 9 8) (fld w 7 0))
  | 50 => .ok (.st (fld w 24 20) (fld w 19 15) (fld w 14 13) (fld w 12 10) (fld w 9 8) (fld w 7 0))
  | 51 => .ok (.amo (fld w 24 20) (fld w 19 15) (fld w 14 10) (fld w 9 7) (fld w 6 5) (fld w 4 2) (fld w 1 0))
  | 52 => if bits w 9 7 == 0 then .ok (.cas (fld w 24 20) (fld w 19 15) (fld w 14 10) (fld w 6 5) (fld w 4 2) (fld w 1 0)) else .error .reservedField
  | 53 => if bits w 24 15 == 0 && bits w 9 0 == 0 then .ok (.fence (fld w 14 13) (fld w 12 10)) else .error .reservedField
  | 54 => if bits w 14 3 == 0 then .ok (.apcvt (fld w 24 20) (fld w 19 15) (fld w 2 0)) else .error .reservedField
  | 55 => if bits w 14 3 == 0 then .ok (.aptest (fld w 24 20) (fld w 19 15) (fld w 2 0)) else .error .reservedField
  | 60 => if bits w 24 12 == 0 then .ok (.waitc (fld w 11 9) (fld w 8 6) (fld w 5 3) (fld w 2 0)) else .error .reservedField
  | 61 => if bits w 9 0 == 0 then .ok (.waitge (fld w 24 20) (fld w 19 15) (fld w 14 10)) else .error .reservedField
  | 62 => if bits w 14 0 == 0 then .ok (.taskpub (fld w 24 20) (fld w 19 15)) else .error .reservedField
  | 63 => if bits w 9 0 == 0 then .ok (.taskjoin (fld w 24 20) (fld w 19 15) (fld w 14 10)) else .error .reservedField
  | 64 => if bits w 9 0 == 0 then .ok (.taskres (fld w 24 20) (fld w 19 15) (fld w 14 10)) else .error .reservedField
  | 65 => if bits w 14 0 == 0 then .ok (.etrig (fld w 24 20) (fld w 19 15)) else .error .reservedField
  | 68 => if bits w 9 0 == 0 then .ok (.rgnload (fld w 24 20) (fld w 19 15) (fld w 14 10)) else .error .reservedField
  | 69 => if bits w 9 0 == 0 then .ok (.rgnstart (fld w 24 20) (fld w 19 15) (fld w 14 10)) else .error .reservedField
  | 70 => if bits w 9 0 == 0 then .ok (.rgnswap (fld w 24 20) (fld w 19 15) (fld w 14 10)) else .error .reservedField
  | 71 => if bits w 14 0 == 0 then .ok (.rgndrain (fld w 24 20) (fld w 19 15)) else .error .reservedField
  | 72 => if bits w 9 0 == 0 then .ok (.rgnsave (fld w 24 20) (fld w 19 15) (fld w 14 10)) else .error .reservedField
  | 73 => if bits w 9 0 == 0 then .ok (.rgnrest (fld w 24 20) (fld w 19 15) (fld w 14 10)) else .error .reservedField
  | 74 => if bits w 14 0 == 0 then .ok (.rgnkill (fld w 24 20) (fld w 19 15)) else .error .reservedField
  | 75 => if bits w 9 0 == 0 then .ok (.rgnconst (fld w 24 20) (fld w 19 15) (fld w 14 10)) else .error .reservedField
  | 76 => if bits w 9 0 == 0 then .ok (.chain (fld w 24 20) (fld w 19 15) (fld w 14 10)) else .error .reservedField
  | 80 => if bits w 24 20 == 0 && bits w 14 0 == 0 then .ok (.uisend (fld w 19 15)) else .error .reservedField
  | 81 => if bits w 24 0 == 0 then .ok (.uiret) else .error .reservedField
  | 82 =>
    if bits w 14 6 == 0 then .ok (.uimask (fld w 24 20) (fld w 19 15) (fld w 5 0))
    else if bits w 14 0 == 16384 then .ok (.uimaskEnt (fld w 24 20) (fld w 19 15))
    else .error .reservedField
  | 84 => if bits w 14 0 == 0 then .ok (.vdsleep (fld w 24 20) (fld w 19 15)) else .error .reservedField
  | 85 => if bits w 9 0 == 0 then .ok (.vdquery (fld w 24 20) (fld w 19 15) (fld w 14 10)) else .error .reservedField
  | 88 => if bits w 19 15 == 0 then .ok (.sysrd (fld w 24 20) (fld w 14 0)) else .error .reservedField
  | 89 => if bits w 24 20 == 0 then .ok (sysWrite (fld w 19 15) (fld w 14 0)) else .error .reservedField
  | 90 => .ok (.sysset (fld w 24 20) (fld w 19 15) (fld w 14 0))
  | 91 => .ok (.sysclr (fld w 24 20) (fld w 19 15) (fld w 14 0))
  | 92 => if bits w 24 15 == 0 then .ok (.trap (fld w 14 0)) else .error .reservedField
  | 93 => if bits w 24 0 == 0 then .ok (.eret) else .error .reservedField
  | 94 => if bits w 24 0 == 0 then .ok (.wfi) else .error .reservedField
  | 95 => if bits w 9 0 == 0 then .ok (.tlbinv (fld w 24 20) (fld w 19 15) (fld w 14 10)) else .error .reservedField
  | 96 => if bits w 24 20 == 0 && bits w 9 3 == 0 then .ok (.cflush (fld w 19 15) (fld w 14 10) (fld w 2 0)) else .error .reservedField
  | 97 => if bits w 24 20 == 0 && bits w 9 3 == 0 then .ok (.cinv (fld w 19 15) (fld w 14 10) (fld w 2 0)) else .error .reservedField
  | _ => .error .reservedOp

/-- A word from its four bytes, little-endian (R51). -/
def wordOfBytes (b0 b1 b2 b3 : Byte) : Nat :=
  b0.toNat + 256 * b1.toNat + 65536 * b2.toNat + 16777216 * b3.toNat

/-- Decode the first instruction of a list of bytes, with the rest. -/
def decodeBytes : List Byte → Except Reject (Instr × List Byte)
  | b0 :: b1 :: b2 :: b3 :: rest =>
    match decodeWord (wordOfBytes b0 b1 b2 b3) with
    | .ok i => .ok (i, rest)
    | .error e => .error e
  | _ => .error .short

/-- The bytes of a number, lowest first. -/
def bytesOf : Nat → Nat → List Byte
  | 0, _ => []
  | n + 1, v => BitVec.ofNat 8 v :: bytesOf n (v / 256)

/-- A word from its fixed bits and its fields, each at the place of its lowest bit. -/
def pack (base : Nat) : List (Nat × Nat) → Nat
  | [] => base
  | (v, k) :: r => v * 2 ^ k + pack base r

/-- The words of a well-formed control-core instruction, from the encoding of R51 to R55. -/
def encodeWord : Instr → Option Nat
  | .add d a b => some (pack 0x02000000 [(d.toNat, 20), (a.toNat, 15), (b.toNat, 10)])
  | .sub d a b => some (pack 0x04000000 [(d.toNat, 20), (a.toNat, 15), (b.toNat, 10)])
  | .mul d a b => some (pack 0x06000000 [(d.toNat, 20), (a.toNat, 15), (b.toNat, 10)])
  | .mulh d a b => some (pack 0x08000000 [(d.toNat, 20), (a.toNat, 15), (b.toNat, 10)])
  | .div d a b => some (pack 0x0A000000 [(d.toNat, 20), (a.toNat, 15), (b.toNat, 10)])
  | .divu d a b => some (pack 0x0C000000 [(d.toNat, 20), (a.toNat, 15), (b.toNat, 10)])
  | .rem d a b => some (pack 0x0E000000 [(d.toNat, 20), (a.toNat, 15), (b.toNat, 10)])
  | .remu d a b => some (pack 0x10000000 [(d.toNat, 20), (a.toNat, 15), (b.toNat, 10)])
  | .and d a b => some (pack 0x12000000 [(d.toNat, 20), (a.toNat, 15), (b.toNat, 10)])
  | .or d a b => some (pack 0x14000000 [(d.toNat, 20), (a.toNat, 15), (b.toNat, 10)])
  | .xor d a b => some (pack 0x16000000 [(d.toNat, 20), (a.toNat, 15), (b.toNat, 10)])
  | .sll d a b => some (pack 0x18000000 [(d.toNat, 20), (a.toNat, 15), (b.toNat, 10)])
  | .srl d a b => some (pack 0x1A000000 [(d.toNat, 20), (a.toNat, 15), (b.toNat, 10)])
  | .sra d a b => some (pack 0x1C000000 [(d.toNat, 20), (a.toNat, 15), (b.toNat, 10)])
  | .slt d a b => some (pack 0x1E000000 [(d.toNat, 20), (a.toNat, 15), (b.toNat, 10)])
  | .sltu d a b => some (pack 0x20000000 [(d.toNat, 20), (a.toNat, 15), (b.toNat, 10)])
  | .min d a b => some (pack 0x22000000 [(d.toNat, 20), (a.toNat, 15), (b.toNat, 10)])
  | .max d a b => some (pack 0x24000000 [(d.toNat, 20), (a.toNat, 15), (b.toNat, 10)])
  | .clz d a => some (pack 0x26000000 [(d.toNat, 20), (a.toNat, 15)])
  | .popc d a => some (pack 0x28000000 [(d.toNat, 20), (a.toNat, 15)])
  | .addi d a i => some (pack 0x30000000 [(d.toNat, 20), (a.toNat, 15), (i.toNat, 0)])
  | .andi d a i => some (pack 0x32000000 [(d.toNat, 20), (a.toNat, 15), (i.toNat, 0)])
  | .ori d a i => some (pack 0x34000000 [(d.toNat, 20), (a.toNat, 15), (i.toNat, 0)])
  | .xori d a i => some (pack 0x36000000 [(d.toNat, 20), (a.toNat, 15), (i.toNat, 0)])
  | .slli d a i => some (pack 0x38000000 [(d.toNat, 20), (a.toNat, 15), (i.toNat, 0)])
  | .srli d a i => some (pack 0x3A000000 [(d.toNat, 20), (a.toNat, 15), (i.toNat, 0)])
  | .srai d a i => some (pack 0x3C000000 [(d.toNat, 20), (a.toNat, 15), (i.toNat, 0)])
  | .slti d a i => some (pack 0x3E000000 [(d.toNat, 20), (a.toNat, 15), (i.toNat, 0)])
  | .ldhi d i => some (pack 0x40000000 [(d.toNat, 20), (i.toNat, 0)])
  | .bt a c o => some (pack 0x48000000 [(a.toNat, 20), (c.toNat, 17), (o.toNat, 0)])
  | .bc a b c o => some (pack 0x4A000000 [(a.toNat, 20), (b.toNat, 15), (c.toNat, 12), (o.toNat, 0)])
  | .bdec a o => some (pack 0x4C000000 [(a.toNat, 20), (o.toNat, 0)])
  | .jrel d o => some (pack 0x4E000000 [(d.toNat, 20), (o.toNat, 0)])
  | .jind d a i => some (pack 0x50000000 [(d.toNat, 20), (a.toNat, 15), (i.toNat, 0)])
  | .ld d b o c z i => some (pack 0x60000000 [(d.toNat, 20), (b.toNat, 15), (o.toNat, 13), (c.toNat, 10), (z.toNat, 8), (i.toNat, 0)])
  | .ldu d b o c z i => some (pack 0x62000000 [(d.toNat, 20), (b.toNat, 15), (o.toNat, 13), (c.toNat, 10), (z.toNat, 8), (i.toNat, 0)])
  | .st s b o c z i => some (pack 0x64000000 [(s.toNat, 20), (b.toNat, 15), (o.toNat, 13), (c.toNat, 10), (z.toNat, 8), (i.toNat, 0)])
  | .amo d a b p o c z => some (pack 0x66000000 [(d.toNat, 20), (a.toNat, 15), (b.toNat, 10), (p.toNat, 7), (o.toNat, 5), (c.toNat, 2), (z.toNat, 0)])
  | .cas d a b o c z => some (pack 0x68000000 [(d.toNat, 20), (a.toNat, 15), (b.toNat, 10), (o.toNat, 5), (c.toNat, 2), (z.toNat, 0)])
  | .fence o c => some (pack 0x6A000000 [(o.toNat, 13), (c.toNat, 10)])
  | .apcvt d a p => some (pack 0x6C000000 [(d.toNat, 20), (a.toNat, 15), (p.toNat, 0)])
  | .aptest d a p => some (pack 0x6E000000 [(d.toNat, 20), (a.toNat, 15), (p.toNat, 0)])
  | .waitc l s c t => some (pack 0x78000000 [(l.toNat, 9), (s.toNat, 6), (c.toNat, 3), (t.toNat, 0)])
  | .waitge d a b => some (pack 0x7A000000 [(d.toNat, 20), (a.toNat, 15), (b.toNat, 10)])
  | .taskpub d a => some (pack 0x7C000000 [(d.toNat, 20), (a.toNat, 15)])
  | .taskjoin d a b => some (pack 0x7E000000 [(d.toNat, 20), (a.toNat, 15), (b.toNat, 10)])
  | .taskres d a b => some (pack 0x80000000 [(d.toNat, 20), (a.toNat, 15), (b.toNat, 10)])
  | .etrig d a => some (pack 0x82000000 [(d.toNat, 20), (a.toNat, 15)])
  | .rgnload d a b => some (pack 0x88000000 [(d.toNat, 20), (a.toNat, 15), (b.toNat, 10)])
  | .rgnstart d a b => some (pack 0x8A000000 [(d.toNat, 20), (a.toNat, 15), (b.toNat, 10)])
  | .rgnswap d a b => some (pack 0x8C000000 [(d.toNat, 20), (a.toNat, 15), (b.toNat, 10)])
  | .rgndrain d a => some (pack 0x8E000000 [(d.toNat, 20), (a.toNat, 15)])
  | .rgnsave d a b => some (pack 0x90000000 [(d.toNat, 20), (a.toNat, 15), (b.toNat, 10)])
  | .rgnrest d a b => some (pack 0x92000000 [(d.toNat, 20), (a.toNat, 15), (b.toNat, 10)])
  | .rgnkill d a => some (pack 0x94000000 [(d.toNat, 20), (a.toNat, 15)])
  | .rgnconst d a b => some (pack 0x96000000 [(d.toNat, 20), (a.toNat, 15), (b.toNat, 10)])
  | .chain d a b => some (pack 0x98000000 [(d.toNat, 20), (a.toNat, 15), (b.toNat, 10)])
  | .uisend a => some (pack 0xA0000000 [(a.toNat, 15)])
  | .uiret => some 0xA2000000
  | .uimask d a v => some (pack 0xA4000000 [(d.toNat, 20), (a.toNat, 15), (v.toNat, 0)])
  | .uimaskEnt d a => some (pack 0xA4004000 [(d.toNat, 20), (a.toNat, 15)])
  | .vdsleep d a => some (pack 0xA8000000 [(d.toNat, 20), (a.toNat, 15)])
  | .vdquery d a b => some (pack 0xAA000000 [(d.toNat, 20), (a.toNat, 15), (b.toNat, 10)])
  | .sysrd d n => some (pack 0xB0000000 [(d.toNat, 20), (n.toNat, 0)])
  | .syswr a n => some (pack 0xB2000000 [(a.toNat, 15), (n.toNat, 0)])
  | .sysset d a n => some (pack 0xB4000000 [(d.toNat, 20), (a.toNat, 15), (n.toNat, 0)])
  | .sysclr d a n => some (pack 0xB6000000 [(d.toNat, 20), (a.toNat, 15), (n.toNat, 0)])
  | .trap v => some (pack 0xB8000000 [(v.toNat, 0)])
  | .eret => some 0xBA000000
  | .wfi => some 0xBC000000
  | .tlbinv d a b => some (pack 0xBE000000 [(d.toNat, 20), (a.toNat, 15), (b.toNat, 10)])
  | .cflush a b c => some (pack 0xC0000000 [(a.toNat, 15), (b.toNat, 10), (c.toNat, 0)])
  | .cinv a b c => some (pack 0xC2000000 [(a.toNat, 15), (b.toNat, 10), (c.toNat, 0)])
  | .tstatWrite a => some (pack 0xB2000010 [(a.toNat, 15)])
  | .uipendWrite a => some (pack 0xB2000030 [(a.toNat, 15)])
  | .xpredWrite a => some (pack 0xB2000050 [(a.toNat, 15)])
  | _ => none

/-- The bytes of a control-core instruction as they stand in memory. -/
def encode (i : Instr) : Option (List Byte) := (encodeWord i).map (bytesOf 4)

/-! ## Slots -/

/-- A destination of the route plane (R43). -/
def decodeDest (n : Nat) : Dest :=
  { valid := bits n 31 31 == 1, net := bits n 30 30 == 1, port := fld n 29 28, slot := fld n 27 23, elem := fld n 22 7,
    tagop := fld n 6 4, rsv := fld n 3 0 }

/-- The 32 bits of a destination (R43). -/
def encodeDest (d : Dest) : Nat :=
  (if d.valid then 2 ^ 31 else 0) + (if d.net then 2 ^ 30 else 0) + d.port.toNat * 2 ^ 28 + d.slot.toNat * 2 ^ 23 +
    d.elem.toNat * 2 ^ 7 + d.tagop.toNat * 2 ^ 4 + d.rsv.toNat

/-- The fields of a slot's planes (R42, R43, R44). -/
def slotFields (op : BitVec 32) (route : BitVec 64) (const : BitVec 32) : Slot :=
  let n := op.toNat
  { fn := fld n 23 19, fire := fld n 18 16, amode := fld n 15 14, bmode := fld n 13 12, cmode := fld n 11 10,
    arity := fld n 9 8, flags := fld n 7 5, out := fld n 4 0, d0 := decodeDest (bits route.toNat 31 0),
    d1 := decodeDest (bits route.toNat 63 32), const := const }

/-- The instruction of a major opcode (R47). -/
def slotInstr (op : Nat) (w : Slot) : Except Reject Instr :=
  match op with
  | 0 => .error .emptySlot
  | 0x10 => .ok (.elemAdd w)
  | 0x11 => .ok (.elemSub w)
  | 0x12 => .ok (.elemMul w)
  | 0x13 => .ok (.mulhi w)
  | 0x14 => .ok (.mad w)
  | 0x15 => .ok (.elemDiv w)
  | 0x16 => .ok (.elemRem w)
  | 0x17 => .ok (.elemAnd w)
  | 0x18 => .ok (.elemOr w)
  | 0x19 => .ok (.elemXor w)
  | 0x1A => .ok (.andn w)
  | 0x1B => .ok (.shl w)
  | 0x1C => .ok (.shr w)
  | 0x1D => .ok (.sar w)
  | 0x1E => .ok (.rot w)
  | 0x1F => .ok (.elemClz w)
  | 0x20 => .ok (.elemPopc w)
  | 0x21 => .ok (.elemMin w)
  | 0x22 => .ok (.elemMax w)
  | 0x23 => .ok (.abs w)
  | 0x28 => .ok (.fadd w)
  | 0x29 => .ok (.fsub w)
  | 0x2A => .ok (.fmul w)
  | 0x2B => .ok (.fma w)
  | 0x2C => .ok (.fmin w)
  | 0x2D => .ok (.fmax w)
  | 0x2E => .ok (.fsgn w)
  | 0x2F => .ok (.frcp w)
  | 0x30 => .ok (.frsq w)
  | 0x31 => .ok (.fexp2 w)
  | 0x32 => .ok (.flog2 w)
  | 0x33 => .ok (.fcvt w)
  | 0x34 => .ok (.fclass w)
  | 0x35 => .ok (.fdot w)
  | 0x36 => .ok (.amax w)
  | 0x38 => .ok (.cmp w)
  | 0x39 => .ok (.fcmp w)
  | 0x3A => .ok (.sel w)
  | 0x3C => .ok (.bcmp w)
  | 0x3D => .ok (.bfind w)
  | 0x3E => .ok (.bperm w)
  | 0x3F => .ok (.hash64 w)
  | 0x40 => .ok (.crc32c w)
  | 0x41 => .ok (.dfastep w)
  | 0x44 => .ok (.steer w)
  | 0x45 => .ok (.merge w)
  | 0x46 => .ok (.gate w)
  | 0x47 => .ok (.fork w)
  | 0x48 => .ok (.sink w)
  | 0x49 => .ok (.const w)
  | 0x4C => .ok (.tagget w)
  | 0x4D => .ok (.tagset w)
  | 0x4E => .ok (.ctxalloc w)
  | 0x4F => .ok (.ctxret w)
  | 0x50 => .ok (.ctxfree w)
  | 0x51 => .ok (.seqset w)
  | 0x54 => .ok (.loopgen w)
  | 0x55 => .ok (.loopret w)
  | 0x56 => .ok (.accum w)
  | 0x58 => .ok (.compress w)
  | 0x59 => .ok (.topk w)
  | 0x5A => .ok (.merge2 w)
  | 0x5C => .ok (.tokout w)
  | 0x5D => .ok (.elemTrap w)
  | 0x5E => .ok (.elemEtrig w)
  | 0x5F => .ok (.done w)
  | 0x60 => .ok (.chbind w)
  | 0x61 => .ok (.sclset w)
  | 0x62 => .ok (.cntwatch w)
  | 0x63 => .ok (.elemChain w)
  | 0x64 => .ok (.nop w)
  | 0x80 => .ok (.elemLd w)
  | 0x81 => .ok (.elemSt w)
  | 0x82 => .ok (.agstream w)
  | 0x83 => .ok (.gather w)
  | 0x84 => .ok (.scatter w)
  | 0x85 => .ok (.atom w)
  | 0x86 => .ok (.red w)
  | 0x87 => .ok (.elemFence w)
  | 0x88 => .ok (.elemApcvt w)
  | 0x89 => .ok (.elemAptest w)
  | 0x8A => .ok (.fibOpen w)
  | 0x8B => .ok (.fibAdv w)
  | 0x8C => .ok (.fibEnd w)
  | 0x8D => .ok (.fibClose w)
  | 0x8E => .ok (.mldt w)
  | 0x8F => .ok (.pref w)
  | 0xA0 => .ok (.mma w)
  | 0xA1 => .ok (.mmaZ w)
  | 0xA2 => .ok (.accRd w)
  | 0xA3 => .ok (.accWr w)
  | 0xA4 => .ok (.accCvt w)
  | 0xA5 => .ok (.accChk w)
  | 0xA6 => .ok (.accVfy w)
  | 0xA7 => .ok (.accFix w)
  | 0xA8 => .ok (.sclLd w)
  | 0xB0 => .ok (.shalloc w)
  | 0xB1 => .ok (.shseal w)
  | 0xB2 => .ok (.shld w)
  | 0xB3 => .ok (.shpeek w)
  | 0xB4 => .ok (.shabandon w)
  | 0xB5 => .ok (.shquery w)
  | _ => .error .reservedOp

/-- The instruction that a handler slot holds (R42, R47). -/
def decodeSlot (op : BitVec 32) (route : BitVec 64) (const : BitVec 32) : Except Reject Instr :=
  slotInstr (bits op.toNat 31 24) (slotFields op route const)

/-- Major opcode and fields of an element instruction (R47). -/
def slotOp : Instr → Option (Nat × Slot)
  | .elemAdd w => some (0x10, w)
  | .elemSub w => some (0x11, w)
  | .elemMul w => some (0x12, w)
  | .mulhi w => some (0x13, w)
  | .mad w => some (0x14, w)
  | .elemDiv w => some (0x15, w)
  | .elemRem w => some (0x16, w)
  | .elemAnd w => some (0x17, w)
  | .elemOr w => some (0x18, w)
  | .elemXor w => some (0x19, w)
  | .andn w => some (0x1A, w)
  | .shl w => some (0x1B, w)
  | .shr w => some (0x1C, w)
  | .sar w => some (0x1D, w)
  | .rot w => some (0x1E, w)
  | .elemClz w => some (0x1F, w)
  | .elemPopc w => some (0x20, w)
  | .elemMin w => some (0x21, w)
  | .elemMax w => some (0x22, w)
  | .abs w => some (0x23, w)
  | .fadd w => some (0x28, w)
  | .fsub w => some (0x29, w)
  | .fmul w => some (0x2A, w)
  | .fma w => some (0x2B, w)
  | .fmin w => some (0x2C, w)
  | .fmax w => some (0x2D, w)
  | .fsgn w => some (0x2E, w)
  | .frcp w => some (0x2F, w)
  | .frsq w => some (0x30, w)
  | .fexp2 w => some (0x31, w)
  | .flog2 w => some (0x32, w)
  | .fcvt w => some (0x33, w)
  | .fclass w => some (0x34, w)
  | .fdot w => some (0x35, w)
  | .amax w => some (0x36, w)
  | .cmp w => some (0x38, w)
  | .fcmp w => some (0x39, w)
  | .sel w => some (0x3A, w)
  | .bcmp w => some (0x3C, w)
  | .bfind w => some (0x3D, w)
  | .bperm w => some (0x3E, w)
  | .hash64 w => some (0x3F, w)
  | .crc32c w => some (0x40, w)
  | .dfastep w => some (0x41, w)
  | .steer w => some (0x44, w)
  | .merge w => some (0x45, w)
  | .gate w => some (0x46, w)
  | .fork w => some (0x47, w)
  | .sink w => some (0x48, w)
  | .const w => some (0x49, w)
  | .tagget w => some (0x4C, w)
  | .tagset w => some (0x4D, w)
  | .ctxalloc w => some (0x4E, w)
  | .ctxret w => some (0x4F, w)
  | .ctxfree w => some (0x50, w)
  | .seqset w => some (0x51, w)
  | .loopgen w => some (0x54, w)
  | .loopret w => some (0x55, w)
  | .accum w => some (0x56, w)
  | .compress w => some (0x58, w)
  | .topk w => some (0x59, w)
  | .merge2 w => some (0x5A, w)
  | .tokout w => some (0x5C, w)
  | .elemTrap w => some (0x5D, w)
  | .elemEtrig w => some (0x5E, w)
  | .done w => some (0x5F, w)
  | .chbind w => some (0x60, w)
  | .sclset w => some (0x61, w)
  | .cntwatch w => some (0x62, w)
  | .elemChain w => some (0x63, w)
  | .nop w => some (0x64, w)
  | .elemLd w => some (0x80, w)
  | .elemSt w => some (0x81, w)
  | .agstream w => some (0x82, w)
  | .gather w => some (0x83, w)
  | .scatter w => some (0x84, w)
  | .atom w => some (0x85, w)
  | .red w => some (0x86, w)
  | .elemFence w => some (0x87, w)
  | .elemApcvt w => some (0x88, w)
  | .elemAptest w => some (0x89, w)
  | .fibOpen w => some (0x8A, w)
  | .fibAdv w => some (0x8B, w)
  | .fibEnd w => some (0x8C, w)
  | .fibClose w => some (0x8D, w)
  | .mldt w => some (0x8E, w)
  | .pref w => some (0x8F, w)
  | .mma w => some (0xA0, w)
  | .mmaZ w => some (0xA1, w)
  | .accRd w => some (0xA2, w)
  | .accWr w => some (0xA3, w)
  | .accCvt w => some (0xA4, w)
  | .accChk w => some (0xA5, w)
  | .accVfy w => some (0xA6, w)
  | .accFix w => some (0xA7, w)
  | .sclLd w => some (0xA8, w)
  | .shalloc w => some (0xB0, w)
  | .shseal w => some (0xB1, w)
  | .shld w => some (0xB2, w)
  | .shpeek w => some (0xB3, w)
  | .shabandon w => some (0xB4, w)
  | .shquery w => some (0xB5, w)
  | _ => none

/-- The opcode plane of a slot (R42). -/
def encodeOp (op : Nat) (w : Slot) : Nat :=
  op * 2 ^ 24 + w.fn.toNat * 2 ^ 19 + w.fire.toNat * 2 ^ 16 + w.amode.toNat * 2 ^ 14 + w.bmode.toNat * 2 ^ 12 +
    w.cmode.toNat * 2 ^ 10 + w.arity.toNat * 2 ^ 8 + w.flags.toNat * 2 ^ 5 + w.out.toNat

/-- The three planes of an element instruction. -/
def encodeSlot (i : Instr) : Option (BitVec 32 × BitVec 64 × BitVec 32) :=
  (slotOp i).map fun x =>
    (BitVec.ofNat 32 (encodeOp x.1 x.2), BitVec.ofNat 64 (encodeDest x.2.d0 + 2 ^ 32 * encodeDest x.2.d1), x.2.const)

/-! ## The table's numbering -/

/-- What the decoder reads from an instruction whose bits are `w` (bit 0 the least significant of the first word):
the rows that the table gives bits are control-core words of 32 bits. -/
def decodeTableWord (nbits w : Nat) : Option Instr :=
  if 32 < nbits then none
  else match decodeBytes (bytesOf 4 w) with
    | .ok (i, _) => some i
    | .error _ => none

end Sys2Proof
end

