-- ==== Sys2Proof/Config.lean ====
section
/-! DEFINITION. What is fixed for the package and what the spec leaves free. Constants with a body are the spec's
(R2, R3, R310, R341). Opaque constants have no value that a proof could use: they are the choices the spec leaves
open (R12, R13, R396) and what an implementation or its attachments fix. -/
namespace Sys2Proof.Config

/-! ## Counts and sizes (R2, R3, R6, R310, R341) -/

def threadCount : Nat := 64
def coreCount : Nat := 96
def coresPerCluster : Nat := 24
def clusterCount : Nat := 4
def placesPerCluster : Nat := 64
def regionCount : Nat := 256
def queueCount : Nat := 2048
def portCount : Nat := 512
def serdexCount : Nat := 40
def vdCount : Nat := 1024
def switchCount : Nat := 128
/-- Cycles of the arithmetic clock in a millisecond (R1). -/
def cyclesPerMs : Nat := 3600000

def sizeW : Nat := 0x600000
def sizeA : Nat := 0x400000
def sizeC : Nat := 0x100000
def sizeScale : Nat := 0x40000
def sizeScratch : Nat := 0x200000

/-- HBM of one die: six stacks of 64 GB (R2, R310; a GB is 10^9 bytes, log 6). -/
def hbmDie : Nat := 384 * 10 ^ 9
/-- A channel group: the die's physical offsets in 24 equal ranges (R310). -/
def groupBytes : Nat := hbmDie / 24
/-- LPDDR6 commons (R341). -/
def lpddr : Nat := 0x020000000000
def hostWindow : Nat := 0xFE0000000000
def mgmtBase : Nat := 0xFF0000000000

/-! ## Free choices and what the attachments fix -/

/-- Who moves after step `n` (R13: no time base; log 1). -/
opaque schedule : Nat → Turn
/-- How many cycles step `n` takes (R396 and the bounds of R104, R166, R205, R229; log 4). -/
opaque elapsed : Nat → Nat
/-- A free choice (R12): the `n`-th that the machine makes. -/
opaque choice : Nat → Nat
/-- Whether a walk uses a cached entry (R315), by the number of the choice. -/
opaque tlbHit : Nat → Bool
/-- Package index within the pod (R358) and the pod (R313): one package's identity. -/
opaque package : Nat
opaque pod : Nat
/-- Packages of a pod that the system holds (R363). -/
opaque podHolds : Nat → Nat → Bool
/-- Capacities of the CXL devices in port order (R353): one on each of two ports (R6). -/
opaque cxlPorts : List Nat
def cxl : List Nat := cxlPorts.take 2
/-- The same for another package, by pod and package (R341, R353). -/
opaque farCxlPorts : Nat → Nat → List Nat
def farCxl (pod pkg : Nat) : List Nat := (farCxlPorts pod pkg).take 2
/-- Whether a place of another package lies in the memory of a device that sleeps and does not list the accessor (R347), by the
number of the choice and the place. -/
opaque farAsleep : Nat → Nat → Bool
/-- The bytes of an image that RGNSAVE writes (R334: the layout belongs to the LG9), by image number and offset. -/
opaque imageByte : Nat → Nat → Byte
/-- The length of an image, by image number (R334). -/
opaque imageLen : Nat → Nat
/-- SHAKE256 digest of bytes (R8, R334, R356). -/
opaque shake256 : List Byte → BitVec 256
/-- ML-DSA-65 verification of a signature over a digest under a key digest (R354). -/
opaque mldsaVerify : BitVec 256 → BitVec 256 → Nat → Bool
/-- ML-DSA-65 signature of a report with the device identity key (R356). -/
opaque mldsaSign : List (BitVec 256) → BitVec 256
/-- The key digest and the version counter that are fused (R354). -/
opaque keyDigest : BitVec 256
opaque fusedVersion : Nat
/-- The contents that remote memory, the host window and other parties give a load that this package cannot
see: none of them is read by a statement. -/
opaque freeWord : Nat → Word

/-- A store of the host through BAR2 (R341), by the number of the choice: offset in the commons, bytes and value, if there is one
(log 122). -/
opaque hostStore : Nat → Option (Nat × Nat × Nat)
/-- Bytes of the reservation that a region store buffer has (R335). -/
opaque storeReserve : Nat
/-- Whether an open reduction window of another package's device covers a remote place (R372), by physical address. -/
opaque farWindow : Nat → Bool
/-- Whether a device of another package exists (R363): pod, package and device. -/
opaque remoteVd : Nat → Nat → Nat → Bool
/-- Whether the system has several pods: ports 38 and 39 then face the second tier (R358). -/
opaque pods : Bool
/-- Whether two other packages are joined by an edge link (R368). -/
opaque farLinked : Nat → Nat → Bool
/-- The whole clusters that a package can give a region (R368), by the number of the choice and the package. -/
opaque farClusters : Nat → Nat → Nat
/-- Whether the parts of a region on other packages are at rest (R155, R328, R331, R368), by the number of the choice and the
region. -/
opaque farQuiet : Nat → Nat → Bool
/-- Whether a data block of a region whose core 0 is on another package meets a shelf partition there (R247, R368), by the number of
the choice. -/
opaque farClash : Nat → Bool
/-- The device that owns a cluster of another package, by 256 × pod + package and the cluster (R365). -/
opaque farOwner : Nat → Nat → Nat
/-- The numbers of a span's windows that members on other packages hold (R371), by the number of the choice. -/
opaque farWindows : Nat → List Nat
/-- Whether the region of a gang member on another package is idem (R377), by the number of the choice. -/
opaque farIdem : Nat → Bool
/-- How the home of a window on another package answers a contribution (R373): 0 an acknowledgement, else a fault code; by the
number of the choice. -/
opaque farAnswer : Nat → Nat
/-- Whether a route rewrite comes from a failed link of this package and not from a failed switch (R374, R379). -/
opaque linkOnly : Nat → Bool

/-- Whether a device permits SHPEEK (R235): the spec gives the permission no field (log 106). -/
opaque peekPermit : Nat → Bool

/-- A pipeline that Bextex declares (R268: the spec gives the declaration no operation; log 111), by the number of the choice:
device, stages as descriptor and replicas, the partitions between them, and whether the control is expert. -/
opaque pipeline : Nat → Option (Nat × List (Word × Nat) × List Nat × Bool)

end Sys2Proof.Config
end

