-- ==== Sys2Proof/Machine/State.lean ====
section
/-! DEFINITION. The state of the machine: one LG9 package, the virtual devices on it and its end of the pod's fabric,
as plain data. INVENTORY.md lists every field with the rule that names it and its reset value; where the spec gives
none, the value is DESIGN CHOICE (log 2, log 3). -/
namespace Sys2Proof.Machine

/-! ## The memory model (R382 to R395) -/

/-- An agent of the memory model (R382): a stream of a memory element (its slot, or 32 and the number of its context), a thread, a
queue, the fabric home ports and switch reducers of this package, an agent of another package; `element` and `core` stand for every
stream of an element and of a core. `arbiter` is the unit of a cluster that writes event rings (R326; DEDUCED, log 117: R382
names no agent for it). -/
inductive Agent where
  | stream (core i x : Nat)
  | element (core i : Nat)
  | core (k : Nat)
  | thread (t : Nat)
  | queue (q : Nat)
  | port
  | arbiter (c : Nat)
  | far (pod pkg : Nat)
deriving DecidableEq, Repr, Inhabited

/-- What happens before a token (R383): what these agents had done or learned of by these times. Times are those of
`State.free`. -/
abbrev Past := List (Agent × Nat)

/-- A release (R384): what it releases, its agent and its scope. -/
structure Release where
  past  : Past
  who   : Agent
  scope : Nat
deriving DecidableEq, Repr, Inhabited

/-- A performed write that some agents need not see yet (R385, R388): its bytes, what they held before and hold after, its agent and
time; the agents with the scopes at which it is performed; the agents that have learned of it, with the time; the releases that a
reader of it synchronises with; the agents that have read such a value. A note of no bytes stands for a release fence of its
agent. -/
structure Unseen where
  p      : Nat
  n      : Nat
  old    : Nat
  new    : Nat
  who    : Agent
  time   : Nat
  scopes : List (Agent × Nat)
  seen   : List (Agent × Nat)
  sync   : List Release
  reads  : List Agent
deriving DecidableEq, Repr, Inhabited

/-! ## Elements (R90) -/

/-- A slot's three planes (R42, R43, R44). -/
structure Planes where
  op    : BitVec 32 := 0
  route : BitVec 64 := 0
  const : BitVec 32 := 0
deriving DecidableEq, Repr, Inhabited

/-- An operand latch (R90, R93). -/
structure Latch where
  pay    : Word := 0
  chan   : BitVec 5 := 0
  kind   : BitVec 4 := 0
  tag    : BitVec 24 := 0
  seq    : BitVec 4 := 0
  last   : Bool := false
  valid  : Bool := false
  order  : Nat := 0
  past   : Past := []
deriving DecidableEq, Repr, Inhabited

/-- An entry of a matching store, or a spill record (R95, R106). -/
structure MsEntry where
  tok   : Token
  stamp : Nat
  pend  : Bool
  past  : Past := []
deriving DecidableEq, Repr, Inhabited

/-- What one resident configuration keeps in an element (R90): planes and latches by slot, channel entries, static
routes, and the ECC marks of R110. -/
structure ConfBank where
  planes   : Sparse Planes := []
  chans    : Sparse (BitVec 32) := []
  latches  : Sparse Latch := []         -- key 4 × slot + port
  routes   : Sparse Byte := []
  badSlots : List Nat := []
  badChans : List Nat := []
deriving DecidableEq, Repr, Inhabited

/-- An open accumulation of ACCUM (R148). -/
structure Accum where
  slot   : Nat
  ctx    : BitVec 8
  it0    : Nat
  next   : Nat
  seq    : BitVec 4
  value  : Word
  poison : Option Word
  past   : Past := []
deriving DecidableEq, Repr, Inhabited

/-- One element of a COMPRESS or TOPK row: index, the lane value as its exact number, and the 32-bit value written. -/
structure RowElem where
  idx  : Nat
  num  : Num
  bits : Nat
deriving DecidableEq, Repr, Inhabited

/-- The selection buffer of a COMPRESS or TOPK slot (R149): the row's tag and what it has taken. -/
structure RowSel where
  slot   : Nat
  tag    : BitVec 24
  taken  : Nat
  lanes  : Nat
  elems  : List RowElem
  dead   : Bool
  past   : Past := []
deriving DecidableEq, Repr, Inhabited

/-- The state of a MERGE2 slot under one tag (R151). -/
structure MergeSt where
  slot    : Nat
  tag     : BitVec 24
  lastA   : Option Nat
  lastB   : Option Nat
  endA    : Bool
  endB    : Bool
  stopped : Bool
deriving DecidableEq, Repr, Inhabited

/-- An armed loop generator (R145). -/
structure LoopGen where
  slot  : Nat
  ctx   : BitVec 8
  iter  : Nat
  f     : Nat
  n     : Nat
  j     : Nat
  live  : List Nat
  cap   : Nat
  seq   : BitVec 4
  seed  : Option Word
  poison : Bool
  past  : Past := []
  ends  : Past := []     -- what happens before its retire tokens so far
deriving DecidableEq, Repr, Inhabited

/-- Where a reply goes: the slot's destinations, or the continuation of a request (R40, R187). -/
inductive ReplyTo where
  | dests (d0 d1 : Dest) (chan : BitVec 5)
  | cont (elem : BitVec 16) (slot : BitVec 5) (port : BitVec 2) (chan : BitVec 5)
deriving DecidableEq, Repr, Inhabited

/-- The kinds of request of a memory element's queue (R167). -/
inductive MemOp where
  | ld
  | st (b : Word)
  | gather (lanes width : Nat) (idx : Word)
  | scatter (lanes width : Nat) (idx b : Word)
  | atom (op : Nat) (b c : Word)
  | red (x n : Nat) (fadd : Bool) (fmt : Nat) (b : Word)
  | fence (pay : Word)
  | mldt (sw : Bool) (rowBytes pitch : Nat) (dst : BitVec 32)
  | fibAdv (x : Nat) (target : Nat)
  | fibEnd (x : Nat)
  | agOpen (x : Nat) (store : Bool) (ents : List MsEntry)
  | fibOpen (x : Nat) (demand : Bool) (row : Nat) (ents : List MsEntry)
deriving DecidableEq, Repr, Inhabited

/-- A request of a memory element (R167, R186): who made it, its address fields, order and scope, its operation and
where the reply goes; `parked` is the mark of R169. -/
structure MemReq where
  slot   : Nat
  tag    : BitVec 24
  seq    : BitVec 4
  last   : Bool
  op     : MemOp
  base   : Nat
  off    : Nat
  size   : Nat
  typed  : Bool
  order  : Nat
  scope  : Nat
  dst     : ReplyTo
  parked : Bool
  sent   : Bool          -- a RED that waits for its home's acknowledgement
  id     : Nat
  first  : Nat := 0      -- when it first issued and parked, in the region's order; 0 for one that never did (R330)
  left   : Option (List Nat) := none   -- the 32-byte pieces of an MLDT that are still to be moved (R202, R386)
  hits   : List Nat := []              -- the poisoned source lines that an MLDT has reported
  bad    : List Nat := []              -- the destination lines to which marked source lines went
  past   : Past := []                  -- what happens before it (R383)
deriving DecidableEq, Repr, Inhabited

/-- A token that a performed request still has to emit. -/
structure OutTok where
  dst      : ReplyTo
  which   : Nat           -- 0 dest0 only, 1 dest1 only, 2 both (the continuation counts as both)
  tag     : BitVec 24
  seq     : BitVec 4
  last    : Bool
  pay     : Word
  poison  : Bool
deriving DecidableEq, Repr, Inhabited

/-- The reply of a performed request (R168): the stream it belongs to, for the order of replies. -/
structure MemReply where
  stream : Nat            -- the slot, or 32 + context number
  slot   : Nat
  tag    : BitVec 24
  outs   : List OutTok
  past   : Past := []
deriving DecidableEq, Repr, Inhabited

/-- The four uses of a stream context (R198, R199, R235). -/
inductive CtxKind where
  | load | store | fibRun | fibDemand | shelf
deriving DecidableEq, Repr, Inhabited

/-- A stream context of a memory element (R198, R199, R235). -/
structure StreamCtx where
  kind    : CtxKind
  slot    : Nat
  tag     : BitVec 24
  seq     : BitVec 4
  dst      : ReplyTo
  base    : Nat
  start   : Nat := 0
  counts  : List Nat := []
  strides : List Int := []
  size    : Nat := 0
  depth   : Nat := 64
  typed   : Bool := false
  itstep  : Bool := false
  next    : Nat := 0          -- next element, entry position or word
  stop    : Nat := 0          -- one past the last
  emitted : Nat := 0
  closing : Bool := false     -- FIB.CLOSE waits for the final entry
  closeTo : Option (ReplyTo × BitVec 24 × BitVec 4 × Bool) := none
  coord   : Nat := 0
  val     : Nat := 0
  vsize   : Nat := 0
  handle  : BitVec 32 := 0
  peek    : Bool := false
  begun   : Bool := false     -- a shelf read that has passed step 2 of R235
  parked  : Bool := false
  first   : Nat := 0          -- when its head first issued and parked, in the region's order (R330)
  id      : Nat := 0          -- the number of the request that opened it
  ents    : List MsEntry := []   -- the set of a shelf read that has not begun (R230, R235)
  past    : Past := []
deriving DecidableEq, Repr, Inhabited

/-- The state of one element for one region (R90): its four resident configurations, matching store, spill area,
and the state that its instructions keep. -/
structure ElemState where
  confs   : Sparse ConfBank := []
  active  : Nat := 0
  order   : Option Nat := none
  store   : List MsEntry := []
  spill   : List MsEntry := []
  stamp   : Nat := 0
  stopped : List Nat := []          -- 32 × configuration + slot
  accums  : List Accum := []
  rows    : List RowSel := []
  merges  : List MergeSt := []
  gens    : List LoopGen := []
  queue   : List MemReq := []
  replies : List MemReply := []
  ctxs    : Sparse StreamCtx := []
deriving DecidableEq, Repr, Inhabited

/-- What an element holds as a unit of its core, whichever region is active (R90): window bases, scale registers,
base registers. -/
structure UnitState where
  winBase : Sparse (BitVec 16) := []
  scale   : Sparse (BitVec 32) := []
  mb      : Sparse Word := []
deriving DecidableEq, Repr, Inhabited

/-! ## Cores -/

/-- An accumulator's state beside its tile (R174, R218). -/
structure AccState where
  tag    : BitVec 24 := 0
  held   : BitVec 16 := 0
  next   : BitVec 4 := 0
  opened : Bool := false
  rowck  : Sparse (BitVec 32) := []
  colck  : Sparse (BitVec 32) := []
  ck     : Bool := false
  bands  : Bool := false
  bandA  : Sparse (BitVec 16) := []
  bandB  : Sparse (BitVec 16) := []
  verify : Option (BitVec 64) := none
deriving DecidableEq, Repr, Inhabited

/-- The matrix instructions as an engine receives them (R208). -/
inductive MxOp where
  | mma (zero ck : Bool)
  | accRd (mem cl : Bool)
  | accWr (el ck : Bool)
  | accCvt (ex cl : Bool)
  | accChk
  | accVfy
  | accFix
  | sclLd (fn : Nat)
deriving DecidableEq, Repr, Inhabited

/-- One piece of what a matrix instruction writes: the first byte, the length, the value, and whether it is poison. -/
structure MxPiece where
  p   : Nat
  n   : Nat
  v   : Nat
  bad : Bool
deriving DecidableEq, Repr, Inhabited

/-- The 64-byte line that a k-step has read (R182): its number, its bytes as a number, its mark. -/
structure SeenLine where
  line : Nat
  v    : Nat
  bad  : Bool
deriving DecidableEq, Repr, Inhabited

/-- A matrix instruction delivered to an engine (R208): the issuing firing, operands, their channel entries and
scale registers as they stood at the firing, the constants plane and dest1. -/
structure MxCmd where
  mx     : Nat
  r      : Nat
  elem   : Nat
  slot   : Nat
  tag    : BitVec 24
  seq    : BitVec 4
  op     : MxOp
  a      : Word
  b      : Word
  c      : Word
  chA    : BitVec 32
  scA    : BitVec 32
  chB    : BitVec 32
  chOut  : BitVec 32
  scOut  : BitVec 32
  const  : BitVec 32
  outCh  : BitVec 5
  d1     : Dest
  last   : Bool
  seen   : List SeenLine := []           -- the lines that the next k-step has read so far (R176, R182)
  pieces : Option (List MxPiece) := none -- what an instruction that has begun to write has still to write (R386)
  past   : Past := []
deriving DecidableEq, Repr, Inhabited

/-- An entry of the range scoreboard (R170): a byte range of storage, and the queue that allocated it. -/
structure SbEntry where
  lo    : Nat
  hi    : Nat
  queue : Nat
deriving DecidableEq, Repr, Inhabited

/-- A watch of the counter watch unit (R157). -/
structure Watch where
  r      : Nat
  elem   : Nat
  slot   : Nat
  tag    : BitVec 24
  seq    : BitVec 4
  last   : Bool
  addr   : Word
  target : Word
  scope  : Nat
  d0     : Dest
  d1     : Dest
  chan   : BitVec 5
  past   : Past := []
deriving DecidableEq, Repr, Inhabited

/-- A core's own state (R3, R170, R173, R174, R213, R227); its buffers are bytes of `State.mem`. -/
structure CoreState where
  cycle0      : Nat := 0        -- how far the core's cycle counter is ahead of `State.clock` (R13, R35)
  scaleStatus : BitVec 32 := 0
  layout      : Sparse (BitVec 128) := []
  accs        : Sparse AccState := []
  scoreboard  : List SbEntry := []
  watches     : List Watch := []
  issue       : List MxCmd := []
  pool        : List MxCmd := []
deriving DecidableEq, Repr, Inhabited

/-- A SHALLOC in a partition's queue (R233), or a tile request of the dependence table (R262). -/
structure SReq where
  r     : Nat
  elem  : Nat
  slot  : Nat
  tag   : BitVec 24
  seq   : BitVec 4
  last  : Bool
  dst    : ReplyTo
  count : Nat
  size  : Nat
  expert : Bool
  shares : List Nat
  task  : Option Word
  past  : Past := []
deriving DecidableEq, Repr, Inhabited

/-! ## Regions (R249, R251) -/

/-- A context of a region's context table (R100). -/
structure Ctx where
  bound  : Bool := false
  parent : BitVec 8 := 0
  iter   : Nat := 0
  orphan : Bool := false
deriving DecidableEq, Repr, Inhabited

/-- A configuration of the list (R250) with the depth of its header (R323). -/
structure ConfEntry where
  image   : Word
  extents : List Nat
  depth   : Nat
deriving DecidableEq, Repr, Inhabited

/-- Where a region stands (R296, R330, R333). -/
inductive RStatus where
  | loading | loaded | running | completed | stoppedKill
deriving DecidableEq, Repr, Inhabited

/-- A configuration load under way (R324): configuration and record number; `image` is none where the records have
already been checked as a whole. -/
structure LoadSt where
  conf : Nat
  recn : Nat
  shadow : List (Nat × Nat × ConfBank)
  scales : List (Nat × Nat × BitVec 32)
deriving DecidableEq, Repr, Inhabited

/-- A region (R249 to R252, R256, R295, R324, R328 to R336). -/
structure RegionState where
  live     : Bool := false
  vd       : Nat := 0
  desc     : Word := 0
  status   : RStatus := .loading
  cores    : List Nat := []
  confs    : List ConfEntry := []
  fedge    : Word := 0
  mbox     : Word := 0
  gates    : BitVec 32 := 0xFFFFFFFF
  rank     : Nat := 0
  idem     : Bool := false
  peek     : Bool := false
  partmask : BitVec 16 := 0
  readers  : List Word := []
  declWin  : Nat := 16
  tagwin   : Nat := 16
  quota    : Nat := 64
  wdlim    : Nat := 0
  thlim    : Nat := 0
  thread   : Nat := 0
  task     : Option Word := none
  triggered : Bool := false
  point    : List Nat := [0, 0, 0, 0]
  conf     : Nat := 0
  inStep   : Bool := false
  doneRecv : Bool := false
  stopFlag : Bool := false
  stepFault : Bool := false     -- a fault of an element was seen in the step before DONE (R160)
  faulted  : Bool := false      -- a fault of the region's run, not of a parked request, has been seen (R271)
  awaiting : Bool := false      -- last step complete, waiting for the completion counter (R258)
  ctxs     : Sparse Ctx := []
  inFlight : Nat := 0
  load     : Option LoadSt := none
  shadowValid : Bool := true
  loadFault : Nat := 0
  draining : Bool := false
  drained  : Bool := false
  frozenEnd : Bool := false
  activeNow : Bool := true      -- false while its bank is swapped out (R333)
  saved    : Bool := false
  storeBuf : List (Nat × Byte) := []
  storePoison : List Nat := []
  storeClear : List Nat := []   -- lines whose mark a buffered whole-line write clears
  buffering : Bool := false
  eligible : Nat := 0
  throttledC : Nat := 0
  throttled : Bool := false
  dbgStop  : Bool := false
  dbgSkip  : Option (Nat × Nat × BitVec 24) := none   -- the firing at which `ifepel` stopped it last
  progress : Bool := false
  arg1     : Word := 0
  declEdge : Word := 0
  switching : Bool := false     -- a resident configuration switch is under way (R91)
  pendStep : Bool := false      -- the next start token is withheld by a drain (R331)
  mbBank   : List (Nat × Sparse Word) := []          -- base registers of a swapped-out region, by element (R333)
  watches  : List Watch := []                        -- watches of a swapped-out region (R157, R333)
  parkedS  : List (Nat × SReq) := []                 -- SHALLOCs that a swap has withdrawn, by partition (R233)
  scales   : List (Nat × Nat × BitVec 32) := []      -- scale records of a load that is not active yet
  own      : Bool := false      -- stopped by the package: it goes on by itself at the restore
  declIdem : Bool := false      -- the idem flag of the descriptor: a start sets `idem` from it (R335)
  placed   : Bool := false      -- a task has been placed: core 0 holds the blocks of its image (R247)
  lead     : Option Nat := none -- the package whose sequencer steps it, where that is another (R368)
  keep     : Bool := false      -- loaded by RGNLOAD or RGNREST: stays loaded when completed (R330)
  past     : Past := []         -- what happens before its next start token (R251, R259, R383)
  rerun    : Bool := false      -- starts by itself once loaded: a member of a failed launch that runs again (R377)
deriving DecidableEq, Repr, Inhabited

/-! ## The shelf (R231 to R241) -/

/-- The states of a tile (R231). -/
inductive TileState where
  | opened | sealed | drained | orphan
deriving DecidableEq, Repr, Inhabited

/-- A tile that is not freed. -/
structure Tile where
  core   : Nat
  gran   : Nat
  size   : Nat
  gen    : Nat
  state  : TileState
  count  : Nat
  expert : Bool
  shares : List Nat
  readers : List Word
  part   : Nat
  vd     : Nat
  region : Nat          -- RID of the allocating region (R295)
  rank   : Nat
  fedge  : Word
  task   : Option Word
  reading : Nat
  claims : List (Option Nat)    -- consuming reads in progress, by the reader entry each will charge (R243)
  past   : Past := []           -- what happens before its seal (R234)
deriving DecidableEq, Repr, Inhabited

/-- A shelf partition (R266, R239). -/
structure Partition where
  floor : Nat := 0
  ceil  : Nat := 0
  vd    : Nat := 0
  live  : Bool := false
  queue : List SReq := []
  period : Nat := 0
  parkedC : Nat := 0
  starve : Nat := 0        -- cycles for which the partition has starved (R239)
deriving DecidableEq, Repr, Inhabited

/-- A granule of the shelf pool: the partition that holds it and its generation (R172, R231). -/
structure Granule where
  part : Option Nat := none
  gen  : Nat := 0
deriving DecidableEq, Repr, Inhabited

/-- A journal entry (R236). -/
structure JEntry where
  region : Nat
  handle : Nat
  entry  : Option Nat
  count  : Nat
deriving DecidableEq, Repr, Inhabited

/-! ## The task machine (R258 to R265) -/

/-- An entry of the dependence table (R261). -/
structure DepEntry where
  vd    : Nat
  task  : Word
  lo    : Nat
  len   : Nat
  write : Bool
deriving DecidableEq, Repr, Inhabited

/-- A derived successor (R261, R262): `succ` waits for `task`. -/
structure DepSucc where
  vd   : Nat
  task : Word
  succ : Word
  shelf : Bool          -- `succ` also reads the tile that `task` writes (R262)
deriving DecidableEq, Repr, Inhabited

/-- The latest writer of a shelf name (R262). -/
structure ShelfName where
  vd   : Nat
  part : Nat
  name : Nat
  task : Word
  handle : Option (BitVec 32)
deriving DecidableEq, Repr, Inhabited

/-- A task in the ready queue. -/
structure ReadyTask where
  vd   : Nat
  task : Word
  prio : Nat
deriving DecidableEq, Repr, Inhabited

/-- What the package keeps about a published record (R258): its home cluster, the publishing thread, its group. -/
structure TaskHome where
  vd      : Nat
  task    : Word
  cluster : Nat
  thread  : Nat
  own     : Bool := true  -- the thread published it by its own TASKPUB, and no launch slot did (R257)
  group   : Word
  retired : Bool
  gone    : Bool        -- reclaimed; kept while its group has not retired
  rel     : List Release := []   -- what its readiness acquires (R259, R304)
  done    : List Release := []   -- what its retirement released (R304)
deriving DecidableEq, Repr, Inhabited

/-- A launch slot or a deferred queue (R264, R265). -/
structure LaunchQ where
  vd    : Nat
  qaddr : Word
  prio  : Nat
  nonPre : Bool
  thread : Nat
deriving DecidableEq, Repr, Inhabited

/-- A decrement on its way to a task machine. -/
structure Decr where
  vd   : Nat
  task : Word
  rel  : List Release := []     -- what its readiness acquires (R259)
deriving DecidableEq, Repr, Inhabited

/-- An open reduction of a cache slice (R194). -/
structure RedOpen where
  pa    : Nat
  size  : Nat
  n     : Nat
  fadd  : Bool
  fmt   : Nat
  terms : Sparse Word
  rel   : List Release := []
deriving DecidableEq, Repr, Inhabited

/-- A RED contribution on its way to its home slice. -/
structure RedMsg where
  r     : Nat
  elem  : Nat
  slot  : Nat
  tag   : BitVec 24
  seq   : BitVec 4
  dst    : ReplyTo
  pa    : Nat
  size  : Nat
  x     : Nat
  n     : Nat
  fadd  : Bool
  fmt   : Nat
  val   : Word
  scope : Nat
  id    : Nat
  ea    : Nat := 0       -- the effective address, for `ifepel`
  rel   : List Release := []   -- its release (R194)
  past  : Past := []
deriving DecidableEq, Repr, Inhabited

/-- A pipeline of the stage balancer (R268): stages by region descriptor, with their replicas; `moving` holds the replicas that
take no new task, by the stage they leave, and `kept` the cores that such a replica has left, by the stage whose new replica they are
for. -/
structure Pipeline where
  vd     : Nat
  stages : List (Word × List Nat)
  parts  : List Nat
  expert : Bool
  moving : List (Nat × Nat) := []
  kept   : List (Nat × List Nat) := []
deriving DecidableEq, Repr, Inhabited

/-- A cluster (R2, R253 to R271). -/
structure ClusterState where
  cycle0   : Nat := 0                   -- how far the cluster's cycle counter is ahead of `State.clock` (R13, R305)
  granules : Sparse Granule := []       -- key 1024 × core in cluster + granule
  tiles    : List Tile := []
  parts    : Sparse Partition := []
  journal  : List JEntry := []
  deps     : List DepEntry := []
  succs    : List DepSucc := []
  names    : List ShelfName := []
  ready    : List ReadyTask := []
  slots    : List LaunchQ := []
  deferred : List LaunchQ := []
  reds     : List RedOpen := []
  redMsgs  : List RedMsg := []
  gens     : Sparse (BitVec 8) := []    -- generation of each region place (R295)
  pipes    : List Pipeline := []
  divz     : List Nat := []             -- devices whose divide flag is set (R257)
deriving DecidableEq, Repr, Inhabited

/-! ## Control-core threads (R272) -/

/-- Where a thread stands (R290, R291, R293, R277). -/
inductive RunState where
  | running
  | waitc (l st c tl : Nat)
  | waitge (d : Reg) (pa : Nat) (addr target : Word)
  | wfi
  | halted
  | stopped
  | saved
deriving DecidableEq, Repr, Inhabited

/-- The tile operations (R292). -/
inductive TileOp where
  | rgnload (desc : Word) (mask : BitVec 24) (r : Nat)
  | rgnstart (r : Nat) (task : Word)
  | rgnswap (x y : Nat)
  | rgndrain (r : Nat)
  | rgnsave (r : Nat) (area : Word)
  | rgnrest (area : Word) (mask : BitVec 24)
  | rgnkill (r : Nat)
  | vdsleep (v : Nat)
  | tlbinv (all : Bool) (va : Word)
  | cflush (inv : Bool) (va len : Word) (scope : Nat)
deriving DecidableEq, Repr, Inhabited

/-- The outstanding operations of a thread (R274, R292). -/
inductive ThreadOpKind where
  | load (pa size : Nat) (signed : Bool)
  | store (pa size : Nat) (v : Word)
  | amo (op : Nat) (pa size : Nat) (b : Word)
  | cas (pa size : Nat) (b expected : Word)
  | copy (q : Nat) (rec : Word)
  | tile (op : TileOp)
  | frame (pa : Nat) (epc : Word) (prev : Nat) (ev : BitVec 256) (word : BitVec 32)   -- a trap frame, not written yet (R277)
deriving DecidableEq, Repr, Inhabited

/-- An outstanding operation with its destination register, order, scope (R285) and, for an access, its address. -/
structure ThreadOp where
  kind  : ThreadOpKind
  dest  : Reg
  ord   : Nat
  scope : Nat
  ea    : Word := 0
deriving DecidableEq, Repr, Inhabited

/-- A control-core thread (R272, R256, R257). -/
structure ThreadState where
  regs    : Sparse Word := []
  pc      : Word := 0
  level   : BitVec 2 := 2
  poison  : BitVec 32 := 0
  busy    : BitVec 32 := 0
  ops     : List ThreadOp := []
  uimask  : BitVec 6 := 0
  uient   : Word := 0
  uepc    : Word := 0
  umask   : BitVec 6 := 0
  inui    : Bool := false
  run     : RunState := .running
  tagwin  : BitVec 32 := 0x100
  hrank   : BitVec 32 := 3
  fedge   : Word := 0
  msquota : BitVec 32 := 0x40
  wdlim   : BitVec 32 := 0x00000DBC
  thlim   : BitVec 32 := 0x00055D4B
  uipend  : BitVec 32 := 0
  lastf   : BitVec 8 := 0
deriving DecidableEq, Repr, Inhabited

/-! ## Die -/

/-- A copy queue (R316, R322). `cur` is the record at which it runs or is stopped, `done` how many destination lines
(tokens, for STREAM) of it have been performed (R320), `half` the 32-byte granule of the next line that is performed already
and `halfBad` whether that came from a marked line (R386), `begun` whether the record has begun (it has acquired; COUNT has begun to
wait), `fin` whether the body is done and the action is still to come, `acted` whether the action is done and the write of own is
still to come, `last` whether STREAM has taken a token with last 1, `held` the bytes that it has taken and not written (R386). -/
structure QueueState where
  cur     : Word := 0
  code    : BitVec 8 := 0
  refused : Bool := false
  stopped : Bool := false
  run     : Bool := false
  tail    : Word := 0
  bound   : Bool := false
  cluster : Nat := 0
  endpoint : Word := 0
  done    : Nat := 0
  half    : Option Nat := none
  halfBad : Bool := false
  begun   : Bool := false
  fin     : Bool := false
  acted   : Bool := false
  last    : Bool := false
  held    : List Nat := []
deriving DecidableEq, Repr, Inhabited

/-- A token in a stream port, with the device of its producer. -/
structure PortTok where
  vd  : Nat
  r   : Option Nat
  tok : Token
  past : Past := []
deriving DecidableEq, Repr, Inhabited

/-- An on-die stream port (R321). -/
structure PortState where
  fifo : List PortTok := []
  bind : Option Nat := none
deriving DecidableEq, Repr, Inhabited

/-! ## Virtual devices (R342 to R352) -/

/-- The states of VDSTATE (R345). -/
inductive VdMode where
  | active | collapsing | dormant | waking
deriving DecidableEq, Repr, Inhabited

/-- The answer to an access of another package (R364, R366): a fault code, or 0 with the value of a load or an atomic. -/
structure Answer where
  req  : RemoteReq
  code : Nat
  val  : Word
  bad  : Bool
deriving DecidableEq, Repr, Inhabited

/-- One arrival held in the wake buffer (R350). -/
inductive WakeEntry where
  | token (r : Nat) (t : Token) (port : Option Nat) (past : Past)
  | flit (p : Nat) (f : Flit)
  | remote (q : RemoteReq)
  | node (d : RedNode)
deriving DecidableEq, Repr, Inhabited

/-- A learned count of the predictor (R352): layer, expert, next expert, count. -/
structure Learned where
  layer : Nat
  i     : Nat
  j     : Nat
  n     : Nat
deriving DecidableEq, Repr, Inhabited

/-- What a collapse saves beside the regions (R348): tiles, partitions and A-buffer bytes of each cluster. -/
structure SavedShelf where
  cluster : Nat
  tiles   : List Tile
  parts   : Sparse Partition
  granules : Sparse Granule
  journal : List JEntry
  gens    : Sparse (BitVec 8)
  bytes   : List Host.Cell
  marks   : List Nat
deriving DecidableEq, Repr, Inhabited

/-- A virtual device (R342, R343, R345, R352, R363). -/
structure VdState where
  live     : Bool := false
  dying    : Bool := false
  clusters : List Nat := []
  nclusters : Nat := 0
  groups   : List Nat := []          -- 24 × die + group
  ngroups  : Nat := 0
  commonsLo : Nat := 0
  commonsLen : Nat := 0
  resident : Word := 0
  root     : Word := 0
  creator  : Word := 0
  wakethread : Nat := 0
  slice    : Nat := 0
  queues   : List Nat := []          -- 1024 × die + 64 × engine + queue
  ports    : List Nat := []          -- 256 × die + port
  serdex   : List Nat := []
  wakers   : List (Nat × Nat) := []
  debug    : Bool := false
  pinned   : Bool := false
  wclass   : Nat := 0
  hostAccess : Bool := false
  record   : Word := 0
  mode     : VdMode := .active
  idle     : Nat := 0
  idleC    : Nat := 0                       -- cycles for which the device has been idle
  counter  : Word := 0
  xpred    : BitVec 32 := 0
  xptab    : Word := 0
  learned  : List Learned := []
  observed : List (Nat × Nat × Nat) := []   -- batch, layer, expert
  wakePend : Bool := false
  wakeAt   : Nat := 0
  missed   : Bool := false
  sleepers : List (Nat × Reg) := []         -- threads waiting in VDSLEEP
  shelf    : List SavedShelf := []
  threads  : List (Nat × ThreadState) := []
  images   : List Nat := []
  launchQs : List (Nat × LaunchQ) := []     -- queues unmapped by a collapse or a slice end, by cluster index
  parked   : Bool := false                  -- its regions and threads are saved
  sliceAt  : Nat := 0
  sliceEnd : Bool := false                  -- a wake ends the slice at once (R349)
deriving DecidableEq, Repr, Inhabited

/-- A token in flight (R102): its emitter, which fixes the order of delivery, and the region it travels in. -/
structure Flight where
  src : Nat
  r   : Nat
  tok : Token
  past : Past := []
deriving DecidableEq, Repr, Inhabited

/-- A window-base token on the control path (R50, R146). -/
structure CtlMsg where
  r    : Nat
  elem : Nat
  ctx  : BitVec 8
  base : BitVec 16
deriving DecidableEq, Repr, Inhabited

/-- A saved context image (R334): where it was written, what it holds. -/
structure SavedImage where
  id      : Nat
  vd      : Nat
  area    : Word
  len     : Nat
  region  : RegionState
  rid     : Nat
  elems   : List (Nat × ElemState)       -- by element address
  units   : List (Nat × UnitState)
  accs    : List (Nat × Sparse AccState) -- by core index
  bytes   : List Host.Cell               -- key: 2^48 × (5 × core index + buffer) + offset
  journal : List (Nat × JEntry)          -- with the cluster whose shelf holds the tile
  watches : List Watch
  salloc  : List (Nat × SReq)
  marks   : List Nat                     -- poisoned lines, by the keys of `bytes`
  words   : List Nat                     -- poisoned words of C-buffers, by the keys of `bytes`
  issue   : List (Nat × MxCmd)           -- matrix instructions, by core index
  pool    : List (Nat × MxCmd)
  net     : List Flight
  ctl     : List CtlMsg
  shelf   : List SavedShelf := []        -- the clusters of a partition that migrate with the region (R378)
deriving DecidableEq, Repr, Inhabited

/-! ## Fabric (R358 to R379) -/

/-- A Serdex port: its link (R359 to R361) and its stream port (R369). -/
structure SerdexState where
  up      : Bool := false
  nbr     : Nat := 0
  retries : Nat := 0
  rx      : List Flit := []                             -- flits received and not forwarded yet, of every lane
  stopTx  : List Bool := [false, false, false, false]   -- lanes the far end has stopped
  stopRx  : List Bool := [false, false, false, false]   -- lanes this end has stopped
  fifo    : List PortTok := []
  bind    : Option Word := none
deriving DecidableEq, Repr, Inhabited

/-- A span (R363): `submitted` lists the members whose record has been given. -/
structure Span where
  num     : Nat
  id      : Word
  edge    : Bool
  members : List SpanMember
  submitted : List Nat
  active  : Bool
  left    : List Nat
deriving DecidableEq, Repr, Inhabited

/-- A reduction window (R371). -/
structure Window where
  num     : Nat
  span    : Nat
  vd      : Nat
  base    : Word
  len     : Nat
  terms   : Nat
  fmt     : Nat
  dbl     : Bool
  intAdd  : Bool
  home    : Nat
  handler : Word
  closing : Bool
deriving DecidableEq, Repr, Inhabited

/-- An open reduction at the home port (R373): the nodes it keeps, with their sources. -/
structure HomeRed where
  win   : Nat
  addr  : Word
  nodes : List RedNode
deriving DecidableEq, Repr, Inhabited

/-- A diverted value (R375): a kind-4 token's contents, with the sources whose acknowledgements are withheld. -/
structure Diverted where
  win  : Nat
  addr : Word
  tok  : Token
  val  : Word
  srcs : List RedSrc
deriving DecidableEq, Repr, Inhabited

/-- A contribution that this package keeps until its acknowledgement (R372), under a number of its own, with the switch that it
takes. -/
structure Retained where
  id    : Nat
  sw    : Nat
  win   : Nat
  addr  : Word
  x     : Nat
  val   : Word
  msg   : RedMsg
  acked : Option Word
  retx  : Bool
  sync  : List Release := []   -- what the acknowledgement releases (R384)
  vd    : Nat := 0
deriving DecidableEq, Repr, Inhabited

/-- A node under way to the home port, or held in a switch of the pod (0 to 31) or a leaf of the second tier (32 to 95). -/
structure SwNode where
  sw   : Nat
  node : RedNode
  home : Bool
deriving DecidableEq, Repr, Inhabited

/-- A member of a gang launch (R376). -/
structure GangMember where
  pkg    : Nat
  cluster : Nat
  pod    : Nat
  spare  : Option (Nat × Nat)
  desc   : Word
  task   : Word
  image  : Word
  prep   : Option Bool
  go     : Bool
  status : Nat
  region : Option Nat
deriving DecidableEq, Repr, Inhabited

/-- The phases of a gang launch (R377). -/
inductive GangPhase where
  | prepare | go | done | aborted
deriving DecidableEq, Repr, Inhabited

/-- A gang (R376, R377, R379). -/
structure Gang where
  vd      : Nat
  record  : Word
  bound   : Nat
  handler : Word
  members : List GangMember
  phase   : GangPhase
  thread  : Option Nat
  since   : Nat            -- when its bound began
  loose   : Bool := false  -- a member has left the span: no relaunch (R365)
deriving DecidableEq, Repr, Inhabited

/-- A member of a gang that another package leads (R377): the leader's package, device and gang number, the device here, its
region and its task. -/
structure Hosted where
  pod    : Nat
  pkg    : Nat
  lead   : Nat
  gang   : Nat
  vd     : Nat
  region : Option Nat
  task   : Word
deriving DecidableEq, Repr, Inhabited

/-! ## Debugger (R32 to R35, R246, R248, R305, R309, R340) -/

/-- A stop that `ifepel` reports: its kind as printed, the region or thread, element address, slot, tag, cycle, and the
record of an event stop. -/
structure Stop where
  kind : String
  r    : Option Nat
  t    : Option Nat
  a    : Nat
  slot : Nat
  tag  : BitVec 24
  cycle : Nat
  ev   : Option (BitVec 256)
deriving DecidableEq, Repr, Inhabited

/-- A record held from its endpoint (R340), with the cluster that delivers it; `frozen` says that the freeze of its region has been
reported. -/
structure Held where
  endpoint : Word
  ev     : BitVec 256
  vd     : Nat
  cluster : Nat
  r      : Option Nat
  frozen : Bool
deriving DecidableEq, Repr, Inhabited

/-- The debugger (R32): attached device, breakpoints by number, pending stops, held fault records, what it printed,
loaded images with their devices, the latest event that a stop reported, the region that steps with the firings left, the
debug thread (R305): instructions left, stopped, the pc at which a resumed thread does not stop again, the pc that a trap
shows, the registers still to be printed, the register that a stepped WAITGE writes with pc and level of its thread; whether a
command waits for a stop, and tasks that `run` has still to publish. -/
structure Debugger where
  vd      : Option Nat := none
  breaks  : Sparse Brk := []
  nextB   : Nat := 1
  stops   : List Stop := []
  hold    : List Held := []
  console : List String := []
  images  : List (Nat × Image) := []
  latest  : Option (BitVec 256) := none
  steps   : Option (Nat × Nat) := none
  tSteps  : Option Nat := none
  tStop   : Bool := false
  tSkip   : Option Word := none
  tPc     : Option Word := none
  tRegs   : List Reg := []
  tWait   : Option (Reg × Word × BitVec 2 × Bool) := none
  wait    : Bool := false
  todo    : List Word := []
deriving DecidableEq, Repr, Inhabited

/-! ## Package -/

/-- Where boot stands (R354). -/
inductive BootStage where
  | rom | mgmt | pkg | bextex | running | minimal
deriving DecidableEq, Repr, Inhabited

/-- A record that no endpoint takes: to the supervisor of a device or to the management core (R258, R326). -/
structure Notice where
  vd  : Option Nat
  ev  : BitVec 256
deriving DecidableEq, Repr, Inhabited

/-- An attestation report (R356): what it covers. -/
structure Report where
  nonce   : BitVec 256
  stages  : List (BitVec 256)
  version : Nat
  vds     : List (BitVec 256)
  sig     : BitVec 256
deriving DecidableEq, Repr, Inhabited

/-- The thread that is issuing and the word it fetched (0 for a fetch that failed). -/
structure Cur where
  t    : Nat := 0
  word : BitVec 32 := 0
deriving DecidableEq, Repr, Inhabited

/-- The firing that is being performed: region, element, slot, and the matched operand set (R96): the entries by
port, the latches by port, the tag, sequence and last bit of R98. -/
structure Site where
  r    : Nat := 0
  a    : Nat := 0
  slot : Nat := 0
  tag  : BitVec 24 := 0
  seq  : BitVec 4 := 0
  last : Bool := false
  ents : List (Nat × MsEntry) := []
  lats : List (Nat × Latch) := []
deriving DecidableEq, Repr, Inhabited

/-- The whole machine. `turn`, `clock` (cycles), `free`, `site` and `cur` are
the model's own fields (log 1, log 4). -/
structure State where
  turn     : Turn := .thread 0
  clock    : Nat := 0
  free     : Nat := 0
  cur      : Cur := {}
  site     : Site := {}
  mem      : List Host.Cell := []
  poison   : List Nat := []        -- poisoned 64-byte lines (R179, R311): physical address / 64
  poisonW  : List Nat := []        -- poisoned words of C-buffers (R179): physical address / 4
  unseen   : List Unseen := []     -- writes that some agents need not see yet, the newest first (R385, R388)
  threads  : Sparse ThreadState := []
  elems    : Sparse ElemState := []     -- key 65536 × region + element address
  units    : Sparse UnitState := []     -- key 128 × core + element index
  cores    : Sparse CoreState := []
  clusters : Sparse ClusterState := []
  regions  : Sparse RegionState := []   -- key 64 × cluster + place
  homes    : List TaskHome := []
  decrs    : List Decr := []
  net      : List Flight := []
  ctl      : List CtlMsg := []
  queues   : Sparse QueueState := []
  ports    : Sparse PortState := []
  vds      : Sparse VdState := []
  groups   : Sparse Nat := []           -- owner + 1 of channel group 24 × die + group (R310)
  tlb      : List (Nat × Nat × Word × Nat × Nat) := []   -- die, device, virtual page, entry, level (R315)
  wakeBuf  : List (Nat × WakeEntry) := []
  images   : List SavedImage := []
  imageId  : Nat := 0
  boot     : BootStage := .rom
  bootLog  : List (BitVec 256) := []
  update   : Option (BitVec 256) := none   -- the firmware update that minimal mode has loaded (R354)
  fails    : Nat := 0
  causes   : List (BitVec 8) := [0, 0, 0]
  throttle : Bool := false
  notices  : List Notice := []
  reports  : List Report := []
  serdex   : Sparse SerdexState := []
  spans    : List Span := []
  windows  : List Window := []
  homeReds : List HomeRed := []
  repair   : List Diverted := []
  nodes    : List SwNode := []
  retained : List Retained := []
  redId    : Nat := 0                   -- how many contributions this package has made
  finished : List (Nat × Nat) := []     -- the sources whose reduction is complete: package and number (R374)
  remote   : List RemoteReq := []
  answers  : List Answer := []          -- the replies that this package has sent
  failed   : List Nat := []             -- packages that have failed: 256 × pod + package (R367)
  downSw   : List Nat := []
  gangs    : List Gang := []
  hosted   : List Hosted := []
  dbg      : Debugger := {}
deriving DecidableEq, Repr, Inhabited

/-- Why the machine stops. Raised only by the steps of the table that name a unit; no instruction of a program
raises it. Safe: a claim about a run with such a step says less, never something false. -/
inductive Fault where
  /-- Raised by a step that names a unit the package does not have (R2). Safe. -/
  | noSuchUnit
deriving DecidableEq, Repr, Inhabited

/-- Why a step has no meaning. -/
inductive Refusal where
  /-- Raised by `exec`'s arm of an instruction that has no meaning yet, by its mnemonic. Safe. -/
  | notModelled (mnemonic : String)
deriving DecidableEq, Repr, Inhabited

/-- The machine right after reset (R354: a cold reset). Every field holds the value the spec gives, or the value
that INVENTORY.md and logs 1 to 3 name: the defaults above. -/
def State.reset : State := {}

end Sys2Proof.Machine
end

