-- ==== Sys2Proof/Machine/Sparse.lean ====
section
/-! DEFINITION. Sparse tables (keys strictly rising), the one memory in its canonical form, and small list helpers. -/
namespace Sys2Proof

variable {α : Type}

/-- The entry at a key. -/
def Sparse.entry? : Sparse α → Nat → Option α
  | [], _ => none
  | (k', v) :: r, k => if k' = k then some v else Sparse.entry? r k

/-- The entry at a key, or the value that an unlisted key reads as. -/
def Sparse.atD (t : Sparse α) (k : Nat) (d : α) : α := (Sparse.entry? t k).getD d

/-- Replace or insert, keeping the keys rising. -/
def Sparse.put : Sparse α → Nat → α → Sparse α
  | [], k, v => [(k, v)]
  | (k', v') :: r, k, v =>
    if k < k' then (k, v) :: (k', v') :: r
    else if k = k' then (k, v) :: r
    else (k', v') :: Sparse.put r k v

/-- Remove a key. -/
def Sparse.del : Sparse α → Nat → Sparse α
  | [], _ => []
  | (k', v') :: r, k => if k' = k then Sparse.del r k else (k', v') :: Sparse.del r k

/-- Change the entry at a key. -/
def Sparse.upd (t : Sparse α) (k : Nat) (d : α) (f : α → α) : Sparse α := Sparse.put t k (f (Sparse.atD t k d))

end Sys2Proof

namespace Sys2Proof.Machine

/-- The memory's canonical form: addresses strictly rising and no entry equal to what an unlisted address reads as. -/
def Memory.wfFrom : Option Nat → List Host.Cell → Bool
  | _, [] => true
  | lo, (a, b) :: r => (match lo with | none => true | some l => decide (l < a)) && (b != 0) && Memory.wfFrom (some a) r

/-- The canonical form of a memory. -/
def Memory.wf (m : List Host.Cell) : Bool := Memory.wfFrom none m

/-- What an address that nothing has written reads as (log 3: DESIGN CHOICE). -/
def Memory.unlisted : Byte := 0

/-- Read one byte. -/
def Memory.read : List Host.Cell → Nat → Byte
  | [], _ => Memory.unlisted
  | (a', b) :: r, a => if a' = a then b else if a < a' then Memory.unlisted else Memory.read r a

/-- Write one byte, keeping the canonical form. -/
def Memory.write : List Host.Cell → Nat → Byte → List Host.Cell
  | [], a, b => if b = 0 then [] else [(a, b)]
  | (a', b') :: r, a, b =>
    if a < a' then (if b = 0 then (a', b') :: r else (a, b) :: (a', b') :: r)
    else if a = a' then (if b = 0 then r else (a, b) :: r)
    else (a', b') :: Memory.write r a b

/-- Read `n` bytes from `a` on as a little-endian number (R36). -/
def Memory.readN (m : List Host.Cell) (a : Nat) : Nat → Nat
  | 0 => 0
  | n + 1 => (Memory.read m a).toNat + 256 * Memory.readN m (a + 1) n

/-- Write `n` bytes of a number, little-endian (R36). -/
def Memory.writeN (m : List Host.Cell) (a : Nat) : Nat → Nat → List Host.Cell
  | 0, _ => m
  | n + 1, v => Memory.writeN (Memory.write m a (BitVec.ofNat 8 v)) (a + 1) n (v / 256)

/-- Write a list of bytes. -/
def Memory.writeL (m : List Host.Cell) (a : Nat) : List Byte → List Host.Cell
  | [] => m
  | b :: r => Memory.writeL (Memory.write m a b) (a + 1) r

/-- Read `n` bytes as a list. -/
def Memory.readL (m : List Host.Cell) (a : Nat) : Nat → List Byte
  | 0 => []
  | n + 1 => Memory.read m a :: Memory.readL m (a + 1) n

/-- Bits [hi:lo] of a number. -/
def bitsOf (v hi lo : Nat) : Nat := v / 2 ^ lo % 2 ^ (hi + 1 - lo)

/-- Bit `i` of a number. -/
def bitOf (v i : Nat) : Bool := v / 2 ^ i % 2 == 1

/-- Insert into a rising list without repeats. -/
def insertNat (x : Nat) : List Nat → List Nat
  | [] => [x]
  | y :: r => if x < y then x :: y :: r else if x = y then y :: r else y :: insertNat x r

/-- Replace the first element that satisfies `p`. -/
def replaceFirst {α : Type} (p : α → Bool) (f : α → α) : List α → List α
  | [] => []
  | x :: r => if p x then f x :: r else x :: replaceFirst p f r

/-- Remove the first element that satisfies `p`. -/
def removeFirst {α : Type} (p : α → Bool) : List α → List α
  | [] => []
  | x :: r => if p x then r else x :: removeFirst p r

/-- Remove the element at an index. -/
def removeAt {α : Type} : List α → Nat → List α
  | [], _ => []
  | _ :: r, 0 => r
  | x :: r, n + 1 => x :: removeAt r n

/-- Change the element at an index. -/
def modifyAt {α : Type} (f : α → α) : List α → Nat → List α
  | [], _ => []
  | x :: r, 0 => f x :: r
  | x :: r, n + 1 => x :: modifyAt f r n

end Sys2Proof.Machine
end

