-- ==== Sys2Proof/Machine/Space.lean ====
section
/-! DEFINITION. Fault codes (R64), physical spaces, access to the parts of State, the page-table walk (R312 to R315)
and generic addresses (R164, R165, R341). -/
namespace Sys2Proof.Machine

/-! ## Fault and event codes (R64) -/

def fcIllegal : Nat := 0x01
def fcSlotEmpty : Nat := 0x02
def fcMalformed : Nat := 0x03
def fcPrivilege : Nat := 0x04
def fcMisaligned : Nat := 0x05
def fcPageFault : Nat := 0x06
def fcAccessFault : Nat := 0x07
def fcPoison : Nat := 0x08
def fcStoreSpill : Nat := 0x09
def fcTagOverflow : Nat := 0x0A
def fcStreamOrder : Nat := 0x0B
def fcShelfOverRead : Nat := 0x0C
def fcShelfUnderRead : Nat := 0x0D
def fcShelfAbandoned : Nat := 0x0E
def fcShelfStarved : Nat := 0x0F
def fcUncorrectable : Nat := 0x10
def fcConfigEcc : Nat := 0x11
def fcConfigAborted : Nat := 0x12
def fcRankCycle : Nat := 0x13
def fcWatchdog : Nat := 0x14
def fcThrottleStarve : Nat := 0x15
def fcQueueDeferred : Nat := 0x16
def fcDoubleResolve : Nat := 0x17
def fcGangAbort : Nat := 0x18
def fcReductionDiverted : Nat := 0x19
def fcWakeMiss : Nat := 0x1A
def fcVdDormant : Nat := 0x1B
def fcChainKind : Nat := 0x1C
def fcChainOwnership : Nat := 0x1D
def fcBootFail : Nat := 0x1F

/-! ## Parts of State -/

def State.thread (s : State) (t : Nat) : ThreadState := Sparse.atD s.threads t {}
def State.setThread (s : State) (t : Nat) (x : ThreadState) : State := { s with threads := Sparse.put s.threads t x }
def State.updThread (s : State) (t : Nat) (f : ThreadState → ThreadState) : State := s.setThread t (f (s.thread t))
def State.core (s : State) (c : Nat) : CoreState := Sparse.atD s.cores c {}
/-- A core's cycle counter (R13, R35). -/
def State.coreClock (s : State) (c : Nat) : Nat := s.clock + (s.core c).cycle0
def State.updCore (s : State) (c : Nat) (f : CoreState → CoreState) : State :=
  { s with cores := Sparse.put s.cores c (f (s.core c)) }
def State.cluster (s : State) (c : Nat) : ClusterState := Sparse.atD s.clusters c {}
/-- A cluster's cycle counter (R13, R35). -/
def State.clusterClock (s : State) (c : Nat) : Nat := s.clock + (s.cluster c).cycle0
def State.updCluster (s : State) (c : Nat) (f : ClusterState → ClusterState) : State :=
  { s with clusters := Sparse.put s.clusters c (f (s.cluster c)) }
def State.region (s : State) (r : Nat) : RegionState := Sparse.atD s.regions r {}
def State.updRegion (s : State) (r : Nat) (f : RegionState → RegionState) : State :=
  { s with regions := Sparse.put s.regions r (f (s.region r)) }
def State.vd (s : State) (v : Nat) : VdState := Sparse.atD s.vds v {}
def State.updVd (s : State) (v : Nat) (f : VdState → VdState) : State :=
  { s with vds := Sparse.put s.vds v (f (s.vd v)) }
def State.queue (s : State) (q : Nat) : QueueState := Sparse.atD s.queues q {}
def State.updQueue (s : State) (q : Nat) (f : QueueState → QueueState) : State :=
  { s with queues := Sparse.put s.queues q (f (s.queue q)) }
def State.port (s : State) (p : Nat) : PortState := Sparse.atD s.ports p {}
def State.updPort (s : State) (p : Nat) (f : PortState → PortState) : State :=
  { s with ports := Sparse.put s.ports p (f (s.port p)) }
def State.serdexPort (s : State) (p : Nat) : SerdexState := Sparse.atD s.serdex p {}
def State.updSerdex (s : State) (p : Nat) (f : SerdexState → SerdexState) : State :=
  { s with serdex := Sparse.put s.serdex p (f (s.serdexPort p)) }
/-- Element `a` (an element address, R41) of region `r`. -/
def State.elem (s : State) (r a : Nat) : ElemState := Sparse.atD s.elems (65536 * r + a) {}
def State.updElem (s : State) (r a : Nat) (f : ElemState → ElemState) : State :=
  { s with elems := Sparse.put s.elems (65536 * r + a) (f (s.elem r a)) }
/-- The physical core of element address `a` of region `r` (R41). -/
def State.coreOf (s : State) (r a : Nat) : Nat := ((s.region r).cores[a / 128]?).getD 0
/-- Core `i` of another package in the list of a region's cores (R368): a number above those of this package. -/
def farCore (pkg i : Nat) : Nat := 1024 + 128 * pkg + i
def isFar (k : Nat) : Bool := decide (Config.coreCount ≤ k)
/-- The package of such a core. -/
def farPackage (k : Nat) : Nat := (k - 1024) / 128
/-- The cores of a region on this package, and whether it holds any on another. -/
def nearCores (x : RegionState) : List Nat := x.cores.filter fun k => !isFar k
def hasFar (x : RegionState) : Bool := x.cores.any isFar
/-- The unit on which element `a` of region `r` stands. -/
def State.unitKey (s : State) (r a : Nat) : Nat := 128 * s.coreOf r a + a % 128
def State.unit (s : State) (r a : Nat) : UnitState := Sparse.atD s.units (s.unitKey r a) {}
def State.updUnit (s : State) (r a : Nat) (f : UnitState → UnitState) : State :=
  { s with units := Sparse.put s.units (s.unitKey r a) (f (s.unit r a)) }

/-- The base that a generator sets (R145). -/
def genBase (g : LoopGen) : Nat := (g.live.foldl min (g.f + g.j)) % 65536

/-- The window bases that a region's generators set, by context: 0, unlisted, where none governs it (R100). -/
def State.genBases (s : State) (r : Nat) : Sparse (BitVec 16) :=
  (s.elems.filter fun p => p.1 / 65536 == r).foldl (fun t p => p.2.gens.foldl (fun t g =>
    if g.n == 0 || genBase g == 0 then t else Sparse.put t g.ctx.toNat (BitVec.ofNat 16 (genBase g))) t) []

/-- Every element of a region's cores takes the window bases of the region's generators (R100). -/
def State.rebase (s : State) (r : Nat) : State :=
  let b := s.genBases r
  let ks := nearCores (s.region r)
  let s := { s with units := s.units.map fun p => if ks.contains (p.1 / 128) then (p.1, { p.2 with winBase := b }) else p }
  if b.isEmpty then s
  else ks.foldl (fun s k => (List.range 96).foldl (fun s i =>
    { s with units := Sparse.upd s.units (128 * k + i) {} fun u => { u with winBase := b } }) s) s

/-- The number that stands for "no virtual device". -/
def noVd : Nat := Config.vdCount

/-- The live device that owns a cluster (R343). -/
def State.vdOfCluster (s : State) (c : Nat) : Nat :=
  ((s.vds.find? fun x => x.2.live && x.2.clusters.contains c).map (·.1)).getD noVd

def clusterOfThread (t : Nat) : Nat := t / 16
def dieOfCluster (c : Nat) : Nat := c / 2
def clusterOfCore (k : Nat) : Nat := k / Config.coresPerCluster
/-- The device of a thread: the one that owns its cluster. -/
def State.vdOfThread (s : State) (t : Nat) : Nat := s.vdOfCluster (clusterOfThread t)
/-- The device that holds a core. -/
def State.vdOfCore (s : State) (k : Nat) : Nat := s.vdOfCluster (clusterOfCore k)

/-! ## Physical spaces -/

/-- A physical address: the number of a space and an offset. -/
def pa (space off : Nat) : Nat := space * 2 ^ 48 + off
def paSpace (p : Nat) : Nat := p / 2 ^ 48
def paOff (p : Nat) : Nat := p % 2 ^ 48
/-- HBM of a die is its number; then the commons, and the storage of each core. -/
def spCommons : Nat := 2
def spScratch (core : Nat) : Nat := 16 + core
def spW (core : Nat) : Nat := 128 + core
def spA (core : Nat) : Nat := 256 + core
def spC (core : Nat) : Nat := 384 + core
def spScale (core : Nat) : Nat := 512 + core
def spRemote (pod pkg die : Nat) : Nat := 1024 + (pod * 256 + pkg) * 2 + die

/-- What an address resolves to: a physical address with its target (0 die HBM, 1 commons, 2 pod-remote, 3
scratchpad), or a fault code. -/
inductive AccRes where
  | ok (p target : Nat)
  | fault (code : Nat)
deriving DecidableEq, Repr, Inhabited

/-- Placement of CXL devices (R353): each at the first 2 MiB boundary after the previous one. -/
def cxlRanges : Nat → List Nat → List (Nat × Nat)
  | _, [] => []
  | lo, n :: r => (lo, lo + n) :: cxlRanges ((lo + n + 0x1FFFFF) / 0x200000 * 0x200000) r

/-- Whether an offset lies in a row of R341 that is backed, for a package with CXL devices of capacities `cxl`. -/
def rowOk (cxl : List Nat) (off : Nat) : Bool :=
  if off < Config.lpddr then true
  else if off < Config.hostWindow then (cxlRanges Config.lpddr cxl).any fun x => x.1 ≤ off && off < x.2
  else if off < Config.mgmtBase then true
  else
    let o := off - Config.mgmtBase
    o < 0x11000 || (0x20000 ≤ o && o < 0x24000) || (0x30000 ≤ o && o < 0x30010)

/-- Whether an offset lies in a row of this package's map. -/
def commonsOk (off : Nat) : Bool := rowOk Config.cxl off

/-- The active span that a device of this package is a member of (R363). -/
def State.spanOf (s : State) (vd : Nat) : Option Span :=
  s.spans.find? fun p => p.active && (List.range p.members.length).any fun i =>
    !p.left.contains i && (p.members[i]?).any fun m => m.pkg == Config.package && m.pod == Config.pod && m.vd == vd

/-- The index of a member. -/
def Span.indexOf (p : Span) (pod pkg vd : Nat) : Option Nat :=
  (List.range p.members.length).find? fun i =>
    !p.left.contains i && (p.members[i]?).any fun m => m.pkg == pkg && m.pod == pod && m.vd == vd

/-- Whether a span joins two devices of this package. -/
def State.spanShares (s : State) (v w : Nat) : Bool := (s.spanOf v).any fun p => (p.indexOf Config.pod Config.package w).isSome

/-- The live device of this package whose commons share holds an offset. -/
def State.sharedBy (s : State) (off : Nat) : Option Nat :=
  (s.vds.find? fun x => x.2.live && x.2.commonsLo ≤ off && off < x.2.commonsLo + x.2.commonsLen).map (·.1)

/-- Whether a device reaches an offset of the management aperture (R341, R343): the thread control blocks and notify words of its
own clusters; the block of another live device where it is a listed waker of it (log 112). -/
def State.apertureOwned (s : State) (vd off : Nat) : Bool :=
  let o := off - Config.mgmtBase
  if o < 0x10000 then
    let v := o / 64
    v == vd || !(s.vd v).live || (s.vd v).wakers.contains (Config.package, vd)
  else if o < 0x11000 then s.vdOfCluster ((o - 0x10000) / 1024) == vd
  else if 0x20000 ≤ o && o < 0x24000 then s.vdOfCluster ((o - 0x20000) / 4096) == vd
  else true

/-- Whether a physical offset belongs to the device (R310, R343), the target and package as its leaf names them. Through a
target-2 leaf that names this package a device reaches the shares of its span (R341, R363). -/
def State.owned (s : State) (vd target pod pkg die off : Nat) : Bool :=
  if target == 0 then Sparse.atD s.groups (24 * die + off / Config.groupBytes) 0 == vd + 1
  else if target == 1 || (pod == Config.pod && pkg == Config.package) then
    (match s.sharedBy off with
     | some v => v == vd || (target == 2 && s.spanShares vd v)
     | none => off < Config.mgmtBase || s.apertureOwned vd off)
  else true

/-- The place of a resolved target (R313, R341): a pod-remote page reaches the map of the package named, which is this package's
own where the leaf names it (log 7). -/
def placeOf (target pod pkg die off : Nat) : AccRes :=
  if target == 0 then (if off < Config.hbmDie then .ok (pa die off) 0 else .fault fcAccessFault)
  else if target == 1 then (if commonsOk off then .ok (pa spCommons off) 1 else .fault fcAccessFault)
  else if pod == Config.pod && pkg == Config.package then
    (if commonsOk off then .ok (pa spCommons off) 2 else .fault fcAccessFault)
  else if rowOk (Config.farCxl pod pkg) off then .ok (pa (spRemote pod pkg die) off) 2
  else .fault fcAccessFault

/-- The poison marks (R179, R311). -/
def State.poisoned (s : State) (p : Nat) : Bool := s.poison.contains (p / 64)
def State.poisonedWord (s : State) (p : Nat) : Bool := s.poisonW.contains (p / 4)

/-! ## The walk (R312 to R314) -/

/-- What an access does. -/
inductive Kind where
  | rd | wr | fetch
deriving DecidableEq, Repr, Inhabited

/-- A walk gives a leaf with its level, or a fault. -/
inductive WalkRes where
  | leaf (e lvl : Nat)
  | fault (code : Nat)
deriving DecidableEq, Repr, Inhabited

/-- Index of a virtual address at a level (R312). -/
def walkIndex (va lvl : Nat) : Nat :=
  match lvl with
  | 3 => bitsOf va 55 39 | 2 => bitsOf va 38 30 | 1 => bitsOf va 29 21 | _ => bitsOf va 20 12

/-- Bytes mapped by a leaf (R312). -/
def leafBytes (e lvl : Nat) : Nat :=
  match lvl with
  | 2 => 2 ^ 30 | 1 => 2 ^ 21 | _ => if bitOf e 6 then 2 ^ 16 else 2 ^ 12

/-- ReservedSet of R313, R314. -/
def pteReserved (e : Nat) : Bool :=
  bitOf e 53 || bitsOf e 11 7 != 0 || bitsOf e 63 62 == 3 ||
  (bitsOf e 63 62 != 2 && (bitsOf e 61 54 != 0 || bitsOf e 51 48 != 0)) || (bitsOf e 63 62 == 1 && bitOf e 52)

/-- The root word's form (R312). -/
def rootOk (w : Nat) : Bool :=
  bitOf w 0 && bitsOf w 11 1 == 0 && bitsOf w 51 48 == 0 && bitsOf w 61 53 == 0 && bitsOf w 63 62 ≤ 1 &&
  !(bitsOf w 63 62 == 1 && bitOf w 52)

/-- An 8-byte table entry at a physical place; a marked line is read as Poison (R64). -/
def State.readEntry (s : State) (target die off : Nat) : Nat ⊕ Nat :=
  match placeOf target Config.pod Config.package die off with
  | .ok p _ => if s.poisoned p then .inr fcPoison else .inl (Memory.readN s.mem p 8)
  | .fault c => .inr c

/-- The entry of a c64 group that the walk uses: any one of them where they differ (R314, a free choice). -/
def State.c64Pick (s : State) (target die base idx e : Nat) : Nat :=
  let es := (List.range 16).map fun k => s.readEntry target die (base + 8 * (idx / 16 * 16 + k))
  if es.all fun x => x == .inl e then e
  else match es[Config.choice s.free % 16]? with
    | some (.inl e') => e'
    | _ => e

/-- One level of the walk, `lvl` counting down. -/
def State.walkFrom (s : State) (va : Nat) : Nat → Nat → WalkRes
  | 0, t =>
    match s.readEntry (bitsOf t 63 62) (bitsOf t 52 52) (bitsOf t 47 12 * 4096 + 8 * walkIndex va 0) with
    | .inr c => .fault c
    | .inl e0 =>
      let e := if bitOf e0 6 then
          s.c64Pick (bitsOf t 63 62) (bitsOf t 52 52) (bitsOf t 47 12 * 4096) (walkIndex va 0) e0 else e0
      if !bitOf e 0 || pteReserved e || !bitOf e 1 || bitsOf e 47 12 * 4096 % leafBytes e 0 != 0 then
        .fault fcPageFault
      else .leaf e 0
  | lvl + 1, t =>
    match s.readEntry (bitsOf t 63 62) (bitsOf t 52 52) (bitsOf t 47 12 * 4096 + 8 * walkIndex va (lvl + 1)) with
    | .inr c => .fault c
    | .inl e =>
      if !bitOf e 0 || pteReserved e || bitOf e 6 then .fault fcPageFault
      else if bitOf e 1 then
        if lvl + 1 == 3 || bitsOf e 47 12 * 4096 % leafBytes e (lvl + 1) != 0 then .fault fcPageFault
        else .leaf e (lvl + 1)
      else if 1 < bitsOf e 63 62 then .fault fcPageFault
      else s.walkFrom va lvl e

/-- The walk of R314 from a device's root. -/
def State.walk (s : State) (vd va : Nat) : WalkRes :=
  let w := (s.vd vd).root.toNat
  if !(s.vd vd).live || !rootOk w then .fault fcPageFault else s.walkFrom va 3 w

/-- A cached leaf of the die's walkers that covers `va` (R315). -/
def State.cached (s : State) (die vd va : Nat) : Option (Nat × Nat) :=
  (s.tlb.find? fun x => x.1 == die && x.2.1 == vd && x.2.2.1.toNat == va / leafBytes x.2.2.2.1 x.2.2.2.2 *
    leafBytes x.2.2.2.1 x.2.2.2.2).map fun x => (x.2.2.2.1, x.2.2.2.2)

/-- The leaf that a translation uses: a cached one or the walk's, as the die chooses (R315). -/
def State.leafOf (s : State) (die vd va : Nat) : WalkRes :=
  match s.cached die vd va with
  | none => s.walk vd va
  | some (e, l) => if Config.tlbHit s.free then .leaf e l else s.walk vd va

/-- Permits (R313, R314). -/
def leafPermits (e : Nat) (k : Kind) (user : Bool) : Bool :=
  (!user || bitOf e 5) && (match k with | .rd => bitOf e 2 | .wr => bitOf e 3 | .fetch => bitOf e 4)

/-- The party that makes an access: its device, whether it is at user level (R313), its core, cluster and die, and
whether it is at machine level, which translates nothing (R276). -/
structure Who where
  vd      : Nat
  user    : Bool
  core    : Option Nat
  cluster : Nat
  machine : Bool
deriving DecidableEq, Repr, Inhabited

/-- A translated access (R314): the physical address or the fault. -/
def State.translate (s : State) (w : Who) (va : Nat) (k : Kind) : AccRes :=
  match s.leafOf (dieOfCluster w.cluster) w.vd va with
  | .fault c => .fault c
  | .leaf e l =>
    let n := leafBytes e l
    let off := bitsOf e 47 12 * 4096 + va % n
    if !leafPermits e k w.user then .fault fcAccessFault
    else if !s.owned w.vd (bitsOf e 63 62) (bitsOf e 51 48) (bitsOf e 61 54) (bitsOf e 52 52) off then .fault fcAccessFault
    else if bitsOf e 63 62 == 2 && bitsOf e 51 48 != Config.pod then .fault fcAccessFault
    else placeOf (bitsOf e 63 62) (bitsOf e 51 48) (bitsOf e 61 54) (bitsOf e 52 52) off

/-- Resolve a generic address (R164, R165, R284) for a party. -/
def State.resolve (s : State) (w : Who) (a : Word) (k : Kind) : AccRes :=
  let n := a.toNat
  let top := bitsOf n 63 56
  if top == 0 then
    if w.machine then placeOf 1 Config.pod Config.package 0 (bitsOf n 55 0) else s.translate w (bitsOf n 55 0) k
  else if top == 0xFC then
    match w.core with
    | some c => if bitsOf n 55 21 == 0 then .ok (pa (spScratch c) (bitsOf n 20 0)) 3 else .fault fcAccessFault
    | none => .fault fcAccessFault
  else if top == 0xFD then
    let c := bitsOf n 28 24
    if bitsOf n 55 29 != 0 || bitsOf n 23 21 != 0 || 24 ≤ c then .fault fcAccessFault
    else
      let core := 24 * w.cluster + c
      if s.vdOfCore core != w.vd then .fault fcAccessFault else .ok (pa (spScratch core) (bitsOf n 20 0)) 3
  else .fault fcAccessFault

/-- Fill the die's translation cache with the leaf of an access (R315): valid entries only. -/
def State.fillTlb (s : State) (w : Who) (a : Word) : State :=
  let va := bitsOf a.toNat 55 0
  if bitsOf a.toNat 63 56 != 0 || w.machine then s
  else match s.walk w.vd va with
    | .fault _ => s
    | .leaf e l =>
      let page := BitVec.ofNat 64 (va / leafBytes e l * leafBytes e l)
      let die := dieOfCluster w.cluster
      if s.tlb.any fun x => x.1 == die && x.2.1 == w.vd && x.2.2.1 == page then s
      else { s with tlb := (die, w.vd, page, e, l) :: s.tlb }

/-- The poison payload of a marked line (R180, R311). -/
def poisonPayload (p : Nat) : Word :=
  let sp := paSpace p
  let off := paOff p
  let line := off / 64 * 64
  let core := fun (base space : Nat) =>
    2 ^ 62 + space * 2 ^ 59 + ((sp - base) % Config.coresPerCluster) * 2 ^ 54
  BitVec.ofNat 64 <|
    if sp < 2 then sp * 2 ^ 48 + line
    else if sp == spCommons then 2 ^ 60 + line
    else if sp < 128 then core 16 0 + line
    else if sp < 256 then core 128 1 + line
    else if sp < 384 then core 256 2 + line
    else if sp < 512 then core 384 3 + off / 4 * 4
    else if sp < 1024 then core 512 4 + line
    else 2 * 2 ^ 60 + ((sp - 1024) / 2 % 256) * 2 ^ 52 + ((sp - 1024) % 2) * 2 ^ 48 + line

/-- Whether bytes overlap an entry of a core's range scoreboard (R170). -/
def State.scoreHit (s : State) (p n : Nat) : Bool :=
  s.cores.any fun c => c.2.scoreboard.any fun e => p < e.hi && e.lo < p + n

/-- The device of this package whose commons share holds a place, where its memory sleeps (R350). -/
def State.sleeper (s : State) (p : Nat) : Option Nat :=
  if paSpace p != spCommons then none
  else (s.sharedBy (paOff p)).bind fun v => if (s.vd v).mode == .dormant || (s.vd v).mode == .waking then some v else none

/-- Whether an address lies in the management aperture (R341), of this package or of another. -/
def isMgmt (p : Nat) : Bool := paSpace p == spCommons && Config.mgmtBase ≤ paOff p
def isFarMgmt (p : Nat) : Bool := 1024 ≤ paSpace p && Config.mgmtBase ≤ paOff p

/-- VDSTATE of a device (R345). -/
def vdMode (m : VdMode) : Nat :=
  match m with
  | .active => 0 | .collapsing => 1 | .dormant => 2 | .waking => 3

def State.vdstate (s : State) (v : Nat) : Nat :=
  let d := s.vd v
  vdMode d.mode + d.wclass * 2 ^ 4 + (if d.pinned then 2 ^ 6 else 0) + (if d.debug then 2 ^ 7 else 0) +
    v * 2 ^ 14 + d.idle * 2 ^ 24

/-- A byte of the management aperture or of memory: VD blocks are views (R346), the create, destroy and notify words
read as 0, everything else is the byte stored. -/
def State.readByte (s : State) (p : Nat) : Byte :=
  if isMgmt p then
    let o := paOff p - Config.mgmtBase
    if o < 0x10000 then
      let v := o / 64
      let b := o % 64
      if 8 ≤ b && b < 16 then BitVec.ofNat 8 ((s.vd v).counter.toNat / 256 ^ (b - 8))
      else if 16 ≤ b && b < 24 then BitVec.ofNat 8 (s.vdstate v / 256 ^ (b - 16))
      else 0
    else if o < 0x11000 then Memory.read s.mem p
    else 0
  else Memory.read s.mem p

/-- `n` bytes as a little-endian number. -/
def State.readNat (s : State) (p : Nat) : Nat → Nat
  | 0 => 0
  | n + 1 => (s.readByte p).toNat + 256 * s.readNat (p + 1) n

/-- Write the low `n` bytes of a value. A write of a whole 64-byte line clears its poison mark (R179). -/
def State.writeNat (s : State) (p n v : Nat) : State := { s with mem := Memory.writeN s.mem p n v }

/-- Clear the mark of a line. -/
def State.clearPoison (s : State) (p : Nat) : State := { s with poison := s.poison.filter fun l => l != p / 64 }
/-- Set the mark of a line. -/
def State.markPoison (s : State) (p : Nat) : State := { s with poison := insertNat (p / 64) s.poison }
/-- Set or clear the mark of a word of a C-buffer. -/
def State.markWord (s : State) (p : Nat) (on : Bool) : State :=
  { s with poisonW := if on then insertNat (p / 4) s.poisonW else s.poisonW.filter fun l => l != p / 4 }

/-- Whether two byte ranges overlap. -/
def overlap (a b : Nat × Nat) : Bool := a.1 < b.1 + b.2 && b.1 < a.1 + a.2

/-- The lines that `n` bytes cover whole. -/
def wholeLines (p n : Nat) : List Nat :=
  let lo := (p + 63) / 64
  (List.range ((p + n) / 64 - lo)).map fun i => lo + i

/-- Draw the next free value. -/
def State.draw (s : State) : State := { s with free := s.free + 1 }

end Sys2Proof.Machine
end

