-- ==== Sys2Proof/Machine/Order.lean ====
section
/-! DEFINITION. The memory model (R12, R382 to R395): agents and their scopes, what happens before what, which performed writes an
agent must see, release and acquire, and what a read returns. The home arbiter's order of the writes to a byte is the order in which
they are performed: `State.mem` holds the newest bytes, and `State.unseen` what older ones an agent may still read. -/
namespace Sys2Proof.Machine

/-! ## Agents and scopes (R382) -/

/-- The package of an agent, with its pod. -/
def Agent.package (x : Agent) : Nat × Nat :=
  match x with
  | .far pod pkg => (pod, pkg)
  | _ => (Config.pod, Config.package)

/-- The cluster of an agent: of its core, its thread, or the home cluster of its queue. A fabric home port has none. -/
def State.agentCluster (s : State) (x : Agent) : Option Nat :=
  match x with
  | .stream k _ _ | .element k _ | .core k => some (clusterOfCore k)
  | .thread t => some (clusterOfThread t)
  | .queue q => some (s.queue q).cluster
  | .arbiter c => some c
  | .port | .far _ _ => none

/-- The element of an agent, and its core: of a thread, a queue or a port, itself. -/
def Agent.elementOf (x : Agent) : Agent :=
  match x with
  | .stream k i _ => .element k i
  | y => y
def Agent.coreOf (x : Agent) : Agent :=
  match x with
  | .stream k _ _ | .element k _ => .core k
  | y => y

/-- Whether agent `x` is `p`, or stands for the agents of an element or a core of which `p` is one. -/
def Agent.covers (x p : Agent) : Bool := x == p || x == p.elementOf || x == p.coreOf

/-- Whether one of two agents is the other or stands for it. -/
def Agent.meets (x p : Agent) : Bool := x.covers p || p.covers x

/-- Whether two agents are of one cluster, or die. -/
def State.sameUnit (s : State) (f : Nat → Nat) (x p : Agent) : Bool :=
  match s.agentCluster x, s.agentCluster p with
  | some c, some d => f c == f d
  | _, _ => false

/-- Whether party `p` lies in scope `sc` of agent `x` (R382): 0 element, 1 core, 2 cluster, 3 die, 4 package, 5 pod. -/
def State.liesIn (s : State) (p : Agent) (sc : Nat) (x : Agent) : Bool :=
  match sc with
  | 0 => x.elementOf.meets p.elementOf
  | 1 => x.coreOf == p.coreOf
  | 2 => x == p || s.sameUnit id x p
  | 3 => x == p || s.sameUnit dieOfCluster x p
  | 4 => x.package == p.package
  | _ => x.package.1 == p.package.1

/-! ## What happens before (R383) -/

/-- The union of two pasts: of each agent the later time. -/
def joinPast (a b : Past) : Past :=
  b.foldl (fun l y => match l.find? fun z => z.1 == y.1 with
    | none => l ++ [y]
    | some z => if z.2 < y.2 then l.map fun w => if w.1 == y.1 then y else w else l) a

/-- Whether an agent performed a write, or it happens before what the agent does, by a time. -/
def Unseen.madeBy (h : Unseen) (p : Agent) (t : Nat) : Bool := h.who.meets p && decide (h.time ≤ t)
def Unseen.knownAt (h : Unseen) (p : Agent) (t : Nat) : Bool :=
  h.madeBy p t || h.seen.any fun y => y.1.meets p && decide (y.2 ≤ t)

/-- Whether a write happens before what an agent does next: its own, or one that it has learned of. -/
def Unseen.known (h : Unseen) (p : Agent) : Bool := h.who.meets p || h.seen.any fun y => y.1.meets p

/-- Whether a write lies in a past. -/
def Unseen.inPast (h : Unseen) (l : Past) : Bool := l.any fun y => h.knownAt y.1 y.2

/-- An agent learns of the writes of a past that a condition allows: they happen before what it does next. -/
def State.learnIf (s : State) (x : Agent) (l : Past) (f : Unseen → Bool) : State :=
  { s with unseen := s.unseen.map fun h =>
      if !(h.who.covers x || h.seen.any fun y => y.1.covers x) && h.inPast l && f h then { h with seen := (x, s.free) :: h.seen } else h }

/-- A token path ends in an access of an agent (R383, link 3). -/
def State.learn (s : State) (x : Agent) (l : Past) : State := if l.isEmpty then s else s.learnIf x l fun _ => true

/-! ## Reads (R385 to R388) -/

/-- The write performed at one more scope of an agent. -/
def Unseen.released (h : Unseen) (x : Agent) (sc : Nat) : Unseen :=
  if h.scopes.contains (x, sc) then h else { h with scopes := (x, sc) :: h.scopes }

/-- Whether an agent must see a write, or a later one: it happens before what the agent does (R385), it is of another stream of its
own element (R168), or it is performed at a scope in which the agent lies (R387). -/
def State.mustSee (s : State) (x : Agent) (h : Unseen) : Bool :=
  h.known x || h.who.elementOf == x.elementOf || h.scopes.any fun y => s.liesIn x y.2 y.1

/-- The performed writes to bytes that an agent need not see, the newest first. -/
def State.mayMiss (s : State) (x : Agent) (p n : Nat) : List Unseen :=
  s.unseen.filter fun h => overlap (h.p, h.n) (p, n) && !s.mustSee x h

/-- Byte `q` of what a write left, or of what it overwrote. -/
def Unseen.byte (h : Unseen) (v q : Nat) : Nat := v / 2 ^ (8 * (q - h.p)) % 256

/-- Byte `q` as an agent reads it, with the write it reads, from the notes, the newest first: `v` is what the newer writes leave, and
the bits of `k`, by the number of a note, say which of the writes that the agent need not see it misses. A byte that no longer
holds what its newest note left has been written since by no agent of the model, and is read. -/
def State.readOne (s : State) (x : Agent) (q k : Nat) : List Unseen → Nat → Nat × Option Unseen
  | [], v => (v, none)
  | h :: l, v =>
    if q < h.p || h.p + h.n ≤ q then s.readOne x q k l v
    else if h.byte h.new q != v then (v, none)
    else if s.mustSee x h || !k.testBit l.length then (v, some h)
    else s.readOne x q k l (h.byte h.old q)

/-- A byte as an agent reads it (R385, R388). Which of the writes that it need not see it misses is free; a write is missed whole,
by all reads of the step (R386). -/
def State.seenByte (s : State) (x : Agent) (q : Nat) : Nat × Option Unseen :=
  s.readOne x q (Config.choice s.free) s.unseen (s.readByte q).toNat

/-- What an agent reads at a place: the newest bytes, but for the writes that it misses. -/
def State.seenNat (s : State) (x : Agent) (p n : Nat) : Nat :=
  if (s.mayMiss x p n).isEmpty then s.readNat p n
  else (List.range n).foldr (fun i v => (s.seenByte x (p + i)).1 + 256 * v) 0

/-- The releases whose value such a read returns (R384). -/
def State.seenSync (s : State) (x : Agent) (p n : Nat) : List Release :=
  ((List.range n).flatMap fun i => match (s.seenByte x (p + i)).2 with
    | some h => h.sync
    | none => []).eraseDups

/-! ## Writes, releases and acquires (R188, R384) -/

/-- A release by an agent at a scope, of everything in its past. -/
def State.releaseOf (s : State) (x : Agent) (l : Past) (sc : Nat) : Release := { past := joinPast [(x, s.free)] l, who := x, scope := sc }

/-- What a release performs (R188, R287): the agent's own writes, and those on the token path that leads to it, are performed at the
scope. -/
def State.releaseAt (s : State) (x : Agent) (l : Past) (sc : Nat) : State :=
  { s with unseen := s.unseen.map fun h => if h.who.meets x || l.any (fun y => h.madeBy y.1 y.2) then h.released x sc else h }

/-- The release fences that come before an agent's next write: a write after one carries its release (DEDUCED, log 117). -/
def State.fencesOf (s : State) (x : Agent) : List Release := (s.unseen.filter fun h => h.n == 0 && h.who.meets x).flatMap (·.sync)

/-- A write by an agent at a scope is noted, with what it overwrites and the releases that a reader of its value synchronises
with. -/
def State.noteWrite (s : State) (x : Agent) (sc p n v : Nat) (rel : List Release) : State :=
  { s with unseen := { p := p, n := n, old := s.readNat p n, new := v, who := x, time := s.free, scopes := [(x, sc)], seen := [],
                       sync := rel ++ s.fencesOf x, reads := [] } :: s.unseen }

/-- Write `n` bytes of memory; marks of lines written whole clear (R179). -/
def State.memWrite (s : State) (p n v : Nat) : State :=
  let ls := wholeLines p n
  let s := s.writeNat p n v
  if ls.isEmpty then s else { s with poison := s.poison.filter fun l => !ls.contains l }

/-- A write by an agent at a scope, with the releases that it carries (R385). -/
def State.storeBy (s : State) (x : Agent) (sc p n v : Nat) (rel : List Release := []) : State :=
  (s.noteWrite x sc p n (v % 256 ^ n) rel).memWrite p n v

/-- The releases that stand behind the newest value at a place: an atomic read-modify-write carries them on (R384). -/
def State.carried (s : State) (p n : Nat) : List Release :=
  ((s.unseen.find? fun h => overlap (h.p, h.n) (p, n)).map (·.sync)).getD []

/-- An acquire by an agent at a scope of releases whose values it has read (R384): where the release's scope holds the agent and its
own holds the releaser, it learns of what the release released. -/
def State.acquireFrom (s : State) (x : Agent) (sc : Nat) (rel : List Release) : State :=
  (rel.filter fun y => s.liesIn x y.scope y.who && s.liesIn y.who sc x).foldl (fun s y => s.learn x y.past) s

/-- A read by an agent of the value of a release is noted, for a fence that comes after it. -/
def State.noteRead (s : State) (x : Agent) (p n : Nat) : State :=
  let rel := s.seenSync x p n
  if rel.isEmpty then s
  else { s with unseen := s.unseen.map fun h =>
    if h.n != 0 && h.sync.any rel.contains && !h.reads.contains x then { h with reads := x :: h.reads } else h }

/-- A read by an agent with acquire order at a scope: it acquires what its value releases. -/
def State.acquireAt (s : State) (x : Agent) (sc p n : Nat) : State := s.acquireFrom x sc (s.seenSync x p n)

/-- The releases whose values an agent has read so far. -/
def State.readBy (s : State) (x : Agent) : List Release :=
  ((s.unseen.filter fun h => h.reads.any fun y => y.meets x).flatMap (·.sync)).eraseDups

/-- A fence of an agent at a scope, by its order (R195, R287): a release performs what comes before and stands for the later writes;
an acquire takes what the earlier reads have read. -/
def State.fenceAt (s : State) (ord : Nat) (x : Agent) (l : Past) (sc : Nat) : State :=
  let s := if 2 ≤ ord then
      (let t := s.releaseAt x l sc
       { t with unseen := { p := 0, n := 0, old := 0, new := 0, who := x, time := s.free, scopes := [], seen := [],
                            sync := [s.releaseOf x l sc], reads := [] } ::
                          t.unseen.filter fun h => !(h.n == 0 && h.who == x && h.sync.all fun y => y.scope == sc) })
    else s
  if ord % 2 == 1 then s.acquireFrom x sc (s.readBy x) else s

/-- The release that an access makes by its order (2 release, 3 both), and what it performs. -/
def State.releasesOf (s : State) (ord : Nat) (x : Agent) (l : Past) (sc : Nat) : List Release :=
  if 2 ≤ ord then [s.releaseOf x l sc] else []
def State.releaseIf (s : State) (ord : Nat) (x : Agent) (l : Past) (sc : Nat) : State := if 2 ≤ ord then s.releaseAt x l sc else s

/-! ## The agents of a region -/

/-- The agent of stream `x` of element `a` of region `r` (a slot, or 32 and the number of a context), and of the element. -/
def State.streamAgent (s : State) (r a x : Nat) : Agent := .stream (s.coreOf r a) (a % 128) x
def State.elemAgent (s : State) (r a : Nat) : Agent := .element (s.coreOf r a) (a % 128)

/-- The past of what an agent's access gives: a token path that leaves it. -/
def State.pastOf (s : State) (x : Agent) (l : Past) : Past := joinPast [(x, s.free)] l

/-- The past of everything that a region's elements have done. -/
def State.regionPast (s : State) (r : Nat) : Past :=
  (nearCores (s.region r)).foldl (fun l k => joinPast l [(.core k, s.free)]) (s.region r).past

/-- Whether a write is one of a core's elements, or known to one. -/
def Unseen.ofCores (h : Unseen) (ks : List Nat) : Bool :=
  ks.any fun k => h.who.coreOf == .core k || h.seen.any fun y => y.1.coreOf == .core k

/-- The past that the readiness of a region's task gives its first token: what the releases behind it released, where their scopes
hold the region's cores (R259, R384, R390). Readiness acquires at pod scope. -/
def State.readyPast (s : State) (r : Nat) (rel : List Release) : Past :=
  let xs := (nearCores (s.region r)).map Agent.core
  (rel.filter fun y => xs.any fun x => s.liesIn x y.scope y.who && s.liesIn y.who 5 x).foldl (fun l y => joinPast l y.past) []

/-- The retirement of a region's task, or an act in its name, releases at a scope everything its elements have done (R259). -/
def State.regionRelease (s : State) (r sc : Nat) : State × List Release :=
  match nearCores (s.region r) with
  | [] => (s, [])
  | k :: _ => (s.releaseAt (.core k) (s.regionPast r) sc, [s.releaseOf (.core k) (s.regionPast r) sc])

/-- Writes that every agent sees from now on: those to places that a condition names, and those of agents that move (log 117). -/
def State.settleWrites (s : State) (f : Unseen → Bool) : State := { s with unseen := s.unseen.filter fun h => !f h }

end Sys2Proof.Machine
end

