-- ==== Sys2Proof/Machine/Events.lean ====
section
/-! DEFINITION. Tokens as bits (R37), event records (R65), their delivery to handler endpoints (R325, R326), and
what `ifepel` notes of them (R32, R340). -/
namespace Sys2Proof.Machine

/-- A token's 128 bits (R37). -/
def tokBits (t : Token) : Nat :=
  t.payload.toNat + 2 ^ 64 * (t.iter.toNat + 2 ^ 16 * (t.ctx.toNat + 2 ^ 8 * (t.seq.toNat + 2 ^ 4 *
    (t.chan.toNat + 2 ^ 5 * (t.slot.toNat + 2 ^ 5 * (t.port.toNat + 2 ^ 2 * (t.dest.toNat + 2 ^ 16 *
      (t.kind.toNat + 2 ^ 4 * ((if t.last then 1 else 0) + 2 * ((if t.net then 1 else 0) + 2 * t.rsv.toNat))))))))))

/-- A token from its 128 bits (R36, R37). -/
def tokOfBits (n : Nat) : Token :=
  { payload := BitVec.ofNat 64 n, iter := BitVec.ofNat 16 (n / 2 ^ 64), ctx := BitVec.ofNat 8 (n / 2 ^ 80),
    seq := BitVec.ofNat 4 (n / 2 ^ 88), chan := BitVec.ofNat 5 (n / 2 ^ 92), slot := BitVec.ofNat 5 (n / 2 ^ 97),
    port := BitVec.ofNat 2 (n / 2 ^ 102), dest := BitVec.ofNat 16 (n / 2 ^ 104), kind := BitVec.ofNat 4 (n / 2 ^ 120),
    last := bitOf n 124, net := bitOf n 125, rsv := BitVec.ofNat 2 (n / 2 ^ 126) }

/-- The tag of a token (R39): iteration in [15:0], context in [23:16]. -/
def tokTag (t : Token) : BitVec 24 := t.ctx ++ t.iter

/-- A 24-bit tag from a context and an iteration. -/
def mkTag (ctx iter : Nat) : BitVec 24 := BitVec.ofNat 24 (ctx % 256 * 65536 + iter % 65536)
def tagCtx (g : BitVec 24) : Nat := g.toNat / 65536
def tagIter (g : BitVec 24) : Nat := g.toNat % 65536

/-- An event record (R65). -/
def mkRecord (code rank elem tag slot info token : Nat) : BitVec 256 :=
  BitVec.ofNat 256 (code % 256 + rank % 256 * 2 ^ 8 + elem % 65536 * 2 ^ 16 + tag % 2 ^ 24 * 2 ^ 32 +
    slot % 256 * 2 ^ 56 + info % 2 ^ 64 * 2 ^ 64 + token % 2 ^ 128 * 2 ^ 128)

/-- The fault address for an event that is not an element's (R65). -/
def noElem : Nat := 0xFFFF
def noSlot : Nat := 0xFF

/-- The party on whose behalf hardware reads and writes a device's endpoints and records: supervisor level of the
device, at a cluster. -/
def hwWho (vd cluster : Nat) : Who := { vd := vd, user := false, core := none, cluster := cluster, machine := false }

/-- Resolve an endpoint's or ring's address: generic under the device, or physical in the map of R341 (R346). -/
def State.endpointPa (s : State) (w : Who) (phys : Bool) (a : Nat) : AccRes :=
  if phys then placeOf 1 Config.pod Config.package 0 a else s.resolve w (BitVec.ofNat 64 a) .wr

/-- Set bits of a thread's UIPEND (R254, R255, R326). -/
def State.postPend (s : State) (t : Nat) (bits : BitVec 32) : State :=
  s.updThread t fun x => { x with uipend := x.uipend ||| bits }

/-- Hand a record to the management core or to a device's supervisor. -/
def State.notify (s : State) (vd : Option Nat) (ev : BitVec 256) : State :=
  { s with notices := s.notices ++ [{ vd := vd, ev := ev }] }

/-- Whether an endpoint record keeps its layout (R325), read at a physical address. -/
def endpointOk (s : State) (p : Nat) : Bool :=
  let b := fun o n => s.readNat (p + o) n
  b 0 1 < 8 && (b 1 1 == 1 || b 1 1 == 2) && b 2 1 < 64 && 4 ≤ b 3 1 && b 3 1 ≤ 12 && b 4 4 == 0 &&
    b 8 8 % 32 == 0 && b 0x28 8 == 0 && b 0x30 8 == 0 && b 0x38 8 == 0

/-- Delivery of a record to an endpoint (R326): ring, tail with release at package scope, UIPEND; a full ring, a broken record or one that cannot
be reached escalates, and a chain ends at the management core. `n` bounds the hops. -/
def State.deliver (s : State) (w : Who) (phys : Bool) (ev : BitVec 256) : Nat → Nat → State
  | 0, _ => s.notify none ev
  | n + 1, a =>
    if a == 0 || a % 64 != 0 then s.notify none ev
    else match s.endpointPa w phys a with
      | .fault _ => s.notify none ev
      | .ok p _ =>
        let esc := s.readNat (p + 0x20) 8
        let ls := s.readNat (p + 3) 1
        let tail := s.readNat (p + 0x18) 8
        let head := s.readNat (p + 0x10) 8
        if !endpointOk s p || 2 ^ ls ≤ (tail + 2 ^ 64 - head) % 2 ^ 64 then s.deliver w phys ev n esc
        else match s.endpointPa w phys (s.readNat (p + 8) 8 + 32 * (tail % 2 ^ ls)) with
          | .fault _ => s.deliver w phys ev n esc
          | .ok q _ =>
            let x := Agent.arbiter w.cluster
            let s := (s.storeBy x 4 q 32 ev.toNat).releaseAt x [] 4
            let s := s.storeBy x 4 (p + 0x18) 8 ((tail + 1) % 2 ^ 64) [s.releaseOf x [] 4]
            if s.readNat (p + 1) 1 == 1 then
              let th := s.readNat (p + 2) 1
              s.postPend (16 * (th / 16 % 4) + th % 16) 0x20
            else s

/-- Deliver along an endpoint of a device (R326). -/
def State.sendTo (s : State) (vd cluster : Nat) (endpoint : Word) (ev : BitVec 256) : State :=
  s.deliver (hwWho vd cluster) false ev 9 endpoint.toNat

/-- Whether `ifepel`, attached to the device, has an event breakpoint for a code, and whether one of them holds (R32, R340). -/
def State.breakEvent (s : State) (vd code : Nat) : Option Bool :=
  if s.dbg.vd == some vd && s.dbg.breaks.any (fun b => b.2 == .event code false || b.2 == .event code true) then
    some (s.dbg.breaks.any fun b => b.2 == .event code true)
  else none

/-- The name of a code of R64. -/
def codeName (c : Nat) : String :=
  (["", "IllegalInstruction", "SlotEmpty", "Malformed", "Privilege", "Misaligned", "PageFault", "AccessFault", "Poison",
    "StoreSpill", "TagOverflow", "StreamOrder", "ShelfOverRead", "ShelfUnderRead", "ShelfAbandoned", "ShelfStarved",
    "UncorrectableMemory", "ConfigEcc", "ConfigLoadAborted", "RankCycle", "Watchdog", "ThrottleStarve", "QueueDeferred",
    "DoubleResolve", "GangAbort", "ReductionDiverted", "WakeMiss", "VdDormant", "ChainKind", "ChainOwnership", "ScaleRange",
    "BootFail"][c]?).getD ""

/-- A stop is pending until a command reports it. -/
def State.addStop (s : State) (x : Stop) : State := { s with dbg := { s.dbg with stops := s.dbg.stops ++ [x] } }

/-- The debug thread of the attached device (R246): thread 5 of its first cluster. -/
def State.dbgThread (s : State) : Option Nat := s.dbg.vd.bind fun v => (s.vd v).clusters.head?.map fun c => 16 * c + 5

/-- The cycle that a stop prints (R35): the counter of the core that stops, or of the cluster for what no core did. -/
def State.stopClock (s : State) (r t : Option Nat) (a : Nat) : Nat :=
  match r, t with
  | some r, _ => if a == noElem then s.clusterClock (r / Config.placesPerCluster) else s.coreClock (s.coreOf r a)
  | none, some t => s.clusterClock (clusterOfThread t)
  | none, none => s.clusterClock (((s.dbg.vd.bind fun v => (s.vd v).clusters.head?)).getD 0)

/-- Note an event for `ifepel`: where a breakpoint asks for it, a stop of the region, or of the debug thread, whose
instruction at `pc` trapped (R32, R305). The second result says that the record is held back from its handler (R340). -/
def State.noteEvent (s : State) (vd : Nat) (r : Option Nat) (t : Option (Nat × Word)) (ev : BitVec 256) : State × Bool :=
  match s.breakEvent vd (ev.toNat % 256) with
  | none => (s, false)
  | some h =>
    let s := s.addStop { kind := "event " ++ codeName (ev.toNat % 256), r := r, t := t.map (·.1),
                         a := ev.toNat / 2 ^ 16 % 65536, slot := ev.toNat / 2 ^ 56 % 256,
                         tag := BitVec.ofNat 24 (ev.toNat / 2 ^ 32),
                         cycle := s.stopClock r (t.map (·.1)) (ev.toNat / 2 ^ 16 % 65536), ev := some ev }
    let s := match r with
      | some r => s.updRegion r fun x => { x with dbgStop := true }
      | none => s
    match t with
    | some (t, pc) =>
      if s.dbgThread == some t then ({ s with dbg := { s.dbg with tStop := true, tPc := some pc } }, false) else (s, false)
    | none => (s, h)

/-- A record that is held until `release` (R340). -/
def State.holdRecord (s : State) (cluster : Nat) (endpoint : Word) (ev : BitVec 256) (vd : Nat) (r : Option Nat) : State :=
  { s with dbg := { s.dbg with
      hold := s.dbg.hold ++ [{ endpoint := endpoint, ev := ev, vd := vd, cluster := cluster, r := r, frozen := false }] } }

/-- The faults of a region's run (R64): not the events that inform a handler while the work goes on, nor UncorrectableMemory, which
R179 raises as an event. -/
def stopsRun (code : Nat) : Bool := code != fcUncorrectable && code != 0 &&
  !(code == fcStoreSpill || code == fcShelfAbandoned || code == fcConfigAborted || code == fcQueueDeferred || code == fcGangAbort ||
    code == fcReductionDiverted || code == fcWakeMiss || 0x1E ≤ code)

/-- Note a fault of a region: an element's that comes before the DONE of its step holds the step incomplete (R160), and any makes the
arbiter discard a later ETRIG of the run (R271). -/
def State.noteFault (s : State) (r code elem : Nat) : State :=
  let x := s.region r
  if !stopsRun code then s
  else s.updRegion r fun y => { y with faulted := true, stepFault := x.stepFault || (elem != noElem && x.inStep && !x.doneRecv) }

/-- Send a fault or event of a region along its fault edge (R111, R181, R325, R326). Events that a dying device's regions raise are
discarded (R344). -/
def State.sendEvent (s : State) (r code elem slot tag info token : Nat) : State :=
  let x := s.region r
  let ev := mkRecord code x.rank elem tag slot info token
  if (s.vd x.vd).dying then s
  else
    let n := s.noteEvent x.vd (some r) none ev
    if n.2 then n.1.holdRecord (r / Config.placesPerCluster) x.fedge ev x.vd (some r)
    else n.1.sendTo x.vd (r / Config.placesPerCluster) x.fedge ev

/-- Raise a fault or event of a region: noted, then sent. The fault of a request that parks is sent alone (`State.sendEvent`): its replay
settles it (R330). -/
def State.raise (s : State) (r code elem slot tag info token : Nat) : State :=
  (s.noteFault r code elem).sendEvent r code elem slot tag info token

/-- Raise a fault of a region whose record carries a token. -/
def State.raiseTok (s : State) (r code a slot : Nat) (t : Token) : State :=
  s.raise r code a slot (tokTag t).toNat 0 (tokBits t)

/-- An event of no region, to the supervisor of a device (R258, R264, R265): rank 0. -/
def State.raiseSuper (s : State) (vd code info : Nat) : State :=
  let ev := mkRecord code 0 noElem 0 noSlot info 0
  let n := s.noteEvent vd none none ev
  n.1.notify (some vd) ev

/-- Whether a code of R64 is a fault. -/
def isFaultCode (c : Nat) : Bool :=
  (c != fcStoreSpill) && (c != fcShelfAbandoned) && (c != fcConfigAborted) && (c != fcQueueDeferred) &&
  (c != fcGangAbort) && (c != fcReductionDiverted) && (c != fcWakeMiss) && (c < 0x1E)

end Sys2Proof.Machine
end

