-- ==== Sys2Proof/Machine/Ops.lean ====
section
/-! DEFINITION. The named operations of a control-core thread: registers, the waits of R274, outstanding operations
(R292), TAKING A TRAP (R276, R277) and the return from one (R299, ERET). -/
namespace Sys2Proof.Machine

/-- What a step gives. -/
abbrev Out := Host.Outcome State Fault Refusal

/-! ## Registers (R272, R275) -/

/-- A general register; g0 reads 0. -/
def ThreadState.reg (x : ThreadState) (r : Reg) : Word := if r = 0 then 0 else Sparse.atD x.regs r.toNat 0

/-- Write a general register and its poison bit; g0 ignores writes. -/
def ThreadState.setReg (x : ThreadState) (r : Reg) (v : Word) (p : Bool) : ThreadState :=
  if r = 0 then x
  else { x with
    regs := Sparse.put x.regs r.toNat v
    poison := if p then x.poison ||| (1#32 <<< r.toNat) else x.poison &&& ~~~(1#32 <<< r.toNat) }

/-- The poison bit of a register. -/
def ThreadState.poisoned (x : ThreadState) (r : Reg) : Bool := r != 0 && x.poison.getLsbD r.toNat
/-- The busy bit of a register (R274). -/
def ThreadState.isBusy (x : ThreadState) (r : Reg) : Bool := r != 0 && x.busy.getLsbD r.toNat
/-- Set or clear a busy bit. -/
def ThreadState.setBusy (x : ThreadState) (r : Reg) (on : Bool) : ThreadState :=
  if r = 0 then x
  else { x with busy := if on then x.busy ||| (1#32 <<< r.toNat) else x.busy &&& ~~~(1#32 <<< r.toNat) }

/-- The issuing thread. -/
def State.me (s : State) : ThreadState := s.thread s.cur.t
def State.updMe (s : State) (f : ThreadState → ThreadState) : State := s.updThread s.cur.t f
/-- A register of the issuing thread. -/
def State.g (s : State) (r : Reg) : Word := s.me.reg r
/-- pc := pc + 4 (R273). -/
def State.advance (s : State) : State := s.updMe fun x => { x with pc := x.pc + 4 }
/-- Whether an instruction that uses these registers waits for a busy bit (R274). -/
def State.waits (s : State) (rs : List Reg) : Bool := rs.any fun r => s.me.isBusy r
/-- Whether a register operand that R273 lists is poisoned. -/
def State.poisonedAny (s : State) (rs : List Reg) : Bool := rs.any fun r => s.me.poisoned r

/-- The parties of a thread's accesses (R276, R284, R313). -/
def State.whoAt (s : State) (t : Nat) (level : Nat) : Who :=
  { vd := s.vdOfThread t, user := level == 0, core := none, cluster := clusterOfThread t, machine := level == 2 }
def State.whoOf (s : State) (t : Nat) : Who := s.whoAt t (s.thread t).level.toNat
def State.whoMe (s : State) : Who := s.whoOf s.cur.t

/-! ## Outstanding operations (R292) -/

def ThreadOp.isLoad (o : ThreadOp) : Bool :=
  match o.kind with
  | .load _ _ _ | .amo _ _ _ _ | .cas _ _ _ _ => true
  | _ => false
def ThreadOp.isStore (o : ThreadOp) : Bool :=
  match o.kind with
  | .store _ _ _ => true
  | _ => false
def ThreadOp.isCopy (o : ThreadOp) : Bool :=
  match o.kind with
  | .copy _ _ => true
  | _ => false
def ThreadOp.isTile (o : ThreadOp) : Bool :=
  match o.kind with
  | .tile _ => true
  | _ => false

/-- A trap frame that is still to be written. -/
def ThreadOp.isFrame (o : ThreadOp) : Bool :=
  match o.kind with
  | .frame _ _ _ _ _ => true
  | _ => false

/-- The bytes that an operation accesses. -/
def ThreadOp.range (o : ThreadOp) : Option (Nat × Nat) :=
  match o.kind with
  | .load p n _ | .store p n _ | .amo _ p n _ | .cas p n _ _ => some (p, n)
  | .frame p _ _ _ _ => some (p, 64)
  | _ => none

/-- Whether an operation of a thread touches bytes. -/
def ThreadOp.touches (o : ThreadOp) (p n : Nat) : Bool :=
  match o.range with
  | some r => overlap r (p, n)
  | none => false

def ThreadState.loads (x : ThreadState) : Nat := x.ops.countP ThreadOp.isLoad
def ThreadState.stores (x : ThreadState) : Nat := x.ops.countP ThreadOp.isStore
def ThreadState.copies (x : ThreadState) : Nat := x.ops.countP ThreadOp.isCopy
def ThreadState.tiles (x : ThreadState) : Nat := x.ops.countP ThreadOp.isTile

/-- A release at pod scope before an instruction (R294): the thread's accesses are performed. -/
def ThreadState.released (x : ThreadState) : Bool := !(x.ops.any fun o => o.range.isSome)

/-- Add an outstanding operation of the issuing thread; its destination is busy until it is written (R274). -/
def State.pushOp (s : State) (o : ThreadOp) : State :=
  s.updMe fun x => { x.setBusy o.dest true with ops := x.ops ++ [o] }

/-! ## Traps (R276, R277) -/

/-- The thread control block (R276, R341). -/
def tcb (t : Nat) : Nat := pa spCommons (Config.mgmtBase + 0x10000 + 64 * t)

/-- The handler rank of a thread's record (R277). -/
def ThreadState.rank (x : ThreadState) : Nat :=
  match x.level.toNat with
  | 0 => x.hrank.toNat % 8
  | 1 => 4
  | _ => 6

/-- The party that fetches the entry and writes the frame of level `T` (R276). -/
def State.vecWho (s : State) (t T : Nat) : Who := s.whoAt t T

/-- The 64 bytes of a trap frame (R276). -/
def frameBits (epc : Word) (prev : Nat) (ev : BitVec 256) (word : BitVec 32) : Nat :=
  epc.toNat + prev % 256 * 2 ^ 64 + ev.toNat * 2 ^ 128 + word.toNat * 2 ^ 384

/-- Write a trap frame (R276) at a physical address, with release at cluster scope (R277, R384). -/
def State.writeFrame (s : State) (t p : Nat) (epc : Word) (prev : Nat) (ev : BitVec 256) (word : BitVec 32) : State :=
  (s.releaseAt (.thread t) [] 2).storeBy (.thread t) 2 p 64 (frameBits epc prev ev word) [s.releaseOf (.thread t) [] 2]

/-- The release that writes a trap frame (R277): at once where every earlier access of the thread is performed, else the
frame is an outstanding operation behind them. -/
def State.putFrame (s : State) (t p : Nat) (epc : Word) (prev : Nat) (ev : BitVec 256) (word : BitVec 32) : State :=
  if (s.thread t).released then s.writeFrame t p epc prev ev word
  else s.updThread t fun x =>
    { x with ops := x.ops ++ [{ kind := .frame p epc prev ev word, dest := 0, ord := 2, scope := 2 }] }

/-- A place as the stores of a thread that are not performed yet leave it (R285). -/
def State.ownNat (s : State) (t p n : Nat) : Nat :=
  ((s.thread t).ops.foldl (fun s o => match o.kind with
    | .store q m v => s.writeNat q m v.toNat
    | _ => s) s).readNat p n

/-- TakeTrap (R277) to level `3 - n`: the vector and frame of the thread control block, as the thread's own stores leave it; where the vector is 0 or
misaligned, or the frame is, or either cannot be reached, the original record escalates; a trap beyond machine level
halts the thread and posts the record to the management core. -/
def State.takeTrapTo (s : State) (t : Nat) (ev : BitVec 256) (epc : Word) (word : BitVec 32) : Nat → State
  | 0 => (s.updThread t fun x => { x with run := .halted }).notify none ev
  | n + 1 =>
    let T := 3 - (n + 1)
    let v := s.ownNat t (tcb t + (if T = 1 then 0 else 8)) 8
    let f := s.ownNat t (tcb t + (if T = 1 then 0x10 else 0x18)) 8
    let w := s.vecWho t T
    if v == 0 || v % 4 != 0 || f % 64 != 0 then s.takeTrapTo t ev epc word n
    else match s.resolve w (BitVec.ofNat 64 v) .fetch, s.resolve w (BitVec.ofNat 64 f) .wr with
      | .ok _ _, .ok p _ =>
        (s.putFrame t p epc (s.thread t).level.toNat ev word).updThread t fun x =>
          { x with level := BitVec.ofNat 2 T, pc := BitVec.ofNat 64 v, run := .running }
      | _, _ => s.takeTrapTo t ev epc word n

/-- The record of a thread's trap (R277). -/
def State.trapRecord (s : State) (t code : Nat) (info : Word) : BitVec 256 :=
  mkRecord code (s.thread t).rank noElem 0 noSlot info.toNat 0

/-- A trap of thread `t` to the level above its own (R276). -/
def State.takeTrap (s : State) (t code : Nat) (info epc : Word) (word : BitVec 32) : State :=
  let ev := s.trapRecord t code info
  let s := (s.noteEvent (s.vdOfThread t) none (some (t, (s.thread t).pc)) ev).1
  s.takeTrapTo t ev epc word (2 - (s.thread t).level.toNat)

/-- The info of a trap (R277, R273): the address for Misaligned, PageFault and AccessFault, the pc for a marked line of the
instruction, else 0; AccessFault for an operand that is no address has the operand (log 70). -/
def trapInfo (code : Nat) (info : Word) : Word :=
  if code == fcMisaligned || code == fcPageFault || code == fcAccessFault || code == fcUncorrectable then info else 0

/-- The issuing thread traps with epc at its instruction (R277): nothing else changes. -/
def State.trap (s : State) (code : Nat) (info : Word) : Out :=
  .next (s.takeTrap s.cur.t code (trapInfo code info) s.me.pc s.cur.word)

/-- IllegalInstruction (R56). -/
def State.illegal (s : State) : Out := s.trap fcIllegal 0

/-- ERET (R299): the frame of the current level gives the pc and the level, as the thread's own stores leave it (R285); a previous
level not below the current one, a set reserved bit or a pc that is not a multiple of 4 is Malformed (log 9). -/
def State.eret (s : State) : Out :=
  let l := s.me.level.toNat
  if l == 0 then s.trap fcPrivilege 0
  else
    let f := s.ownNat s.cur.t (tcb s.cur.t + (if l = 1 then 0x10 else 0x18)) 8
    if f % 64 != 0 then s.trap fcMisaligned (BitVec.ofNat 64 f)
    else match s.resolve s.whoMe (BitVec.ofNat 64 f) .rd with
      | .fault c => s.trap c (BitVec.ofNat 64 f)
      | .ok p _ =>
        if s.me.ops.any fun o => o.touches p 64 then .next s
        else
        let epc := s.readNat p 8
        let prev := s.readNat (p + 8) 1
        if l ≤ prev || epc % 4 != 0 then s.trap fcMalformed 0
        else .next (s.updMe fun x => { x with pc := BitVec.ofNat 64 epc, level := BitVec.ofNat 2 prev })

/-! ## Issue -/

/-- Write a result that is no ALU result: the poison bit clears (R275); the pc advances. -/
def State.result (s : State) (d : Reg) (v : Word) : Out := .next (s.updMe fun x => x.setReg d v false).advance

/-- The ALU, immediate and LDHI instructions (R275, R278): wait for the registers, write the result with the OR of
the sources' poison bits, advance. -/
def State.alu (s : State) (d : Reg) (srcs : List Reg) (v : Word) : Out :=
  if s.waits (d :: srcs) then .next s
  else .next (s.updMe fun x => x.setReg d v (s.poisonedAny srcs)).advance

/-- The frame of the instructions that check register operands (R273, R274): wait for the registers used, trap with
Poison where an operand that R273 lists is poisoned, else go on. -/
def State.withRegs (s : State) (used : List Reg) (clean : List Reg) (k : Unit → Out) : Out :=
  if s.waits used then .next s
  else if s.poisonedAny clean then s.trap fcPoison 0
  else k ()

/-- The same with an alignment check, which comes before Poison (R56, R273). -/
def State.withAligned (s : State) (used clean : List Reg) (bad : Bool) (addr : Word) (k : Unit → Out) : Out :=
  if s.waits used then .next s
  else if bad then s.trap fcMisaligned addr
  else if s.poisonedAny clean then s.trap fcPoison 0
  else k ()

/-- A supervisor instruction at user level traps with Privilege (R56). -/
def State.supervisor (s : State) (k : Unit → Out) : Out := if s.me.level = 0 then s.trap fcPrivilege 0 else k ()

/-- The instruction's own limits (R54 to R56). -/
def State.wellFormed (s : State) (ok : Bool) (k : Unit → Out) : Out := if ok then k () else s.illegal

/-- An instruction that would make a count 65 stalls (R292). -/
def State.room (s : State) (n : Nat) (k : Unit → Out) : Out := if 64 ≤ n then .next s else k ()

end Sys2Proof.Machine
end

