-- ==== Sys2Proof/Machine/Flags.lean ====
section
/-! DEFINITION. The sticky flags: the divide flag of a device in a cluster (R117, R257), the scale status word of a
core (R87, R227), and TSTAT, which shows both (R257). -/
namespace Sys2Proof.Machine

/-- Set DIVZ of a device in a cluster. -/
def State.setDivz (s : State) (c vd : Nat) : State := s.updCluster c fun x => { x with divz := insertNat vd x.divz }
/-- Clear DIVZ of a device in a cluster. -/
def State.clearDivz (s : State) (c vd : Nat) : State :=
  s.updCluster c fun x => { x with divz := x.divz.filter fun v => v != vd }
/-- DIVZ as a device's threads of the cluster read it. -/
def State.divz (s : State) (c vd : Nat) : Bool := (s.cluster c).divz.contains vd

/-- Set causes in a core's scale status word. -/
def State.setCauses (s : State) (core causes : Nat) : State :=
  if causes == 0 then s
  else s.updCore core fun x => { x with scaleStatus := x.scaleStatus ||| BitVec.ofNat 32 (causes % 32) }
/-- Clear causes of a core's scale status word. -/
def State.clearCauses (s : State) (core causes : Nat) : State :=
  s.updCore core fun x => { x with scaleStatus := x.scaleStatus &&& ~~~(BitVec.ofNat 32 (causes % 32)) }

/-- The cores of a cluster that a device holds: all of them or none (R343). -/
def State.heldCores (s : State) (c vd : Nat) : List Nat :=
  if s.vdOfCluster c == vd then (List.range 24).map fun k => 24 * c + k else []

/-- The OR of the scale status words of a device's cores in a cluster (R257). -/
def State.scaleBits (s : State) (c vd : Nat) : Nat :=
  (s.heldCores c vd).foldl (fun m k => m ||| ((s.core k).scaleStatus.toNat % 32)) 0

/-- TSTAT as thread `t` reads it (R257). -/
def State.tstat (s : State) (t : Nat) : Nat :=
  let c := clusterOfThread t
  let vd := s.vdOfThread t
  (if s.divz c vd then 1 else 0) + 2 * s.scaleBits c vd + (s.thread t).lastf.toNat * 2 ^ 8 +
    min (s.cluster c).ready.length 4095 * 2 ^ 16

/-- Writing 1s to TSTAT (R257): the scale bits clear in every core of the device, DIVZ in the cluster. -/
def State.clearTstat (s : State) (t v : Nat) : State :=
  let c := clusterOfThread t
  let vd := s.vdOfThread t
  let s := (s.heldCores c vd).foldl (fun s k => s.clearCauses k (v / 2)) s
  if v % 2 == 1 then s.clearDivz c vd else s

/-- DIVZ set by a thread's division (R279). -/
def State.threadDivz (s : State) : State := s.setDivz (clusterOfThread s.cur.t) (s.vdOfThread s.cur.t)

end Sys2Proof.Machine
end

