-- ==== Sys2Proof/Machine/Numbers.lean ====
section
/-! DEFINITION. Number formats, exact values, rounding and the order of sums (R67 to R89). Every value is exact
(`Num`); `roundTo` is RoundToFormat and is the only place where a value is rounded into a floating format. -/
namespace Sys2Proof

/-- The format codes of a channel (R46, R67). -/
inductive Fmt where
  | i64 | i32 | i16 | i8 | fp32 | bf16 | fp16 | e4m3 | e5m2 | e2m1 | raw
deriving DecidableEq, Repr, Inhabited

/-- The lane classes of R67. -/
inductive LaneClass where
  | int | float | raw
deriving DecidableEq, Repr, Inhabited

/-- The four rounding modes of R46. -/
inductive RoundMode where
  | rne | rtz | rdn | rup
deriving DecidableEq, Repr, Inhabited

/-- Format of a code; codes 11 to 31 are reserved. -/
def Fmt.ofCode (n : Nat) : Option Fmt :=
  match n with
  | 0 => some .i64 | 1 => some .i32 | 2 => some .i16 | 3 => some .i8 | 4 => some .fp32
  | 5 => some .bf16 | 6 => some .fp16 | 7 => some .e4m3 | 8 => some .e5m2 | 9 => some .e2m1
  | 10 => some .raw | _ => none

/-- Lane width (R67). -/
def Fmt.width : Fmt → Nat
  | .i64 | .raw => 64
  | .i32 | .fp32 => 32
  | .i16 | .bf16 | .fp16 => 16
  | .i8 | .e4m3 | .e5m2 => 8
  | .e2m1 => 4

/-- Number of lanes of a 64-bit payload (R67). -/
def Fmt.lanes (f : Fmt) : Nat := 64 / f.width

/-- Class of a format (R67). -/
def Fmt.cls : Fmt → LaneClass
  | .i64 | .i32 | .i16 | .i8 => .int
  | .raw => .raw
  | _ => .float

/-- The formats that use a band scale (R75). -/
def Fmt.scaled : Fmt → Bool
  | .e4m3 | .e5m2 | .e2m1 => true
  | _ => false

/-- Mantissa width of a floating format (R69). -/
def Fmt.man : Fmt → Nat
  | .fp32 => 23 | .bf16 => 7 | .fp16 => 10 | .e4m3 => 3 | .e5m2 => 2 | .e2m1 => 1
  | _ => 0

/-- Exponent width of a floating format (R69). -/
def Fmt.expw : Fmt → Nat
  | .fp32 | .bf16 => 8 | .fp16 | .e5m2 => 5 | .e4m3 => 4 | .e2m1 => 2
  | _ => 0

/-- Exponent bias of a floating format (R69). -/
def Fmt.bias : Fmt → Nat
  | .fp32 | .bf16 => 127 | .fp16 | .e5m2 => 15 | .e4m3 => 7 | .e2m1 => 1
  | _ => 0

/-- Magnitude code of the largest finite value (R69). -/
def Fmt.maxCode : Fmt → Nat
  | .fp32 => 0x7F7FFFFF | .bf16 => 0x7F7F | .fp16 => 0x7BFF | .e4m3 => 0x7E | .e5m2 => 0x7B | .e2m1 => 0x7
  | _ => 0

/-- The canonical NaN (R69); FP4E2M1 has none and writes code 0 (R72). -/
def Fmt.nanCode : Fmt → Nat
  | .fp32 => 0x7FC00000 | .bf16 => 0x7FC0 | .fp16 => 0x7E00 | .e4m3 => 0x7F | .e5m2 => 0x7E
  | _ => 0

/-- Magnitude code of infinity, for the formats that have one (R69). -/
def Fmt.infCode : Fmt → Option Nat
  | .fp32 => some 0x7F800000 | .bf16 => some 0x7F80 | .fp16 => some 0x7C00 | .e5m2 => some 0x7C
  | _ => none

/-! ## Exact values -/

/-- The value `± m · 2^k`. -/
def Num.ofScaled (neg : Bool) (m : Nat) (k : Int) : Num :=
  if 0 ≤ k then .fin neg (m * 2 ^ k.toNat) 1 else .fin neg m (2 ^ (-k).toNat)

/-- An exact integer. -/
def Num.ofInt (v : Int) : Num := .fin (decide (v < 0)) v.natAbs 1

/-- An exact natural number. -/
def Num.ofNat (v : Nat) : Num := .fin false v 1

def Num.isNan : Num → Bool
  | .nan _ => true
  | _ => false

def Num.isInf : Num → Bool
  | .inf _ => true
  | _ => false

def Num.isZero : Num → Bool
  | .fin _ n _ => n == 0
  | _ => false

/-- The sign bit of a value. -/
def Num.sign : Num → Bool
  | .nan s => s
  | .inf s => s
  | .fin s _ _ => s

/-- The value with the sign given. -/
def Num.withSign (v : Num) (s : Bool) : Num :=
  match v with
  | .nan _ => .nan s
  | .inf _ => .inf s
  | .fin _ n d => .fin s n d

def Num.neg (v : Num) : Num := v.withSign (!v.sign)
def Num.abs (v : Num) : Num := v.withSign false

/-- The signed numerator. -/
def Num.inum (neg : Bool) (n : Nat) : Int := if neg then -(n : Int) else n

/-- ExactMul (R76): no rounding; an infinity times zero is +NaN and a NaN operand keeps its sign. -/
def Num.mul (a b : Num) : Num :=
  match a, b with
  | .nan s, _ => .nan s
  | _, .nan _ => .nan false
  | .inf s, .inf t => .inf (s != t)
  | .inf s, .fin t n _ => if n == 0 then .nan false else .inf (s != t)
  | .fin s n _, .inf t => if n == 0 then .nan false else .inf (s != t)
  | .fin s n d, .fin t m e => .fin (s != t) (n * m) (d * e)

/-- ExactDiv (R77), with the IEEE 754 results for zero and infinite operands. -/
def Num.div (a b : Num) : Num :=
  match a, b with
  | .nan s, _ => .nan s
  | _, .nan _ => .nan false
  | .inf _, .inf _ => .nan false
  | .inf s, .fin t _ _ => .inf (s != t)
  | .fin s _ _, .inf t => .fin (s != t) 0 1
  | .fin s n d, .fin t m e =>
    if m == 0 then (if n == 0 then .nan false else .inf (s != t)) else .fin (s != t) (n * e) (d * m)

/-- Comparison of two numbers of class 1 of R88 (no NaN): `a < b` by value, zeros equal. -/
def Num.lt (a b : Num) : Bool :=
  match a, b with
  | .nan _, _ => false
  | _, .nan _ => false
  | .inf s, .inf t => s && !t
  | .inf s, .fin _ _ _ => s
  | .fin _ _ _, .inf t => !t
  | .fin s n d, .fin t m e => decide (Num.inum s n * (e : Int) < Num.inum t m * (d : Int))

/-- Equality by value (no NaN), zeros equal. -/
def Num.eqv (a b : Num) : Bool := !a.isNan && !b.isNan && !(a.lt b) && !(b.lt a)

/-- Whether every addend of a list has the sign `s`. -/
def allSign (s : Bool) (l : List Num) : Bool := l.all fun v => v.sign == s

/-- The exact sum of two finite values as signed numerator and denominator. -/
def addPair (acc : Int × Nat) (v : Num) : Int × Nat :=
  match v with
  | .fin s n d =>
    if acc.2 = d then (acc.1 + Num.inum s n, d)
    else (acc.1 * (d : Int) + Num.inum s n * (acc.2 : Int), acc.2 * d)
  | _ => acc

/-- An exact sum (R77, R80, R82): a NaN addend or infinities of both signs give NaN; an exact zero is −0 when every
addend is negative, +0 when none is, and otherwise −0 only under RDN. Where all addends are +0 under RDN, R77 keeps their sign and R82
gives −0: R77's +0 is taken (DESIGN CHOICE, log 121). -/
def sumExact (mode : RoundMode) (l : List Num) : Num :=
  if l.any Num.isNan then .nan false
  else
    let pinf := l.any fun v => v.isInf && !v.sign
    let ninf := l.any fun v => v.isInf && v.sign
    if pinf && ninf then .nan false
    else if pinf then .inf false
    else if ninf then .inf true
    else
      let r := l.foldl addPair (0, 1)
      if r.1 = 0 then
        if allSign true l && !l.isEmpty then .fin true 0 1
        else if allSign false l then .fin false 0 1
        else .fin (decide (mode = .rdn)) 0 1
      else .fin (decide (r.1 < 0)) r.1.natAbs r.2

/-! ## Decoding codes -/

/-- FormatValue (R69, R70) of a code of a floating format, and whether it is subnormal. -/
def fmtValue (f : Fmt) (code : Nat) : Num × Bool :=
  let m := code % 2 ^ f.man
  let e := code / 2 ^ f.man % 2 ^ f.expw
  let s := code / 2 ^ (f.man + f.expw) % 2 == 1
  let special := e + 1 == 2 ^ f.expw
  match f with
  | .fp32 | .bf16 | .fp16 | .e5m2 =>
    if special then (if m == 0 then .inf s else .nan s, false)
    else if e == 0 then (.ofScaled s m (1 - (f.bias : Int) - f.man), m != 0)
    else (.ofScaled s (2 ^ f.man + m) ((e : Int) - f.bias - f.man), false)
  | .e4m3 =>
    if special && m == 7 then (.nan s, false)
    else if e == 0 then (.ofScaled s m (1 - (f.bias : Int) - f.man), m != 0)
    else (.ofScaled s (2 ^ f.man + m) ((e : Int) - f.bias - f.man), false)
  | _ =>
    if e == 0 then (.ofScaled s m (1 - (f.bias : Int) - f.man), m != 0)
    else (.ofScaled s (2 ^ f.man + m) ((e : Int) - f.bias - f.man), false)

/-- E3M5Value (R73) of a block scale code. -/
def e3m5Value (code : Nat) : Num :=
  let c := code % 256
  let e := c / 32
  let m := c % 32
  if c == 0xFF then .nan false
  else if e == 0 then .fin false m 128
  else .ofScaled false (32 + m) ((e : Int) - 8)

/-- BF16Value (R74). -/
def bf16Value (code : Nat) : Num := (fmtValue .bf16 (code % 65536)).1

/-- FP32 value of a code. -/
def fp32Value (code : Nat) : Num := (fmtValue .fp32 (code % 2 ^ 32)).1

/-- A channel-table entry (R46) as its fields. -/
structure Chan where
  fmt      : Fmt
  scale    : Nat
  round    : RoundMode
  nflush   : Bool
  f32flush : Bool
  sat      : Bool
deriving DecidableEq, Repr, Inhabited

def RoundMode.ofCode (n : Nat) : RoundMode :=
  match n % 4 with
  | 0 => .rne | 1 => .rtz | 2 => .rdn | _ => .rup

/-- A channel entry of R46, or none where it is malformed (format 11 to 31 or a reserved bit set). -/
def Chan.ofBits? (w : Nat) : Option Chan :=
  if w / 2 ^ 14 != 0 then none
  else (Fmt.ofCode (w % 32)).map fun f =>
    { fmt := f, scale := w / 32 % 16, round := .ofCode (w / 512 % 4), nflush := w / 2048 % 2 == 1,
      f32flush := w / 4096 % 2 == 1, sat := w / 8192 % 2 == 1 }

/-- The entry with the reset value of R46: I64, sc0, RNE. -/
def Chan.reset : Chan :=
  { fmt := .i64, scale := 0, round := .rne, nflush := false, f32flush := false, sat := false }

/-- A channel entry; no malformed entry is ever held (R46 refuses it), and one would read as the reset value. -/
def Chan.ofBits (w : Nat) : Chan := (Chan.ofBits? w).getD Chan.reset

/-- The causes of the ScaleRange flag (R87). -/
def causeUnderflow : Nat := 1
def causeNan : Nat := 2
def causeInvalid : Nat := 4
def causeSaturate : Nat := 8
def causeNanLost : Nat := 16

/-- A band scale that sets SCALE_INVALID when it is used (R74). -/
def badScale (v : Num) : Bool := v.isNan || v.isInf || v.isZero

/-- IntegerValue (R71) of a lane code of width `w`. -/
def intValue (w : Nat) (signed : Bool) (code : Nat) : Int :=
  let c := code % 2 ^ w
  if signed && 2 ^ (w - 1) ≤ c then (c : Int) - 2 ^ w else c

/-- Lane `i` of a payload (R67). -/
def laneOf (f : Fmt) (p : Nat) (i : Nat) : Nat := p / 2 ^ (f.width * i) % 2 ^ f.width

/-- A payload from its lanes, lane 0 least significant (R67). -/
def ofLanes (f : Fmt) : List Nat → Nat
  | [] => 0
  | c :: r => c % 2 ^ f.width + 2 ^ f.width * ofLanes f r

/-- The scale that a lane of a scaled format uses (R75, R76): band × block. `sc` is the scale register. -/
def blockScale (sc lane : Nat) : Num := if lane < 8 then e3m5Value (sc % 256) else e3m5Value (sc / 256 % 256)
def bandScale (sc : Nat) : Num := bf16Value (sc / 65536 % 65536)
def effectiveScale (f : Fmt) (sc lane : Nat) : Num :=
  if f = .e2m1 then (blockScale sc lane).mul (bandScale sc) else bandScale sc

/-- The flush step of R76: a subnormal code becomes a signed zero where the channel's flush bit says so. -/
def flushIn (ch : Chan) (v : Num × Bool) : Num :=
  let fl := match ch.fmt with
    | .fp32 | .bf16 => ch.f32flush
    | .fp16 | .e4m3 | .e5m2 | .e2m1 => ch.nflush
    | _ => false
  if fl && v.2 then .fin v.1.sign 0 1 else v.1

/-- DecodeLane (R76), with the ScaleRange causes that using the scales sets (R74). -/
def decodeLane (ch : Chan) (signed : Bool) (sc lane code : Nat) : Num × Nat :=
  match ch.fmt.cls with
  | .int => (.ofInt (intValue ch.fmt.width signed code), 0)
  | .raw => (.ofNat code, 0)
  | .float =>
    let v := flushIn ch (fmtValue ch.fmt code)
    let v := if ch.fmt = .e2m1 then v.mul (blockScale sc lane) else v
    if ch.fmt.scaled then
      (v.mul (bandScale sc), if badScale (bandScale sc) then causeInvalid else 0)
    else (v, 0)

/-- DecodeNoBand (R80): R76 with the block scale and without the band scale. `blk` is the E3M5 code of the lane. -/
def decodeNoBand (ch : Chan) (blk code : Nat) : Num :=
  let v := flushIn ch (fmtValue ch.fmt code)
  if ch.fmt = .e2m1 then v.mul (e3m5Value blk) else v

/-! ## Rounding -/

/-- Divide and round to an integer, the value being `± num / den` (R77). -/
def roundDiv (mode : RoundMode) (neg : Bool) (num den : Nat) : Nat :=
  let q := num / den
  let r := num % den
  if r == 0 then q
  else match mode with
    | .rtz => q
    | .rdn => if neg then q + 1 else q
    | .rup => if neg then q else q + 1
    | .rne => if 2 * r < den then q else if den < 2 * r then q + 1 else if q % 2 == 0 then q else q + 1

/-- The exponent `e` with `2^e ≤ num / den < 2^(e+1)`, for a positive value. -/
def floorLog2 (num den : Nat) : Int :=
  let e : Int := (Nat.log2 num : Int) - Nat.log2 den
  -- `num/den` lies in [2^(e-1), 2^(e+1))
  let ge : Bool := if 0 ≤ e then decide (den * 2 ^ e.toNat ≤ num) else decide (den ≤ num * 2 ^ (-e).toNat)
  if ge then e else e - 1

/-- What RoundToFormat gives: a code (magnitude, with the sign apart) or an overflow. -/
inductive Rounded where
  | code (mag : Nat) (subnormal : Bool)
  | overflow
deriving DecidableEq, Repr, Inhabited

/-- RoundToFormat (R77) of a finite value: round with the format's precision, overflow beyond the largest finite
value, the subnormal grid below the smallest normal. -/
def roundTo (f : Fmt) (mode : RoundMode) (neg : Bool) (num den : Nat) : Rounded :=
  if num == 0 then .code 0 false
  else
    let e := floorLog2 num den
    let emin : Int := 1 - (f.bias : Int)
    let q : Int := (if e < emin then emin else e) - f.man
    let n := if 0 ≤ q then roundDiv mode neg num (den * 2 ^ q.toNat) else roundDiv mode neg (num * 2 ^ (-q).toNat) den
    -- n counts units of 2^q; it may have rounded up to the next binade
    let n' := if 2 ^ (f.man + 1) ≤ n then n / 2 else n
    let q' := if 2 ^ (f.man + 1) ≤ n then q + 1 else q
    if n' < 2 ^ f.man then .code n' (n' != 0)
    else
      let be := (q' + f.man + f.bias).toNat
      let c := be * 2 ^ f.man + (n' - 2 ^ f.man)
      if f.maxCode < c then .overflow else .code c false

/-- A magnitude code with its sign bit. -/
def signCode (f : Fmt) (neg : Bool) (mag : Nat) : Nat := mag + (if neg then 2 ^ (f.width - 1) else 0)

/-- OverflowResult (R78) and the cause it sets; `isInf` says that the value itself is infinite. -/
def overflowResult (ch : Chan) (neg isInf : Bool) : Nat × Nat :=
  let f := ch.fmt
  let mx := signCode f neg f.maxCode
  let big := match f.infCode with
    | some i => signCode f neg i
    | none => signCode f neg 0x7F          -- FP8E4M3: NaN with the value's sign
  if f = .e2m1 then (mx, if ch.sat then 0 else causeSaturate)
  else if ch.sat then (mx, 0)
  else if isInf then (big, 0)
  else match ch.round with
    | .rne => (big, 0)
    | .rtz => (mx, 0)
    | .rdn => (if neg then big else mx, 0)
    | .rup => (if neg then mx else big, 0)

/-- Whether the channel flushes subnormal results (R77). -/
def flushOut (ch : Chan) : Bool :=
  match ch.fmt with
  | .fp32 | .bf16 => ch.f32flush
  | .fp16 | .e4m3 | .e5m2 | .e2m1 => ch.nflush
  | _ => false

/-- The part of EncodeLane after the scale has been divided out (R77). -/
def encodeFloat (ch : Chan) (v : Num) : Nat × Nat :=
  match v with
  | .nan _ => if ch.fmt = .e2m1 then (0, causeNanLost) else (ch.fmt.nanCode, 0)
  | .inf s => overflowResult ch s true
  | .fin s n d =>
    match roundTo ch.fmt ch.round s n d with
    | .overflow => overflowResult ch s false
    | .code mag sub => if sub && flushOut ch then (signCode ch.fmt s 0, 0) else (signCode ch.fmt s mag, 0)

/-- EncodeInteger (R79): rounded, clamped to the lane's range; NaN gives 0. -/
def encodeInteger (w : Nat) (signed : Bool) (mode : RoundMode) (v : Num) : Nat :=
  let lo : Int := if signed then -(2 ^ (w - 1)) else 0
  let hi : Int := if signed then 2 ^ (w - 1) - 1 else 2 ^ w - 1
  match v with
  | .nan _ => 0
  | .inf s => ((if s then lo else hi) % (2 ^ w : Int)).toNat
  | .fin s n d =>
    let q := Num.inum s (roundDiv mode s n d)
    let q := if q < lo then lo else if hi < q then hi else q
    (q % (2 ^ w : Int)).toNat

/-- EncodeLane (R77) into the out channel `ch` with scale register `sc`: the code and the ScaleRange causes. The
signedness matters for integer formats only (R79). -/
def encodeLane (ch : Chan) (signed : Bool) (sc lane : Nat) (v : Num) : Nat × Nat :=
  match ch.fmt.cls with
  | .int => (encodeInteger ch.fmt.width signed ch.round v, 0)
  | .raw => (0, 0)
  | .float =>
    if ch.fmt.scaled then
      let s := effectiveScale ch.fmt sc lane
      if badScale s then (if ch.fmt = .e2m1 then 0 else ch.fmt.nanCode, causeInvalid)
      else encodeFloat ch (v.div s)
    else encodeFloat ch v

/-- RoundToFormat with a code as result, no flush and no saturation (R80, R84). -/
def roundCode (f : Fmt) (mode : RoundMode) (v : Num) : Nat :=
  (encodeFloat { fmt := f, scale := 0, round := mode, nflush := false, f32flush := false, sat := false } v).1

/-! ## The order of sums -/

/-- The largest power of two strictly less than `n`, for `n ≥ 2` (R84). -/
def largestPowBelow (n : Nat) : Nat := 2 ^ Nat.log2 (n - 1)

/-- Tree (R84) with fuel: `x i` is contribution `i`, codes of format `f`. A tree of one contribution is that contribution's
code as it stands, a non-canonical NaN too, as R84's procedure returns `x[lo]`; that R72's canonical NaN does not apply to it
is the model's reading (DESIGN CHOICE, log 101). -/
def treeSum (f : Fmt) (x : Nat → Nat) : Nat → Nat → Nat → Nat
  | 0, lo, _ => x lo
  | fuel + 1, lo, n =>
    if n ≤ 1 then x lo
    else
      let h := largestPowBelow n
      let a := (fmtValue f (treeSum f x fuel lo h)).1
      let b := (fmtValue f (treeSum f x fuel (lo + h) (n - h))).1
      roundCode f .rne (sumExact .rne [a, b])

/-- One node of the tree (R84): the exact sum of two codes, rounded once with RNE. -/
def treeNode (f : Fmt) (a b : Nat) : Nat :=
  roundCode f .rne (sumExact .rne [(fmtValue f a).1, (fmtValue f b).1])

/-- Whether `[lo, lo+m)` is a whole subtree of the tree of R84 over `n` contributions. Fuel bounds the depth. -/
def isSubtree : Nat → Nat → Nat → Nat → Nat → Bool
  | 0, _, _, _, _ => false
  | fuel + 1, base, n, lo, m =>
    if base == lo && n == m then true
    else if n ≤ 1 then false
    else
      let h := largestPowBelow n
      if lo < base + h then isSubtree fuel base h lo m else isSubtree fuel (base + h) (n - h) lo m

/-- The two children of the subtree `[lo, lo+m)` (R84). -/
def subtreeChildren (lo m : Nat) : (Nat × Nat) × (Nat × Nat) :=
  let h := largestPowBelow m
  ((lo, h), (lo + h, m - h))

/-! ## Scales computed by the down-converter (R85, R86) -/

/-- Whether a value is a NaN or an infinity. -/
def Num.special (v : Num) : Bool := v.isNan || v.isInf

/-- The larger of two magnitudes. -/
def maxAbs (l : List Num) : Num :=
  l.foldl (fun m v => if m.lt v.abs then v.abs else m) (.fin false 0 1)

/-- EncodeE2M1(x, RNE, sat) with the out channel's nflush (R85). -/
def encodeE2M1 (nflush sat : Bool) (v : Num) : Nat × Nat :=
  encodeFloat { fmt := .e2m1, scale := 0, round := .rne, nflush := nflush, f32flush := false, sat := sat } v

/-- Codes and causes of a block, elementwise. -/
def encodeBlock (nflush sat : Bool) (d : Num) (xs : List Num) : List Nat × Nat :=
  xs.foldr (fun x acc => let r := encodeE2M1 nflush sat (x.div d); (r.1 :: acc.1, r.2 ||| acc.2)) ([], 0)

/-- `a ≤ b` for values that are not NaN. -/
def Num.le (a b : Num) : Bool := !(b.lt a)

/-- The smallest E3M5 code `s` with `a / (band × E3M5Value(s)) ≤ 6` (R85). -/
def smallestBlock (a band : Num) : Nat :=
  ((List.range 255).find? fun s =>
    s != 0 && ((a.div (band.mul (e3m5Value s))).le (.fin false 6 1))).getD 0xFE

/-- One block under the basic control (R85): block code, element codes, causes. A band scale that rounding has made infinite
sets SCALE_INVALID where a block uses it (R74). -/
def convertBlockBasic (nflush : Bool) (band : Num) (xs : List Num) : Nat × List Nat × Nat :=
  if xs.any Num.special then (0xFF, xs.map fun _ => 0, causeNan)
  else
    let a := maxAbs xs
    if a.isZero then (0x00, xs.map fun _ => 0, 0)
    else
      let under := a.lt (band.mul (.fin false 6 128))
      let s := if under then 0x01 else smallestBlock a band
      let r := encodeBlock nflush true (band.mul (e3m5Value s)) xs
      (s, r.1, (if under then causeUnderflow else 0) ||| (if badScale band then causeInvalid else 0) ||| r.2)

/-- The band scale of the basic control (R85), as a BF16 code. Of an exact readout `m / 186` may exceed BF16's range: R85
gives no result there, and RoundToFormat's overflow under RUP, +infinity, is the model's (DESIGN CHOICE, log 101). -/
def bandBasic (xs : List Num) : Nat :=
  let m := maxAbs (xs.filter fun v => !v.special)
  if m.isZero then 0x3F80 else roundCode .bf16 .rup (m.div (.fin false 186 1))

/-- One block under the expert control (R86): the band scale and block code are supplied. -/
def convertBlockExpert (nflush : Bool) (band : Num) (blk : Nat) (xs : List Num) : Nat × List Nat × Nat :=
  if badScale band then
    (0xFF, xs.map fun _ => 0, causeInvalid ||| (if blk == 0xFF || xs.any Num.special then causeNan else 0))
  else if blk == 0xFF || xs.any Num.special then (0xFF, xs.map fun _ => 0, causeNan)
  else if blk == 0 then (0, xs.map (fun x => if x.sign then 8 else 0), 0)
  else
    let r := encodeBlock nflush false (band.mul (e3m5Value blk)) xs
    (blk, r.1, r.2)

/-! ## The order used for ranking (R88, R89) -/

/-- Class of R88. -/
def rankClass (v : Num) : Nat :=
  match v with
  | .nan true => 0
  | .nan false => 2
  | _ => 1

/-- `a < b` in the total order of R88: −NaN, then numbers with −0 below +0, then +NaN. -/
def rankLt (a b : Num) : Bool :=
  if rankClass a != rankClass b then decide (rankClass a < rankClass b)
  else if rankClass a != 1 then false
  else if a.isZero && b.isZero then a.sign && !b.sign
  else a.lt b

/-- `a` has the larger key of R89: magnitudes, every NaN above infinity. -/
def magLt (a b : Num) : Bool :=
  if b.isNan then !a.isNan
  else if a.isNan then false
  else a.abs.lt b.abs

end Sys2Proof
end

