-- ==== Sys2Proof/Machine/Compute.lean ====
section
/-! DEFINITION. What compute-element instructions compute on one operand set (R113 to R134): each function says
whether the function, flags and arity are defined (R113), whether the formats fit (R68, R114), and the result
payload. How a firing selects, consumes and emits is in `Sys2Proof.Machine.Firing`. -/
namespace Sys2Proof

/-- An operand as a firing sees it (R93, R94): its format, the channel entry and scale register that decode it, its
payload bits, the exact value where the constants plane or the iteration feeds a float lane, and the 64 raw bits of
R128. -/
structure Opnd where
  fmt    : Fmt
  chan   : Chan
  sc     : Nat
  bits   : Nat
  exact  : Option Num
  raw    : Nat
deriving DecidableEq, Repr, Inhabited

/-- What a compute function is given: the slot, the operands a, b, c within the arity, the out channel and the scale
register it selects. -/
structure FireIn where
  w     : Slot
  ops   : List Opnd
  out   : Chan
  outSc : Nat
deriving DecidableEq, Repr, Inhabited

/-- What a compute function gives: an undefined function, flags or arity (R113), a format that does not fit (R68),
or the result payload with the ScaleRange causes and the divide flag it sets. -/
inductive CRes where
  | illegal
  | malformed
  | val (pay : Nat) (causes : Nat) (divz : Bool)
deriving DecidableEq, Repr, Inhabited

def Slot.arityN (w : Slot) : Nat := w.arity.toNat
def Slot.fnN (w : Slot) : Nat := w.fn.toNat
def Slot.flagsN (w : Slot) : Nat := w.flags.toNat
/-- fn[0]: signedness of integer lanes (R42, R71). -/
def Slot.signed (w : Slot) : Bool := w.fn.toNat % 2 == 1

def Opnd.empty : Opnd :=
  { fmt := .raw, chan := Chan.reset, sc := 0, bits := 0, exact := none, raw := 0 }

def FireIn.op (x : FireIn) (k : Nat) : Opnd := (x.ops[k]?).getD Opnd.empty
def FireIn.a (x : FireIn) : Opnd := x.op 0
def FireIn.b (x : FireIn) : Opnd := x.op 1
def FireIn.c (x : FireIn) : Opnd := x.op 2

/-- Lane `i` of an operand, decoded (R76, R94), with the causes that its scales set. -/
def Opnd.lane (o : Opnd) (signed : Bool) (i : Nat) : Num × Nat :=
  match o.exact with
  | some v => (v, 0)
  | none => decodeLane { o.chan with fmt := o.fmt } signed o.sc i (laneOf o.fmt o.bits i)

/-- EncodeLane with a scale of 1.0, as R94 states for values passed on as payload bits. -/
def encodeUnscaled (f : Fmt) (ch : Chan) (v : Num) : Nat × Nat := encodeFloat { ch with fmt := f } v

/-- The payload bits of an operand that is passed on without any operation (R94, R139). -/
def Opnd.passBits (o : Opnd) (out : Chan) : Nat × Nat :=
  match o.exact with
  | none => (o.bits, 0)
  | some v =>
    let r := encodeUnscaled o.fmt out v
    (ofLanes o.fmt ((List.range o.fmt.lanes).map fun _ => r.1), r.2)

/-- Integer value of lane `i`; a RAW operand is one 64-bit lane (R116). -/
def Opnd.ilane (o : Opnd) (signed : Bool) (i : Nat) : Int := intValue o.fmt.width signed (laneOf o.fmt o.bits i)

/-- Lane codes and causes joined into a payload. -/
def joinLanes (f : Fmt) (l : List (Nat × Nat)) : Nat × Nat :=
  (ofLanes f (l.map (·.1)), l.foldl (fun m x => m ||| x.2) 0)

def CRes.ofPair (p : Nat × Nat) : CRes := .val p.1 p.2 false

def bitsLow (w : Nat) (v : Int) : Nat := (v % (2 ^ w : Int)).toNat

/-- Whether every operand and the out channel have the same lane count (R114). -/
def FireIn.sameLanes (x : FireIn) : Bool := x.ops.all fun o => o.fmt.lanes == x.out.fmt.lanes

/-- Number of one bits of the low `w` bits. -/
def popcount (w n : Nat) : Nat := (List.range w).foldl (fun c i => c + n / 2 ^ i % 2) 0

/-- Number of leading zero bits of a `w`-bit value. -/
def countLz (w n : Nat) : Nat := if n == 0 then w else w - (Nat.log2 n + 1)

/-! ## Integer group -/

/-- An integer instruction (R116): arity, whether RAW is accepted, and the effect on one lane of width `w`. -/
def intOp (arity : Nat) (rawOk : Bool) (f : Nat → (Nat → Int) → Int) (x : FireIn) : CRes :=
  if x.w.arityN != arity || 2 ≤ x.w.fnN || x.w.flagsN != 0 then .illegal
  else
    let okc := fun (g : Fmt) => g.cls == .int || (rawOk && g.cls == .raw)
    if !(x.ops.all fun o => okc o.fmt) || !okc x.out.fmt || !x.sameLanes then .malformed
    else
      let w := x.out.fmt.width
      .val (ofLanes x.out.fmt ((List.range x.out.fmt.lanes).map fun i =>
        bitsLow w (f w fun k => (x.op k).ilane x.w.signed i))) 0 false

def laneAnd (a b : Int) (w : Nat) : Int := ((bitsLow w a &&& bitsLow w b : Nat) : Int)
def laneOr (a b : Int) (w : Nat) : Int := ((bitsLow w a ||| bitsLow w b : Nat) : Int)
def laneXor (a b : Int) (w : Nat) : Int := ((bitsLow w a ^^^ bitsLow w b : Nat) : Int)
def laneNot (a : Int) (w : Nat) : Int := ((2 ^ w - 1 - bitsLow w a : Nat) : Int)
/-- A shift amount: the value of the b lane modulo the width (R116). -/
def shAmt (b : Int) (w : Nat) : Nat := (b % (w : Int)).toNat

def cAdd := intOp 2 false fun _ v => v 0 + v 1
def cSub := intOp 2 false fun _ v => v 0 - v 1
def cMul := intOp 2 false fun _ v => v 0 * v 1
def cMulhi := intOp 2 false fun w v => (v 0 * v 1) / (2 ^ w : Int)
def cMad := intOp 3 false fun _ v => v 0 * v 1 + v 2
def cAnd := intOp 2 true fun w v => laneAnd (v 0) (v 1) w
def cOr := intOp 2 true fun w v => laneOr (v 0) (v 1) w
def cXor := intOp 2 true fun w v => laneXor (v 0) (v 1) w
def cAndn := intOp 2 true fun w v => laneAnd (v 0) (laneNot (v 1) w) w
def cShl := intOp 2 false fun w v => v 0 * 2 ^ shAmt (v 1) w
def cShr := intOp 2 false fun w v => ((bitsLow w (v 0) / 2 ^ shAmt (v 1) w : Nat) : Int)
def cSar := intOp 2 false fun w v => intValue w true (bitsLow w (v 0)) / (2 ^ shAmt (v 1) w : Int)
def cRot := intOp 2 false fun w v =>
  let n := shAmt (v 1) w
  let u := bitsLow w (v 0)
  ((u * 2 ^ n % 2 ^ w + u / 2 ^ (w - n) : Nat) : Int)
def cClz := intOp 1 false fun w v => (countLz w (bitsLow w (v 0)) : Int)
def cPopc := intOp 1 false fun w v => (popcount w (bitsLow w (v 0)) : Int)
def cMin := intOp 2 false fun _ v => if v 0 < v 1 then v 0 else v 1
def cMax := intOp 2 false fun _ v => if v 0 < v 1 then v 1 else v 0
def cAbs := intOp 1 false fun _ v => if v 0 < 0 then -(v 0) else v 0

/-- DivLane (R117): quotient and remainder. -/
def divLane (w : Nat) (a b : Int) : Int × Int :=
  if b = 0 then (2 ^ w - 1, a) else (a.tdiv b, a.tmod b)

/-- DIV and REM (R117); the divide flag is set when some lane divides by zero. -/
def divOp (rem : Bool) (x : FireIn) : CRes :=
  match intOp 2 false (fun w v => if rem then (divLane w (v 0) (v 1)).2 else (divLane w (v 0) (v 1)).1) x with
  | .val p c _ => .val p c ((List.range x.out.fmt.lanes).any fun i => x.b.ilane x.w.signed i == 0)
  | r => r

def cDiv := divOp false
def cRem := divOp true

/-! ## Float group -/

/-- Float instructions of one result per lane: arity, function check, flags 0, and the exact value of the lane. -/
def floatOp (arity : Nat) (fnOk : Nat → Bool) (f : Nat → (Nat → Num) → Num) (x : FireIn) : CRes :=
  if x.w.arityN != arity || !fnOk x.w.fnN || x.w.flagsN != 0 then .illegal
  else if !(x.ops.all fun o => o.fmt.cls == .float) || x.out.fmt.cls != .float || !x.sameLanes then .malformed
  else .ofPair (joinLanes x.out.fmt ((List.range x.out.fmt.lanes).map fun i =>
    let r := encodeLane x.out false x.outSc i (f x.w.fnN fun k => ((x.op k).lane false i).1)
    (r.1, x.ops.foldl (fun m o => m ||| (o.lane false i).2) r.2)))

def fnZero (n : Nat) : Bool := n == 0

/-- The sum of `a` and `b` exactly, with the zero sign of R77 for the mode. -/
def cFadd (x : FireIn) : CRes := floatOp 2 fnZero (fun _ v => sumExact x.out.round [v 0, v 1]) x
def cFsub (x : FireIn) : CRes := floatOp 2 fnZero (fun _ v => sumExact x.out.round [v 0, (v 1).neg]) x
def cFmul (x : FireIn) : CRes := floatOp 2 fnZero (fun _ v => (v 0).mul (v 1)) x
def cFma (x : FireIn) : CRes := floatOp 3 fnZero (fun _ v => sumExact x.out.round [(v 0).mul (v 1), v 2]) x

/-- FMIN and FMAX (R119): −0 below +0; a single NaN operand is ignored. -/
def fminNum (a b : Num) : Num :=
  if a.isNan then b else if b.isNan then a else if rankLt b a then b else a
def fmaxNum (a b : Num) : Num :=
  if a.isNan then b else if b.isNan then a else if rankLt a b then b else a

def cFmin := floatOp 2 fnZero fun _ v => fminNum (v 0) (v 1)
def cFmax := floatOp 2 fnZero fun _ v => fmaxNum (v 0) (v 1)
def cFsgn := floatOp 2 (fun n => n ≤ 2) fun n v =>
  (v 0).withSign (match n with
    | 0 => (v 1).sign
    | 1 => !(v 1).sign
    | _ => (v 0).sign != (v 1).sign)
def cFrcp := floatOp 1 fnZero fun _ v => (Num.fin false 1 1).div (v 0)

/-- One Newton step of the integer square root. -/
def isqrtIter (n : Nat) : Nat → Nat → Nat
  | 0, x => x
  | k + 1, x =>
    let y := (x + n / x) / 2
    if y < x then isqrtIter n k y else x

/-- Floor of the square root: Newton's iteration from above, `k` steps at most. -/
def isqrtFuel (k n : Nat) : Nat := if n == 0 then 0 else isqrtIter n k (2 ^ (Nat.log2 n / 2 + 1))

/-- Floor of the square root. -/
def isqrt (n : Nat) : Nat := isqrtFuel (Nat.log2 n + 4) n

/-- A value known to lie strictly between `r / 2^p` and `(r+1) / 2^p`: its midpoint, which rounds the same way into
every format, because every rounding boundary is a multiple of `2^-p`. -/
def between (neg : Bool) (r p : Nat) : Num := .fin neg (2 * r + 1) (2 ^ (p + 1))

/-- 1/√a (R120). -/
def frsqNum (v : Num) : Num :=
  match v with
  | .nan _ => .nan false
  | .inf s => if s then .nan false else .fin false 0 1
  | .fin s n d =>
    if n == 0 then .inf s
    else if s then .nan false
    else
      -- 1/√(n/d) = √(d/n); p leaves at least 80 significant bits
      let p := 96 + Nat.log2 n
      let q := d * 2 ^ (2 * p) / n
      let r := isqrt q
      if r * r * n == d * 2 ^ (2 * p) then .fin false r (2 ^ p) else between false r p

def cFrsq := floatOp 1 fnZero fun _ v => frsqNum (v 0)

/-- `2^F` for `F = f / 2^k < 1`, as a fixed-point number with `W` fraction bits: the product of the constants
`2^(2^-i)` over the set bits of `F`; `c` is the constant of the next bit. -/
def exp2Frac (W f : Nat) : Nat → Nat → Nat → Nat
  | 0, _, acc => acc
  | k + 1, c, acc =>
    let acc := if f / 2 ^ k % 2 == 1 then acc * c / 2 ^ W else acc
    exp2Frac W f k (isqrtFuel 24 (c * 2 ^ W)) acc

/-- 2^a (R120). An `a` beyond ±4096 gives a power far beyond every format, on its side. -/
def fexp2Num (v : Num) : Num :=
  match v with
  | .nan _ => .nan false
  | .inf s => if s then .fin false 0 1 else .inf false
  | .fin s n d =>
    if 4096 * d ≤ n then (if s then between false 0 4096 else .fin false (2 ^ 4096) 1)
    else
      let i := Num.inum s n / (d : Int)
      let f := (Num.inum s n % (d : Int)).toNat
      if f == 0 then .ofScaled false 1 i
      else
        let W := 320
        let m := exp2Frac W f (Nat.log2 d) (isqrt (2 ^ (2 * W + 1))) (2 ^ W)
        let r := m / 2 ^ 64
        if 0 ≤ i then .fin false ((2 * r + 1) * 2 ^ i.toNat) (2 ^ 257)
        else .fin false (2 * r + 1) (2 ^ (257 + (-i).toNat))

def cFexp2 := floatOp 1 fnZero fun _ v => fexp2Num (v 0)

/-- The first bits of log₂ m for `1 ≤ m < 2` held with `W` fraction bits, by repeated squaring. -/
def log2Frac (W : Nat) : Nat → Nat → Nat → Nat
  | 0, _, acc => acc
  | k + 1, x, acc =>
    let y := x * x / 2 ^ W
    if 2 ^ (W + 1) ≤ y then log2Frac W k (y / 2) (2 * acc + 1) else log2Frac W k y (2 * acc)

/-- log₂ a (R120). -/
def flog2Num (v : Num) : Num :=
  match v with
  | .nan _ => .nan false
  | .inf s => if s then .nan false else .inf false
  | .fin s n d =>
    if n == 0 then .inf true
    else if s then .nan false
    else
      let e := floorLog2 n d
      let pw := if 0 ≤ e then n == d * 2 ^ e.toNat else n * 2 ^ (-e).toNat == d
      if pw then .ofInt e
      else
        let W := 384
        let m := if 0 ≤ e then n * 2 ^ W / (d * 2 ^ e.toNat) else n * 2 ^ (W + (-e).toNat) / d
        let r := log2Frac W 160 m 0
        -- the value lies strictly between e + r/2^160 and e + (r+1)/2^160
        let t := e * 2 ^ 161 + (2 * r + 1 : Nat)
        .fin (decide (t < 0)) t.natAbs (2 ^ 161)

def cFlog2 := floatOp 1 fnZero fun _ v => flog2Num (v 0)

/-- Convert of R121 of one lane. -/
def fcvtLane (x : FireIn) (i o : Nat) : Nat × Nat :=
  let fn := x.w.fnN
  let v := x.a.lane (fn / 8 % 2 == 1) i
  let r := encodeLane x.out (fn / 16 == 1) x.outSc o v.1
  (r.1, r.2 ||| v.2)

/-- FCVT (R121). -/
def cFcvt (x : FireIn) : CRes :=
  let ar := x.w.arityN
  if (ar != 1 && ar != 2) || x.w.flagsN != 0 then .illegal
  else
    let fa := x.a.fmt
    let fo := x.out.fmt
    let p := x.w.fnN % 8
    let si := x.w.fnN / 8 % 2 == 1
    if fa.cls == .raw || fo.cls == .raw || (si && fa.cls == .float) then .malformed
    else if fo.lanes == fa.lanes then
      if ar != 1 || p != 0 then .malformed
      else .ofPair (joinLanes fo ((List.range fo.lanes).map fun i => fcvtLane x i i))
    else if fa.lanes < fo.lanes then
      let r := fo.lanes / fa.lanes
      if r ≤ p || (ar == 2 && x.b.fmt != fo) then .malformed
      else
        let old := if ar == 2 then x.b.passBits x.out else (0, 0)
        let res := joinLanes fo ((List.range fo.lanes).map fun i =>
          if p * fa.lanes ≤ i && i < (p + 1) * fa.lanes then fcvtLane x (i - p * fa.lanes) i
          else (laneOf fo old.1 i, 0))
        .val res.1 (res.2 ||| old.2) false
    else
      let r := fa.lanes / fo.lanes
      if ar != 1 || r ≤ p then .malformed
      else .ofPair (joinLanes fo ((List.range fo.lanes).map fun i => fcvtLane x (p * fo.lanes + i) i))

/-- The class code of R122 of a code of format `f`. -/
def classCode (f : Fmt) (code : Nat) : Nat :=
  let v := fmtValue f code
  match v.1 with
  | .nan s => if s then 9 else 8
  | .inf s => if s then 7 else 6
  | .fin s n _ => (if n == 0 then 0 else if v.2 then 2 else 4) + (if s then 1 else 0)

/-- The integer format with `n` lanes. -/
def intFmtOfLanes (n : Nat) : Option Fmt :=
  match n with
  | 1 => some .i64 | 2 => some .i32 | 4 => some .i16 | 8 => some .i8 | _ => none

/-- FCLASS (R122). -/
def cFclass (x : FireIn) : CRes :=
  if x.w.arityN != 1 || x.w.fnN != 0 || x.w.flagsN != 0 then .illegal
  else
    let fa := x.a.fmt
    let want := (intFmtOfLanes fa.lanes).getD .raw
    if fa.cls != .float || x.out.fmt != want then .malformed
    else
      let bits := (x.a.passBits x.out).1
      let w := 64 / fa.lanes
      .val ((List.range fa.lanes).foldl (fun m i => m + classCode fa (laneOf fa bits i) * 2 ^ (w * i)) 0) 0 false

/-- FDOT (R123). -/
def cFdot (x : FireIn) : CRes :=
  let ar := x.w.arityN
  if (ar != 2 && ar != 3) || x.w.fnN != 0 || x.w.flagsN != 0 then .illegal
  else
    let L := x.a.fmt.lanes
    let Lo := x.out.fmt.lanes
    if !(x.ops.all fun o => o.fmt.cls == .float) || x.out.fmt.cls != .float || x.b.fmt.lanes != L
        || L % Lo != 0 || (ar == 3 && x.c.fmt.lanes != Lo) then .malformed
    else
      let g := L / Lo
      .ofPair (joinLanes x.out.fmt ((List.range Lo).map fun j =>
        let ps := (List.range g).map fun i => ((x.a.lane false (j * g + i)), (x.b.lane false (j * g + i)))
        let c := if ar == 3 then [x.c.lane false j] else []
        let t := sumExact x.out.round ((ps.map fun p => p.1.1.mul p.2.1) ++ c.map (·.1))
        let r := encodeLane x.out false x.outSc j t
        (r.1, c.foldl (fun m y => m ||| y.2) (ps.foldl (fun m p => m ||| p.1.2 ||| p.2.2) r.2))))

/-- AMAX (R124). -/
def cAmax (x : FireIn) : CRes :=
  let ar := x.w.arityN
  if (ar != 1 && ar != 2) || x.w.fnN != 0 || 2 ≤ x.w.flagsN then .illegal
  else if x.a.fmt.cls != .float || x.out.fmt.cls != .float || (ar == 2 && x.b.fmt != x.out.fmt) then .malformed
  else
    let ls := ((List.range x.a.fmt.lanes).map fun i => x.a.lane false i) ++
      (if ar == 2 then [x.b.lane false 0] else [])
    let cs := ls.foldl (fun m y => m ||| y.2) 0
    let vs := ls.map (·.1)
    let v := if x.w.flagsN == 1 then (if vs.any Num.isNan then Num.nan false else maxAbs vs)
      else maxAbs (vs.filter fun y => !y.special)
    let r := encodeLane x.out false x.outSc 0 v
    .val (r.1 % 2 ^ x.out.fmt.width) (cs ||| r.2) false

/-! ## Compare and select -/

/-- The out format and the result of R126 from the lane results. -/
def cmpResult (x : FireIn) (lanes : Nat) (res : List Bool) : CRes :=
  if x.w.flagsN == 0 then
    let want := (intFmtOfLanes lanes).getD .raw
    if x.out.fmt != want then .malformed
    else
      let w := 64 / lanes
      .val (res.foldr (fun b m => (if b then 2 ^ w - 1 else 0) + 2 ^ w * m) 0) 0 false
  else if x.out.fmt != .i64 then .malformed
  else .val (if (if x.w.flagsN == 1 then res.any id else res.all id) then 1 else 0) 0 false

/-- CMP (R125, R126). -/
def cCmp (x : FireIn) : CRes :=
  let p := x.w.fnN / 2 % 8
  if x.w.arityN != 2 || 16 ≤ x.w.fnN || 6 ≤ p || 3 ≤ x.w.flagsN then .illegal
  else if !(x.ops.all fun o => o.fmt.cls == .int) || x.a.fmt.lanes != x.b.fmt.lanes then .malformed
  else
    let n := x.a.fmt.lanes
    cmpResult x n ((List.range n).map fun i =>
      let a := x.a.ilane x.w.signed i
      let b := x.b.ilane x.w.signed i
      match p with
      | 0 => decide (a = b)
      | 1 => decide (a ≠ b)
      | 2 => decide (a < b)
      | 3 => decide (a ≤ b)
      | 4 => decide (b < a)
      | _ => decide (b ≤ a))

/-- The IEEE predicates of R125. -/
def fcmpIeee (p : Nat) (a b : Num) : Bool :=
  let un := a.isNan || b.isNan
  match p with
  | 0 => a.eqv b
  | 1 => un || !(a.eqv b)
  | 2 => !un && a.lt b
  | 3 => !un && !(b.lt a)
  | 4 => !un && b.lt a
  | 5 => !un && !(a.lt b)
  | 6 => un
  | _ => !un

/-- The `.tot` predicates of R125, under the total order of R88. -/
def fcmpTot (p : Nat) (a b : Num) : Bool :=
  match p with
  | 0 => !rankLt a b && !rankLt b a
  | 1 => rankLt a b || rankLt b a
  | 2 => rankLt a b
  | 3 => !rankLt b a
  | 4 => rankLt b a
  | _ => !rankLt a b

/-- FCMP (R125, R126). -/
def cFcmp (x : FireIn) : CRes :=
  let p := x.w.fnN % 8
  let tot := x.w.fnN / 8 % 2 == 1
  if x.w.arityN != 2 || 16 ≤ x.w.fnN || (tot && 6 ≤ p) || 3 ≤ x.w.flagsN then .illegal
  else if !(x.ops.all fun o => o.fmt.cls == .float) || x.a.fmt.lanes != x.b.fmt.lanes then .malformed
  else
    let n := x.a.fmt.lanes
    let ls := (List.range n).map fun i => (x.a.lane false i, x.b.lane false i)
    match cmpResult x n (ls.map fun q => if tot then fcmpTot p q.1.1 q.2.1 else fcmpIeee p q.1.1 q.2.1) with
    | .val v _ d => .val v (ls.foldl (fun m q => m ||| q.1.2 ||| q.2.2) 0) d
    | r => r

/-- SEL (R127). -/
def cSel (x : FireIn) : CRes :=
  if x.w.arityN != 3 || x.w.fnN != 0 || x.w.flagsN != 0 then .illegal
  else
    let f := x.out.fmt
    if x.a.fmt != f || x.b.fmt != f || (x.c.fmt != .raw && x.c.fmt.lanes != f.lanes) then .malformed
    else
      let a := x.a.passBits x.out
      let b := x.b.passBits x.out
      let c := (x.c.passBits x.out).1
      let w := 64 / f.lanes
      .val (ofLanes f ((List.range f.lanes).map fun i =>
        if c / 2 ^ (w * i) % 2 ^ w != 0 then laneOf f a.1 i else laneOf f b.1 i)) (a.2 ||| b.2) false

/-! ## Bytes and hashing (R128) -/

def byteAt (p i : Nat) : Nat := p / 2 ^ (8 * i) % 256

/-- The out channel of a byte instruction is I64 or RAW (R128). -/
def rawOut (x : FireIn) : Bool := x.out.fmt == .i64 || x.out.fmt == .raw

/-- A mask of the indexes 0 to 7 at which `f` holds. -/
def mask8 (f : Nat → Bool) : Nat := (List.range 8).foldl (fun m i => m + (if f i then 2 ^ i else 0)) 0

/-- BCMP (R129). -/
def cBcmp (x : FireIn) : CRes :=
  let ar := x.w.arityN
  if (ar != 2 && ar != 3) || x.w.fnN != 0 || x.w.flagsN != 0 then .illegal
  else if !rawOut x then .malformed
  else
    let a := x.a.raw
    let b := x.b.raw
    let n := if ar == 3 then min x.c.raw 8 else 8
    let eq := mask8 fun i => n ≤ i || byteAt a i == byteAt b i
    let lt := mask8 fun i => decide (i < n) && decide (byteAt a i < byteAt b i)
    let first := ((List.range 8).find? fun i => decide (i < n) && byteAt a i != byteAt b i).getD 8
    let ltb := if first < 8 && byteAt a first < byteAt b first then 1 else 0
    .val (eq + lt * 2 ^ 8 + first * 2 ^ 16 + ltb * 2 ^ 24) 0 false

/-- BFIND (R130). -/
def cBfind (x : FireIn) : CRes :=
  if x.w.arityN != 2 || 3 ≤ x.w.fnN || x.w.flagsN != 0 then .illegal
  else if !rawOut x then .malformed
  else
    let k0 := byteAt x.b.raw 0
    let k1 := byteAt x.b.raw 1
    let f := fun i =>
      let c := byteAt x.a.raw i
      match x.w.fnN with
      | 0 => c == k0
      | 1 => c != k0
      | _ => decide (k0 ≤ c) && decide (c ≤ k1)
    let m := mask8 f
    let low := ((List.range 8).find? f).getD 8
    .val (m + low * 2 ^ 8 + popcount 8 m * 2 ^ 12) 0 false

/-- BPERM (R131). -/
def cBperm (x : FireIn) : CRes :=
  let ar := x.w.arityN
  if (ar != 2 && ar != 3) || x.w.fnN != 0 || x.w.flagsN != 0 then .illegal
  else if !rawOut x then .malformed
  else .val ((List.range 8).foldl (fun m i =>
    let s := byteAt x.b.raw i
    let v := if 128 ≤ s then 0
      else
        let k := s % 16
        if k < 8 then byteAt x.a.raw k else if ar == 3 then byteAt x.c.raw (k - 8) else 0
    m + v * 2 ^ (8 * i)) 0) 0 false

/-- Hash64 (R132). -/
def hash64 (a b : Word) : Word :=
  let h := a ^^^ (b.rotateLeft 23) ^^^ 0x6A1F4C3BD28095E7#64
  let h := h ^^^ (h >>> 32)
  let h := h * 0xC3A59E274D1B86F5#64
  let h := h ^^^ (h >>> 29)
  let h := h * 0x8F1BB6E52C79D04B#64
  h ^^^ (h >>> 32)

/-- HASH64 (R132). -/
def cHash64 (x : FireIn) : CRes :=
  let ar := x.w.arityN
  if (ar != 1 && ar != 2) || x.w.fnN != 0 || x.w.flagsN != 0 then .illegal
  else if !rawOut x then .malformed
  else .val (hash64 (BitVec.ofNat 64 x.a.raw) (if ar == 2 then BitVec.ofNat 64 x.b.raw else 0)).toNat 0 false

/-- One bit of CRC-32C (R133). -/
def crcBit (c : Nat) : Nat := if c % 2 == 1 then (c / 2) ^^^ 0x82F63B78 else c / 2

/-- One byte of CRC-32C (R133). -/
def crcByte (c b : Nat) : Nat :=
  crcBit (crcBit (crcBit (crcBit (crcBit (crcBit (crcBit (crcBit (c ^^^ b))))))))

/-- CRC32C (R133). -/
def cCrc32c (x : FireIn) : CRes :=
  if x.w.arityN != 2 || 8 ≤ x.w.fnN || x.w.flagsN != 0 then .illegal
  else if !rawOut x then .malformed
  else .val ((List.range (x.w.fnN + 1)).foldl (fun c i => crcByte c (byteAt x.a.raw i)) (x.b.raw % 2 ^ 32)) 0 false

/-! ## DFASTEP (R134) -/

/-- Table entry size of DFASTEP. -/
def dfaSize (fn : Nat) : Nat :=
  match fn / 8 with
  | 0 => 2 | 1 => 4 | _ => 8

/-- DFASTEP: the payload of the request token; the cases that do not fit are Malformed. -/
def cDfastep (x : FireIn) : CRes :=
  if x.w.arityN != 2 || 24 ≤ x.w.fnN || x.w.flagsN != 0 then .illegal
  else
    let sz := dfaSize x.w.fnN
    let off := (x.a.raw % 2 ^ 32 * 256 + x.b.raw % 256) * sz
    let k := x.w.const.toNat
    let d := x.w.d0
    if 2 ^ 41 ≤ off || !d.valid || d.elem.toNat % 128 < 64 || 80 ≤ d.elem.toNat % 128 || d.slot != 0 || d.port != 0
        || x.w.d1.valid || k / 2 ^ 23 != 0 then .malformed
    else .val (off + k % 2 ^ 23 * 2 ^ 41) 0 false

end Sys2Proof
end

