-- ==== Sys2Proof/Machine/Operands.lean ====
section
/-! DEFINITION. Operand forms: immediates, branch targets and the M-format address of control-core instructions
(R51, R280 to R284); the operand sources of a firing (R93, R94). -/
namespace Sys2Proof.Machine

/-- Sign extension of a field to 64 bits (R51, R280). -/
def sext {n : Nat} (v : BitVec n) : Word := v.signExtend 64

/-- A branch or jump target: the instruction's address plus 4 × offset (R51, R282). -/
def branchTarget {n : Nat} (pc : Word) (off : BitVec n) : Word := pc + 4 * sext off

/-- Bytes of a size code (R52). -/
def sizeBytes {n : Nat} (z : BitVec n) : Nat := 2 ^ (z.toNat % 4)

/-- The M-format address (R283): base + offset × size. -/
def memAddr (s : State) (b : Reg) (size : BitVec 2) (off : BitVec 8) : Word :=
  s.g b + BitVec.ofNat 64 (sizeBytes size) * sext off

/-- The test conditions of BT (R282). -/
def testCond (c : BitVec 3) (v : Word) : Bool :=
  match c.toNat with
  | 0 => v == 0
  | 1 => v != 0
  | 2 => v.msb
  | 3 => !v.msb
  | 4 => !v.msb && v != 0
  | 5 => v.msb || v == 0
  | 6 => v.getLsbD 0
  | _ => !v.getLsbD 0

/-- The compare conditions of BC (R282). -/
def compareCond (c : BitVec 3) (a b : Word) : Bool :=
  match c.toNat with
  | 0 => a == b
  | 1 => a != b
  | 2 => a.slt b
  | 3 => !(a.slt b)
  | 4 => a.ult b
  | 5 => !(a.ult b)
  | 6 => (a &&& b) != 0
  | _ => (a &&& b) == 0

/-- New value of an atomic operation of width `n` bytes (R193, R286): 0 swap, 1 add, 2 and, 3 or, 4 xor, 5 and 6
signed minimum and maximum, 7 and 8 unsigned. -/
def amoValue (op n old b : Nat) : Nat :=
  let w := 8 * n
  let m := 2 ^ w
  let sg := fun x => intValue w true x
  match op with
  | 0 => b % m
  | 1 => (old + b) % m
  | 2 => old &&& (b % m)
  | 3 => old ||| (b % m)
  | 4 => old ^^^ (b % m)
  | 5 => if sg b < sg old then b % m else old
  | 6 => if sg old < sg b then b % m else old
  | 7 => if b % m < old then b % m else old
  | _ => if old < b % m then b % m else old

/-! ## Operand sources of a firing (R93, R94) -/

/-- The active configuration's bank of an element. -/
def ElemState.bank (e : ElemState) : ConfBank := Sparse.atD e.confs e.active {}
def ElemState.updBank (e : ElemState) (f : ConfBank → ConfBank) : ElemState :=
  { e with confs := Sparse.put e.confs e.active (f e.bank) }
/-- A channel entry of the active configuration (R46). -/
def ElemState.chan (e : ElemState) (n : Nat) : Chan := Chan.ofBits (Sparse.atD e.bank.chans n 0).toNat
def ElemState.planes (e : ElemState) (slot : Nat) : Planes := Sparse.atD e.bank.planes slot {}
/-- The fields of a slot of the active configuration (R42). -/
def ElemState.slotW (e : ElemState) (slot : Nat) : Slot :=
  slotFields (e.planes slot).op (e.planes slot).route (e.planes slot).const

/-- The major opcode of a slot (R47). -/
def ElemState.opcode (e : ElemState) (slot : Nat) : Nat := bitsOf (e.planes slot).op.toNat 31 24

/-- Whether the active configuration has a static route from this element to element `d`: a slot with a static destination there
(R19, R40; DEDUCED, log 104: the route settings hold what the static destinations need, and nothing else). -/
def ElemState.staticTo (e : ElemState) (d : BitVec 16) : Bool :=
  (List.range 32).any fun k =>
    let w := e.slotW k
    e.opcode k != 0 && ((w.d0.valid && !w.d0.net && w.d0.elem == d) || (w.d1.valid && !w.d1.net && w.d1.elem == d))

/-- A scale register (R75). -/
def UnitState.sc (u : UnitState) (n : Nat) : Nat := (Sparse.atD u.scale n 0x3F806060).toNat

/-- The source mode of port `k` (0 a, 1 b, 2 c) of a slot (R42). -/
def slotMode (w : Slot) (k : Nat) : Nat :=
  match k with
  | 0 => w.amode.toNat | 1 => w.bmode.toNat | _ => w.cmode.toNat

/-- The token that a latch holds (R93), for port `k` of a slot of element `a`. A latch does not keep the network bit: it is 0
(DESIGN CHOICE, log 101). -/
def latchTok (a slot k : Nat) (l : Latch) : Token :=
  { rsv := 0, net := false, last := l.last, kind := l.kind, dest := BitVec.ofNat 16 a, port := BitVec.ofNat 2 k,
    slot := BitVec.ofNat 5 slot, chan := l.chan, seq := l.seq, ctx := BitVec.ofNat 8 (tagCtx l.tag),
    iter := BitVec.ofNat 16 (tagIter l.tag), payload := l.pay }

/-- The entry that feeds port `k` of the firing: of the matching store, or a latch as a latch-pending entry. -/
def Site.entry (x : Site) (k : Nat) : Option MsEntry :=
  match x.ents.find? fun e => e.1 == k with
  | some (_, e) => some e
  | none => (x.lats.find? fun l => l.1 == k).map fun l =>
    { tok := latchTok x.a x.slot k l.2, stamp := l.2.order, pend := true, past := l.2.past }

/-- Payload, channel and poison of a token-fed or latch-fed port of the firing. -/
def Site.fed (x : Site) (k : Nat) : Option (Word × BitVec 5 × Bool) :=
  (x.entry k).map fun m => (m.tok.payload, m.tok.chan, m.tok.kind == 7)

/-- The format that constants-plane and iteration ports take (R94): the first token-mode port's, else the first
latch's, else the out channel's. Under fire rule 1 the first token-mode port is the port of the entry taken (DESIGN CHOICE, log
101: R94 does not say which of the slot's token-mode ports it is). -/
def widenFmt (e : ElemState) (w : Slot) (x : Site) : Fmt :=
  let ports := (List.range w.arityN)
  let tok := ports.find? fun k => slotMode w k == 0 && (x.ents.any fun q => q.1 == k)
  let lat := ports.find? fun k => slotMode w k == 2
  match tok, lat with
  | some k, _ => match x.fed k with
    | some f => (e.chan f.2.1.toNat).fmt
    | none => (e.chan w.out.toNat).fmt
  | none, some k => match x.fed k with
    | some f => (e.chan f.2.1.toNat).fmt
    | none => (e.chan w.out.toNat).fmt
  | none, none => (e.chan w.out.toNat).fmt

/-- A constants-plane value (R94). -/
def constOpnd (f : Fmt) (ch : Chan) (signed : Bool) (k : BitVec 32) : Opnd :=
  let raw := k.toNat
  match f.cls with
  | .int =>
    let v := bitsLow f.width (intValue 32 signed raw)
    { fmt := f, chan := ch, sc := 0x3F806060, bits := ofLanes f ((List.range f.lanes).map fun _ => v), exact := none,
      raw := raw }
  | .raw => { fmt := f, chan := ch, sc := 0x3F806060, bits := raw, exact := none, raw := raw }
  | .float =>
    let v := fmtValue .fp32 raw
    { fmt := f, chan := ch, sc := 0x3F806060, bits := 0,
      exact := some (if ch.f32flush && v.2 then .fin v.1.sign 0 1 else v.1), raw := raw }

/-- An iteration value (R94). -/
def iterOpnd (f : Fmt) (ch : Chan) (it : Nat) : Opnd :=
  match f.cls with
  | .int => { fmt := f, chan := ch, sc := 0x3F806060,
              bits := ofLanes f ((List.range f.lanes).map fun _ => it % 2 ^ f.width), exact := none, raw := it }
  | .raw => { fmt := f, chan := ch, sc := 0x3F806060, bits := it, exact := none, raw := it }
  | .float => { fmt := f, chan := ch, sc := 0x3F806060, bits := 0, exact := some (Num.ofNat it), raw := it }

/-- The channel entry that decodes the widened ports: that of the port whose format they take (R94). -/
def widenChan (e : ElemState) (w : Slot) (x : Site) : Chan :=
  let ports := (List.range w.arityN)
  match ports.find? (fun k => slotMode w k == 0 && (x.ents.any fun q => q.1 == k)), ports.find? (fun k => slotMode w k == 2) with
  | some k, _ => match x.fed k with
    | some f => e.chan f.2.1.toNat
    | none => e.chan w.out.toNat
  | none, some k => match x.fed k with
    | some f => e.chan f.2.1.toNat
    | none => e.chan w.out.toNat
  | none, none => e.chan w.out.toNat

/-- The operands a, b, c of a firing (R93). Under rule 1 a token-mode port other than the one taken has no value: it is
a free value (log 12), drawn by the number `n`. -/
def operands (e : ElemState) (u : UnitState) (w : Slot) (x : Site) (n : Nat) : List Opnd :=
  (List.range w.arityN).map fun k =>
    match slotMode w k with
    | 1 => constOpnd (widenFmt e w x) (widenChan e w x) w.signed w.const
    | 3 => iterOpnd (widenFmt e w x) (widenChan e w x) (tagIter x.tag)
    | _ => match x.fed k with
      | some (p, c, _) =>
        let ch := e.chan c.toNat
        { fmt := ch.fmt, chan := ch, sc := u.sc ch.scale, bits := p.toNat, exact := none, raw := p.toNat }
      | none =>
        let v := (Config.freeWord (3 * n + k)).toNat
        let ch := e.chan w.out.toNat
        { fmt := ch.fmt, chan := ch, sc := u.sc ch.scale, bits := v, exact := none, raw := v }

/-- The input of a compute function for the firing (R92: channels and scale registers as they stand now). -/
def fireIn (e : ElemState) (u : UnitState) (w : Slot) (x : Site) (n : Nat) : FireIn :=
  let out := e.chan w.out.toNat
  { w := w, ops := operands e u w x n, out := out, outSc := u.sc out.scale }

end Sys2Proof.Machine
end

