-- ==== Sys2Proof/Machine/Firing.lean ====
section
/-! DEFINITION. A firing (R95 to R101, R109): contexts and tags, what a firing consumes and emits, the frame that every
instruction of an element follows, and the choice among matched sets. The order of checks in a firing: operation, function,
flags, arity, fire rule and element kind (R49, R96, R137); the gate p (R96); poison (R109); formats (R68); the effect. -/
namespace Sys2Proof.Machine

/-! ## Contexts and tags (R99, R100) -/

/-- Whether a context is valid: context 0, or bound. -/
def ctxBound (x : RegionState) (c : Nat) : Bool := c == 0 || (Sparse.atD x.ctxs c {}).bound

/-- ChildOf (R100). -/
def childOf (x : RegionState) (g : BitVec 24) : Option Nat :=
  (x.ctxs.find? fun p => p.2.bound && !p.2.orphan && p.2.parent.toNat == tagCtx g && p.2.iter == tagIter g).map (·.1)

/-- The tag of a context's parent; none for the root and for a context whose parent was freed (R144). -/
def parentTag (x : RegionState) (c : Nat) : Option (BitVec 24) :=
  let k := Sparse.atD x.ctxs c {}
  if c == 0 || !k.bound || k.orphan then none else some (mkTag k.parent.toNat k.iter)

/-- The lowest free context (R143). -/
def freeCtx (x : RegionState) : Option Nat := (List.range 256).find? fun c => !ctxBound x c

/-- Free a context: its children stay bound and lose their parent (R144). -/
def freeOf (x : RegionState) (c : Nat) : RegionState :=
  { x with ctxs := (Sparse.del x.ctxs c).map fun p =>
      if p.2.bound && p.2.parent.toNat == c then (p.1, { p.2 with orphan := true }) else p }

/-- ApplyTagOp (R99). -/
def applyTagOp (x : RegionState) (op : Nat) (g : BitVec 24) (q : BitVec 4) (pay : Word) : Option (BitVec 24 × BitVec 4) :=
  match op with
  | 0 => some (g, q)
  | 1 => if tagIter g == 0xFFFF then none else some (mkTag (tagCtx g) (tagIter g + 1), q)
  | 2 => (childOf x g).map fun k => (mkTag k 0, q)
  | 3 => (parentTag x (tagCtx g)).map fun p => (p, q)
  | 4 => some (mkTag (tagCtx g) (pay.toNat % 65536), q)
  | 5 => some (g, q + 1)
  | _ => none

/-! ## Emission (R98, R99, R102) -/

/-- The emitting slot as a number: it fixes the order of delivery (R102). -/
def srcOf (r a slot : Nat) : Nat := (65536 * r + a) * 32 + slot

/-- A result token before its destination is applied. -/
structure Emission where
  kind : BitVec 4
  pay  : Word
  tag  : BitVec 24
  seq  : BitVec 4
  last : Bool
  chan : BitVec 5
  past : Past := []
deriving DecidableEq, Repr, Inhabited

/-- Put a token on the networks of a region, with what happens before it. -/
def State.send (s : State) (src r : Nat) (t : Token) (l : Past := []) : State :=
  { s with net := s.net ++ [{ src := src, r := r, tok := t, past := l }] }

/-- Emit to one destination of slot `slot` of element `a` of region `r`, firing under tag `fg`. On a poison token
operation 4 keeps the iteration (R109); a failing operation raises TagOverflow for that destination only (R99). -/
def State.emitAt (s : State) (r a slot : Nat) (fg : BitVec 24) (d : Dest) (e : Emission) : State :=
  if !d.valid then s
  else
    let op := if d.tagop.toNat == 4 && e.kind == 7 then 0 else d.tagop.toNat
    match applyTagOp (s.region r) op e.tag e.seq e.pay with
    | none => s.raise r fcTagOverflow a slot fg.toNat 0 0
    | some (g, q) => s.send (srcOf r a slot) r
        { rsv := 0, net := d.net, last := e.last, kind := e.kind, dest := d.elem, port := d.port, slot := d.slot,
          chan := e.chan, seq := q, ctx := BitVec.ofNat 8 (tagCtx g), iter := BitVec.ofNat 16 (tagIter g), payload := e.pay } e.past

/-- Which destinations receive a token. -/
inductive Which where
  | d0 | d1 | both
deriving DecidableEq, Repr, Inhabited

/-- Emit a result of the firing to its slot's destinations, dest0 first (R102). -/
def State.emit (s : State) (w : Slot) (dst : Which) (e : Emission) : State :=
  let x := s.site
  let s := if dst = .d1 then s else s.emitAt x.r x.a x.slot x.tag w.d0 e
  if dst = .d0 then s else s.emitAt x.r x.a x.slot x.tag w.d1 e

/-- What happens before a firing: what happens before the tokens of its set (R383, link 3). -/
def Site.past (x : Site) : Past :=
  (x.ents.map (·.2.past) ++ x.lats.map (·.2.past)).foldl joinPast []

/-- A data result under R98. -/
def State.out (s : State) (w : Slot) (pay : Word) : Emission :=
  { kind := 0, pay := pay, tag := s.site.tag, seq := s.site.seq, last := s.site.last, chan := w.out, past := s.site.past }

/-! ## Consumption (R93, R96) -/

/-- The oldest entry of a list by stamp. -/
def oldest (l : List MsEntry) : Option MsEntry :=
  l.foldl (fun b m => match b with
    | none => some m
    | some x => if m.stamp < x.stamp then some m else some x) none

/-- Move the oldest latch-pending entry of a port into its latch, if the latch is clear (R93). The entries are those of the
store: a latch-pending record in the spill area comes at its refill, be it older or not (DESIGN CHOICE, log 101). -/
def fillLatch (e : ElemState) (slot port : Nat) : ElemState :=
  let key := 4 * slot + port
  if (Sparse.atD e.bank.latches key {}).valid then e
  else match oldest (e.store.filter fun m => m.pend && m.tok.slot.toNat == slot && m.tok.port.toNat == port) with
    | none => e
    | some m =>
      let t := m.tok
      let l : Latch := { pay := t.payload, chan := t.chan, kind := t.kind, tag := tokTag t, seq := t.seq,
                         last := t.last, valid := true, order := e.stamp, past := m.past }
      { (e.updBank fun b => { b with latches := Sparse.put b.latches key l }) with
        store := e.store.filter fun q => q.stamp != m.stamp, stamp := e.stamp + 1 }

/-- Remove entries from the matching store. -/
def dropEnts (e : ElemState) (l : List (Nat × MsEntry)) : ElemState :=
  { e with store := e.store.filter fun m => !(l.any fun q => q.2.stamp == m.stamp) }

/-- The latches that a firing consumes: not port b's under rule 3, and none under rule 1, where R96 has only the entry consumed
and R93 would have the latch too (DESIGN CHOICE, log 101). -/
def consumedPorts (w : Slot) : List Nat :=
  (List.range w.arityN).filter fun k => slotMode w k == 2 && w.fire != 1 && !(w.fire == 3 && k == 1)

/-- Clear a latch and refill it. -/
def clearLatch (e : ElemState) (slot port : Nat) : ElemState :=
  fillLatch (e.updBank fun b => { b with latches := Sparse.del b.latches (4 * slot + port) }) slot port

/-- Consume the operand set of the firing. -/
def State.consume (s : State) (w : Slot) : State :=
  let x := s.site
  s.updElem x.r x.a fun e => (consumedPorts w).foldl (fun e k => clearLatch e x.slot k) (dropEnts e x.ents)

/-! ## Faults of a firing -/

/-- The slot fires nothing further until its configuration is reloaded, or the region is restarted or killed (R49). -/
def State.stopSlotAt (s : State) (r a slot : Nat) : State :=
  s.updElem r a fun e => { e with stopped := insertNat (32 * e.active + slot) e.stopped }

/-- The token of the set's first port in the order a, b, c, p among those that satisfy `p`; 0 where the set holds none. -/
def Site.firstTok (x : Site) (p : Nat → MsEntry → Bool) : Nat :=
  ((List.range 4).findSome? fun k => (x.entry k).bind fun m => if p k m then some (tokBits m.tok) else none).getD 0

/-- A fault of the firing, with the token of the record. -/
def State.siteFault (s : State) (code info token : Nat) : State :=
  s.raise s.site.r code s.site.a s.site.slot s.site.tag.toNat info token

/-- IllegalInstruction at a slot: the set stays, the slot stops (R49). -/
def State.slotIllegal (s : State) : Out :=
  .next ((s.siteFault fcIllegal 0 0).stopSlotAt s.site.r s.site.a s.site.slot)

/-- Malformed under R68: the set is consumed and the record carries its first operand token. -/
def State.siteMalformed (s : State) (w : Slot) : State :=
  (s.consume w).siteFault fcMalformed 0 (s.site.firstTok fun _ _ => true)

/-- Poison on a control port: the set stays, the slot stops (R109). -/
def State.sitePoison (s : State) : Out :=
  .next ((s.siteFault fcPoison 0 (s.site.firstTok fun _ m => m.tok.kind == 7)).stopSlotAt s.site.r s.site.a s.site.slot)

/-- Whether port `k` of the set holds poison. -/
def Site.poisonAt (x : Site) (k : Nat) : Bool :=
  match x.fed k with
  | some f => f.2.2
  | none => false

/-- The poison operand that comes first in the order a, b, c, p. -/
def Site.firstPoison (x : Site) : Option Word :=
  (List.range 4).findSome? fun k => match x.fed k with
    | some (p, _, true) => some p
    | _ => none

/-- The element kinds of R48. -/
def isComputeElem (a : Nat) : Bool := a % 128 < 64
def isMemElem (a : Nat) : Bool := 64 ≤ a % 128 && a % 128 < 80
def isAnyElem (a : Nat) : Bool := a % 128 < 96

/-- The firing counts as progress of its region (R270). -/
def State.progress (s : State) (r : Nat) : State := s.updRegion r fun x => { x with progress := true }

/-- The input of the firing. -/
def State.fin (s : State) (w : Slot) : FireIn :=
  fireIn (s.elem s.site.r s.site.a) (s.unit s.site.r s.site.a) w s.site s.free

/-- The checks before a firing's effect: form (`ok`), then the gate p of rule 2 (R96), unless the instruction reads p
itself. -/
def State.gated (s : State) (w : Slot) (ok ownGate : Bool) (k : State → Out) : Out :=
  if !ok then s.slotIllegal
  else
    let s := (s.progress s.site.r)
    let s := if w.fire == 1 then s.draw else s
    if w.fire == 2 && !ownGate then
      if s.site.poisonAt 3 then s.sitePoison
      else if ((s.site.fed 3).map (·.1)) == some 0 then .next (s.consume w)
      else k s
    else k s

/-- Poison under R109, for an instruction whose control ports are `ctl`. -/
def State.poisonRule (s : State) (w : Slot) (ctl : List Nat) (k : State → Out) : Out :=
  if ctl.any fun c => s.site.poisonAt c then s.sitePoison
  else match s.site.firstPoison with
    | some p => .next ((s.consume w).emit w .both { (s.out w p) with kind := 7 })
    | none => k s

/-- The firing of an instruction that keeps no state (R113 to R115): `f` computes, `ctl` are its control ports. -/
def State.fireCompute (s : State) (w : Slot) (ctl : List Nat) (f : FireIn → CRes) : Out :=
  let x := s.fin w
  let res := f x
  s.gated w (isComputeElem s.site.a && res != .illegal) false fun s => s.poisonRule w ctl fun s =>
    match res with
    | .illegal => s.slotIllegal
    | .malformed => .next (s.siteMalformed w)
    | .val p c d =>
      let s := (s.consume w).setCauses (s.coreOf s.site.r s.site.a) c
      let s := if d then s.setDivz (clusterOfCore (s.coreOf s.site.r s.site.a)) (s.region s.site.r).vd else s
      .next (s.emit w .both (s.out w (BitVec.ofNat 64 p)))

/-! ## Matched sets (R96) -/

/-- The window base of a context at an element (R101). -/
def State.winBaseOf (s : State) (r a c : Nat) : Nat := (Sparse.atD (s.unit r a).winBase c 0).toNat

/-- Age of a tag (R101). -/
def State.age (s : State) (r a : Nat) (g : BitVec 24) : Nat := (tagIter g + 65536 - s.winBaseOf r a (tagCtx g)) % 65536

/-- The entries of a slot that take part in matching, in arrival order. -/
def entriesOf (e : ElemState) (slot : Nat) : List MsEntry := e.store.filter fun m => !m.pend && m.tok.slot.toNat == slot

/-- The oldest entry on a port under a tag (R97). -/
def entryAt (l : List MsEntry) (port : Nat) (g : BitVec 24) : Option MsEntry :=
  oldest (l.filter fun m => m.tok.port.toNat == port && tokTag m.tok == g)

/-- The different tags of a list of entries. -/
def tagsOf (l : List MsEntry) : List (BitVec 24) := (l.map fun m => tokTag m.tok).eraseDups

/-- The latches of the ports of a slot that are in latch mode, with their ports. -/
def latchesOf (e : ElemState) (w : Slot) (slot : Nat) : List (Nat × Latch) :=
  ((List.range w.arityN).filter fun k => slotMode w k == 2).map fun k => (k, Sparse.atD e.bank.latches (4 * slot + k) {})

/-- A set as the firing sees it: sequence and last bit of the first entry in the order a, b, c, p (R98). -/
def mkSite (r a slot : Nat) (g : BitVec 24) (ents : List (Nat × MsEntry)) (lats : List (Nat × Latch)) : Site :=
  match ents with
  | (_, m) :: _ => { r := r, a := a, slot := slot, tag := g, seq := m.tok.seq, last := m.tok.last, ents := ents, lats := lats }
  | [] => { r := r, a := a, slot := slot, tag := g, lats := lats }

/-- The latch written last. -/
def lastLatch (l : List (Nat × Latch)) : Option Latch :=
  l.foldl (fun b q => match b with
    | none => some q.2
    | some x => if x.order < q.2.order then some q.2 else some x) none

/-- The matched sets of a slot under the fire rules of R96. Under rule 3 a latch-mode port a or c must be valid as under rule 0,
and the firing consumes it: R96 names only port b's latch (DESIGN CHOICE, log 101). -/
def matchedSets (e : ElemState) (r a slot : Nat) (w : Slot) : List Site :=
  let es := entriesOf e slot
  let lats := latchesOf e w slot
  let toks := (List.range w.arityN).filter fun k => slotMode w k == 0
  if w.fire.toNat == 1 then
    match oldest (es.filter fun m => toks.contains m.tok.port.toNat) with
    | some m => [mkSite r a slot (tokTag m.tok) [(m.tok.port.toNat, m)] (lats.filter fun l => l.2.valid)]
    | none => []
  else if !(lats.all fun l => l.2.valid) then []
  else if w.fire.toNat == 3 && w.bmode != 2 then []
  else
    let need := (if w.fire.toNat == 3 then toks.filter (· != 1) else toks) ++ (if w.fire.toNat == 2 then [3] else [])
    if need.isEmpty then
      match lastLatch lats with
      | some l => [{ mkSite r a slot l.tag [] lats with seq := l.seq, last := l.last }]
      | none => []
    else
      (tagsOf es).filterMap fun g =>
        let ents := need.filterMap fun k => (entryAt es k g).map fun m => (k, m)
        if ents.length == need.length then some (mkSite r a slot g ents lats) else none

/-- The choice of R101 among sets: age, context, slot. -/
def State.pick (s : State) (l : List Site) : Option Site :=
  let key := fun (x : Site) => (s.age x.r x.a x.tag * 256 + tagCtx x.tag) * 32 + x.slot
  l.foldl (fun b x => match b with
    | none => some x
    | some y => if key x < key y then some x else some y) none

end Sys2Proof.Machine
end

