-- ==== Sys2Proof/Machine/Control.lean ====
section
/-! DEFINITION. The control core's register, immediate, branch and jump instructions (R278 to R282), an instruction
word that is none (R53, R56) and a fetch that faults (R273). -/
namespace Sys2Proof.Machine

/-! ## Register forms (R278) -/

def execAdd (d a b : Reg) (s : State) : Out := s.alu d [a, b] (s.g a + s.g b)
def execSub (d a b : Reg) (s : State) : Out := s.alu d [a, b] (s.g a - s.g b)
def execMul (d a b : Reg) (s : State) : Out := s.alu d [a, b] (s.g a * s.g b)
/-- MULH: bits [127:64] of the signed product. -/
def execMulh (d a b : Reg) (s : State) : Out :=
  s.alu d [a, b] (BitVec.ofInt 64 ((s.g a).toInt * (s.g b).toInt / 2 ^ 64))
def execAnd (d a b : Reg) (s : State) : Out := s.alu d [a, b] (s.g a &&& s.g b)
def execOr (d a b : Reg) (s : State) : Out := s.alu d [a, b] (s.g a ||| s.g b)
def execXor (d a b : Reg) (s : State) : Out := s.alu d [a, b] (s.g a ^^^ s.g b)
/-- The amount of a register shift: b[5:0]. -/
def shiftBy (b : Word) : Nat := b.toNat % 64
def execSll (d a b : Reg) (s : State) : Out := s.alu d [a, b] (s.g a <<< shiftBy (s.g b))
def execSrl (d a b : Reg) (s : State) : Out := s.alu d [a, b] (s.g a >>> shiftBy (s.g b))
def execSra (d a b : Reg) (s : State) : Out := s.alu d [a, b] ((s.g a).sshiftRight (shiftBy (s.g b)))
/-- The truth value that SLT and SLTU write. -/
def truth (b : Bool) : Word := if b then 1 else 0
def execSlt (d a b : Reg) (s : State) : Out := s.alu d [a, b] (truth ((s.g a).slt (s.g b)))
def execSltu (d a b : Reg) (s : State) : Out := s.alu d [a, b] (truth ((s.g a).ult (s.g b)))
def execMin (d a b : Reg) (s : State) : Out := s.alu d [a, b] (if (s.g b).slt (s.g a) then s.g b else s.g a)
def execMax (d a b : Reg) (s : State) : Out := s.alu d [a, b] (if (s.g a).slt (s.g b) then s.g b else s.g a)
def execClz (d a : Reg) (s : State) : Out := s.alu d [a] (BitVec.ofNat 64 (countLz 64 (s.g a).toNat))
def execPopc (d a : Reg) (s : State) : Out := s.alu d [a] (BitVec.ofNat 64 (popcount 64 (s.g a).toNat))

/-! ## Division (R279) -/

/-- Quotient and remainder of DivLane (R117) with w = 64, as signed or unsigned numbers. -/
def divParts (signed : Bool) (a b : Word) : Word × Word :=
  let q := if signed then divLane 64 a.toInt b.toInt else divLane 64 a.toNat b.toNat
  (BitVec.ofInt 64 q.1, BitVec.ofInt 64 q.2)

/-- A division: a zero divisor sets DIVZ (R257, R279). -/
def State.divide (s : State) (d a b : Reg) (v : Word) : Out :=
  if s.waits [d, a, b] then .next s
  else (if s.g b = 0 then s.threadDivz else s).alu d [a, b] v

def execDiv (d a b : Reg) (s : State) : Out := s.divide d a b (divParts true (s.g a) (s.g b)).1
def execDivu (d a b : Reg) (s : State) : Out := s.divide d a b (divParts false (s.g a) (s.g b)).1
def execRem (d a b : Reg) (s : State) : Out := s.divide d a b (divParts true (s.g a) (s.g b)).2
def execRemu (d a b : Reg) (s : State) : Out := s.divide d a b (divParts false (s.g a) (s.g b)).2

/-! ## Immediate forms (R280, R281) -/

def execAddi (d a : Reg) (imm : BitVec 15) (s : State) : Out := s.alu d [a] (s.g a + sext imm)
def execAndi (d a : Reg) (imm : BitVec 15) (s : State) : Out := s.alu d [a] (s.g a &&& sext imm)
def execOri (d a : Reg) (imm : BitVec 15) (s : State) : Out := s.alu d [a] (s.g a ||| sext imm)
def execXori (d a : Reg) (imm : BitVec 15) (s : State) : Out := s.alu d [a] (s.g a ^^^ sext imm)
def execSlti (d a : Reg) (imm : BitVec 15) (s : State) : Out := s.alu d [a] (truth ((s.g a).slt (sext imm)))
/-- SLLI, SRLI and SRAI take v from 0 to 63 (R54). -/
def shiftImmOk (imm : BitVec 15) : Bool := decide (imm.toNat ≤ 63)
def execSlli (d a : Reg) (imm : BitVec 15) (s : State) : Out :=
  s.wellFormed (shiftImmOk imm) fun _ => s.alu d [a] (s.g a <<< imm.toNat)
def execSrli (d a : Reg) (imm : BitVec 15) (s : State) : Out :=
  s.wellFormed (shiftImmOk imm) fun _ => s.alu d [a] (s.g a >>> imm.toNat)
def execSrai (d a : Reg) (imm : BitVec 15) (s : State) : Out :=
  s.wellFormed (shiftImmOk imm) fun _ => s.alu d [a] ((s.g a).sshiftRight imm.toNat)
/-- LDHI: SignExtend(v) × 2^15. -/
def execLdhi (d : Reg) (imm : BitVec 20) (s : State) : Out := s.alu d [] (sext imm * 2 ^ 15)

/-! ## Branches and jumps (R282) -/

/-- Continue at a pc. -/
def State.goto (s : State) (pc : Word) : State := s.updMe fun x => { x with pc := pc }

/-- A branch on registers: taken to its target, else on to pc + 4. -/
def State.branch (s : State) (rs : List Reg) (take : Bool) (target : Word) : Out :=
  s.withRegs rs rs fun _ => .next (if take then s.goto target else s.advance)

def execBt (a : Reg) (c : BitVec 3) (off : BitVec 15) (s : State) : Out :=
  s.branch [a] (testCond c (s.g a)) (branchTarget s.me.pc off)
def execBc (a b : Reg) (c : BitVec 3) (off : BitVec 12) (s : State) : Out :=
  s.branch [a, b] (compareCond c (s.g a) (s.g b)) (branchTarget s.me.pc off)
/-- BDEC: with g0 the value formed is 2^64 − 1, and the branch is taken. -/
def execBdec (a : Reg) (off : BitVec 15) (s : State) : Out :=
  s.withRegs [a] [a] fun _ =>
    let v := s.g a - 1
    let t := s.updMe fun x => x.setReg a v false
    .next (if v != 0 then t.goto (branchTarget s.me.pc off) else t.advance)
def execJrel (d : Reg) (off : BitVec 20) (s : State) : Out :=
  s.withRegs [d] [] fun _ =>
    .next ((s.updMe fun x => x.setReg d (x.pc + 4) false).goto (branchTarget s.me.pc off))
/-- JIND: the target's alignment is checked first (R56, R273), then the poison of ga; gd may equal ga. -/
def execJind (d a : Reg) (imm : BitVec 15) (s : State) : Out :=
  let t := s.g a + sext imm
  s.withAligned [d, a] [a] (t.toNat % 4 != 0) t fun _ =>
    .next ((s.updMe fun x => x.setReg d (x.pc + 4) false).goto t)

/-! ## No instruction (R53, R56, R273) -/

/-- ILLEGAL_INSTRUCTION: the fetched word decodes to none, or a slot's opcode is unassigned (R49). -/
def execIllegalInstruction (s : State) : Out :=
  match s.turn with
  | .element _ _ => s.slotIllegal
  | _ => s.illegal

end Sys2Proof.Machine
end

