-- ==== Sys2Proof/Machine/Shelf.lean ====
section
/-! DEFINITION. The shelf of a cluster (R61, R172, R231 to R241, R266 to R268, R308): handles, granules and tiles,
allocation and growth, reads and their journal, and what a commit, a restart and a kill do to them. -/
namespace Sys2Proof.Machine

/-! ## Handles and granules -/

/-- The RID of a region's place (R295). -/
def State.rid (s : State) (r : Nat) : Nat :=
  r + 256 * (Sparse.atD (s.cluster (r / 64)).gens (r % 64) 0).toNat

/-- A handle (R61). -/
def mkHandle (core gran size gen : Nat) : Nat := core * 2 ^ 27 + gran * 2 ^ 17 + (size - 1) * 2 ^ 13 + gen % 8192
def Tile.handle (t : Tile) : Nat := mkHandle t.core t.gran t.size t.gen
def hCore (h : Nat) : Nat := bitsOf h 31 27
def hGran (h : Nat) : Nat := bitsOf h 26 17
def hSize (h : Nat) : Nat := bitsOf h 16 13 + 1
def hGen (h : Nat) : Nat := bitsOf h 12 0

/-- A well-formed handle (R61). -/
def handleOk (h : Nat) : Bool := hCore h ≤ 23 && hGran h + hSize h ≤ 1024

/-- The tile that a current handle names (R231). -/
def tileOf (c : ClusterState) (h : Nat) : Option Tile := c.tiles.find? fun t => t.handle == h

/-- A granule. -/
def granAt (c : ClusterState) (core g : Nat) : Granule := Sparse.atD c.granules (1024 * core + g) {}

/-- The tile that holds a granule. -/
def tileAt (c : ClusterState) (core g : Nat) : Option Tile :=
  c.tiles.find? fun t => t.core == core && t.gran ≤ g && g < t.gran + t.size

/-- A granule of partition `p` in no tile. -/
def granFree (c : ClusterState) (p core g : Nat) : Bool := (granAt c core g).part == some p && (tileAt c core g).isNone

/-- The granules of a partition, as keys 1024 × core + granule, in rising order. -/
def partGrans (c : ClusterState) (p : Nat) : List Nat := (c.granules.filter fun q => q.2.part == some p).map (·.1)
def partFree (c : ClusterState) (p : Nat) : List Nat := (partGrans c p).filter fun k => (tileAt c (k / 1024) (k % 1024)).isNone

/-- Give a granule to a partition, or back to plain. -/
def setPart (c : ClusterState) (k : Nat) (p : Option Nat) : ClusterState :=
  { c with granules := Sparse.upd c.granules k {} fun g => { g with part := p } }

/-- Return free granules of a partition above `n` to plain, the last ones first. -/
def shrinkTo (c : ClusterState) (p n : Nat) : ClusterState :=
  let extra := (partGrans c p).length - n
  (((partFree c p).reverse).take extra).foldl (fun c k => setPart c k none) c

/-- Free a tile (R231): its granules' generations advance, and granules above a lowered ceiling return to plain (R267). -/
def freeTile (c : ClusterState) (t : Tile) : ClusterState :=
  let c := { c with tiles := c.tiles.filter fun x => x.handle != t.handle,
                    journal := c.journal.filter fun j => j.handle != t.handle }
  let c := (List.range t.size).foldl (fun c i =>
    { c with granules := Sparse.upd c.granules (1024 * t.core + t.gran + i) {} fun g => { g with gen := (g.gen + 1) % 8192 } }) c
  shrinkTo c t.part (Sparse.atD c.parts t.part {}).ceil

/-- Replace a tile. -/
def putTile (c : ClusterState) (t : Tile) : ClusterState :=
  { c with tiles := replaceFirst (fun x => x.handle == t.handle) (fun _ => t) c.tiles }

/-- Whether the journal in an image of a saved region names a tile of a cluster's shelf (R236). -/
def State.savedNames (s : State) (cl : Nat) (t : Tile) : Bool :=
  s.images.any fun im => im.vd == t.vd && im.journal.any fun j => j.1 == cl && j.2.handle == t.handle

/-- Free a drained tile that no journal names, neither of the table nor, by `held`, of an image, and that nothing reads
(R236). -/
def settleTile (held : Tile → Bool) (c : ClusterState) (h : Nat) : ClusterState :=
  match tileOf c h with
  | some t =>
    if t.state == .drained && t.reading == 0 && !held t && !(c.journal.any fun j => j.handle == h) then freeTile c t else c
  | none => c

/-! ## Allocation (R232, R233, R266, R308) -/

/-- The cores in the order of R232: the issuing core first. -/
def coreOrder (own : Nat) : List Nat := own :: (List.range 24).filter (· != own)

/-- The first room of `n` granules in partition `p` (R232). -/
def roomFor (c : ClusterState) (p own n : Nat) : Option (Nat × Nat) :=
  (coreOrder own).findSome? fun k =>
    ((List.range (1025 - n)).find? fun g => (List.range n).all fun i => granFree c p k (g + i)).map fun g => (k, g)

/-- Whether a granule holds a block that the loader placed (R247): `abuf` blocks in core 0 of a standing placement. The placement of a
region that RGNLOAD keeps stands after its task has retired, until a start without a record or until the region is freed (DESIGN
CHOICE, log 121: R247 does not say when it ends). -/
def State.loadedGran (s : State) (cl core g : Nat) : Bool :=
  s.regions.any fun q => q.2.live && q.2.cores.head? == some (24 * cl + core) && (q.2.task.isSome || q.2.placed) &&
    s.dbg.images.any fun im => im.1 == q.2.vd && im.2.regions.any (fun ir => ir.descAt == q.2.desc) &&
      im.2.datas.any fun d => d.space == .abuf &&
        bitsOf d.addr.toNat 22 0 / 4096 ≤ g && g * 4096 < bitsOf d.addr.toNat 22 0 + d.bytes.length

/-- A plain granule that a partition may take (R308): the head's core first, the lowest index first. -/
def State.plainFor (s : State) (cl own : Nat) : Option Nat :=
  let c := s.cluster cl
  (coreOrder own).findSome? fun k =>
    ((List.range 1024).find? fun g => (granAt c k g).part == none && !s.loadedGran cl k g).map fun g => 1024 * k + g

/-- Grow a partition towards its ceiling until the head's request has room (R308). -/
def State.grow (s : State) (cl p own n : Nat) : Nat → State
  | 0 => s
  | fuel + 1 =>
    let c := s.cluster cl
    if (roomFor c p own n).isSome || (Sparse.atD c.parts p {}).ceil ≤ (partGrans c p).length then s
    else match s.plainFor cl own with
      | none => s
      | some k => (s.updCluster cl fun c => setPart c k (some p)).grow cl p own n fuel

/-- A tile for a request at a place that has room. -/
def newTile (c : ClusterState) (q : SReq) (p core g vd rid rank : Nat) (fedge : Word) (rd : List Word) : Tile :=
  { core := core, gran := g, size := q.size, gen := (granAt c core g).gen, state := .opened, count := q.count,
    expert := q.expert, shares := q.shares, readers := rd, part := p, vd := vd, region := rid, rank := rank,
    fedge := fedge, task := q.task, reading := 0, claims := [] }

/-! ## Events about a tile's allocator -/

/-- An event to the fault edge of a tile's allocating region (R236, R238). -/
def State.raiseTile (s : State) (cl : Nat) (t : Tile) (code : Nat) : State :=
  let ev := mkRecord code t.rank noElem 0 noSlot t.handle 0
  if (s.vd t.vd).dying then s
  else
    let n := s.noteEvent t.vd none none ev
    if n.2 then n.1.holdRecord cl t.fedge ev t.vd none
    else n.1.sendTo t.vd cl t.fedge ev

/-! ## Reads (R235, R236) -/

/-- The reader entry of a region on an expert tile: the entry that names its descriptor. -/
def readerEntry (t : Tile) (desc : Word) : Option Nat :=
  (List.range 4).find? fun i => t.readers[i]? == some desc && desc != 0

/-- The read check of a sealed tile for a region (R235 step 2): none where it may read, else the fault code. Reads in
progress that will decrement leave so much less to a consuming read (R243). -/
def readCheck (t : Tile) (vd : Nat) (desc : Word) (consume : Bool) : Option Nat :=
  let less := fun (n m : Nat) => if consume then n - m else n
  if t.vd != vd then some fcAccessFault
  else
    let spent := t.state != .sealed || less t.count t.claims.length == 0
    if t.expert then
      match readerEntry t desc with
      | none => some fcAccessFault
      | some i =>
        let sh := less ((t.shares[i]?).getD 0) (t.claims.filter (· == some i)).length
        if sh == 0 || spent then some fcShelfOverRead else none
    else if spent then some fcShelfOverRead else none

/-- The reader entry that a region's reads of a tile charge. -/
def chargeOf (t : Tile) (desc : Word) : Option Nat := if t.expert then readerEntry t desc else none

/-- Whether a consuming read has, or can get, its journal entry (R236). -/
def journalRoom (c : ClusterState) (rid h : Nat) : Bool :=
  c.journal.any (fun j => j.region == rid && j.handle == h) || c.journal.length < 16384

/-- Secure the journal entry of a consuming read (R235 step 2). -/
def journalOpen (c : ClusterState) (rid h : Nat) (e : Option Nat) : ClusterState :=
  if c.journal.any fun j => j.region == rid && j.handle == h then c
  else { c with journal := c.journal ++ [{ region := rid, handle := h, entry := e, count := 0 }] }

/-- The decrement of a consuming read (R235 step 5): count, share and journal; a count of 0 drains the tile. -/
def consumeRead (c : ClusterState) (t : Tile) (rid : Nat) (e : Option Nat) : ClusterState :=
  let n := t.count - 1
  let st := if n == 0 then TileState.drained else t.state
  let sh := match e with
    | some i => modifyAt (fun x => x - 1) t.shares i
    | none => t.shares
  let c := putTile (journalOpen c rid t.handle e) { t with count := n, state := st, shares := sh }
  let j' := replaceFirst (fun j => j.region == rid && j.handle == t.handle)
    (fun (j : JEntry) => { j with count := j.count + 1 }) c.journal
  { c with journal := j' }

/-- Mark the begin or the end of a read of a tile by a region. -/
def markReading (c : ClusterState) (h : Nat) (desc : Word) (consume up : Bool) : ClusterState :=
  match tileOf c h with
  | some t =>
    let e := chargeOf t desc
    let cs := if !consume then t.claims else if up then t.claims ++ [e] else removeFirst (· == e) t.claims
    putTile c { t with reading := if up then t.reading + 1 else t.reading - 1, claims := cs }
  | none => c

/-! ## Commit, restart, kill (R236) -/

/-- Commit a region's journal: it is discarded, and drained tiles that nothing names are freed. -/
def State.commitJournal (s : State) (rid : Nat) : State :=
  (List.range 4).foldl (fun s cl => s.updCluster cl fun c =>
    let hs := (c.journal.filter fun j => j.region == rid).map (·.handle)
    let c := { c with journal := c.journal.filter fun j => j.region != rid }
    hs.foldl (settleTile (s.savedNames cl)) c) s

/-- Credit back one journal entry: count and share rise, a drained tile is sealed again. -/
def creditEntry (c : ClusterState) (j : JEntry) : ClusterState :=
  match tileOf c j.handle with
  | none => c
  | some t =>
    let st := if t.state == .drained && j.count != 0 then TileState.sealed else t.state
    let sh := match j.entry with
      | some i => modifyAt (fun x => x + j.count) t.shares i
      | none => t.shares
    putTile c { t with count := t.count + j.count, state := st, shares := sh }

/-- Credit back every journaled read of a region (R236 restart). -/
def State.creditJournal (s : State) (rid : Nat) : State :=
  (List.range 4).foldl (fun s cl => s.updCluster cl fun c =>
    let js := c.journal.filter fun j => j.region == rid
    let c := { js.foldl creditEntry c with journal := c.journal.filter fun j => j.region != rid }
    (js.map (·.handle)).foldl (settleTile (s.savedNames cl)) c) s

/-- Forfeit a killed region's share on the expert tiles that name it: a count that reaches 0 drains the tile (R236). -/
def forfeit (held : Tile → Bool) (desc : Word) (vd : Nat) (c : ClusterState) : ClusterState :=
  (c.tiles.filter fun t => t.expert && t.vd == vd).foldl (fun c t =>
    match readerEntry t desc with
    | none => c
    | some i =>
      let sh := (t.shares[i]?).getD 0
      let n := t.count - sh
      settleTile held (putTile c { t with shares := modifyAt (fun _ => 0) t.shares i, count := n,
                                          state := if n == 0 && sh != 0 && t.state != .orphan then .drained else t.state }) t.handle) c

/-- The journal's part of a kill (R236): credit, forfeit the shares, orphan the anonymous tiles it names. An entry that a read in
progress has secured, of count 0, names its tile as well (DESIGN CHOICE, log 121: R236 does not say). -/
def State.killJournal (s : State) (rid vd : Nat) (desc : Word) : State :=
  let named := (List.range 4).flatMap fun cl =>
    ((s.cluster cl).journal.filter fun j => j.region == rid && j.entry == none).map fun j => (cl, j.handle)
  let s := s.creditJournal rid
  let s := (List.range 4).foldl (fun s cl => s.updCluster cl (forfeit (s.savedNames cl) desc vd)) s
  named.foldl (fun s q =>
    match tileOf (s.cluster q.1) q.2 with
    | none => s
    | some t =>
      if t.expert then s
      else (s.updCluster q.1 fun c => putTile c { t with state := .orphan }).raiseTile q.1 t fcShelfAbandoned) s

/-- Insert a tile, with its cluster, into a list rising by handle. -/
def insertTile (t : Nat × Tile) : List (Nat × Tile) → List (Nat × Tile)
  | [] => [t]
  | x :: l => if t.2.handle ≤ x.2.handle then t :: x :: l else x :: insertTile t l

/-- Retirement of a task group (R238): its tiles with a count above 0 raise ShelfUnderRead in handle order, over all clusters,
and are freed. -/
def State.underRead (s : State) (vd : Nat) (mine : Word → Bool) : State :=
  let ts := (List.range 4).flatMap fun cl => ((s.cluster cl).tiles.filter fun t => t.vd == vd && t.count != 0 && (match t.task with
      | some a => mine a
      | none => false)).map fun t => (cl, t)
  (ts.foldr insertTile []).foldl (fun s q => (s.raiseTile q.1 q.2 fcShelfUnderRead).updCluster q.1 fun c => freeTile c q.2) s

/-! ## Requests in the queues -/

/-- Remove the parked requests of a region (R233). -/
def State.dropParked (s : State) (r : Nat) : State :=
  (List.range 4).foldl (fun s cl => s.updCluster cl fun c =>
    { c with parts := c.parts.map fun p => (p.1, { p.2 with queue := p.2.queue.filter fun q => q.r != r || q.elem == noElem }) }) s

/-- Free the tiles that a region allocated and has not sealed (R336). -/
def State.freeOpen (s : State) (rid : Nat) : State :=
  (List.range 4).foldl (fun s cl => s.updCluster cl fun c =>
    (c.tiles.filter fun t => t.region == rid && t.state == .opened).foldl freeTile c) s

end Sys2Proof.Machine
end

