-- ==== Sys2Proof/Machine/Tasks.lean ====
section
/-! DEFINITION. The task machine (R58 to R60, R258 to R262): records, successor chains, decrements, publication and
the dependence table, TASKJOIN, TASKRES and ETRIG, retirement of a record and of a group; the partition queues (R233).
Decrements of a record of the same home cluster are applied in the step that makes them; a record of another cluster
gets its decrement when it is carried there (TASK_DECREMENT). -/
namespace Sys2Proof.Machine

/-! ## Reads and writes of the hardware -/

/-- A value, or the code of the fault that stopped it. -/
abbrev Chk := Except Nat

/-- Read `n` bytes at a generic address. A marked line is poisoned data used as a control value (R64). -/
def State.hwRead (s : State) (w : Who) (a n : Nat) : Chk Nat :=
  match s.resolve w (BitVec.ofNat 64 a) .rd with
  | .fault c => .error c
  | .ok p _ => if s.poisoned p then .error fcPoison else .ok (s.readNat p n)

/-- Write `n` bytes at a generic address. -/
def State.hwWrite (s : State) (w : Who) (a n v : Nat) : Chk State :=
  match s.resolve w (BitVec.ofNat 64 a) .wr with
  | .fault c => .error c
  | .ok p _ => if isMgmt p then .error fcAccessFault else .ok (s.writeNat p n v)

/-! ## Records (R58, R59) -/

def tsEmpty : Nat := 0
def tsPending : Nat := 1
def tsReady : Nat := 2
def tsRunning : Nat := 3
def tsTriggered : Nat := 4
def tsRetired : Nat := 5
def tsFaulted : Nat := 6
def tsKilled : Nat := 7

/-- What the package keeps of a published record (R258). -/
def State.homeOf (s : State) (vd : Nat) (a : Word) : Option TaskHome :=
  s.homes.find? fun h => h.vd == vd && h.task == a && !h.gone

/-- The cluster whose task machine acts on a record: its home, or that of the acting party for an EMPTY record. -/
def State.homeCluster (s : State) (vd cl : Nat) (a : Word) : Nat := ((s.homeOf vd a).map (·.cluster)).getD cl

/-- A record's state word. -/
def State.taskWord (s : State) (w : Who) (a : Word) : Chk Nat :=
  if a.toNat % 64 != 0 then .error fcMisaligned else s.hwRead w a.toNat 4

/-- A state word that the task machine acts on (R59). -/
def wordOk (wd : Nat) : Bool := wd % 16 ≤ tsKilled && !bitOf wd 7

/-- A state word with a new state, fault code and trigger position. -/
def wordWith (wd st fcode tpos : Nat) : Nat := wd / 16 % 8 * 16 + st + fcode * 2 ^ 8 + tpos * 2 ^ 16

/-- Write a record's state; `none` keeps tpos. -/
def State.putTask (s : State) (w : Who) (a : Word) (st fcode : Nat) (tpos : Option Nat) : Chk State := do
  let wd ← s.taskWord w a
  s.hwWrite w a.toNat 4 (wordWith wd st fcode (tpos.getD (wd / 2 ^ 16)))

/-- An act that R258 or R59 refuses: Malformed to the supervisor, with the record's address. -/
def State.refuse (s : State) (vd : Nat) (a : Word) : State := s.raiseSuper vd fcMalformed a.toNat

/-- Free a record's dependence-table entries, derived successors and ready place (R261). -/
def dropTask (vd : Nat) (a : Word) (c : ClusterState) : ClusterState :=
  { c with deps := c.deps.filter fun d => !(d.vd == vd && d.task == a),
           succs := c.succs.filter fun d => !(d.vd == vd && d.task == a),
           ready := c.ready.filter fun d => !(d.vd == vd && d.task == a) }

/-- FAULTED with a fault code (R58), and lastf of the thread whose TASKPUB published the record (R257): none for one that a launch
slot published. No event record goes out with it: R258 gives fcode set, and no rule names a handler (DESIGN CHOICE, log 121). -/
def State.faultTask (s : State) (vd hc : Nat) (a : Word) (code : Nat) : State :=
  let t := match s.putTask (hwWho vd hc) a tsFaulted code none with
    | .ok t => t
    | .error _ => s
  let t := t.updCluster hc (dropTask vd a)
  match s.homeOf vd a with
  | some h => if h.own then t.updThread h.thread fun x => { x with lastf := BitVec.ofNat 8 code } else t
  | none => t

/-! ## Readiness and decrements (R258) -/

/-- Whether the tile of a task is still parked in a partition's queue (R262). -/
def State.tileWaiting (s : State) (vd hc : Nat) (a : Word) : Bool :=
  (s.cluster hc).parts.any fun p => p.2.vd == vd && p.2.queue.any fun q => q.task == some a

/-- PENDING to READY; a record with a region enters the ready queue (R263). -/
def State.makeReady (s : State) (vd hc : Nat) (a : Word) : State :=
  if s.tileWaiting vd hc a then s
  else
    let w := hwWho vd hc
    let r : Chk State := do
      let rg ← s.hwRead w (a.toNat + 0x10) 8
      let wd ← s.taskWord w a
      if !wordOk wd then .ok (s.refuse vd a) else
      let t ← s.putTask w a tsReady 0 none
      if rg == 0 then .ok t
      else .ok (t.updCluster hc fun c => { c with ready := c.ready ++ [{ vd := vd, task := a, prio := wd / 16 % 4 }] })
    match r with
    | .ok t => t
    | .error c => s.faultTask vd hc a c

/-- What the readiness of a record acquires grows (R259, R384). -/
def State.addRel (s : State) (vd : Nat) (a : Word) (rel : List Release) : State :=
  { s with homes := s.homes.map fun (h : TaskHome) => if h.vd == vd && h.task == a && !h.gone then { h with rel := h.rel ++ rel } else h }

/-- One decrement at a record's task machine, with the releases behind it. -/
def State.decrement (s : State) (vd cl : Nat) (a : Word) (rel : List Release) : State :=
  let hc := s.homeCluster vd cl a
  let w := hwWho vd hc
  match s.taskWord w a with
  | .error c => s.faultTask vd hc a c
  | .ok wd =>
    if !wordOk wd || wd % 16 != tsPending then s.refuse vd a
    else
      let r : Chk (State × Nat) := do
        let p ← s.hwRead w (a.toNat + 4) 4
        let n := (p + 2 ^ 32 - 1) % 2 ^ 32
        let t ← s.hwWrite w (a.toNat + 4) 4 n
        .ok (t, n)
      match r with
      | .error c => s.faultTask vd hc a c
      | .ok (t, n) =>
        let t := t.addRel vd a rel
        if n == 0 then t.makeReady vd hc a else t

/-- A decrement by the task machine of cluster `cl`: at once for a record of this home, else carried. -/
def State.sendDecr (s : State) (vd cl : Nat) (a : Word) (rel : List Release) : State :=
  if s.homeCluster vd cl a == cl then s.decrement vd cl a rel else { s with decrs := s.decrs ++ [{ vd := vd, task := a, rel := rel }] }

/-! ## Successor chains (R60) -/

/-- Decrement the filled places among words `k` on of a block; `place` is the place of word 0 and `lo` the first place
that counts. The answer is the place after the last filled one. -/
def State.decrBlock (s : State) (vd cl : Nat) (rel : List Release) (w : Who) (blk place lo : Nat) : Nat → Nat → State × Chk Nat
  | 0, last => (s, .ok last)
  | n + 1, last =>
    let k := 7 - (n + 1)
    match s.hwRead w (blk + 8 * k) 8 with
    | .error c => (s, .error c)
    | .ok v =>
      if v == 0 then s.decrBlock vd cl rel w blk place lo n last
      else if place + k < lo then s.decrBlock vd cl rel w blk place lo n (place + k + 1)
      else (s.sendDecr vd cl (BitVec.ofNat 64 v) rel).decrBlock vd cl rel w blk place lo n (place + k + 1)

/-- Walk a chain of at most `n` blocks, decrementing as it goes (R60). -/
def State.walkDecr (s : State) (vd cl : Nat) (rel : List Release) (w : Who) (lo : Nat) : Nat → Nat → Nat → Nat → State × Chk Nat
  | 0, blk, _, last => (s, if blk == 0 then .ok last else .error fcMalformed)
  | n + 1, blk, place, last =>
    if blk == 0 then (s, .ok last)
    else if blk % 64 != 0 then (s, .error fcMisaligned)
    else match s.decrBlock vd cl rel w blk place lo 7 last with
      | (t, .error c) => (t, .error c)
      | (t, .ok l) => match t.hwRead w (blk + 56) 8 with
        | .error c => (t, .error c)
        | .ok nx => t.walkDecr vd cl rel w lo n nx (place + 7) l

/-- The most blocks of a chain (R60). -/
def chainBlocks : Nat := 9362

/-- Decrement a record's chain beyond the first `lo` places. -/
def State.decrChain (s : State) (vd hc : Nat) (rel : List Release) (a : Word) (lo : Nat) : State × Chk Nat :=
  let w := hwWho vd hc
  match s.hwRead w (a.toNat + 8) 8 with
  | .error c => (s, .error c)
  | .ok b => s.walkDecr vd hc rel w lo chainBlocks b 0 0

/-- The first zero word of a block from place `lo` on. -/
def State.freeWordOf (s : State) (w : Who) (blk place lo : Nat) : Nat → Chk (Option Nat)
  | 0 => .ok none
  | n + 1 =>
    let k := 7 - (n + 1)
    match s.hwRead w (blk + 8 * k) 8 with
    | .error c => .error c
    | .ok v => if v == 0 && lo ≤ place + k then .ok (some (blk + 8 * k)) else s.freeWordOf w blk place lo n

/-- AppendSuccessor's place (R260): none where no zero word exists. -/
def State.appendPlace (s : State) (w : Who) (lo : Nat) : Nat → Nat → Nat → Chk (Option Nat)
  | 0, blk, _ => if blk == 0 then .ok none else .error fcMalformed
  | n + 1, blk, place =>
    if blk == 0 then .ok none
    else if blk % 64 != 0 then .error fcMisaligned
    else match s.freeWordOf w blk place lo 7 with
      | .error c => .error c
      | .ok (some p) => .ok (some p)
      | .ok none => match s.hwRead w (blk + 56) 8 with
        | .error c => .error c
        | .ok nx => s.appendPlace w lo n nx (place + 7)

/-- Decrement the successors that the dependence table derived, in the order of their publication. -/
def State.decrDerived (s : State) (vd hc : Nat) (rel : List Release) (a : Word) : State :=
  let l := (s.cluster hc).succs.filter fun d => d.vd == vd && d.task == a
  let s := s.updCluster hc fun c => { c with succs := c.succs.filter fun d => !(d.vd == vd && d.task == a) }
  l.foldl (fun s d => s.sendDecr vd hc d.succ rel) s

/-! ## Tiles of the dependence table, and the queues (R233, R262) -/

/-- The region mark of a tile that the dependence table allocated and whose task has not been placed. -/
def noRid : Nat := 2 ^ 32

/-- A tile has been allocated for a task: arg1, the name's handle, the readers' arg1, and the task's readiness. -/
def State.taskTile (s : State) (vd hc : Nat) (a : Word) (h : Nat) : State :=
  let w := hwWho vd hc
  match s.hwWrite w (a.toNat + 0x38) 4 h with
  | .error c => s.faultTask vd hc a c
  | .ok s =>
    let s := s.updCluster hc fun c => { c with names := c.names.map fun n =>
      if n.vd == vd && n.task == a then { n with handle := some (BitVec.ofNat 32 h) } else n }
    let rds := ((s.cluster hc).succs.filter fun d => d.vd == vd && d.task == a && d.shelf).map (·.succ)
    let s := rds.foldl (fun s q => match s.hwWrite w (q.toNat + 0x3C) 4 h with
      | .ok t => t
      | .error c => s.faultTask vd hc q c) s
    match s.taskWord w a, s.hwRead w (a.toNat + 4) 4 with
    | .ok wd, .ok 0 => if wd % 16 == tsPending then s.makeReady vd hc a else s
    | _, _ => s

/-- The core that a request is made from, within the cluster. -/
def State.reqCore (s : State) (q : SReq) : Nat := if q.task.isSome && q.elem == noElem then 0 else s.coreOf q.r q.elem % 24

/-- Serve the head of a partition's queue where the partition has room (R232, R233). -/
def State.servePart (s : State) (cl p : Nat) : State :=
  let c := s.cluster cl
  let pt := Sparse.atD c.parts p {}
  match pt.queue with
  | [] => s
  | q :: rest =>
    match roomFor c p (s.reqCore q) q.size with
    | none => s
    | some (k, g) =>
      let forTask := q.elem == noElem
      let x := s.region q.r
      let t := if forTask then newTile c q p k g pt.vd noRid 0 0 []
        else newTile c q p k g pt.vd (s.rid q.r) x.rank x.fedge x.readers
      let s := s.updCluster cl fun c =>
        { c with tiles := c.tiles ++ [t], parts := Sparse.upd c.parts p {} fun y => { y with queue := rest } }
      if forTask then
        match q.task with
        | some a => s.taskTile pt.vd cl a t.handle
        | none => s
      else match q.dst with
        | .dests d0 _ ch => s.emitAt q.r q.elem q.slot q.tag d0
            { kind := 0, pay := BitVec.ofNat 64 t.handle, tag := q.tag, seq := q.seq, last := q.last, chan := ch, past := q.past }
        | .cont _ _ _ _ => s

/-! ## Publication (R258, R261, R262) -/

/-- A tile set as the dependence table reads it: byte ranges, and at most one shelf pair of each kind. -/
structure TileSet where
  reads  : List (Nat × Nat)
  writes : List (Nat × Nat)
  rd     : List (Nat × Nat)            -- partition, name
  wr     : List (Nat × Nat × Nat × Nat)  -- partition, name, size, count
deriving DecidableEq, Repr, Inhabited

/-- Pair `i` of a tile set. -/
def addTilePair (x : TileSet) (i a n : Nat) : Chk TileSet :=
  if n == 0 then .ok x
  else if bitsOf a 63 56 == 0xFC then .error fcMalformed
  else if bitsOf a 63 56 == 0xFE then
    if i < 8 then .ok { x with rd := x.rd ++ [(bitsOf a 19 16, bitsOf a 15 0)] }
    else .ok { x with wr := x.wr ++ [(bitsOf a 19 16, bitsOf a 15 0, bitsOf n 19 16 + 1, bitsOf n 15 0)] }
  else if i < 8 then .ok { x with reads := x.reads ++ [(a, n)] } else .ok { x with writes := x.writes ++ [(a, n)] }

/-- Read a tile set (R60, R261, R262). -/
def State.tileSet (s : State) (w : Who) (tiles : Nat) : Chk TileSet :=
  if tiles == 0 then .ok { reads := [], writes := [], rd := [], wr := [] }
  else if tiles % 256 != 0 then .error fcMisaligned
  else do
    let x ← (List.range 16).foldlM (fun x i => do
      let a ← s.hwRead w (tiles + 16 * i) 8
      let n ← s.hwRead w (tiles + 16 * i + 8) 8
      addTilePair x i a n) { reads := [], writes := [], rd := [], wr := [] }
    if 1 < x.rd.length || 1 < x.wr.length || (x.wr.any fun p => p.2.2.2 == 0) then .error fcMalformed else .ok x

/-- Whether a task still counts as a predecessor (R261). -/
def State.counted (s : State) (w : Who) (q : Word) : Bool :=
  match s.taskWord w q with
  | .ok wd => tsPending ≤ wd % 16 && wd % 16 ≤ tsRunning
  | .error _ => false

/-- The distinct tasks that a new task waits for (R261), in the order of the table. -/
def State.predecessors (s : State) (vd hc : Nat) (x : TileSet) : List Word :=
  let ds := (s.cluster hc).deps.filter fun d => d.vd == vd &&
    (x.reads.any (fun r => d.write && overlap r (d.lo, d.len)) || x.writes.any fun r => overlap r (d.lo, d.len))
  ((ds.map (·.task)).eraseDups).filter fun q => s.counted (hwWho vd hc) q

/-- The latest writer of a shelf name (R262). -/
def State.nameOf (s : State) (vd hc part name : Nat) : Option ShelfName :=
  ((s.cluster hc).names.filter fun n => n.vd == vd && n.part == part && n.name == name).getLast?

/-- Enter a basic task in the dependence table, with its derived count: none where too few entries are free. -/
def State.deriveTask (s : State) (vd hc : Nat) (a : Word) (x : TileSet) : Chk (Option (State × Nat)) :=
  let w := hwWho vd hc
  let c := s.cluster hc
  if 4096 < c.deps.length + x.reads.length + x.writes.length then .ok none
  else if x.wr.any fun p => !(Sparse.atD c.parts p.1 {}).live || (Sparse.atD c.parts p.1 {}).vd != vd then .error fcAccessFault
  else
    let src := (x.rd.head?).bind fun p => s.nameOf vd hc p.1 p.2
    let qs := s.predecessors vd hc x
    let qs' := match src with
      | some n => if s.counted w n.task && !qs.contains n.task then qs ++ [n.task] else qs
      | none => qs
    let es := x.reads.map (fun r => ({ vd := vd, task := a, lo := r.1, len := r.2, write := false } : DepEntry)) ++
      x.writes.map fun r => { vd := vd, task := a, lo := r.1, len := r.2, write := true }
    let sc := qs'.map fun q => ({ vd := vd, task := q, succ := a, shelf := (src.map (·.task)) == some q } : DepSucc)
    let s := s.updCluster hc fun c => { c with deps := c.deps ++ es, succs := c.succs ++ sc }
    let s1 : Chk State := match src.bind (·.handle) with
      | some h => s.hwWrite w (a.toNat + 0x3C) 4 h.toNat
      | none => .ok s
    match s1 with
    | .error e => .error e
    | .ok s =>
      let s := match x.wr with
        | (p, nm, size, n) :: _ => s.updCluster hc fun c =>
            let q : SReq := { r := 64 * hc, elem := noElem, slot := 0, tag := 0, seq := 0, last := false,
                              dst := .cont 0 0 0 0, count := n, size := size, expert := false, shares := [0, 0, 0, 0],
                              task := some a }
            let nm' : ShelfName := { vd := vd, part := p, name := nm, task := a, handle := none }
            { c with
              names := (c.names.filter fun y => !(y.vd == vd && y.part == p && y.name == nm)) ++ [nm']
              parts := Sparse.upd c.parts p {} fun y => { y with queue := y.queue ++ [q] } }
        | [] => s
      .ok (some (s, qs'.length))

/-- Who publishes a record (R258, R294): a thread, by its own TASKPUB or as the thread of a launch queue, and what that releases. -/
structure Publisher where
  thread : Nat
  own    : Bool
  rel    : List Release
deriving DecidableEq, Repr, Inhabited

/-- The home entry of a record that is being published. -/
def State.addHome (s : State) (vd hc : Nat) (t : Publisher) (a grp : Word) : State :=
  { s with homes := (s.homes.filter fun h => !(h.vd == vd && h.task == a)) ++
      [{ vd := vd, task := a, cluster := hc, thread := t.thread, own := t.own, group := grp, retired := false, gone := false,
         rel := t.rel }] }

/-- TASKPUB by a party of cluster `cl` under the system registers of thread `t` (R258): the result word of R294, or
none where the dependence table has too few free entries. -/
def State.publish (s : State) (vd cl : Nat) (a : Word) (t : Publisher) : State × Option Nat :=
  let hc := s.homeCluster vd cl a
  let w := hwWho vd hc
  match s.taskWord w a with
  | .error c => (s.faultTask vd hc a c, some tsFaulted)
  | .ok wd =>
    if !wordOk wd || wd / 2 ^ 16 != 0 || wd % 16 != tsEmpty then (s.refuse vd a, some (wd % 16 + 0x10))
    else
      let r : Chk (Option (State × Nat × Option Nat)) := do
        let grp ← s.hwRead w (a.toNat + 0x20) 8
        let s := s.addHome vd hc t a (BitVec.ofNat 64 grp)
        if bitOf wd 6 then
          let p ← s.hwRead w (a.toNat + 4) 4
          let s ← s.putTask w a tsPending 0 none
          .ok (some (s, p, none))
        else
          let tl ← s.hwRead w (a.toNat + 0x18) 8
          let x ← s.tileSet w tl
          match ← s.deriveTask vd hc a x with
          | none => .ok none
          | some (s, p) =>
            let s ← s.hwWrite w (a.toNat + 4) 4 p
            let s ← s.putTask w a tsPending 0 none
            .ok (some (s, p, x.wr.head?.map (·.1)))
      match r with
      | .error c => ((s.addHome vd hc t a 0).faultTask vd hc a c, some tsFaulted)
      | .ok none => (s, none)
      | .ok (some (s, p, tile)) =>
        let s := match tile with
          | some k => if (Sparse.atD (s.cluster hc).parts k {}).queue.length == 1 then s.servePart hc k else s
          | none => if p == 0 then s.makeReady vd hc a else s
        match s.taskWord w a with
        | .ok wd => (s, some (wd % 16))
        | .error _ => (s, some tsFaulted)

/-! ## ETRIG, TASKJOIN, TASKRES (R154, R258 to R260) -/

/-- Whether a fault of the region that runs a task stands: one of this run, a slot that has stopped, or a request that is parked. An
ETRIG that the arbiter sees after it is discarded (R271; DEDUCED, log 107). -/
def State.faultStands (s : State) (vd : Nat) (a : Word) : Bool :=
  s.regions.any fun q => q.2.live && q.2.vd == vd && q.2.task == some a && (q.2.faulted || s.elems.any fun e =>
    e.1 / 65536 == q.1 && (!e.2.stopped.isEmpty || e.2.queue.any (·.parked) || e.2.ctxs.any (·.2.parked)))

/-- The region that runs a task is marked: a TRIGGERED task is never restarted (R258, R336). -/
def State.markTriggered (s : State) (vd : Nat) (a : Word) : State :=
  { s with regions := s.regions.map fun q =>
      (q.1, if q.2.live && q.2.vd == vd && q.2.task == some a then { q.2 with triggered := true } else q.2) }

/-- ETRIG at a record, with what it releases: the result word. -/
def State.triggerTask (s : State) (vd cl : Nat) (rel : List Release) (a : Word) : State × Nat :=
  let hc := s.homeCluster vd cl a
  let w := hwWho vd hc
  match s.taskWord w a with
  | .error c => (s.faultTask vd hc a c, tsFaulted)
  | .ok wd =>
    if wordOk wd && wd % 16 == tsTriggered then (s, tsTriggered)
    else if !wordOk wd || wd % 16 != tsRunning then (s.refuse vd a, wd % 16 + 0x10)
    else if s.faultStands vd a then (s, tsRunning)
    else match s.decrChain vd hc rel a 0 with
      | (s, .error c) => (s.faultTask vd hc a c, tsFaulted)
      | (s, .ok pos) => match s.putTask w a tsTriggered 0 (some pos) with
        | .error c => (s.faultTask vd hc a c, tsFaulted)
        | .ok s => ((s.markTriggered vd a).decrDerived vd hc rel a, tsTriggered)

/-- What the retirement of a record has released (R304). -/
def State.doneRel (s : State) (vd : Nat) (a : Word) : List Release :=
  ((s.homes.find? fun h => h.vd == vd && h.task == a).map (·.done)).getD []

/-- TASKJOIN (R260), with what the joining thread releases: the code. With code 1 the successor acquires the retirement (R304). -/
def State.joinTask (s : State) (vd cl : Nat) (rel : List Release) (p x : Word) : State × Nat :=
  let hc := s.homeCluster vd cl p
  let w := hwWho vd hc
  match s.taskWord w p with
  | .error c => (s.faultTask vd hc p c, 3)
  | .ok wd =>
    if !wordOk wd then (s.refuse vd p, 3)
    else
      let st := wd % 16
      if st == tsRetired then (s.sendDecr vd hc x (rel ++ s.doneRel vd p), 1)
      else if st == tsFaulted || st == tsKilled || st == tsEmpty then (s, 3)
      else
        let lo := if st == tsTriggered then wd / 2 ^ 16 else 0
        let r : Chk (State × Nat) := do
          let b ← s.hwRead w (p.toNat + 8) 8
          match ← s.appendPlace w lo chainBlocks b 0 with
          | none => .ok (s, 2)
          | some pl =>
            let s ← s.hwWrite w pl 8 x.toNat
            .ok (s, 0)
        match r with
        | .ok q => q
        | .error c => (s.faultTask vd hc p c, 3)

/-- A task group retires with its last member (R259): ShelfUnderRead (R238), and reclaimed members are forgotten. -/
def State.retireGroup (s : State) (vd : Nat) (a : Word) : State :=
  match s.homes.find? fun h => h.vd == vd && h.task == a with
  | none => s.underRead vd fun x => x == a
  | some h =>
    if h.group == 0 then s.underRead vd fun x => x == a
    else
      let ms := s.homes.filter fun y => y.vd == vd && y.group == h.group
      if ms.all fun y => y.retired || y.gone then
        let s := s.underRead vd fun x => ms.any fun y => y.task == x
        { s with homes := s.homes.filter fun y => !(y.vd == vd && y.group == h.group && y.gone) }
      else s

/-- Retirement of a record (R259 steps 2 to 5), with what step 1 has released; the region is the caller's. The result is the
record's state: RETIRED, or FAULTED where a fault was met; a word that R59 refuses is not acted on. -/
def State.retireRecord (s : State) (vd hc : Nat) (rel : List Release) (a : Word) (rid : Option Nat) : State × Nat :=
  let w := hwWho vd hc
  match s.taskWord w a with
  | .error c => (s.faultTask vd hc a c, tsFaulted)
  | .ok wd =>
    if !wordOk wd then (s.refuse vd a, wd % 16 + 0x10) else
    match s.decrChain vd hc rel a (wd / 2 ^ 16) with
    | (s, .error c) => (s.faultTask vd hc a c, tsFaulted)
    | (s, .ok _) =>
      let s := if wd % 16 == tsTriggered then s else s.decrDerived vd hc rel a
      let s := s.updCluster hc (dropTask vd a)
      let s := match rid with
        | some r => s.commitJournal r
        | none => s
      match s.putTask w a tsRetired 0 none with
      | .error c => (s.faultTask vd hc a c, tsFaulted)
      | .ok s =>
        let s := { s with homes := s.homes.map fun (h : TaskHome) =>
          if h.vd == vd && h.task == a then { h with retired := true, done := rel } else h }
        (s.retireGroup vd a, tsRetired)

/-- TASKRES with b = 0, with what the resolver releases: the result word, or DoubleResolve. -/
def State.resolveTask (s : State) (vd cl : Nat) (rel : List Release) (a : Word) : State × Chk Nat :=
  let hc := s.homeCluster vd cl a
  let w := hwWho vd hc
  match s.taskWord w a with
  | .error c => (s.faultTask vd hc a c, .ok tsFaulted)
  | .ok wd =>
    if wordOk wd && wd % 16 == tsRetired then (s, .error fcDoubleResolve)
    else if !wordOk wd || !(wd % 16 == tsPending || wd % 16 == tsReady) then (s.refuse vd a, .ok (wd % 16 + 0x10))
    else match s.hwRead w (a.toNat + 0x10) 8 with
      | .error c => (s.faultTask vd hc a c, .ok tsFaulted)
      | .ok 0 =>
        let r := s.retireRecord vd hc rel a none
        (r.1, .ok r.2)
      | .ok _ => (s.refuse vd a, .ok (wd % 16 + 0x10))

/-- TASKRES with b = 1: RETIRED, FAULTED or KILLED to EMPTY. -/
def State.reclaimTask (s : State) (vd cl : Nat) (a : Word) : State × Nat :=
  let hc := s.homeCluster vd cl a
  let w := hwWho vd hc
  match s.taskWord w a with
  | .error c => (s.faultTask vd hc a c, tsFaulted)
  | .ok wd =>
    if !wordOk wd || wd % 16 < tsRetired then (s.refuse vd a, wd % 16 + 0x10)
    else match s.putTask w a tsEmpty 0 (some 0) with
      | .error c => (s.faultTask vd hc a c, tsFaulted)
      | .ok s =>
        let open1 := (s.homes.find? fun h => h.vd == vd && h.task == a && h.group != 0).any fun h =>
          s.homes.any fun y => y.vd == vd && y.group == h.group && y.task != a && !y.retired && !y.gone
        let hs := if open1 then s.homes.map fun (h : TaskHome) => if h.vd == vd && h.task == a then { h with gone := true } else h
          else s.homes.filter fun h => !(h.vd == vd && h.task == a)
        ({ s with homes := hs }.updCluster hc (dropTask vd a), tsEmpty)

/-- KILLED (R258): from RUNNING or TRIGGERED; any other state or a word that R59 refuses is Malformed. -/
def State.killTask (s : State) (vd cl : Nat) (a : Word) : State :=
  let hc := s.homeCluster vd cl a
  let w := hwWho vd hc
  match s.taskWord w a with
  | .error c => s.faultTask vd hc a c
  | .ok wd =>
    if wordOk wd && (wd % 16 == tsRunning || wd % 16 == tsTriggered) then
      match s.putTask w a tsKilled 0 none with
      | .ok s => s.updCluster hc (dropTask vd a)
      | .error c => s.faultTask vd hc a c
    else s.refuse vd a

/-- An idempotent restart of a RUNNING record (R258): READY at the tail of its priority; any other state refuses it. -/
def State.restartTask (s : State) (vd cl : Nat) (a : Word) : State :=
  let hc := s.homeCluster vd cl a
  match s.taskWord (hwWho vd hc) a with
  | .error c => s.faultTask vd hc a c
  | .ok wd => if wordOk wd && wd % 16 == tsRunning then s.makeReady vd hc a else s.refuse vd a

end Sys2Proof.Machine
end

