-- ==== Sys2Proof/Machine/Region.lean ====
section
/-! DEFINITION. Regions (R244, R245, R247, R249 to R252, R256, R263, R295, R323 to R327, R335, R336): descriptors,
places and cores, the load of configurations, the launch, the sequencer, and the end of a region by kill, restart or
retirement. -/
namespace Sys2Proof.Machine

/-! ## Places and cores (R263, R295) -/

/-- The lowest free region place of a cluster. -/
def State.freePlace (s : State) (cl : Nat) : Option Nat := (List.range 64).find? fun p => !(s.region (64 * cl + p)).live

/-- Whether a region holds a core. -/
def State.coreHeld (s : State) (k : Nat) : Bool := s.regions.any fun q => q.2.live && q.2.cores.contains k

/-- Whether a core waits for the new replica of a stage (R268). -/
def State.coreKept (s : State) (vd k : Nat) : Bool :=
  (s.cluster (clusterOfCore k)).pipes.any fun l => l.vd == vd && l.kept.any fun q => q.2.contains k

/-- The free cores of a cluster that a device holds, in rising order. -/
def State.freeCores (s : State) (cl vd : Nat) : List Nat := (s.heldCores cl vd).filter fun k => !s.coreHeld k && !s.coreKept vd k

/-- The cores for a placement of `n` cores (R263, R343): of the home cluster, or whole clusters of the device. -/
def State.coresFor (s : State) (cl vd n : Nat) : Option (List Nat) :=
  if n ≤ 24 then
    let f := s.freeCores cl vd
    if n ≤ f.length then some (f.take n) else none
  else
    let f := ((List.range 4).filter fun c => (s.freeCores c vd).length == 24).flatMap fun c => s.freeCores c vd
    if n ≤ f.length then some (f.take n) else none

/-- The elements of a region that hold anything, by element address. -/
def State.elemsOf (s : State) (r : Nat) : List (Nat × ElemState) :=
  (s.elems.filter fun p => p.1 / 65536 == r).map fun p => (p.1 % 65536, p.2)

/-- Change every element of a region that holds anything. -/
def State.mapElems (s : State) (r : Nat) (f : ElemState → ElemState) : State :=
  { s with elems := s.elems.map fun p => if p.1 / 65536 == r then (p.1, f p.2) else p }

/-! ## Descriptors (R249, R250) -/

/-- Read a region descriptor for the task machine of a cluster. -/
def State.readDesc (s : State) (w : Who) (d : Word) : Chk RegionState :=
  if d.toNat % 64 != 0 then .error fcMisaligned
  else do
    let n := d.toNat
    let cfglist ← s.hwRead w n 8
    let fedge ← s.hwRead w (n + 8) 8
    let mbox ← s.hwRead w (n + 0x10) 8
    let cores ← s.hwRead w (n + 0x18) 2
    let tagwin ← s.hwRead w (n + 0x1A) 1
    let nconf ← s.hwRead w (n + 0x1B) 1
    let rank ← s.hwRead w (n + 0x1C) 1
    let flags ← s.hwRead w (n + 0x1D) 1
    let pm ← s.hwRead w (n + 0x1E) 2
    let r0 ← s.hwRead w (n + 0x20) 8
    let r1 ← s.hwRead w (n + 0x28) 8
    let r2 ← s.hwRead w (n + 0x30) 8
    let r3 ← s.hwRead w (n + 0x38) 8
    let gates ← s.hwRead w (n + 0x40) 4
    let t0 ← s.hwRead w (n + 0x44) 28
    let t1 ← s.hwRead w (n + 0x60) 32
    let gatesOk := (List.range 4).all fun i => byteAt gates i ≤ 15 || byteAt gates i == 0xFF
    if cfglist == 0 || cfglist % 16 != 0 || mbox % 32 != 0 || cores == 0 || 512 < cores || nconf == 0 || 4 < nconf ||
      7 < rank || 3 < flags || t0 != 0 || t1 != 0 || !gatesOk then .error fcMalformed
    else
      let es ← (List.range nconf).mapM fun c => do
        let im ← s.hwRead w (cfglist + 16 * c) 8
        let ex ← s.hwRead w (cfglist + 16 * c + 8) 8
        if im % 64 != 0 then .error fcMalformed
        else .ok ({ image := BitVec.ofNat 64 im, extents := (List.range 4).map fun i => bitsOf ex (16 * i + 15) (16 * i) + 1,
                    depth := 0 } : ConfEntry)
      .ok { live := true, vd := w.vd, desc := d, confs := es, fedge := BitVec.ofNat 64 fedge,
            declEdge := BitVec.ofNat 64 fedge, mbox := BitVec.ofNat 64 mbox, gates := BitVec.ofNat 32 gates,
            rank := rank, idem := bitOf flags 0, declIdem := bitOf flags 0, buffering := bitOf flags 0, peek := bitOf flags 1,
            partmask := BitVec.ofNat 16 pm, readers := [r0, r1, r2, r3].map (BitVec.ofNat 64),
            declWin := tagwin + 1, tagwin := tagwin + 1,
            load := some { conf := 0, recn := 0, shadow := [], scales := [] } }

/-- The access fault of a read: PageFault or AccessFault, with its address (R273, R277). -/
def State.accessFault (s : State) (w : Who) (a n : Nat) : Option (Nat × Word) :=
  match s.hwRead w a n with
  | .error c => if c == fcPageFault || c == fcAccessFault then some (c, BitVec.ofNat 64 a) else none
  | .ok _ => none

/-- The access fault of a descriptor or of its configuration list. -/
def State.descFault (s : State) (w : Who) (d : Word) : Option (Nat × Word) :=
  match s.readDesc w d with
  | .ok _ => none
  | .error c =>
    if c != fcPageFault && c != fcAccessFault then none
    else match s.accessFault w d.toNat 8, s.hwRead w d.toNat 8 with
      | none, .ok l => ((List.range 8).findSome? fun i => s.accessFault w (l + 8 * i) 8).orElse fun _ => some (c, d)
      | some q, _ => some q
      | _, _ => some (c, d)

/-- The number of cores that a descriptor asks for. -/
def State.descCores (s : State) (w : Who) (d : Word) : Chk Nat :=
  if d.toNat % 64 != 0 then .error fcMisaligned else s.hwRead w (d.toNat + 0x18) 2

/-- The chain of a fault edge (R327): none where every hop rises, else the address for the record. -/
def State.rankChain (s : State) (w : Who) : Nat → Nat → Nat → Option Nat
  | 0, _, ep => some ep
  | n + 1, rank, ep =>
    if ep == 0 then (if rank < 7 then none else some 0)
    else if ep % 64 != 0 then some ep
    else match s.hwRead w ep 1, s.hwRead w (ep + 0x20) 8 with
      | .ok k, .ok esc => if rank < k % 8 then s.rankChain w n (k % 8) esc else some ep
      | _, _ => some ep

/-- Raise RankCycle where the chain of the region's fault edge is broken. -/
def State.rankCheck (s : State) (r : Nat) : State × Bool :=
  let x := s.region r
  match s.rankChain (hwWho x.vd (r / 64)) 9 x.rank x.fedge.toNat with
  | none => (s, true)
  | some i => (s.raise r fcRankCycle noElem noSlot 0 i 0, false)

/-- The copies that a launch makes of a thread's registers (R108, R245, R256). -/
def takeRegs (x : RegionState) (t : Nat) (th : ThreadState) : RegionState :=
  { x with
    thread := t
    quota := th.msquota.toNat % 128
    tagwin := min x.declWin th.tagwin.toNat
    fedge := if x.declEdge == 0 then th.fedge else x.declEdge
    wdlim := th.wdlim.toNat
    thlim := th.thlim.toNat }

/-! ## Loads (R323, R324) -/

/-- A slot of an image under R45 in a region of `n` cores; fire rule 3 needs a latch on port b (R96). A static route never leaves its
package: `near` says which core indices are of the slot's own (R368). -/
def imageSlotOk (n : Nat) (p : Planes) (near : Nat → Bool := fun _ => true) : Bool :=
  if bitsOf p.op.toNat 31 24 == 0 then p.op == 0 && p.route == 0 && p.const == 0
  else
    let w := slotFields p.op p.route p.const
    let modesOk := (2 ≤ w.arity.toNat || w.bmode == 0) && (3 ≤ w.arity.toNat || w.cmode == 0)
    w.fire.toNat ≤ 3 && (w.fire != 3 || w.bmode == 2) && w.arity != 0 && modesOk && destOk w.d0 && destOk w.d1 &&
      [w.d0, w.d1].all fun d => !d.valid || (d.elem.toNat / 128 < n && (d.net || near (d.elem.toNat / 128)))

/-- The shadow bank of element `a` in configuration `c` of a load. -/
def shadowBank (l : LoadSt) (a c : Nat) : ConfBank :=
  ((l.shadow.find? fun q => q.1 == a && q.2.1 == c).map (·.2.2)).getD {}

/-- Write the shadow bank of an element. -/
def putShadow (l : LoadSt) (a c : Nat) (b : ConfBank) : LoadSt :=
  { l with shadow := (l.shadow.filter fun q => !(q.1 == a && q.2.1 == c)) ++ [(a, c, b)] }

/-- Apply one record (64 bytes as a number) to a load: none where it breaks R323, R45, R46 or R368. -/
def applyRecord (n : Nat) (l : LoadSt) (rec0 : Nat) (near : Nat → Nat → Bool := fun _ _ => true) : Option LoadSt :=
  let a := bitsOf rec0 15 0
  let kind := byteAt rec0 2
  let first := byteAt rec0 3
  let cnt := byteAt rec0 4
  let word := fun i => bitsOf rec0 (128 + 32 * i + 31) (128 + 32 * i)
  if bitsOf rec0 127 40 != 0 || cnt == 0 || n ≤ a / 128 || !hasTable a then none
  else
    let b := shadowBank l a l.conf
    match kind with
    | 0 =>
      let ps := (List.range cnt).map fun i =>
        ({ op := BitVec.ofNat 32 (word (4 * i)), route := BitVec.ofNat 64 (word (4 * i + 1) + 2 ^ 32 * word (4 * i + 2)),
           const := BitVec.ofNat 32 (word (4 * i + 3)) } : Planes)
      if 3 < cnt || 32 < first + cnt || !(ps.all fun p => imageSlotOk n p (near (a / 128))) then none
      else
        let t := (List.range cnt).foldl (fun t i => Sparse.put t (first + i) ((ps[i]?).getD {})) b.planes
        some (putShadow l a l.conf { b with planes := t })
    | 1 =>
      if 12 < cnt || 32 < first + cnt || !((List.range cnt).all fun i => (Chan.ofBits? (word i)).isSome) then none
      else
        let t := (List.range cnt).foldl (fun t i => Sparse.put t (first + i) (BitVec.ofNat 32 (word i))) b.chans
        some (putShadow l a l.conf { b with chans := t })
    | 2 =>
      if 12 < cnt || 16 < first + cnt then none
      else some { l with scales := l.scales ++ (List.range cnt).map fun i => (a, first + i, BitVec.ofNat 32 (word i)) }
    | 3 =>
      if 48 < cnt || 256 < first + cnt || a % 128 < 80 then none
      else
        let t := (List.range cnt).foldl (fun t i => Sparse.put t (first + i) (BitVec.ofNat 8 (byteAt rec0 (16 + i)))) b.routes
        some (putShadow l a l.conf { b with routes := t })
    | _ => none

/-- Read `n` bytes of an image; an uncorrectable error is ConfigEcc. -/
def State.imageRead (s : State) (w : Who) (a n : Nat) : Chk Nat :=
  match s.hwRead w a n with
  | .error c => .error (if c == fcPoison then fcConfigEcc else c)
  | .ok v => .ok v

/-- Whether two core indices of a region are of one package (R368). -/
def samePackage (x : RegionState) (i j : Nat) : Bool :=
  let pkg := fun (i : Nat) => (x.cores[i]?).map fun k => if isFar k then farPackage k else Config.package
  pkg i == pkg j

/-- A load under way takes its next record: the new load and the configuration's depth, or the fault with its
address. -/
def State.nextRecord (s : State) (x : RegionState) (cl : Nat) (l : LoadSt) : (Nat × Nat) ⊕ (LoadSt × Nat) :=
  let w := hwWho x.vd cl
  match x.confs[l.conf]? with
  | none => .inr (l, 0)
  | some e =>
    let im := e.image.toNat
    let at0 := im + 64 + 64 * l.recn
    match s.imageRead w im 4, s.imageRead w (im + 4) 4, s.imageRead w (im + 8) 56 with
    | .ok nrec, .ok depth, .ok rsv =>
      if nrec == 0 || depth == 0 || 2 ^ 20 ≤ depth || rsv != 0 then .inl (fcMalformed, im)
      else match s.imageRead w at0 64 with
        | .error c => .inl (c, at0)
        | .ok v => match applyRecord x.cores.length l v (samePackage x) with
          | none => .inl (fcMalformed, at0)
          | some l' => .inr (if l.recn + 1 == nrec then { l' with conf := l.conf + 1, recn := 0 }
              else { l' with recn := l.recn + 1 }, depth)
    | .error c, _, _ => .inl (c, im)
    | _, .error c, _ => .inl (c, im)
    | _, _, .error c => .inl (c, im)

/-- Write the scale records of a load. -/
def State.applyScales (s : State) (r : Nat) : State :=
  ((s.region r).scales.foldl (fun s q => s.updUnit r q.1 fun u => { u with scale := Sparse.put u.scale q.2.1 q.2.2 }) s).updRegion r
    fun x => { x with scales := [] }

/-- Whether no other active region stands on the cores of a region. -/
def State.coresIdle (s : State) (r : Nat) (cores : List Nat) : Bool :=
  !(s.regions.any fun q => q.1 != r && q.2.live && q.2.activeNow && q.2.cores.any fun k => !isFar k && cores.contains k)

/-- The clean image becomes active in every element of the region, all at once (R324); where another region is active on
the cores, it waits in the shadow bank for a swap. The elements of another package are there (R368). -/
def State.activate (s : State) (r : Nat) (l : LoadSt) : State :=
  let s := { s with elems := s.elems.filter fun p => p.1 / 65536 != r }
  let s := (l.shadow.filter fun q => !isFar (s.coreOf r q.1)).foldl (fun s q =>
    s.updElem r q.1 fun e => { e with confs := Sparse.put e.confs q.2.1 q.2.2 }) s
  let now := s.coresIdle r (s.region r).cores
  let s := s.updRegion r fun x => { x with status := .loaded, load := none, loadFault := 0, shadowValid := true,
                                           scales := l.scales, activeNow := now }
  if now then (s.applyScales r).rebase r else s

/-! ## Data blocks of a placement (R247) -/

/-- A block that the loader places in core 0 of a region: space, offset, length, and where its copy lies (R247). -/
structure Block where
  space : DataSpace
  off   : Nat
  len   : Nat
  copy  : Nat

/-- The blocks of the images of a device that declare a region with a descriptor. -/
def State.blocksOf (s : State) (vd : Nat) (desc : Word) : List Block :=
  s.dbg.images.flatMap fun im =>
    if im.1 == vd && im.2.regions.any fun q => q.descAt == desc then
      im.2.datas.filterMap fun d =>
        match d.space with
        | .scratch => some { space := d.space, off := bitsOf d.addr.toNat 20 0, len := d.bytes.length, copy := d.copyAt.toNat }
        | .abuf | .wbuf => some { space := d.space, off := bitsOf d.addr.toNat 22 0, len := d.bytes.length, copy := d.copyAt.toNat }
        | _ => none
    else []

/-- Whether a block of the descriptor would touch a granule that a partition holds in core `k`; what the partitions of another
package hold is not known here (R368). -/
def State.blockClash (s : State) (vd : Nat) (desc : Word) (k : Nat) : Bool :=
  (s.blocksOf vd desc).any fun b => b.space == .abuf && b.len != 0 &&
    (if isFar k then Config.farClash s.free
     else (s.cluster (clusterOfCore k)).granules.any fun g => g.1 / 1024 == k % 24 && g.2.part.isSome &&
      b.off / 4096 ≤ g.1 % 1024 && g.1 % 1024 * 4096 < b.off + b.len)

/-- The loader's copies in the device's memory are written into core `k`; a line written whole loses its mark (R179). A copy that
cannot be read is the fault of the placement (DESIGN CHOICE, log 108). -/
def State.writeBlocks (s : State) (w : Who) (desc : Word) (k : Nat) : Chk State :=
  (if isFar k then [] else s.blocksOf w.vd desc).foldlM (fun s b => do
    let bs ← (List.range b.len).mapM fun i => s.hwRead w (b.copy + i) 1
    let p := pa (match b.space with
      | .abuf => spA k
      | .wbuf => spW k
      | _ => spScratch k) b.off
    let ls := wholeLines p b.len
    .ok { s with mem := Memory.writeL s.mem p (bs.map (BitVec.ofNat 8)), poison := s.poison.filter fun l => !ls.contains l }) s

/-! ## The sequencer (R251, R252, R244) -/

/-- The least point not below `y` that a configuration's extents cover, innermost dimension first. -/
def coverNext : List Nat → List Nat → Option (List Nat)
  | e :: es, y :: ys =>
    match coverNext es ys with
    | none => none
    | some zs =>
      if zs == ys then
        if y < e then some (y :: zs)
        else match ys with
          | [] => none
          | y1 :: yr => (coverNext es ((y1 + 1) :: yr)).map fun z => 0 :: z
      else some (0 :: zs)
  | _, _ => some []

/-- A point as a number, the outermost dimension the highest digit. -/
def pointKey : List Nat → Nat
  | [] => 0
  | x :: r => x + 65536 * pointKey r

/-- Whether a configuration runs at a point. -/
def covers (e : ConfEntry) (x : List Nat) : Bool := coverNext e.extents x == some x

/-- The step after configuration `c` at point `x` (R251). -/
def nextStep (confs : List ConfEntry) (x : List Nat) (c : Nat) : Option (List Nat × Nat) :=
  let at1 := fun (p : List Nat) (lo : Nat) => (List.range confs.length).find? fun i =>
    lo ≤ i && (match confs[i]? with | some e => covers e p | none => false)
  match at1 x (c + 1) with
  | some i => some (x, i)
  | none =>
    let y := match x with
      | [] => []
      | a :: r => (a + 1) :: r
    let ps := confs.filterMap fun e => coverNext e.extents y
    match ps.foldl (fun b p => match b with
      | none => some p
      | some q => if pointKey p < pointKey q then some p else some q) none with
    | none => none
    | some p => (at1 p 0).map fun i => (p, i)

/-- Whether the iteration space has more than one point. -/
def manyPoints (confs : List ConfEntry) : Bool := confs.any fun e => e.extents.any fun n => n != 1

/-- The start token (R244). -/
def startToken (arg1 : Word) : Token :=
  { rsv := 0, net := false, last := true, kind := 1, dest := 0, port := 0, slot := 0, chan := 0, seq := 0, ctx := 0,
    iter := 0, payload := arg1 }

/-- Write the point (R252) and deliver the start token (R244), where core 0 is of this package (R368). -/
def State.beginStep (s : State) (r : Nat) : State :=
  let x := s.region r
  let pt := fun i => (x.point[i]?).getD 0
  let setK := fun (b : ConfBank) (sl v : Nat) =>
    { b with planes := Sparse.upd b.planes sl {} fun p => { p with const := BitVec.ofNat 32 v } }
  let s := if manyPoints x.confs && !isFar (s.coreOf r 0) then
      s.updElem r 0 fun e => { e with active := x.conf }.updBank fun b =>
        setK (setK b 30 (pt 1 % 65536 * 65536 + pt 0 % 65536)) 31 (pt 3 % 65536 * 65536 + pt 2 % 65536)
    else s
  let s := s.updRegion r fun x => { x with inStep := true, doneRecv := false, stopFlag := false, switching := false,
                                           pendStep := false, stepFault := false }
  if bitsOf ((s.elem r 0).planes 0).op.toNat 31 24 == 0 then s else s.send (2 ^ 40 + r) r (startToken x.arg1) x.past

/-- Start the region step at which the sequencer stands: a resident switch first, where an element needs one (R91), or may need
one on another package. -/
def State.startStep (s : State) (r : Nat) : State :=
  let c := (s.region r).conf
  if !hasFar (s.region r) && (s.elemsOf r).all fun p => p.2.active == c then s.beginStep r
  else (s.mapElems r fun e => if e.active == c then e else { e with order := some c }).updRegion r fun x =>
    { x with switching := true }

/-! ## The store buffer of an idem region (R335) -/

/-- The runs of a store buffer: bytes that follow one another in one 32-byte granule (R386), by their first address. -/
def bufferRuns (b : Sparse Byte) : List (Nat × List Byte) :=
  b.foldl (fun l q => match l.reverse with
    | (p, bs) :: rest => if p + bs.length == q.1 && p / 32 == q.1 / 32 then rest.reverse ++ [(p, bs ++ [q.2])] else l ++ [(q.1, [q.2])]
    | [] => [(q.1, [q.2])]) []

/-- The buffered writes of a region are noted: writes of its first core, which all of its cores have seen (R335). -/
def State.noteBuffer (s : State) (r : Nat) : State :=
  match nearCores (s.region r) with
  | [] => s
  | k :: ks => (bufferRuns (s.region r).storeBuf).foldl (fun s q =>
      let v := q.2.foldr (fun b v => b.toNat + 256 * v) 0
      let s := s.noteWrite (.core k) 1 q.1 q.2.length v []
      { s with unseen := modifyAt (fun h => { h with seen := ks.map fun j => (.core j, s.free) }) s.unseen 0 }) s

/-- Write the buffer out. -/
def State.flushStores (s : State) (r : Nat) : State :=
  let x := s.region r
  let s := s.noteBuffer r
  let m := x.storeBuf.foldl (fun m q => Memory.write m q.1 q.2) s.mem
  let kept := s.poison.filter fun l => !x.storeClear.contains l
  { s with mem := m, poison := x.storePoison.foldl (fun l p => insertNat p l) kept }.updRegion r fun y =>
    { y with storeBuf := [], storePoison := [], storeClear := [] }

/-- The first irrevocable act of the run: the buffer is written out and idem is clear for the rest of the run. -/
def State.irrevocable (s : State) (r : Nat) : State :=
  if (s.region r).buffering then (s.flushStores r).updRegion r fun y => { y with buffering := false, idem := false } else s

/-! ## The end of a region -/

/-- Release a read in progress of a shelf context of element `a`: of a tile of the shelf of its own cluster (R61). -/
def State.dropShelfRead (s : State) (r a : Nat) (x : StreamCtx) : State :=
  if x.kind == .shelf && x.begun then
    let cl := clusterOfCore (s.coreOf r a)
    s.updCluster cl fun c => settleTile (s.savedNames cl) (markReading c x.handle.toNat (s.region r).desc (!x.peek) false) x.handle.toNat
  else s

/-- Release the reads in progress of a region's shelf contexts. -/
def State.dropReads (s : State) (r : Nat) : State :=
  (s.elemsOf r).foldl (fun s p => p.2.ctxs.foldl (fun s q => s.dropShelfRead r p.1 q.2) s) s

/-- Everything that a region has under way is dropped: tokens, requests, contexts, watches, matrix instructions, parked
SHALLOCs, port bindings; no generator governs a context of its elements any longer (R100). -/
def State.dropWork (s : State) (r : Nat) : State :=
  let s := s.dropParked r
  let now := (s.region r).activeNow
  let s := { s with
    elems := s.elems.filter fun p => p.1 / 65536 != r
    net := s.net.filter fun f => f.r != r
    ctl := s.ctl.filter fun f => f.r != r
    cores := s.cores.map fun q => (q.1, { q.2 with watches := q.2.watches.filter fun y => y.r != r,
                                                   issue := q.2.issue.filter fun y => y.r != r,
                                                   pool := q.2.pool.filter fun y => y.r != r })
    clusters := s.clusters.map fun q => (q.1, { q.2 with redMsgs := q.2.redMsgs.map fun (m : RedMsg) =>
      if m.r == r then { m with r := 256 } else m })
    ports := s.ports.map fun q => (q.1, if q.2.bind == some r then { q.2 with bind := none } else q.2)
    retained := s.retained.map fun (c : Retained) => if c.msg.r == r then { c with msg := { c.msg with r := 256 } } else c }
  if now then s.rebase r else s

/-- Free a region's place and cores; the place's generation advances (R295). -/
def State.freePlaceOf (s : State) (r : Nat) : State :=
  let s := s.dropWork r
  let s := s.updCluster (r / 64) fun c => { c with gens := Sparse.upd c.gens (r % 64) 0 fun g => g + 1 }
  s.updRegion r fun _ => {}

/-- End a region: its reads in progress end with it. -/
def State.freeRegion (s : State) (r : Nat) : State := (s.dropReads r).freePlaceOf r

/-- Whether an RGNSTART with a task record is outstanding for a region (R292, R296). -/
def State.startPends (s : State) (r : Nat) : Bool :=
  s.threads.any fun t => t.2.ops.any fun o => match o.kind with
    | .tile (.rgnstart i task) => i == s.rid r && task != 0
    | _ => false

/-- Whether a kill of a region waits: its task is READY, in its load, behind an aborted load or for its RGNSTART, and no kill exists
for READY (R271). -/
def State.killWaits (s : State) (r : Nat) : Bool :=
  ((s.region r).task.isSome && ((s.region r).status == .loading || (s.region r).status == .loaded)) ||
    ((s.region r).status != .running && s.startPends r)

/-- RGNKILL (R236, R258, R296): the journal is settled, the task becomes KILLED, buffered writes are dropped. -/
def State.killRegion (s : State) (r : Nat) : State :=
  let x := s.region r
  let s := s.killJournal (s.rid r) x.vd x.desc
  let s := match x.task with
    | some a => if x.status == RStatus.running then s.killTask x.vd (r / 64) a else s
    | none => s
  s.freeRegion r

/-- A placement or a load fails: its task becomes FAULTED, and the cores return (R258). -/
def State.failPlacement (s : State) (r code : Nat) : State :=
  let x := s.region r
  let s := match x.task with
    | some a => s.faultTask x.vd (s.homeCluster x.vd (r / 64) a) a code
    | none => s
  if x.keep then s.updRegion r fun y => { y with task := none } else s.freeRegion r

/-- A load ends with a fault (R324): the record along the fault edge, the shadow bank invalid; the pending task becomes
FAULTED. -/
def State.failLoad (s : State) (r code info : Nat) : State :=
  let s := s.raise r code noElem noSlot 0 info 0
  if (s.region r).task.isSome then s.failPlacement r code
  else s.updRegion r fun x => { x with status := .loaded, load := none, shadowValid := false, loadFault := code }

/-- The base registers of every memory element of the region (R185, R296). -/
def State.setBases (s : State) (r a0 a1 : Nat) : State :=
  let v : Sparse Word := (if a0 == 0 then [] else [(0, BitVec.ofNat 64 a0)]) ++ (if a1 == 0 then [] else [(1, BitVec.ofNat 64 a1)])
  (nearCores (s.region r)).foldl (fun s k => (List.range 16).foldl (fun s m =>
    { s with units := Sparse.upd s.units (128 * k + 64 + m) {} fun u => { u with mb := v } }) s) s

/-- The region starts from its first step; its idem flag is that of the descriptor again (R335), and its start token comes after what
the readiness of its task acquires. -/
def State.launch (s : State) (r : Nat) (a0 a1 : Nat) (past : Past) : State :=
  let s := s.setBases r a0 a1
  let s := s.updRegion r fun x => { x with status := .running, arg1 := BitVec.ofNat 64 a1, point := [0, 0, 0, 0], conf := 0,
                                           triggered := false, awaiting := false, draining := false, drained := false, rerun := false,
                                           frozenEnd := false, eligible := 0, throttledC := 0, progress := true, faulted := false,
                                           idem := x.declIdem, buffering := x.declIdem, past := past }
  s.startStep r

/-- The placement of a record that the task machine does not act on: its word is Malformed, or it is not READY (R58, R59). -/
def State.dropPlacement (s : State) (r : Nat) (a : Word) : State :=
  let x := s.region r
  let s := s.refuse x.vd a
  if x.keep then s.updRegion r fun y => { y with task := none } else s.freeRegion r

/-- The placed task of a loaded region becomes RUNNING, its blocks are written and its region starts (R258, R247); its readiness
acquires at pod scope (R259). -/
def State.launchTask (s : State) (r : Nat) (a : Word) : State :=
  let x := s.region r
  let hc := s.homeCluster x.vd (r / 64) a
  let w := hwWho x.vd hc
  let q : Chk (Option (State × Nat × Nat)) := do
    let wd ← s.taskWord w a
    if !wordOk wd || wd % 16 != tsReady then .ok none
    else
      let a0 ← s.hwRead w (a.toNat + 0x30) 8
      let a1 ← s.hwRead w (a.toNat + 0x38) 8
      let t ← s.writeBlocks w x.desc ((x.cores.head?).getD 0)
      let t ← t.putTask w a tsRunning 0 none
      .ok (some (t, a0, a1))
  match q with
  | .error c => s.failPlacement r c
  | .ok none => s.dropPlacement r a
  | .ok (some (t, a0, a1)) =>
    let own := fun (y : Tile) =>
      if y.task == some a && y.region == noRid then { y with region := s.rid r, rank := x.rank, fedge := x.fedge } else y
    let t := t.updCluster (r / 64) fun c => { c with tiles := c.tiles.map own }
    let rel := ((s.homeOf x.vd a).map (·.rel)).getD []
    (t.updRegion r fun y => { y with placed := true }).launch r a0 a1 (t.readyPast r rel)

/-- A region stands at a place on cores, its load to come. -/
def State.standRegion (s : State) (r : Nat) (x : RegionState) (cores : List Nat) : State :=
  s.updRegion r fun _ => { x with cores := cores, activeNow := s.coresIdle r cores }

/-- Start a loaded region under the registers of thread `t`, with a task record or 0 (R296): the result of RGNSTART. Without a record
the payload of the start token is 0, as the base registers are (DESIGN CHOICE, log 121: R244 gives only a task's arg1). -/
def State.startRegion (s : State) (r t : Nat) (task : Word) : State × Nat :=
  let s := s.updRegion r fun x => takeRegs x t (s.thread t)
  let x := s.region r
  if x.loadFault != 0 then
    (if task == 0 then s else s.faultTask x.vd (s.homeCluster x.vd (r / 64) task) task x.loadFault, 1)
  else if task == 0 then ((s.updRegion r fun y => { y with task := none, placed := false }).launch r 0 0 [], 0)
  else
    let hc := s.homeCluster x.vd (r / 64) task
    let s := s.updCluster hc fun c => { c with ready := c.ready.filter fun d => !(d.vd == x.vd && d.task == task) }
    let bad := if (s.thread t).hrank.toNat % 8 < x.rank then some fcPrivilege
      else if s.blockClash x.vd x.desc ((x.cores.head?).getD 0) then some fcAccessFault else none
    match bad with
    | some c => (s.faultTask x.vd hc task c, 1)
    | none =>
      let s := (s.updRegion r fun y => { y with task := some task }).launchTask r task
      (s, if (s.region r).task == some task then 0 else 1)

/-! ## Replicas that move (R268) -/

/-- The regions of a stage that stand in a cluster. -/
def State.stageRuns (s : State) (c vd : Nat) (desc : Word) : Nat :=
  (s.regions.filter fun g => g.1 / 64 == c && g.2.live && g.2.vd == vd && g.2.desc == desc).length

/-- A replica of stage `i` that takes no new task becomes one of the next stage, with the cores that it leaves. -/
def arrive (i : Nat) (cores : List Nat) (l : Pipeline) : Pipeline :=
  match l.moving.find? fun q => q.1 == i with
  | none => l
  | some q => { l with stages := modifyAt (fun (x : Word × List Nat) => (x.1, x.2 ++ [q.2])) l.stages (i + 1),
                       moving := removeFirst (fun y => y == q) l.moving,
                       kept := if cores.isEmpty then l.kept else l.kept ++ [(i + 1, cores)] }

/-- The number of replicas of a stage that take tasks. -/
def stageWidth (l : Pipeline) (i : Nat) : Nat := ((l.stages[i]?).map (fun q => q.2.length)).getD 0

/-- The task of a replica retires: where its stage has more tasks than replicas that take them, its cores go to the new one. -/
def passStage (vd runs : Nat) (desc : Word) (cores : List Nat) (l : Pipeline) : Pipeline :=
  match l.stages.findIdx? (fun q => q.1 == desc) with
  | none => l
  | some i => if l.vd == vd && stageWidth l i < runs then arrive i cores l else l
def State.passCores (s : State) (r : Nat) : State :=
  let x := s.region r
  let f := passStage x.vd (s.stageRuns (r / 64) x.vd x.desc) x.desc x.cores
  s.updCluster (r / 64) fun c => { c with pipes := c.pipes.map f }

/-- Retirement of a region's task (R259): the buffered writes first, then the record, then the place. A record whose word is
Malformed is not acted on, and its region stays as it is (R59; DESIGN CHOICE, log 108). -/
def State.retireRegion (s : State) (r : Nat) (a : Word) : State :=
  let x := s.region r
  let p := (s.flushStores r).regionRelease r 5
  let s := p.1
  let q := s.retireRecord x.vd (s.homeCluster x.vd (r / 64) a) p.2 a (some (s.rid r))
  let s := q.1
  if 0x10 ≤ q.2 then s.updRegion r fun y => { y with awaiting := false }
  else if x.keep then s.updRegion r fun y => { y with status := .completed, awaiting := false, task := none, inStep := false }
  else (s.passCores r).freeRegion r

/-- A started region that has no task record runs again from its image: the run leaves no trace (R336, R377). -/
def State.rerunRegion (s : State) (r : Nat) : State :=
  let s := (s.freeOpen (s.rid r)).creditJournal (s.rid r)
  ((s.dropReads r).dropWork r).updRegion r fun x =>
    { x with status := .loading, load := some { conf := 0, recn := 0, shadow := [], scales := [] }, rerun := true, storeBuf := [],
             storePoison := [], storeClear := [], buffering := false, inStep := false, pendStep := false, switching := false,
             ctxs := [], inFlight := 0 }

/-- An idempotent restart (R336): the run leaves no trace, and its task returns to READY. -/
def State.restartRegion (s : State) (r : Nat) : State :=
  let x := s.region r
  let s := (s.freeOpen (s.rid r)).creditJournal (s.rid r)
  let s := match x.task with
    | some a => s.restartTask x.vd (r / 64) a
    | none => s
  s.freeRegion r

end Sys2Proof.Machine
end

