-- ==== Sys2Proof/Machine/Images.lean ====
section
/-! DEFINITION. Context images (R334) and swaps (R333): what a save takes, what a restore puts back. The layout of an
image belongs to the LG9 (R334): its bytes are opaque, and State keeps what each image holds. -/
namespace Sys2Proof.Config

/-- What an image that another package has saved holds (R334, R378), by its bytes; none where they are no image. -/
opaque farImage : (Nat → Option Nat) → Option Machine.SavedImage

end Sys2Proof.Config
namespace Sys2Proof.Machine

/-! ## The storage of cores as bytes of images -/

/-- The five storages of a core, in the order of an image. -/
def coreSpaces (k : Nat) : List Nat := [spScratch k, spW k, spA k, spC k, spScale k]

/-- The key of a physical address in an image over a list of cores: none where the image does not hold it (A-buffer
granules of shelf partitions stay with the cluster). -/
def State.imageKey (s : State) (cores : List Nat) (p : Nat) : Option Nat :=
  (List.range cores.length).findSome? fun i =>
    let k := (cores[i]?).getD 0
    (List.range 5).findSome? fun b =>
      if isFar k then none
      else if ((coreSpaces k)[b]?).getD 0 != paSpace p then none
      else if b == 2 && (granAt (s.cluster (clusterOfCore k)) (k % 24) (paOff p / 4096)).part.isSome then none
      else some (2 ^ 48 * (5 * i + b) + paOff p)

/-- The physical address of an image key over a list of cores. -/
def keyPa (cores : List Nat) (q : Nat) : Nat :=
  let i := q / 2 ^ 48 / 5
  pa (((coreSpaces ((cores[i]?).getD 0))[q / 2 ^ 48 % 5]?).getD 0) (q % 2 ^ 48)

/-- The SHALLOCs of a region that wait in the queues of partitions, by partition. -/
def State.parkedOf (s : State) (r : Nat) : List (Nat × SReq) :=
  (List.range 4).flatMap fun cl => (s.cluster cl).parts.flatMap fun p =>
    (p.2.queue.filter fun q => q.r == r && q.elem != noElem).map fun q => (p.1, q)

/-- SHALLOCs join the tails of their partitions' queues, for region `r` (R233). -/
def State.rejoin (s : State) (r : Nat) (l : List (Nat × SReq)) : State :=
  l.foldl (fun s q => s.updCluster (clusterOfCore (s.coreOf r q.2.elem)) fun c =>
    { c with parts := Sparse.upd c.parts q.1 {} fun p => { p with queue := p.queue ++ [{ q.2 with r := r }] } }) s

/-- Watches are registered again with the watch units of their cores, for region `r` (R157). -/
def State.rewatch (s : State) (r : Nat) (l : List Watch) : State :=
  l.foldl (fun s y => s.updCore (s.coreOf r y.elem) fun c => { c with watches := c.watches ++ [{ y with r := r }] }) s

/-- A spill record of R106, as a number of 32 bytes: the entry as a token, latch-pending, its arrival stamp. -/
def spillRecord (m : MsEntry) : Nat := tokBits m.tok + (if m.pend then 2 ^ 128 else 0) + m.stamp % 2 ^ 64 * 2 ^ 192

/-- The spill records of a region, that its image ends with (R334). -/
def spillRecords (l : List (Nat × ElemState)) : List Nat := l.flatMap fun p => p.2.spill.map spillRecord

/-- The bytes of an image before its spill records: as many as its layout takes, at most 16 MiB per core (R334). -/
def imageBase (id cores : Nat) : Nat := min (Config.imageLen id) (2 ^ 24 * cores)

/-- The length of the image of a region. -/
def State.imageSize (s : State) (r : Nat) : Nat :=
  imageBase s.imageId (s.region r).cores.length + 32 * (spillRecords (s.elemsOf r)).length

/-- Byte `o` of an image: of its layout, which the spec leaves to the LG9, or of its spill records. -/
def SavedImage.byte (im : SavedImage) (o : Nat) : Nat :=
  let n := imageBase im.id im.region.cores.length
  if o < n then (Config.imageByte im.id o).toNat else byteAt (((spillRecords im.elems)[(o - n) / 32]?).getD 0) ((o - n) % 32)

/-- What the image of a region holds (R333, R334). -/
def State.imageOf (s : State) (r : Nat) (area : Word) : SavedImage :=
  let x := s.region r
  let rid := s.rid r
  let idx := List.range x.cores.length
  { id := s.imageId, vd := x.vd, area := area, len := s.imageSize r, region := x, rid := rid,
    elems := s.elemsOf r,
    units := idx.flatMap fun i => (List.range 96).filterMap fun e =>
      let u := Sparse.atD s.units (128 * (x.cores[i]?).getD 0 + e) {}
      let u := match x.mbBank.find? fun b => b.1 == 128 * i + e with
        | some b => { u with mb := b.2 }
        | none => u
      let u := if x.activeNow then u else { u with winBase := s.genBases r }
      if u == {} then none else some (128 * i + e, u),
    accs := idx.map fun i => (i, (s.core ((x.cores[i]?).getD 0)).accs),
    bytes := s.mem.filterMap fun c => (s.imageKey x.cores c.1).map fun k => (k, c.2),
    journal := (List.range 4).flatMap fun cl => ((s.cluster cl).journal.filter fun j => j.region == rid).map fun j => (cl, j),
    watches := idx.flatMap fun i => (s.core ((x.cores[i]?).getD 0)).watches.filter (fun y => y.r == r) ++ x.watches,
    salloc := s.parkedOf r ++ x.parkedS,
    marks := s.poison.filterMap fun l => s.imageKey x.cores (64 * l),
    words := s.poisonW.filterMap fun l => s.imageKey x.cores (4 * l),
    issue := idx.flatMap fun i => ((s.core ((x.cores[i]?).getD 0)).issue.filter fun y => y.r == r).map fun y => (i, y),
    pool := idx.flatMap fun i => ((s.core ((x.cores[i]?).getD 0)).pool.filter fun y => y.r == r).map fun y => (i, y),
    net := s.net.filter fun f => f.r == r,
    ctl := s.ctl.filter fun f => f.r == r }

/-- Save a region: its image is kept, its journal entries, cores and place are freed (R296, R236). -/
def State.saveRegion (s : State) (r : Nat) (area : Word) : State :=
  let im := s.imageOf r area
  let s := s.settleWrites fun h => h.ofCores (nearCores (s.region r))
  let s := { s with images := s.images ++ [im], imageId := s.imageId + 1 }
  let s := (List.range 4).foldl (fun s cl => s.updCluster cl fun c =>
    { c with journal := c.journal.filter fun j => j.region != im.rid }) s
  s.freePlaceOf r

/-- Whether the journal entries of an image fit the tables again (R236). -/
def State.journalFits (s : State) (im : SavedImage) : Bool :=
  (List.range 4).all fun cl =>
    (s.cluster cl).journal.length + (im.journal.filter fun j => j.1 == cl && (tileOf (s.cluster cl) j.2.handle).isSome).length ≤ 16384

/-- A token of a saved region on the networks of its new place. -/
def moveFlight (old r : Nat) (f : Flight) : Flight :=
  let n := 65536 * 32
  { f with r := r, src := if f.src / n == old then n * r + f.src % n else f.src }

/-- Put an image back on cores at a place: the region stands in its saved state under its new RID. Its journal entries go back to
the clusters where their tiles stand, by `dst` from the clusters of the save (R236). -/
def State.restoreImage (s : State) (im : SavedImage) (r : Nat) (cores : List Nat) (dst : Nat → Nat := id) : State :=
  let rid := s.rid r
  let gone := fun (p : Nat) => (s.imageKey cores p).isSome
  let mem := s.mem.filter fun c => !gone c.1
  let mem := im.bytes.foldl (fun m c => Memory.write m (keyPa cores c.1) c.2) mem
  let poison := (s.poison.filter fun l => !gone (64 * l))
  let poison := im.marks.foldl (fun l k => insertNat (keyPa cores k / 64) l) poison
  let words := (s.poisonW.filter fun l => !gone (4 * l))
  let words := im.words.foldl (fun l k => insertNat (keyPa cores k / 4) l) words
  let core := fun (i : Nat) => (cores[i]?).getD 0
  let s : State := { s with mem := mem, poison := poison, poisonW := words }
  let now := s.coresIdle r cores
  let s : State := s.updRegion r fun _ =>
    { im.region with
      cores := cores, saved := false, activeNow := now
      mbBank := if now then [] else im.units.map fun u => (u.1, u.2.mb)
      watches := if now then [] else im.watches
      parkedS := if now then [] else im.salloc }
  let s : State := im.elems.foldl (fun s p => s.updElem r p.1 fun _ => p.2) s
  let s : State := if !now then s else (List.range cores.length).foldl (fun s i => (List.range 96).foldl (fun s e =>
    { s with units := match im.units.find? fun u => u.1 == 128 * i + e with
                      | some u => Sparse.put s.units (128 * core i + e) u.2
                      | none => Sparse.del s.units (128 * core i + e) }) s) s
  let s : State := im.accs.foldl (fun s p => s.updCore (core p.1) fun c => { c with accs := p.2 }) s
  let s : State := if now then s.rewatch r im.watches else s
  let s : State := im.issue.foldl (fun s y => s.updCore (core y.1) fun c => { c with issue := c.issue ++ [{ y.2 with r := r }] }) s
  let s : State := im.pool.foldl (fun s y => s.updCore (core y.1) fun c => { c with pool := c.pool ++ [{ y.2 with r := r }] }) s
  let s : State := { s with net := s.net ++ im.net.map (moveFlight (im.rid % 256) r), ctl := s.ctl ++ im.ctl.map fun (c : CtlMsg) => { c with r := r } }
  let s : State := (List.range 4).foldl (fun s cl => s.updCluster cl fun c =>
    { c with
      journal := c.journal ++ ((im.journal.filter fun j => dst j.1 == cl && (tileOf c j.2.handle).isSome).map fun j => { j.2 with region := rid })
      tiles := c.tiles.map fun t => if t.region == im.rid && t.vd == im.vd then { t with region := rid } else t }) s
  let s : State := { s with images := s.images.map fun y => if y.id == im.id then { y with journal := [] } else y }
  if now then s.rejoin r im.salloc else s

/-! ## The bytes of an image (R334) -/

/-- The first byte of an area that cannot be accessed: its address and the fault. -/
def State.areaFault (s : State) (w : Who) (a : Nat) (k : Kind) : Nat → Option (Nat × Nat)
  | 0 => none
  | n + 1 =>
    match s.resolve w (BitVec.ofNat 64 a) k with
    | .fault c => some (a, c)
    | .ok _ _ => s.areaFault w (a + 1) k n

/-- Write the bytes of an image from offset `o` on. -/
def State.writeImage (s : State) (w : Who) (a : Nat) (im : SavedImage) (o : Nat) : Nat → State
  | 0 => s
  | n + 1 =>
    match s.hwWrite w (a + o) 1 (im.byte o) with
    | .ok t => t.writeImage w a im (o + 1) n
    | .error _ => s.writeImage w a im (o + 1) n

/-- Whether `n` bytes at an address are those of an image from offset `o` on. -/
def State.isImage (s : State) (w : Who) (a : Nat) (im : SavedImage) (o : Nat) : Nat → Bool
  | 0 => true
  | n + 1 =>
    match s.hwRead w (a + o) 1 with
    | .ok v => v == im.byte o && s.isImage w a im (o + 1) n
    | .error _ => false

/-- The image that the bytes at an area are (R334: the digest checks): one that this package has written, or one that another has
(R378). -/
def State.imageAt (s : State) (w : Who) (area : Word) : Option SavedImage :=
  match s.images.find? fun im => s.isImage w area.toNat im 0 im.len with
  | some im => some im
  | none => (Config.farImage fun o => (s.hwRead w (area.toNat + o) 1).toOption).map fun im =>
      { im with id := s.imageId, vd := w.vd, area := area }

/-! ## Swaps (R333) -/

/-- Whether two regions stand on the same cores. -/
def sameCores (x y : RegionState) : Bool := x.cores == y.cores

/-- The base registers of a region's memory elements, by element address. -/
def State.basesOf (s : State) (r : Nat) : List (Nat × Sparse Word) :=
  let n := (s.region r).cores.length
  (List.range n).flatMap fun i => (List.range 16).map fun m => (128 * i + 64 + m, (s.unit r (128 * i + 64 + m)).mb)

/-- The bank of a region leaves its cores (R333): base registers, watches (R157) and parked SHALLOCs (R233) go with it, and
so do the window bases, which its generators hold. -/
def State.bankOut (s : State) (x : Nat) : State :=
  let w := (nearCores (s.region x)).flatMap fun k => (s.core k).watches.filter fun y => y.r == x
  let s := s.updRegion x fun q => { q with activeNow := false, mbBank := s.basesOf x, saved := false, watches := w, parkedS := s.parkedOf x }
  let s := s.dropParked x
  { s with
    ctl := s.ctl.filter fun c => c.r != x
    cores := s.cores.map fun q => (q.1, { q.2 with watches := q.2.watches.filter fun y => y.r != x }) }

/-- The bank of a region comes to its cores. -/
def State.bankIn (s : State) (y : Nat) : State :=
  let q := s.region y
  let s := q.mbBank.foldl (fun s p => s.updUnit y p.1 fun u => { u with mb := p.2 }) s
  let s := (s.updRegion y fun q => { q with activeNow := true, mbBank := [], watches := [], parkedS := [] }).applyScales y
  ((s.rebase y).rewatch y q.watches).rejoin y q.parkedS

/-- The banks are exchanged: X is swapped out, Y is active. X's tokens on its networks stay with it. Ports bound to X are
unbound (R322). -/
def State.swapRegions (s : State) (x y : Nat) : State :=
  let s := (s.bankOut x).bankIn y
  { s with ports := s.ports.map fun q => (q.1, if q.2.bind == some x then { q.2 with bind := none } else q.2) }

end Sys2Proof.Machine
end

