-- ==== Sys2Proof/Machine/Fabric.lean ====
section
/-! DEFINITION. Shared operations of the fabric (R362 to R377): the return from a firmware service, spans and their
routes, windows, and the end of a gang launch. -/
namespace Sys2Proof.Machine

/-! ## Firmware services (R362) -/

/-- The machine-level frame of a thread: its address where it can be reached. -/
def State.machineFrame (s : State) (t : Nat) : Option Nat :=
  match s.resolve (s.whoAt t 2) (BitVec.ofNat 64 (s.readNat (tcb t + 0x18) 8)) .rd with
  | .ok p _ => some p
  | .fault _ => none

/-- Whether firmware waits for what a thread at machine level still has under way: its frame, or g1 and g2 (R274, R277). -/
def State.serviceWaits (s : State) (t : Nat) : Bool :=
  (s.thread t).ops.any ThreadOp.isFrame || (s.thread t).busy.getLsbD 1 || (s.thread t).busy.getLsbD 2

/-- The service code of a thread's frame: it stands at machine level, and the frame holds a TRAP of supervisor level (R299, R362). -/
def State.frameCode (s : State) (t : Nat) : Option Nat :=
  if (s.thread t).level.toNat != 2 then none
  else match s.machineFrame t with
    | none => none
    | some p =>
      let info := s.readNat (p + 0x18) 8
      if s.readNat (p + 8) 1 == 1 && s.readNat (p + 0x10) 1 == fcIllegal && info / 2 ^ 15 == 2 ^ 48 then some (info % 2 ^ 15)
      else none

/-- The service code that a thread waits for. -/
def State.serviceCode (s : State) (t : Nat) : Option Nat := if s.serviceWaits t then none else s.frameCode t

/-- Whether a thread issues nothing, for its frame is still to be written or firmware serves it. -/
def State.inService (s : State) (t : Nat) : Bool :=
  ((s.thread t).level.toNat == 2 && (s.thread t).ops.any ThreadOp.isFrame) || (s.frameCode t).isSome

/-- A service returns: status in g1, result in g2, and ERET (R362). -/
def State.serviceReturn (s : State) (t status res : Nat) : State :=
  match s.machineFrame t with
  | none => s
  | some p =>
    let epc := s.readNat p 8
    let prev := s.readNat (p + 8) 1
    s.updThread t fun x =>
      { (x.setReg 1 (BitVec.ofNat 64 status) false).setReg 2 (BitVec.ofNat 64 res) false with
        pc := BitVec.ofNat 64 epc, level := BitVec.ofNat 2 prev, run := .running }

/-- The frame of a service step: thread `t` waits for `code`; its device and g1, g2 go to the effect. -/
def State.service (s : State) (t : Nat) (codes : Nat → Bool) (k : Nat → Nat → Nat → Out) : Out :=
  if 64 ≤ t then .fault .noSuchUnit
  else match s.serviceCode t with
    | none => .next s
    | some c => if codes c then k (s.vdOfThread t) ((s.thread t).reg 1).toNat ((s.thread t).reg 2).toNat else .next s

/-! ## Spans (R363 to R365) -/

/-- Whether a member's index still belongs to the span on a package. -/
def Span.onPackage (p : Span) (pod pkg : Nat) : Bool :=
  (List.range p.members.length).any fun i =>
    !p.left.contains i && (p.members[i]?).any fun m => m.pkg == pkg && m.pod == pod

/-- The package of a place as 256 × pod + package. -/
def pkgOf (p : Nat) : Nat := (paSpace p - 1024) / 2
def here : Nat := 256 * Config.pod + Config.package

/-- The route entry between a device of this package and another package (R364): both are members of its span, and the
device owns a port of the tier that the path needs. -/
def State.routed (s : State) (vd pod pkg : Nat) : Bool :=
  match s.spanOf vd with
  | none => false
  | some p => p.onPackage pod pkg &&
    (match p.members.find? fun m => m.pkg == Config.package && m.pod == Config.pod && m.vd == vd with
     | none => false
     | some m => if pod == Config.pod then m.ports.toNat % 2 ^ 32 != 0 else m.ports.toNat / 2 ^ 38 != 0)

/-- Whether a device of this package owns a Serdex port (R343, R363). -/
def State.ownsSerdex (s : State) (vd p : Nat) : Bool :=
  match s.spanOf vd with
  | none => (s.vd vd).serdex.contains p
  | some sp => sp.members.any fun m =>
      m.pkg == Config.package && m.pod == Config.pod && m.vd == vd && m.ports.getLsbD p

/-! ## Paths (R358, R364, R366, R372) -/

/-- Whether a port is a port of the second tier (R358). -/
def isTier (p : Nat) : Bool := Config.pods && 38 ≤ p && p < 40

/-- The switch that a port faces (R358): of the pod, or a leaf of the second tier, numbered from 32 on; 128 is none. -/
def portSwitch (p : Nat) : Nat :=
  if p < 32 then p
  else if isTier p then 32 + 4 * Config.pod + 2 * (Config.package / 128) + (p - 38) else 128

/-- Whether a port of a device is live: owned, its link up, its switch not failed. -/
def State.livePort (s : State) (vd p : Nat) : Bool := s.ownsSerdex vd p && (s.serdexPort p).up && !s.downSw.contains (portSwitch p)

/-- The port of an access to a line of a package (R366, R372): within the pod the line's, the next live one upward where that is not
live (log 115); to another pod the tier port of the line, or the other one. -/
def State.pathPort (s : State) (vd pod off : Nat) : Option Nat :=
  let l := if pod == Config.pod then (List.range 32).map fun i => (off / 64 + i) % 32
           else if Config.pods then [38 + off / 64 % 2, 39 - off / 64 % 2] else []
  l.find? (s.livePort vd)

/-- Whether the far end has stopped a lane of a port (R360). -/
def State.laneStopped (s : State) (p l : Nat) : Bool := (((s.serdexPort p).stopTx)[l]?).getD false

/-- Whether traffic of a lane to a place of another package waits: no live port, or its lane is stopped. -/
def State.linkWait (s : State) (vd p l : Nat) : Bool :=
  1024 ≤ paSpace p && !s.failed.contains (pkgOf p) && (match s.pathPort vd (pkgOf p / 256) (paOff p) with
    | none => true
    | some q => s.laneStopped q l)

/-- The edge port that joins this package to another for a device (R368): owned, trained to that neighbour. -/
def State.edgePort (s : State) (vd pkg : Nat) : Option Nat :=
  (List.range 8).map (32 + ·) |>.find? fun p => !isTier p && s.ownsSerdex vd p && (s.serdexPort p).up && (s.serdexPort p).nbr == pkg

/-- Whether two packages of the pod are joined by an edge link that both members own (R368). -/
def State.joined (s : State) (vd a b : Nat) : Bool :=
  if a == Config.package then (s.edgePort vd b).isSome
  else if b == Config.package then (s.edgePort vd a).isSome
  else Config.farLinked a b

/-- Packages in member order, each joined to every one before it, at most `n` of them. -/
def State.linkedTo (s : State) (vd : Nat) : Nat → List Nat → List Nat → List Nat
  | 0, got, _ => got
  | _, got, [] => got
  | n + 1, got, p :: l =>
    if !got.contains p && got.all fun q => s.joined vd q p then s.linkedTo vd n (got ++ [p]) l else s.linkedTo vd (n + 1) got l

/-- The cores of a package that a region may take, as whole clusters: of the device here, or as another package's scheduler
answers. -/
def State.wholeClusters (s : State) (vd pkg : Nat) : List Nat :=
  if pkg == Config.package then ((List.range 4).filter fun c => (s.freeCores c vd).length == 24).flatMap fun c => s.freeCores c vd
  else (List.range (24 * min 4 (Config.farClusters s.free pkg))).map (farCore pkg)

/-- The cores of a region that does not fit one package (R368): whole clusters, package by package in member order, on at most four
packages of which each pair is joined; this package is one of them (log 116). -/
def State.spanCores (s : State) (vd n : Nat) : Option (List Nat) :=
  (s.spanOf vd).bind fun p =>
    let ms := (List.range p.members.length).filterMap fun i => if p.left.contains i then none else
      (p.members[i]?).bind fun m => if m.pod == Config.pod then some m.pkg else none
    let near := ms.filter fun k => k == Config.package || (s.joined vd Config.package k && Config.farClusters s.free k != 0)
    let others := s.linkedTo vd 3 [] (near.filter fun k => k != Config.package)
    let l := ((near.filter fun k => k == Config.package || others.contains k).eraseDups.flatMap (s.wholeClusters vd)).take n
    if p.edge && 24 < n && l.length == n && l.any (fun k => !isFar k) then some l else none

/-! ## Windows (R371) -/

/-- The open window of a span that covers a home address of a package's device. -/
def State.windowAt (s : State) (span : Nat) (va n : Nat) : Option Window :=
  s.windows.find? fun w => w.span == span && w.base.toNat ≤ va && va + n ≤ w.base.toNat + w.len

/-- The party of a window's final writes. -/
def State.homeWho (s : State) (w : Window) : Who := hwWho w.vd (((s.vd w.vd).clusters.head?).getD 0)

/-- The place of a window's location, translated by the home for the write. -/
def State.homePlace (s : State) (w : Window) (addr : Nat) : Option Nat :=
  match s.resolve (s.homeWho w) (BitVec.ofNat 64 addr) .wr with
  | .ok p _ => some p
  | .fault _ => none

/-- The window of a node. -/
def State.windowOf (s : State) (win : Nat) : Option Window :=
  s.windows.find? fun w => 256 * w.span + w.num == win

/-- Whether a place lies in the line of a diverted value (R375): the line that its address translates to now. -/
def State.placeDiverted (s : State) (p : Nat) : Bool :=
  s.repair.any fun d => (s.windowOf d.win).any fun w => (s.homePlace w d.addr.toNat).any fun q => q / 64 == p / 64

/-- Whether a reduction of a window is open at the home port, or diverted. -/
def State.windowBusy (s : State) (num span : Nat) : Bool :=
  s.homeReds.any (fun h => h.win == 256 * span + num) || s.repair.any (fun d => d.win == 256 * span + num)

/-- Remove a window. -/
def State.removeWindow (s : State) (num span : Nat) : State :=
  { s with windows := s.windows.filter fun w => !(w.num == num && w.span == span) }

/-! ## Gangs (R376, R377) -/

/-- Write the status of member `i` into the gang record. -/
def State.gangStatus (s : State) (g : Gang) (i st : Nat) : State :=
  match s.hwWrite (hwWho g.vd (((s.vd g.vd).clusters.head?).getD 0)) (g.record.toNat + 0x40 + 32 * i + 4) 1 st with
  | .ok t => t
  | .error _ => s

/-- Send GangAbort to the gang's handler. -/
def State.gangAbortEvent (s : State) (g : Gang) : State :=
  let ev := mkRecord fcGangAbort 0 noElem 0 noSlot g.record.toNat 0
  let n := s.noteEvent g.vd none none ev
  if n.2 then n.1.holdRecord (((s.vd g.vd).clusters.head?).getD 0) g.handler ev g.vd none
  else n.1.sendTo g.vd (((s.vd g.vd).clusters.head?).getD 0) g.handler ev

/-- Write every member's status. -/
def State.gangStatuses (s : State) (g : Gang) (l : List (Nat × Nat)) : State :=
  l.foldl (fun s q => s.gangStatus g q.1 q.2) s

/-- End a gang's launch: its thread's service returns. -/
def State.gangReturn (s : State) (k : Nat) (ph : GangPhase) (status res : Nat) : State :=
  match s.gangs[k]? with
  | none => s
  | some g =>
    let s := { s with gangs := modifyAt (fun (x : Gang) => { x with phase := ph, thread := none }) s.gangs k }
    match g.thread with
    | some t => s.serviceReturn t status res
    | none => s

/-- A prepare fails (R377): nothing has started; every loaded region is discarded, every status is 4. -/
def State.gangDiscard (s : State) (k : Nat) : State :=
  match s.gangs[k]? with
  | none => s
  | some g =>
    let s := g.members.foldl (fun s m => match m.region with
      | some r => s.freeRegion r
      | none => s) s
    let s := s.gangStatuses g ((List.range g.members.length).map fun i => (i, 4))
    (s.gangAbortEvent g).gangReturn k .aborted 5 0

/-! ## Leaving a span (R365) -/

/-- Step 1 of SPANLEAVE can be passed: no reduction of a window of the device is open. -/
def State.windowsQuiet (s : State) (vd : Nat) : Bool :=
  (s.windows.filter fun w => w.vd == vd).all fun w => !s.windowBusy w.num w.span

/-- Whether a gang member of this package stands on a device. -/
def State.memberOn (s : State) (vd : Nat) (m : GangMember) : Bool :=
  m.pkg == Config.package && m.pod == Config.pod && s.vdOfCluster m.cluster == vd

/-- The gangs with a member that leaves (R365): a launch whose go is not committed is aborted, a later one is not relaunched. -/
def State.looseGangs (s : State) (on : Gang → GangMember → Bool) : State :=
  (List.range s.gangs.length).foldl (fun s k => match s.gangs[k]? with
    | some g =>
      if !g.members.any (on g) then s
      else if g.phase == .prepare then s.gangDiscard k
      else { s with gangs := modifyAt (fun (x : Gang) => { x with loose := true }) s.gangs k }
    | none => s) s

/-- Unbind the Serdex stream ports whose binding a condition names; their tokens stay. -/
def State.unbindSerdex (s : State) (f : Nat → Word → Bool) : State :=
  { s with serdex := s.serdex.map fun (q : Nat × SerdexState) => if q.2.bind.any (f q.1) then (q.1, { q.2 with bind := none }) else q }

/-- Whether a binding word names a device (R369). -/
def bindsTo (w : Word) (pod pkg vd : Nat) : Bool :=
  bitsOf w.toNat 30 27 == pod && bitsOf w.toNat 26 19 == pkg && bitsOf w.toNat 40 31 == vd

/-- A member leaves a span: its index belongs to the span no longer, and the last one dissolves it. -/
def State.leaveIndex (s : State) (num : Nat) (i : Option Nat) : State :=
  { s with spans := (s.spans.map fun (q : Span) => if q.num == num then { q with left := match i with
      | some i => insertNat i q.left
      | none => q.left } else q).filter fun (q : Span) => q.left.length < q.members.length || !q.active }

/-- SPANLEAVE (R365), its windows quiet: windows, gangs, bindings of the caller's ports to the span and of other members to the
caller, route entries. -/
def State.leaveSpan (s : State) (vd : Nat) : State :=
  match s.spanOf vd with
  | none => s
  | some p =>
    let s := { s with windows := s.windows.filter fun w => w.vd != vd }
    let s := s.looseGangs fun g m => (p.indexOf Config.pod Config.package g.vd).isSome && s.memberOn vd m
    let own := (List.range Config.serdexCount).filter (s.ownsSerdex vd)
    let s := s.unbindSerdex fun q w => own.contains q || bindsTo w Config.pod Config.package vd
    s.leaveIndex p.num (p.indexOf Config.pod Config.package vd)

end Sys2Proof.Machine
end

