-- ==== Sys2Proof/Machine/Vd.lean ====
section
/-! DEFINITION. Virtual devices (R264, R265, R316, R342 to R352): launch slots and notify writes, creation and
destruction, time slices, collapse and wake. What firmware may choose (which clusters, groups and addresses a device gets)
is a free choice (R12). -/
namespace Sys2Proof.Machine

/-! ## Free choices among resources -/

/-- Take `n` distinct elements of a list, each a free choice. -/
def State.takeFree (s : State) : Nat → List Nat → List Nat × State
  | 0, _ => ([], s)
  | n + 1, l =>
    if l.isEmpty then ([], s)
    else
      let i := Config.choice s.free % l.length
      let x := (l[i]?).getD 0
      let r := s.draw.takeFree n (removeAt l i)
      (insertNat x r.1, r.2)

/-! ## Launch queues (R264, R265) -/

/-- Whether a queue record keeps its layout (R264) and names a thread of its device. -/
def State.launchQ (s : State) (v c : Nat) (q : Word) : Chk LaunchQ :=
  if q.toNat % 64 != 0 then .error fcMalformed
  else do
    let w := hwWho v c
    let n := q.toNat
    let ring ← s.hwRead w n 8
    let lsize ← s.hwRead w (n + 8) 1
    let prio ← s.hwRead w (n + 9) 1
    let flags ← s.hwRead w (n + 0xA) 1
    let th ← s.hwRead w (n + 0xB) 1
    let r0 ← s.hwRead w (n + 0xC) 4
    let r1 ← s.hwRead w (n + 0x20) 32
    if ring % 8 != 0 || lsize < 4 || 16 < lsize || 3 < prio || 3 < flags || 15 < th || r0 != 0 || r1 != 0 ||
      s.vdOfCluster c != v then .error fcMalformed
    else .ok { vd := v, qaddr := q, prio := prio, nonPre := bitOf flags 0, thread := 16 * c + th }

/-- Set or clear the pending bit of a queue record. -/
def State.pendQueue (s : State) (v c : Nat) (q : Word) (on : Bool) : State :=
  let w := hwWho v c
  match s.hwRead w (q.toNat + 0xA) 1 with
  | .error _ => s
  | .ok f => match s.hwWrite w (q.toNat + 0xA) 1 (f % 2 + f / 4 * 4 + (if on then 2 else 0)) with
    | .ok t => t
    | .error _ => s

/-- Whether a queue has head ≠ tail. -/
def State.queueFull (s : State) (v c : Nat) (q : Word) : Bool :=
  let w := hwWho v c
  match s.hwRead w (q.toNat + 0x10) 8, s.hwRead w (q.toNat + 0x18) 8 with
  | .ok h, .ok t => h != t
  | _, _ => false

/-- Map a queue into a free slot. -/
def State.mapQueue (s : State) (c : Nat) (l : LaunchQ) : State :=
  (s.pendQueue l.vd c l.qaddr false).updCluster c fun x => { x with slots := x.slots ++ [l] }

/-- The pre-emptible queue that an arrival evicts: of lowest priority, the earliest mapped among equals. -/
def victimOf (l : List LaunchQ) : Option LaunchQ :=
  (l.filter fun q => !q.nonPre).foldl (fun b q => match b with
    | none => some q
    | some x => if q.prio < x.prio then some q else some x) none

/-- A notify write (R264, R265): `deferred` holds the queues whose pending bit is set, the earliest first. -/
def State.notifyQueue (s : State) (c v : Nat) (q : Word) : State :=
  if (s.vd v).mode != .active || (s.vd v).parked then
    let i := (s.vd v).shelf.findIdx fun h => h.cluster == c
    (s.pendQueue v c q true).updVd v fun d =>
      if d.launchQs.any fun l => l.2.qaddr == q then d
      else { d with launchQs := d.launchQs ++ [(i, { vd := v, qaddr := q, prio := 0, nonPre := false, thread := 0 })] }
  else if (s.cluster c).slots.any fun l => l.vd == v && l.qaddr == q then s
  else match s.launchQ v c q with
    | .error e => s.raiseSuper v e q.toNat
    | .ok l =>
      let s := s.updCluster c fun x => { x with deferred := x.deferred.filter fun y => !(y.vd == v && y.qaddr == q) }
      if (s.cluster c).slots.length < 64 then s.mapQueue c l
      else match victimOf (s.cluster c).slots with
        | none =>
          ((s.pendQueue v c q true).updCluster c fun x => { x with deferred := x.deferred ++ [l] }).raiseSuper v fcQueueDeferred q.toNat
        | some y =>
          let full := s.queueFull y.vd c y.qaddr
          let s := if full then s.pendQueue y.vd c y.qaddr true else s
          let s := s.updCluster c fun x =>
            { x with slots := x.slots.filter fun z => !(z.vd == y.vd && z.qaddr == y.qaddr),
                     deferred := if full then x.deferred ++ [y] else x.deferred }
          s.mapQueue c l

/-- A slot frees: the queue that was deferred or evicted earliest takes it, where one is pending. -/
def State.freeSlot (s : State) (c : Nat) (q : LaunchQ) : State :=
  let s := s.updCluster c fun x => { x with slots := x.slots.filter fun z => !(z.vd == q.vd && z.qaddr == q.qaddr) }
  match (s.cluster c).deferred with
  | [] => s
  | y :: r => (s.updCluster c fun x => { x with deferred := r }).mapQueue c y

/-- Unmap the launch slots of a device; each queue with head ≠ tail gets its pending bit (R348), unless the device is
destroyed (R344). -/
def State.unmapSlots (s : State) (v : Nat) (pend : Bool) : State :=
  let cs := (s.vd v).clusters
  let qs := (List.range cs.length).flatMap fun i =>
    let c := (cs[i]?).getD 0
    (((s.cluster c).slots ++ (s.cluster c).deferred).filter fun l => l.vd == v).map fun l => (i, l)
  let s := if pend then qs.foldl (fun s q =>
      let c := (cs[q.1]?).getD 0
      if s.queueFull v c q.2.qaddr then s.pendQueue v c q.2.qaddr true else s) s
    else s
  let s := cs.foldl (fun s c => s.updCluster c fun x =>
    { x with slots := x.slots.filter fun l => l.vd != v, deferred := x.deferred.filter fun l => l.vd != v }) s
  s.updVd v fun d => { d with launchQs := if pend then d.launchQs ++ qs else [] }

/-! ## Parking and unparking a device (R343, R348, R349) -/

/-- The regions of a device. -/
def State.regionsOf (s : State) (v : Nat) : List Nat := (s.regions.filter fun q => q.2.live && q.2.vd == v).map (·.1)

/-- Whether a region can be saved: swapped out in its stopped state (R33), drained, frozen at its drain's end, not started, or
completed. -/
def savable (x : RegionState) : Bool :=
  (x.dbgStop && !x.activeNow) || x.drained || x.frozenEnd || x.status == .loaded || x.status == .completed

/-- Whether a notify write would be deferred (R265): no slot is free, and none holds a pre-emptible queue. -/
def State.defers (s : State) (c v : Nat) (q : Word) : Bool :=
  (s.vd v).mode == .active && !(s.vd v).parked && !((s.cluster c).slots.any fun l => l.vd == v && l.qaddr == q) &&
    (match s.launchQ v c q with
     | .ok _ => 64 ≤ (s.cluster c).slots.length && (victimOf (s.cluster c).slots).isNone
     | .error _ => false)

/-- Whether nothing of a device's threads is outstanding but VDSLEEP and the records that CHAIN appended: a thread is saved at an
instruction boundary with its copies, which go on when their queue does (R348). -/
def State.threadsQuiet (s : State) (v : Nat) : Bool :=
  (List.range 64).all fun t => s.vdOfThread t != v || (s.thread t).ops.all fun o => match o.kind with
    | .tile (.vdsleep _) | .copy _ _ => true
    | _ => false

/-- A drain begins (R331). -/
def State.beginDrain (s : State) (r : Nat) : State :=
  s.updRegion r fun x => { x with draining := !x.drained, frozenEnd := false }

/-- A drained or frozen region goes on where the drain stopped it (R330). -/
def State.undrain (s : State) (r : Nat) : State :=
  let step := (s.region r).pendStep
  let s := s.updRegion r fun x => { x with draining := false, drained := false, frozenEnd := false, pendStep := false, own := false }
  if step then s.startStep r else s

/-- A load ends with ConfigLoadAborted: the sequencer still holds the load step, from the first record on (R324). -/
def State.abortLoad (s : State) (r : Nat) : State :=
  (s.raise r fcConfigAborted noElem noSlot 0 0 0).updRegion r fun x =>
    { x with load := some { conf := 0, recn := 0, shadow := [], scales := [] }, status := .loaded }

/-- A region stopped by `ifepel` is swapped out as it stands (R33). -/
def State.preemptStopped (s : State) (r : Nat) : State :=
  let s := s.bankOut r
  { s with dbg := { s.dbg with console := s.dbg.console ++ ["stop: preempt"] } }

/-- The package takes a region off its cores (R336, R348): a load is aborted; a region that `ifepel` has stopped is swapped out as
it stands; a running one drains. What it stops so goes on by itself at the restore (R331). -/
def State.yield (s : State) (r : Nat) : State :=
  let x := s.region r
  if x.load.isSome then (if x.status == .loading then (s.abortLoad r).updRegion r fun y => { y with own := true } else s)
  else if savable x then s
  else if x.dbgStop then s.preemptStopped r
  else (s.beginDrain r).updRegion r fun y => { y with own := true }

/-- A region that the package stopped goes on: its load from the first record, its work where the drain stopped it. -/
def State.resume (s : State) (r : Nat) : State :=
  let x := s.region r
  if !x.own then s
  else if x.load.isSome then s.updRegion r fun y => { y with own := false, status := .loading }
  else s.undrain r

/-- The cells of a core's storage. -/
def cellsOf (m : List Host.Cell) (k : Nat) : List Host.Cell := m.filter fun c => (coreSpaces k).contains (paSpace c.1)

/-- Scrub cores to zero (R334, R344): buffers, scratchpad and marks. -/
def State.scrubCores (s : State) (cores : List Nat) : State :=
  let mine := fun (p : Nat) => cores.any fun k => (coreSpaces k).contains (paSpace p)
  { s with
    mem := s.mem.filter fun c => !mine c.1
    poison := s.poison.filter fun l => !mine (64 * l)
    poisonW := s.poisonW.filter fun l => !mine (4 * l)
    units := s.units.filter fun u => !cores.contains (u.1 / 128)
    cores := s.cores.filter fun c => !cores.contains c.1 }

/-- What the shelf of a cluster holds for a device, with the A-buffer bytes. -/
def State.shelfImage (s : State) (c : Nat) : SavedShelf :=
  let x := s.cluster c
  let isA := fun (p : Nat) => 256 + 24 * c ≤ paSpace p && paSpace p < 256 + 24 * c + 24
  { cluster := c, tiles := x.tiles, parts := x.parts, granules := x.granules, journal := x.journal, gens := x.gens,
    bytes := (s.mem.filter fun q => isA q.1).map fun q => (q.1 - pa (256 + 24 * c) 0, q.2),
    marks := (s.poison.filter fun l => isA (64 * l)).map fun l => 64 * l - pa (256 + 24 * c) 0 }

/-- Whether a write is one of a cluster's agents, or known to one. -/
def State.ofClusters (s : State) (cs : List Nat) (h : Unseen) : Bool :=
  (h.who :: h.seen.map (·.1)).any fun x => match s.agentCluster x with
    | some c => cs.contains c
    | none => false

/-- Save every region, thread and tile of a device, and give its clusters back unless it is pinned (R343, R348). -/
def State.parkVd (s : State) (v : Nat) : State :=
  let cs := (s.vd v).clusters
  let first := s.imageId
  let s := (s.regionsOf v).foldl (fun s r => s.saveRegion r 0) s
  let ids := (List.range (s.imageId - first)).map fun i => first + i
  let sh := cs.map s.shelfImage
  let ths := (List.range cs.length).flatMap fun i => (List.range 16).map fun t =>
    (16 * i + t, s.thread (16 * (cs[i]?).getD 0 + t))
  let s := s.settleWrites (s.ofClusters cs)
  let s := s.updVd v fun d => { d with images := ids, shelf := sh, threads := ths, parked := true }
  let s := cs.foldl (fun s c => (List.range 16).foldl (fun s t =>
    s.updThread (16 * c + t) fun _ => { run := .saved }) s) s
  let s := cs.foldl (fun s c => s.updCluster c fun x =>
    { x with tiles := [], parts := [], granules := [], journal := [] }) s
  let s := s.scrubCores (cs.flatMap fun c => (List.range 24).map fun k => 24 * c + k)
  if (s.vd v).pinned then s else s.updVd v fun d => { d with clusters := [] }

/-- Move what the task machines keep for a device from its former clusters to its new ones. -/
def State.moveTasks (s : State) (v : Nat) (pairs : List (Nat × Nat)) : State :=
  let dst := fun c => ((pairs.find? fun p => p.1 == c).map (·.2)).getD c
  let out := pairs.foldl (fun s p => s.updCluster p.1 fun x =>
    { x with deps := x.deps.filter fun d => d.vd != v, succs := x.succs.filter fun d => d.vd != v,
             names := x.names.filter fun d => d.vd != v, ready := x.ready.filter fun d => d.vd != v }) s
  let back := pairs.foldl (fun q p =>
    let x := s.cluster p.1
    q.updCluster p.2 fun y =>
      { y with deps := y.deps ++ x.deps.filter fun d => d.vd == v, succs := y.succs ++ x.succs.filter fun d => d.vd == v,
               names := y.names ++ x.names.filter fun d => d.vd == v, ready := y.ready ++ x.ready.filter fun d => d.vd == v }) out
  { back with homes := s.homes.map fun (h : TaskHome) =>
      if h.vd == v then { h with cluster := dst h.cluster, thread := 16 * dst (h.thread / 16) + h.thread % 16 } else h }

/-- A saved thread as it is restored: a wait is an instruction that has not executed, so it issues again. -/
def resumeThread (x : ThreadState) : ThreadState :=
  match x.run with
  | .waitc _ _ _ _ | .waitge _ _ _ _ => { x with run := .running }
  | _ => x

/-- The threads of clusters as a cold reset leaves them. -/
def State.freshThreads (s : State) (cs : List Nat) : State :=
  { s with threads := s.threads.filter fun t => !cs.contains (t.1 / 16) }

/-- Put what a shelf held back on cluster `c`: tiles, counts, shares, generations, journal and A-buffer bytes at the same core
indices and granules (R349, R378). -/
def State.putShelf (s : State) (c : Nat) (h : SavedShelf) : State :=
  let s := s.updCluster c fun x =>
    { x with tiles := h.tiles, parts := h.parts, granules := h.granules, journal := h.journal, gens := h.gens }
  { s with mem := h.bytes.foldl (fun m q => Memory.write m (pa (256 + 24 * c) 0 + q.1) q.2) s.mem,
           poison := h.marks.foldl (fun l q => insertNat ((pa (256 + 24 * c) 0 + q) / 64) l) s.poison }

/-- The journals of a device's images follow its shelves to other clusters (R236, R349). -/
def State.moveJournals (s : State) (v : Nat) (dst : Nat → Nat) : State :=
  { s with images := s.images.map fun im =>
      if im.vd == v && !(s.vd v).images.contains im.id then { im with journal := im.journal.map fun j => (dst j.1, j.2) } else im }

/-- Restore a parked device on clusters: tiles and A-buffers, threads, then the regions on the same core indices, and
the launch slots (R349). -/
def State.unparkVd (s : State) (v : Nat) (cs : List Nat) : State :=
  let d := s.vd v
  let old := d.shelf.map (·.cluster)
  let pairs := old.zip cs
  let dst := fun c => ((pairs.find? fun p => p.1 == c).map (·.2)).getD c
  let s := s.moveJournals v dst
  let s := s.updVd v fun d => { d with clusters := cs, parked := false, shelf := [], threads := [], images := [], launchQs := [] }
  let s := s.moveTasks v pairs
  let s := d.shelf.foldl (fun s h => s.putShelf (dst h.cluster) h) s
  let s := s.freshThreads cs
  let s := d.threads.foldl (fun s q => s.setThread (16 * (cs[q.1 / 16]?).getD 0 + q.1 % 16) (resumeThread q.2)) s
  let s := d.images.foldl (fun s id => match s.images.find? fun im => im.id == id with
    | none => s
    | some im =>
      let cl := dst (im.rid % 256 / 64)
      match s.freePlace cl with
      | none => s
      | some p =>
        let p' := if (s.region (64 * cl + im.rid % 64)).live then p else im.rid % 64
        let cores := im.region.cores.map fun k => if isFar k then k else 24 * dst (clusterOfCore k) + k % 24
        { s.restoreImage im (64 * cl + p') cores dst with images := s.images.filter fun y => y.id != id }.resume (64 * cl + p')) s
  d.launchQs.foldl (fun s q => s.notifyQueue ((cs[q.1]?).getD 0) v q.2.qaddr) s

/-! ## Clusters and memory of devices -/

/-- The clusters that no live device holds. -/
def State.openClusters (s : State) : List Nat := (List.range 4).filter fun c => s.vdOfCluster c == noVd

/-- The channel groups that no device owns. -/
def State.openGroups (s : State) : List Nat := (List.range 48).filter fun g => Sparse.atD s.groups g 0 == 0

/-- Give channel groups to a device. -/
def State.giveGroups (s : State) (v : Nat) (l : List Nat) : State :=
  { s with groups := l.foldl (fun g k => Sparse.put g k (v + 1)) s.groups }

/-- Take every channel group of a device. -/
def State.dropGroups (s : State) (v : Nat) : State := { s with groups := s.groups.filter fun q => q.2 != v + 1 }

/-- The free intervals of the commons, rising: `lo` to `hi` less the shares of live devices. -/
def gapsOf : Nat → Nat → List (Nat × Nat) → List (Nat × Nat)
  | lo, hi, [] => [(lo, hi)]
  | lo, hi, (a, b) :: r => if a < hi && lo < b then (lo, a) :: gapsOf b hi r else gapsOf lo hi r

/-- Insert an interval by its start. -/
def insertIv (x : Nat × Nat) : List (Nat × Nat) → List (Nat × Nat)
  | [] => [x]
  | y :: r => if x.1 < y.1 then x :: y :: r else y :: insertIv x r

/-- The places for a commons share of `n` bytes that hold the byte `need`, if one is asked for: first base and number of
2 MiB steps of each. The share of a device of class 3 lies in the CXL pooled commons (R348; DEDUCED, log 113). -/
def State.sharePlaces (s : State) (n : Nat) (need : Option Nat) (pooled : Bool := false) : List (Nat × Nat) :=
  let used := (s.vds.filter fun q => q.2.live && q.2.commonsLen != 0).foldr
    (fun q l => insertIv (q.2.commonsLo, q.2.commonsLo + q.2.commonsLen) l) []
  let cxl := cxlRanges Config.lpddr Config.cxl
  let areas := if pooled then cxl else (0, Config.lpddr) :: cxl
  let step := 0x200000
  (areas.flatMap fun a => gapsOf a.1 a.2 used).filterMap fun g =>
    let g := match need with
      | some x => (max g.1 (x + 1 - n), min g.2 (x + n))
      | none => g
    let b := (g.1 + step - 1) / step * step
    if b + n ≤ g.2 then some (b, (g.2 - n - b) / step + 1) else none

/-- The lowest free copy queues of a die (R342): never queue 63 of engine 15. -/
def State.openQueues (s : State) (die n : Nat) : List Nat :=
  (((List.range 1023).map fun q => 1024 * die + q).filter fun q => !(s.vds.any fun d => d.2.live && d.2.queues.contains q)).take n

/-- The lowest free stream ports of a die (R342): never port 255. -/
def State.openPorts (s : State) (die n : Nat) : List Nat :=
  (((List.range 255).map fun p => 256 * die + p).filter fun p => !(s.vds.any fun d => d.2.live && d.2.ports.contains p)).take n

/-! ## Creation (R342) -/

/-- Write the status of a VD record. -/
def State.vdStatus (s : State) (p st cause : Nat) : State := s.writeNat (p + 0x70) 8 (st + 256 * cause)

/-- The checks of a VD record that its own fields decide. -/
def State.vdRecordOk (s : State) (p : Nat) : Bool :=
  let b := fun o n => s.readNat (p + o) n
  let flags := b 3 1
  let cls := flags % 4
  let pinned := bitOf flags 2
  let root := b 0x18 8
  let wk := (List.range 8).all fun i => bitsOf (b (0x30 + 8 * i) 8) 62 18 == 0
  1 ≤ b 2 1 && b 2 1 ≤ 4 && cls != 0 && flags / 32 == 0 && b 4 1 ≤ 48 && b 5 3 == 0 && b 8 8 % 0x200000 == 0 &&
    b 0x10 8 ≤ (if cls == 1 then b 4 1 * Config.groupBytes else b 8 8) && rootOk root &&
    (cls == 1 || bitsOf root 63 62 == 1) && b 0x20 8 % 64 == 0 && b 0x20 8 < 2 ^ 48 && commonsOk (b 0x20 8) && b 0x28 1 < 64 && b 0x28 1 / 16 < b 2 1 &&
    (if pinned then b 0x29 1 == 0 else b 0x29 1 != 0) && b 0x2A 2 ≤ 1023 && b 0x2D 3 == 0 && wk && b 0x78 8 == 0

/-- CREATE_VD: the record at a physical address in the map of R341. -/
def State.createVd (s : State) (a : Nat) : State :=
  match placeOf 1 Config.pod Config.package 0 a with
  | .fault _ => s
  | .ok p _ =>
    if !s.vdRecordOk p then s.vdStatus p 2 1
    else
      let b := fun o n => s.readNat (p + o) n
      let flags := b 3 1
      let pinned := bitOf flags 2
      let root := b 0x18 8
      let frame := bitsOf root 47 12 * 4096
      let hbmRoot := bitsOf root 63 62 == 0
      let g0 := 24 * bitsOf root 52 52 + frame / Config.groupBytes
      let len := b 8 8
      let places := s.sharePlaces len (if hbmRoot then none else some frame) (flags % 4 == 3)
      let nums := (List.range Config.vdCount).filter fun v => !(s.vd v).live
      let lend := (List.range 4).filter fun c => let o := s.vdOfCluster c; o == noVd || !(s.vd o).pinned
      if (hbmRoot && (b 4 1 == 0 || Config.hbmDie ≤ frame)) || (!hbmRoot && (len == 0 || !commonsOk frame)) then s.vdStatus p 2 1
      else
        let rest := s.openGroups.filter fun g => !(hbmRoot && g == g0)
        let ng := if hbmRoot then b 4 1 - 1 else b 4 1
        let qs := s.openQueues 0 (b 0x2A 2) ++ s.openQueues 1 (b 0x2A 2)
        let ps := s.openPorts 0 (b 0x2C 1) ++ s.openPorts 1 (b 0x2C 1)
        let haveC := if pinned then b 2 1 ≤ s.openClusters.length else b 2 1 ≤ lend.length
        if nums.isEmpty || !haveC || rest.length < ng || (hbmRoot && !s.openGroups.contains g0) || (len != 0 && places.isEmpty) ||
          qs.length < 2 * b 0x2A 2 || ps.length < 2 * b 0x2C 1 then s.vdStatus p 2 2
        else
          let cs := if b 2 1 ≤ s.openClusters.length then s.takeFree (b 2 1) s.openClusters else ([], s)
          let gs := cs.2.takeFree ng rest
          let s := gs.2
          let groups := if hbmRoot then insertNat g0 gs.1 else gs.1
          let v := (nums[Config.choice s.free % nums.length]?).getD 0
          let s := s.draw
          let g := (places[Config.choice s.free % max places.length 1]?).getD (0, 1)
          let s := s.draw
          let lo := g.1 + Config.choice s.free % g.2 * 0x200000
          let s := s.draw
          let d : VdState :=
            { live := true, clusters := cs.1, nclusters := b 2 1, groups := groups, ngroups := b 4 1, commonsLo := lo, commonsLen := len,
              resident := BitVec.ofNat 64 (b 0x10 8), root := BitVec.ofNat 64 root, creator := BitVec.ofNat 64 (b 0x20 8),
              wakethread := b 0x28 1, slice := b 0x29 1, queues := qs, ports := ps,
              wakers := (List.range 8).filterMap fun i =>
                let x := b (0x30 + 8 * i) 8
                if bitOf x 63 then some (x % 256, bitsOf x 17 8) else none,
              pinned := pinned, debug := bitOf flags 3, hostAccess := bitOf flags 4, wclass := flags % 4,
              record := BitVec.ofNat 64 a, sliceAt := s.clock, parked := cs.1.isEmpty }
          let s := ((s.updVd v fun _ => d).giveGroups v groups).freshThreads cs.1
          (s.writeNat p 2 v).vdStatus p 1 0

/-! ## Destruction (R344) -/

/-- The reply to an access of another package: a fault at its requester, or a value. -/
def State.reply (s : State) (q : RemoteReq) (code : Nat) (val : Word) (bad : Bool) : State :=
  { s with answers := s.answers ++ [{ req := q, code := code, val := val, bad := bad }] }

/-- The entries of the wake buffer of one device (R350), and whether it has room for one more. -/
def State.heldOf (s : State) (v : Nat) : Nat := s.wakeBuf.countP fun q => q.1 == v
def State.holdRoom (s : State) (v : Nat) : Bool := decide (s.wakeBuf.length < 4096) && decide (s.heldOf v < 512)

/-- Whether a device's arrivals are held: it is DORMANT or WAKING, or entries held before are not delivered yet. -/
def State.holds (s : State) (v : Nat) : Bool :=
  (s.vd v).mode == .dormant || (s.vd v).mode == .waking || decide (0 < s.heldOf v)

/-- Discard what the wake buffer holds for a device: AccessFault at each source. A node goes to its home port, which refuses it. -/
def State.discardHeld (s : State) (v code : Nat) : State :=
  let mine := s.wakeBuf.filter fun q => q.1 == v
  let s := { s with wakeBuf := s.wakeBuf.filter fun q => q.1 != v }
  mine.foldl (fun s q => match q.2 with
    | .token r t _ _ => s.raiseTok r code noElem noSlot t
    | .remote q => s.reply q code 0 false
    | .node d => { s with nodes := s.nodes ++ [{ sw := 0, node := d, home := true }] }
    | .flit _ _ => s) s

/-- Step 1 of R344: no launch, no slots, and nothing addressed to the device is taken. -/
def State.condemnVd (s : State) (v : Nat) : State :=
  ((s.unmapSlots v false).updVd v fun d => { d with dying := true }).discardHeld v fcAccessFault

/-- Stop and unassign the copy queues of a device, with their scoreboard entries (R344 step 4). -/
def State.dropQueues (s : State) (qs : List Nat) : State :=
  { s with
    queues := s.queues.filter fun q => !qs.contains q.1
    cores := s.cores.map fun c => (c.1, { c.2 with scoreboard := c.2.scoreboard.filter fun e => !qs.contains e.queue }) }

/-- A thread that is stopped, its state written with zeros (R344). -/
def zeroThread : ThreadState := { run := .stopped, level := 0, tagwin := 0, hrank := 0, msquota := 0, wdlim := 0, thlim := 0 }

/-- The tiles of a saved device stand on the clusters that it has kept. -/
def State.unshelve (s : State) (v : Nat) : State :=
  if (s.vd v).clusters.isEmpty then s
  else (s.vd v).shelf.foldl (fun s h => s.updCluster h.cluster fun x =>
    { x with tiles := h.tiles, parts := h.parts, granules := h.granules, journal := h.journal, gens := h.gens }) s

/-- Steps 2 to 6 of R344. -/
def State.scrubVd (s : State) (v : Nat) : State :=
  let d := s.vd v
  let sx := (List.range Config.serdexCount).filter fun p => s.ownsSerdex v p
  let s := (s.leaveSpan v).unshelve v
  let s := { s with serdex := s.serdex.map fun (q : Nat × SerdexState) => if sx.contains q.1 then (q.1, { q.2 with fifo := [], bind := none }) else q }
  let s := (s.regionsOf v).foldl (fun s r => s.killRegion r) s
  let cs := d.clusters
  let ts := cs.flatMap fun c => (List.range 16).map fun t => 16 * c + t
  let s := (s.dropQueues d.queues)
  let s := cs.foldl (fun s c => s.updCluster c fun x =>
    let x := x.tiles.foldl freeTile x
    { x with parts := [], journal := [], tiles := [], divz := x.divz.filter fun y => y != v, pipes := x.pipes.filter fun y => y.vd != v,
             deps := x.deps.filter fun y => y.vd != v, succs := x.succs.filter fun y => y.vd != v,
             names := x.names.filter fun y => y.vd != v, ready := x.ready.filter fun y => y.vd != v,
             granules := x.granules.map fun g => (g.1, { g.2 with part := none }) }) s
  let s := s.scrubCores (cs.flatMap fun c => (List.range 24).map fun k => 24 * c + k)
  let inHbm := fun (p : Nat) => paSpace p < 2 && d.groups.contains (24 * paSpace p + paOff p / Config.groupBytes)
  let inShare := fun (p : Nat) => paSpace p == spCommons && d.commonsLo ≤ paOff p && paOff p < d.commonsLo + d.commonsLen
  let s := s.settleWrites fun h => inHbm h.p || inShare h.p
  let s := { s with
    mem := s.mem.filter fun c => !inHbm c.1 && !inShare c.1
    poison := s.poison.filter fun l => !inHbm (64 * l) && !inShare (64 * l)
    threads := ts.foldl (fun l t => Sparse.put l t zeroThread) s.threads
    ports := s.ports.filter fun q => !d.ports.contains q.1
    tlb := s.tlb.filter fun e => e.2.1 != v
    homes := s.homes.filter fun h => h.vd != v
    decrs := s.decrs.filter fun h => h.vd != v
    images := s.images.filter fun im => im.vd != v
    dbg := { s.dbg with images := s.dbg.images.filter fun im => im.1 != v }
    gangs := s.gangs.filter fun g => g.vd != v }
  let s := (s.dropGroups v).updVd v fun _ => {}
  match placeOf 1 Config.pod Config.package 0 d.record.toNat with
  | .ok p _ => s.vdStatus p 3 0
  | .fault _ => s

/-- DESTROY_VD: the windows of the device close once no reduction of theirs is open (R365); until then the device is
condemned and the step is taken again. -/
def State.destroyVd (s : State) (size : Nat) (v : Word) : State :=
  let n := v.toNat
  if size != 8 || Config.vdCount ≤ n || !(s.vd n).live then s
  else
    let s := if (s.vd n).dying then s else s.condemnVd n
    if s.windowsQuiet n then s.scrubVd n else s

/-! ## Collapse and wake (R346 to R349) -/

/-- Whether a party may wake a device (R347). -/
def State.mayWake (s : State) (v : Nat) (who : Waker) : Bool :=
  match who with
  | .host => true
  | .vd pkg n => (s.vd v).wakers.any fun w => w.1 == pkg && w.2 == n

/-- A wake (R347, R351) of a device by a permitted party. -/
def State.wake (s : State) (v : Nat) : State :=
  match (s.vd v).mode with
  | .dormant => s.updVd v fun d => { d with mode := .waking, wakeAt := s.clock, missed := false }
  | .collapsing => s.updVd v fun d => { d with wakePend := true }
  | _ => s

/-- A wake write (R346, R347): the fault at the writer, or the state after it. -/
def State.wakeWrite (s : State) (v : Nat) (who : Waker) (size : Nat) : Chk State :=
  let d := s.vd v
  if size != 8 || !d.live || d.dying || !s.mayWake v who then .error fcAccessFault else .ok (s.wake v)

/-- A collapse begins (R348). -/
def State.beginCollapse (s : State) (v : Nat) : State :=
  let s := (s.unmapSlots v true).updVd v fun d => { d with mode := .collapsing, wakePend := false }
  (s.regionsOf v).foldl State.yield s

/-- Whether a collapse can end. -/
def State.collapseReady (s : State) (v : Nat) : Bool :=
  (s.regionsOf v).all (fun r => savable (s.region r)) && s.threadsQuiet v

/-- A collapse ends (R348): regions, threads and tiles are saved, where the end of a slice has not saved them already; every
VDSLEEP of the device's own threads gives 1 when it wakes, that of another's gives 0 now. -/
def State.endCollapse (s : State) (v : Nat) : State :=
  let isSleep := fun (o : ThreadOp) => match o.kind with
    | .tile (.vdsleep n) => n == v
    | _ => false
  let s := (List.range 64).foldl (fun s t =>
    let l := (s.thread t).ops.filter isSleep
    let s := s.updThread t fun x => { x with ops := x.ops.filter fun y => !isSleep y }
    if s.vdOfThread t == v then
      let c := (s.vd v).clusters.findIdx fun c => c == clusterOfThread t
      s.updVd v fun d => { d with sleepers := d.sleepers ++ l.map fun o => (16 * c + t % 16, o.dest) }
    else l.foldl (fun s o => s.updThread t fun x => (x.setReg o.dest 0 false).setBusy o.dest false) s) s
  let s := if (s.vd v).parked then s else s.parkVd v
  let s := if (s.vd v).wclass == 1 then s else (s.dropGroups v).updVd v fun d => { d with groups := [] }
  let s := s.updVd v fun d => { d with mode := .dormant }
  if (s.vd v).wakePend then (s.updVd v fun d => { d with wakePend := false }).wake v else s

/-- The clusters that a waking device takes: its own where it kept them, else free ones (its former ones where they are
free). -/
def State.wakeClusters (s : State) (v : Nat) : Option (List Nat × State) :=
  let d := s.vd v
  let old := d.shelf.map (·.cluster)
  if d.clusters.length == d.nclusters then some (d.clusters, s)
  else if old.length == d.nclusters && old.all fun c => s.openClusters.contains c then some (old, s)
  else if d.nclusters ≤ s.openClusters.length then some (s.takeFree d.nclusters s.openClusters) else none

/-- Copy `n` bytes of physical memory with their marks. -/
def State.copyPage (s : State) (src dst n : Nat) : State :=
  let from0 := fun (p : Nat) => src ≤ p && p < src + n
  let into := fun (p : Nat) => dst ≤ p && p < dst + n
  { s with
    mem := (s.mem.filter fun c => from0 c.1).foldl (fun m c => Memory.write m (dst + (c.1 - src)) c.2) (s.mem.filter fun c => !into c.1)
    poison := (s.poison.filter fun l => from0 (64 * l)).foldl (fun m l => insertNat ((dst + (64 * l - src)) / 64) m)
      (s.poison.filter fun l => !into (64 * l)) }

/-- The move of a device's resident bytes into its new groups: the state, the frames given so far (each by its first byte in the
groups, put end to end, and its length), and the resident bytes still to be copied. -/
structure LeafMove where
  s    : State
  used : List (Nat × Nat)
  left : Nat

/-- The first frame of `n` bytes, from `x` on and round again, that no leaf has; `size` bytes in all. -/
def nextFrame (used : List (Nat × Nat)) (n size : Nat) : Nat → Nat → Nat
  | 0, x => x
  | k + 1, x => match used.find? fun u => overlap u (x, n) with
    | none => x
    | some u =>
      let y := (u.1 + u.2 + n - 1) / n * n
      nextFrame used n size k (if y + n ≤ size then y else 0)

/-- Bextex gives a leaf that names HBM a frame of its own in the device's new groups, with resident bytes of its commons share (R349):
which frame and which bytes is Bextex's choice (log 114). `k` entries at `p` hold the leaf. -/
def LeafMove.leaf (m : LeafMove) (v p e lvl k : Nat) : LeafMove :=
  let d := m.s.vd v
  let n := leafBytes e lvl
  let size := d.groups.length * Config.groupBytes
  let x := nextFrame m.used n size (2 * m.used.length + 2) (Config.choice m.s.free % max (size / n) 1 * n)
  let s := m.s.draw
  let g := (d.groups[x / Config.groupBytes]?).getD 0
  let frame := g % 24 * Config.groupBytes + x % Config.groupBytes
  let src := d.commonsLo + Config.choice s.free % max d.commonsLen 1 / n * n
  let s := s.draw
  let e' := e - bitsOf e 47 12 * 4096 - bitsOf e 52 52 * 2 ^ 52 + frame + g / 24 * 2 ^ 52
  let s := (List.range k).foldl (fun s i => s.writeNat (p + 8 * i) 8 e') s
  { s := s.copyPage (pa spCommons src) (pa (g / 24) frame) (min n m.left), used := (x, n) :: m.used, left := m.left - n }

/-- Every leaf of a table that names HBM, and of the tables below it; the table of level 3 has 131,072 entries (R312). -/
def LeafMove.leaves (m : LeafMove) (v : Nat) : Nat → Nat → LeafMove
  | 0, t => (List.range 512).foldl (fun m i =>
    let off := bitsOf t 47 12 * 4096 + 8 * i
    match m.s.readEntry (bitsOf t 63 62) (bitsOf t 52 52) off with
    | .inr _ => m
    | .inl e =>
      if !bitOf e 0 || pteReserved e || !bitOf e 1 || bitsOf e 63 62 != 0 || (bitOf e 6 && i % 16 != 0) then m
      else m.leaf v (pa spCommons off) e 0 (if bitOf e 6 then 16 else 1)) m
  | lvl + 1, t => (List.range (if lvl == 2 then 131072 else 512)).foldl (fun m i =>
    let off := bitsOf t 47 12 * 4096 + 8 * i
    match m.s.readEntry (bitsOf t 63 62) (bitsOf t 52 52) off with
    | .inr _ => m
    | .inl e =>
      if !bitOf e 0 || pteReserved e then m
      else if bitOf e 1 then (if bitsOf e 63 62 != 0 || lvl + 1 == 3 then m else m.leaf v (pa spCommons off) e (lvl + 1) 1)
      else if 1 < bitsOf e 63 62 then m
      else m.leaves v lvl e) m

/-- The resident bytes of a device come into its groups, and its leaves name them. -/
def State.moveLeaves (s : State) (v : Nat) : State :=
  (({ s := s, used := [], left := (s.vd v).resident.toNat } : LeafMove).leaves v 3 (s.vd v).root.toNat).s

/-- Whether a device of class 2 or 3 has given its HBM groups back. -/
def State.lacksGroups (s : State) (v : Nat) : Bool := (s.vd v).groups.length != (s.vd v).ngroups

/-- The HBM groups that a device of class 2 or 3 takes again: its resident bytes are copied into them, its leaves follow, and no
translation of it stays cached (R349). -/
def State.wakeGroups (s : State) (v : Nat) : Option State :=
  let d := s.vd v
  if !s.lacksGroups v then some s
  else if d.ngroups ≤ s.openGroups.length then
    let g := s.takeFree d.ngroups s.openGroups
    let t := ((g.2.giveGroups v g.1).updVd v fun d => { d with groups := g.1 }).moveLeaves v
    some { t with tlb := t.tlb.filter fun e => e.2.1 != v }
  else none

/-- A parked device of class 2 or 3 gives its HBM groups back, where a waking device lacks groups (R349). -/
def State.yieldGroups (s : State) (v : Nat) : State :=
  if (s.vd v).parked && (s.vd v).wclass != 1 && s.vds.any (fun q => q.2.live && q.2.mode == .waking && s.lacksGroups q.1) then
    (s.dropGroups v).updVd v fun d => { d with groups := [] }
  else s

/-- A wake completes (R349): none where the resources are not free yet. -/
def State.endWake (s : State) (v : Nat) : Option State :=
  match s.wakeGroups v with
  | none => none
  | some s => match s.wakeClusters v with
    | none => none
    | some (cs, s) =>
      let slp := (s.vd v).sleepers
      let s := s.updVd v fun d => { d with mode := .active, counter := d.counter + 1, sleepers := [], sliceAt := s.clock }
      let s := s.unparkVd v cs
      let s := slp.foldl (fun s q => s.updThread (16 * (cs[q.1 / 16]?).getD 0 + q.1 % 16) fun x =>
        (x.setReg q.2 1 false).setBusy q.2 false) s
      let wt := (s.vd v).wakethread
      some (s.postPend (16 * (cs[wt / 16]?).getD 0 + wt % 16) 0x10)

/-- Whether a record is in READY or RUNNING. -/
def State.taskBusy (s : State) (h : TaskHome) : Bool :=
  !h.gone && (match s.taskWord (hwWho h.vd h.cluster) h.task with
    | .ok wd => wd % 16 == tsReady || wd % 16 == tsRunning
    | .error _ => false)

/-- Whether a device is idle (R345). -/
def State.idleVd (s : State) (v : Nat) : Bool :=
  let cs := (s.vd v).clusters
  !(s.homes.any fun h => h.vd == v && s.taskBusy h) &&
    cs.all (fun c => ((s.cluster c).slots ++ (s.cluster c).deferred).all fun l => l.vd != v || !s.queueFull v c l.qaddr) &&
    (List.range 64).all fun t => s.vdOfThread t != v || (s.thread t).run == .wfi

/-! ## The management aperture (R341, R346) -/

/-- A store by a thread or another unit of device `vd` to the management aperture, where the device reaches it. -/
def State.mgmtStore (s : State) (vd p size v : Nat) (pkg : Nat := Config.package) : Chk State :=
  let o := paOff p - Config.mgmtBase
  if o < 0x10000 then (if o % 64 == 0 then s.wakeWrite (o / 64) (.vd pkg vd) size else .error fcAccessFault)
  else if o < 0x11000 then .ok (s.writeNat p size v)
  else if o < 0x24000 && o % 4096 == 0 && size == 8 then .ok (s.notifyQueue ((o - 0x20000) / 4096) vd (BitVec.ofNat 64 v))
  else if o == 0x30000 && size == 8 then .ok (s.createVd v)
  else if o == 0x30008 then .ok (s.destroyVd size (BitVec.ofNat 64 v))
  else .error fcAccessFault

end Sys2Proof.Machine
end

