-- ==== Sys2Proof/Machine/Access.lean ====
section
/-! DEFINITION. Accesses of a region's elements and engines (R161 to R165, R170, R172, R179, R186, R335): effective
addresses, permissions, the region store buffer, poison marks, access breakpoints (R32), and the tokens of replies
(R40, R187). -/
namespace Sys2Proof.Machine

/-! ## Parties and places -/

/-- The parties of an access by element `a` of region `r` (R313: ranks below 4 are user level). -/
def State.whoElem (s : State) (r a : Nat) : Who :=
  let k := s.coreOf r a
  { vd := (s.region r).vd, user := decide ((s.region r).rank < 4), core := some k, cluster := clusterOfCore k, machine := false }

/-- The offset bound of a typed space (R161). -/
def typedLimit (sp : Nat) : Nat :=
  match sp with
  | 0 => Config.sizeW | 1 => Config.sizeA | 2 => Config.sizeC | _ => Config.sizeScale

/-- The physical space of a typed space of a core. -/
def typedSpace (sp core : Nat) : Nat :=
  match sp with
  | 0 => spW core | 1 => spA core | 2 => spC core | _ => spScale core

/-- The core that a typed address names, for a core `own` (R161): none where a reserved value stands. -/
def typedCore (own t : Nat) : Option Nat :=
  let f := bitsOf t 29 25
  if bitsOf t 24 23 != 0 then none
  else if f == 31 then some own
  else if f < 24 then some (24 * clusterOfCore own + f) else none

/-- Plain access to an A-buffer granule (R172): by a region (its RID), or by a device's copy engines. -/
def State.granuleOk (s : State) (vd : Nat) (rid : Option Nat) (core off : Nat) : Bool :=
  let c := s.cluster (clusterOfCore core)
  match (granAt c (core % 24) (off / 4096)).part with
  | none => s.vdOfCore core == vd
  | some _ => match tileAt c (core % 24) (off / 4096) with
    | some t => t.state == .opened && t.vd == vd && (match rid with
      | some i => t.region == i
      | none => true)
    | none => false

/-- Whether `n` bytes of the A-buffer pass R172. -/
def State.granulesOk (s : State) (vd : Nat) (rid : Option Nat) (core off n : Nat) : Bool :=
  (List.range (n / 4096 + 2)).all fun i =>
    let o := off + 4096 * i
    let o := if i == 0 then o else o / 4096 * 4096
    off + n ≤ o || s.granuleOk vd rid core o

/-- Whether a memory element may touch typed bytes (R162, R172). -/
def State.typedPermit (s : State) (r own sp core off n : Nat) (wr : Bool) : Bool :=
  match sp with
  | 0 => core == own
  | 1 => s.granulesOk (s.region r).vd (some (s.rid r)) core off n
  | 2 => false
  | _ => core == own && !wr

/-- Typed (R186, R161, R162): `b` is the base, `off` the offset, the access `n` bytes wide and aligned to `al`. -/
def State.effTyped (s : State) (r own b off n al : Nat) (wr : Bool) : AccRes :=
  let o := bitsOf b 22 0 + off
  let sp := bitsOf b 31 30
  if 2 ^ 32 ≤ b || typedLimit sp < o + n then .fault fcAccessFault
  else match typedCore own b with
    | none => .fault fcAccessFault
    | some core =>
      if o % al != 0 then .fault fcMisaligned
      else if s.typedPermit r own sp core o n wr then .ok (pa (typedSpace sp core) o) 4 else .fault fcAccessFault

/-- The effective address for the record of a fault (R189). -/
def eaOf (b off : Nat) : Nat := (b + off) % 2 ^ 64

/-- Whether a place on another package can be reached by a device (R364): route entry and live package. -/
inductive Reach where
  | here
  | far
  | dead
  | fault
deriving DecidableEq, Repr, Inhabited

/-- How a physical place is reached. -/
def State.reach (s : State) (vd p : Nat) : Reach :=
  if paSpace p < 1024 then .here
  else
    let k := pkgOf p
    if !s.routed vd (k / 256) (k % 256) then .fault
    else if s.failed.contains k then .dead else .far

/-- What stops an access at a place that translates (R347, R364, R367): no route entry, a store to a failed package, or memory of a
device that sleeps and does not list the accessor. -/
def State.placeFault (s : State) (vd p : Nat) (wr : Bool) : Option Nat :=
  match s.reach vd p with
  | .fault => some fcAccessFault
  | .dead => if wr then some fcAccessFault else none
  | .far => if Config.farAsleep s.free p then some fcVdDormant else none
  | .here => match s.sleeper p with
    | some v => if s.mayWake v (.vd Config.package vd) then none else some fcVdDormant
    | none => none

/-- A store to a management row of another package (R341, R342, R344, R346): a wake write of 8 bytes may be taken there, and one to
the create or destroy word is, and neither changes anything here; every other store is refused. -/
def State.farStore (s : State) (p n : Nat) : Chk State :=
  let o := paOff p - Config.mgmtBase
  let wake := o < 0x10000 && o % 64 == 0 && !Config.farAsleep s.free p
  if (n == 8 && (wake || o == 0x30000)) || o == 0x30008 then .ok s else .error fcAccessFault

/-- A permitted access to the memory of a device that sleeps is a wake (R347); it waits where it stands. -/
def State.rouse (s : State) (vd p : Nat) : State :=
  match s.sleeper p with
  | some v => if s.mayWake v (.vd Config.package vd) then s.wake v else s
  | none => s

/-- Whether an access of a device to bytes waits: at the range scoreboard (R170), for a device to wake (R350), or for the request
lane of its path (R360, R366). -/
def State.blocked (s : State) (vd p n : Nat) : Bool := s.scoreHit p n || (s.sleeper p).isSome || s.linkWait vd p 0

/-- EffAddr (R186) for element `a` of region `r`: base `b`, offset `off`, `n` bytes aligned to `al`. -/
def State.effAddr (s : State) (r a : Nat) (typed : Bool) (b off n al : Nat) (k : Kind) : AccRes :=
  if typed then s.effTyped r (s.coreOf r a) b off n al (k == .wr)
  else
    let ea := eaOf b off
    if ea % al != 0 then .fault fcMisaligned
    else match s.resolve (s.whoElem r a) (BitVec.ofNat 64 ea) k with
      | .fault c => .fault c
      | .ok p t => match s.placeFault (s.region r).vd p false with
        | some c => .fault c
        | none => .ok p t

/-- A later access to a line that a diverted value holds waits (R375). -/
def State.divertWait (s : State) (vd ea : Nat) : Bool :=
  s.repair.any fun d => d.addr.toNat / 64 == ea / 64 &&
    s.windows.any fun w => 256 * w.span + w.num == d.win && w.vd == vd

/-! ## Bytes as a region sees them (R335) -/

/-- One byte: the region's own buffered write, else memory. -/
def State.regByte (s : State) (r p : Nat) : Byte :=
  match Sparse.entry? (s.region r).storeBuf p with
  | some b => b
  | none => s.readByte p

/-- `n` bytes as a little-endian number. -/
def State.regRead (s : State) (r p : Nat) : Nat → Nat
  | 0 => 0
  | n + 1 => (s.regByte r p).toNat + 256 * s.regRead r (p + 1) n

/-- Whether the line of a place is marked, as the region sees it. -/
def State.regMarked (s : State) (r p : Nat) : Bool :=
  (s.region r).storePoison.contains (p / 64) || (s.poisoned p && !(s.region r).storeClear.contains (p / 64))

/-- Put bytes into a store buffer. -/
def bufferBytes (b : Sparse Byte) (p v : Nat) : Nat → Sparse Byte
  | 0 => b
  | n + 1 => bufferBytes (Sparse.put b p (BitVec.ofNat 8 v)) (p + 1) (v / 256) n

/-- `n` bytes as an agent of a region reads them: the region's own buffered writes, and of memory what the agent must see. -/
def State.agentRead (s : State) (x : Agent) (r p n : Nat) : Nat :=
  if (s.mayMiss x p n).isEmpty then s.regRead r p n
  else
    let v := s.seenNat x p n
    (List.range n).foldr (fun i w => (match Sparse.entry? (s.region r).storeBuf (p + i) with
      | some b => b.toNat
      | none => byteAt v i) + 256 * w) 0

/-- Write `n` bytes for an agent of a region at a scope: into the region's store buffer while it is idem, whose overflow is an
irrevocable act that raises StoreSpill (R335). -/
def State.regWrite (s : State) (x : Agent) (sc r p n v : Nat) (rel : List Release := []) : State :=
  let y := s.region r
  if !y.buffering then s.storeBy x sc p n v rel
  else if Config.storeReserve < y.storeBuf.length + n then
    ((s.irrevocable r).raise r fcStoreSpill noElem noSlot 0 0 0).storeBy x sc p n v rel
  else
    let ls := wholeLines p n
    s.updRegion r fun x =>
      { x with
        storeBuf := bufferBytes x.storeBuf p v n
        storePoison := x.storePoison.filter fun l => !ls.contains l
        storeClear := ls.foldl (fun l k => insertNat k l) x.storeClear }

/-- Clear the marks of lines that a region has written whole, piece by piece. -/
def State.regClear (s : State) (r : Nat) (ls : List Nat) : State :=
  if (s.region r).buffering then
    s.updRegion r fun x =>
      { x with
        storePoison := x.storePoison.filter fun l => !ls.contains l
        storeClear := ls.foldl (fun l k => insertNat k l) x.storeClear }
  else { s with poison := s.poison.filter fun l => !ls.contains l }

/-- Mark the line of a place that a region writes with poison. -/
def State.regMark (s : State) (r p : Nat) : State :=
  if (s.region r).buffering then s.updRegion r fun x => { x with storePoison := insertNat (p / 64) x.storePoison }
  else s.markPoison p

/-- UncorrectableMemory as an event of a region's unit, with the poison payload in info (R179, R181). -/
def State.unc (s : State) (r a slot : Nat) (tag : BitVec 24) (p : Nat) : State :=
  s.raise r fcUncorrectable a slot tag.toNat (poisonPayload p).toNat 0

/-! ## Breakpoints on accesses (R32) -/

/-- Note an access to `n` bytes for `ifepel`, at a generic address or at a 32-bit typed one, which `break addr` compares by its number
as well (DESIGN CHOICE, log 53): a read stop comes before the data returns, a write stop after the write. -/
def State.touched (s : State) (r a slot : Nat) (tag : BitVec 24) (wr : Bool) (ea n : Nat) : State :=
  if s.dbg.vd != some (s.region r).vd || (s.region r).dbgStop then s
  else
    let hit := s.dbg.breaks.any fun b => match b.2 with
      | .addr lo len rd w => lo < ea + n && ea < lo + len && (if wr then w else rd)
      | _ => false
    if !hit then s
    else
      (s.addStop { kind := if wr then "write" else "read", r := some r, t := none, a := a, slot := slot, tag := tag,
                   cycle := s.coreClock (s.coreOf r a), ev := none }).updRegion r fun x => { x with dbgStop := true }

/-! ## Replies (R40, R187) -/

/-- Whether a continuation is one that R40 allows, for a region of `n` cores. -/
def contOk (n : Nat) (pay : Nat) : Bool :=
  let a := bitsOf pay 63 48
  let k := a % 128
  a / 128 < n && (k < 96 || (120 ≤ k && k < 124 && bitsOf pay 47 43 == 0))

/-- Send a token of a reply, with what happens before it. A continuation takes the dynamic network unless a static route of the
configuration reaches its element (R40). -/
def State.sendOut (s : State) (r a slot : Nat) (o : OutTok) (past : Past := []) : State :=
  match o.dst with
  | .dests d0 d1 ch =>
    let e : Emission := { kind := if o.poison then 7 else 0, pay := o.pay, tag := o.tag, seq := o.seq, last := o.last, chan := ch, past := past }
    let s := if o.which == 1 then s else s.emitAt r a slot o.tag d0 e
    if o.which == 0 then s else s.emitAt r a slot o.tag d1 e
  | .cont el sl po ch =>
    s.send (srcOf r a slot) r
      { rsv := 0, net := !(s.elem r a).staticTo el, last := o.last, kind := if o.poison then 7 else 3, dest := el, port := po, slot := sl, chan := ch,
        seq := o.seq, ctx := BitVec.ofNat 8 (tagCtx o.tag), iter := BitVec.ofNat 16 (tagIter o.tag), payload := o.pay } past

/-- The destinations of a slot as a reply's place. -/
def slotTo (w : Slot) : ReplyTo := .dests w.d0 w.d1 w.out

/-- A reply token for dest0 alone. -/
def out0 (q : MemReq) (pay : Nat) (poison : Bool) : OutTok :=
  { dst := q.dst, which := 0, tag := q.tag, seq := q.seq, last := q.last, pay := BitVec.ofNat 64 pay, poison := poison }

/-- One reply token. -/
def out1 (q : MemReq) (pay : Nat) (poison : Bool) : OutTok :=
  { dst := q.dst, which := 2, tag := q.tag, seq := q.seq, last := q.last, pay := BitVec.ofNat 64 pay, poison := poison }

end Sys2Proof.Machine
end

