-- ==== Sys2Proof/Machine/Queue.lean ====
section
/-! DEFINITION. Copy engines and stream ports (R62, R63, R170, R177, R316 to R322): the queue registers, appends, the
execution of chain records one destination line at a step, faults, and the ports. -/
namespace Sys2Proof.Machine

/-! ## Layout records (R177) -/

/-- The fault of a scale layout record, if any. The list of R177 does not name a band record whose stride or kblocks is not 0, where
its table gives 0: Malformed too (DESIGN CHOICE, log 121). -/
def layoutFault (v : Nat) : Option Nat :=
  let base := bitsOf v 17 0
  let kind := byteAt v 4
  let rows := bitsOf v 63 48
  let stride := bitsOf v 95 64
  let kb := bitsOf v 127 96
  if bitsOf v 31 18 != 0 || 1 < kind || byteAt v 5 != 0 || rows == 0 then some fcMalformed
  else if kind == 0 then (if kb == 0 then some fcMalformed else none)
  else if stride != 0 || kb != 0 then some fcMalformed
  else if base % 2 == 1 then some fcMisaligned else none

/-! ## Queues (R316, R322) -/

/-- The live device that a copy queue is assigned to. -/
def State.queueVd (s : State) (q : Nat) : Option Nat := (s.vds.find? fun d => d.2.live && d.2.queues.contains q).map (·.1)

/-- The parties of a queue's accesses: user level of its device, at its home cluster (R317). -/
def State.queueWho (s : State) (q : Nat) : Who :=
  { vd := (s.queueVd q).getD noVd, user := true, core := none, cluster := (s.queue q).cluster, machine := false }

/-- Free the scoreboard entries of a queue (R170). -/
def State.freeScore (s : State) (q : Nat) : State :=
  { s with cores := s.cores.map fun c => (c.1, { c.2 with scoreboard := c.2.scoreboard.filter fun e => e.queue != q }) }

/-- An event of a queue to its handler endpoint (R320): no element, no slot, rank 0. -/
def State.queueEvent (s : State) (q code info : Nat) : State :=
  let x := s.queue q
  let vd := (s.queueVd q).getD noVd
  let ev := mkRecord code 0 noElem 0 noSlot info 0
  if (s.vd vd).dying then s
  else
    let n := s.noteEvent vd none none ev
    if n.2 then n.1.holdRecord x.cluster x.endpoint ev vd none
    else n.1.sendTo vd x.cluster x.endpoint ev

/-- A record that CHAIN appended completes, or its engine stops at it: it leaves its thread's copies (R292). -/
def State.finishCopies (s : State) (q : Nat) (rc : Word) : State :=
  let mine := fun (o : ThreadOp) => match o.kind with
    | .copy n r => n == q && r == rc
    | _ => false
  { s with threads := s.threads.map fun t => (t.1, { t.2 with ops := removeFirst mine t.2.ops })
           vds := s.vds.map fun d => (d.1, { d.2 with threads := d.2.threads.map fun t => (t.1, { t.2 with ops := removeFirst mine t.2.ops }) }) }

/-- A fault stops a queue at its record (R320). -/
def State.stopQueue (s : State) (q code info : Nat) : State :=
  let rc := (s.queue q).cur
  let s := s.updQueue q fun x => { x with run := false, stopped := true, code := BitVec.ofNat 8 code }
  (s.finishCopies q rc).queueEvent q code info

/-- Run a queue from a record: a resume at the record where it stopped continues it (R320). -/
def State.startQueue (s : State) (q : Nat) (rc : Word) : State :=
  let x := s.queue q
  let s := if x.stopped && x.cur == rc then s else s.freeScore q
  s.updQueue q fun y =>
    let keep := y.stopped && y.cur == rc
    { y with
      run := true
      stopped := false
      code := 0
      cur := rc
      done := if keep then y.done else 0
      half := if keep then y.half else none
      halfBad := keep && y.halfBad
      begun := keep && y.begun
      fin := keep && y.fin
      acted := keep && y.acted
      last := keep && y.last
      held := if keep then y.held else [] }

/-- The next field that an append would write (R316): that of the tail of a queue that is not idle. -/
def State.tailLink (s : State) (q : Nat) : Option AccRes :=
  let x := s.queue q
  if x.run || x.stopped then some (s.resolve (s.queueWho q) (x.tail + 8) .wr) else none

/-- Append a record for a device (R158, R298, R316) by agent `x`: one step at the queue's arbiter. A fault comes with its data
address (R277): the record's, or that of the tail's next field. -/
def State.appendQueue (s : State) (x : Agent) (q : Nat) (rc : Word) (vd : Nat) : Except (Nat × Nat) State :=
  if s.queueVd q != some vd || !(s.queue q).bound then .error (fcAccessFault, rc.toNat)
  else if rc.toNat % 64 != 0 then .error (fcMisaligned, rc.toNat)
  else match s.tailLink q with
  | some (.fault c) => .error (c, ((s.queue q).tail + 8).toNat)
  | some (.ok p _) => .ok ((s.storeBy x 0 p 8 rc.toNat).updQueue q fun y => { y with tail := rc })
  | none =>    .ok ((s.updQueue q fun y => { y with tail := rc }).startQueue q rc)

/-- Whether the chain from a record reaches another, as the next fields stand; `n` bounds the records followed. -/
def State.chainHas (s : State) (q : Nat) (tail : Word) : Nat → Word → Bool
  | 0, _ => false
  | n + 1, rc =>
    rc == tail || (rc != 0 && (match s.resolve (s.queueWho q) (rc + 8) .rd with
      | .ok p _ => s.chainHas q tail n (BitVec.ofNat 64 (s.readNat p 8))
      | .fault _ => false))

/-- QCHAN_WRITE (R316, R322): start an idle queue or resume a stopped one. The written record becomes the tail, but where a
resumed chain still leads to the tail (DEDUCED, log 105). -/
def execQchanWrite (q : Nat) (v : Word) (s : State) : Out :=
  if 2048 ≤ q then .fault .noSuchUnit
  else
    let x := s.queue q
    if (s.queueVd q).isNone then .next s
    else if x.run || !x.bound || v.toNat % 64 != 0 then .next (s.updQueue q fun y => { y with refused := true })
    else if x.stopped && s.chainHas q x.tail 4096 v then .next (s.startQueue q v)
    else .next ((s.updQueue q fun y => { y with tail := v }).startQueue q v)

/-- QSTAT_WRITE (R316): refused is cleared by a 1; every other bit is read-only. -/
def execQstatWrite (q : Nat) (v : Word) (s : State) : Out :=
  if 2048 ≤ q then .fault .noSuchUnit
  else if bitOf v.toNat 2 then .next (s.updQueue q fun y => { y with refused := false }) else .next s

/-- QSTAT as it reads (R316). -/
def QueueState.stat (x : QueueState) : Nat :=
  x.cur.toNat / 65536 * 65536 + x.code.toNat * 256 + (if x.refused then 4 else 0) + (if x.stopped then 2 else 0) +
    (if x.run then 1 else 0)

/-! ## Records (R62, R63) -/

/-- The 64 bytes of a record, or the fault with its address. -/
def State.fetchRec (s : State) (q : Nat) : Nat ⊕ (Nat × Nat) :=
  let rc := (s.queue q).cur
  if rc.toNat % 64 != 0 then .inr (fcMisaligned, rc.toNat)
  else match s.resolve (s.queueWho q) rc .rd with
    | .fault c => .inr (c, rc.toNat)
    | .ok p _ =>
      let vd := (s.queueVd q).getD noVd
      match s.placeFault vd p false with
      | some c => .inr (c, rc.toNat)
      | none => if s.reach vd p == .dead || s.poisoned p then .inr (fcPoison, rc.toNat) else .inl (s.readNat p 64)

/-- The wakes that a waiting record asks for (R347): its own place, and where its endpoints stand. -/
def State.rouseRec (s : State) (q : Nat) : State :=
  let vd := (s.queueVd q).getD noVd
  let at1 := fun (s : State) (a : Word) => match s.resolve (s.queueWho q) a .rd with
    | .ok p _ => s.rouse vd p
    | .fault _ => s
  let s := at1 s (s.queue q).cur
  match s.fetchRec q with
  | .inr _ => s
  | .inl d =>
    let off := BitVec.ofNat 64 (64 * (s.queue q).done)
    (List.range 2).foldl (fun s i => at1 s (BitVec.ofNat 64 (d / 2 ^ (256 + 64 * i) % 2 ^ 64) + off)) s

/-- Whether the record at which a queue stands lies in memory that sleeps. -/
def State.recAsleep (s : State) (q : Nat) : Bool :=
  match s.resolve (s.queueWho q) (s.queue q).cur .rd with
  | .ok p _ => (s.sleeper p).isSome
  | .fault _ => false

/-- Body word `i` of a record. -/
def recW (d i : Nat) : Nat := d / 2 ^ (256 + 64 * i) % 2 ^ 64
def recAction (d : Nat) : Nat := byteAt d 1 / 64
def recOwn (d : Nat) : Bool := bitOf (byteAt d 1) 0
/-- The scope of a record's acquire and release (R62), and the two bits. -/
def recScope (d : Nat) : Nat := byteAt d 1 / 8 % 8
def recAcq (d : Nat) : Bool := bitOf (byteAt d 1) 1
def recRel (d : Nat) : Bool := bitOf (byteAt d 1) 2
def recCaddr (d : Nat) : Nat := d / 2 ^ 128 % 2 ^ 64
def recCval (d : Nat) : Nat := d / 2 ^ 192 % 2 ^ 64

/-- The header's fault (R62, R63, R317 step 1). -/
def recFault (d : Nat) : Option Nat :=
  if d / 2 ^ 16 % 2 ^ 48 != 0 || recAction d == 3 || 5 < byteAt d 1 / 8 % 8 || (recAction d == 1 && recCaddr d % 8 != 0) ||
    (recAction d == 2 && recCaddr d % 64 != 0) then some fcMalformed
  else if byteAt d 0 == 0 || 0x0A < byteAt d 0 then some fcChainKind
  else if !recOwn d then some fcChainOwnership else none

/-- The body's fault that its own words decide (R319), with the faulting address, or the record's where none is at fault (R320). -/
def bodyFault (d rc : Nat) : Option (Nat × Nat) :=
  let w0 := recW d 0
  let w1 := recW d 1
  let w2 := recW d 2
  let w3 := recW d 3
  let isPort := fun (w : Nat) => w / 2 ^ 56 == 0xFB
  let bad := match byteAt d 0 with
    | 1 => w3 != 0 || 2 ^ 40 < w2 || isPort w0 || isPort w1
    | 2 => w3 != 0 || w2 % 16 != 0 || !(isPort w0 || isPort w1)
    | 3 => w0 != 0
    | 4 => 2 ^ 23 ≤ w3 || w1 / 2 ^ 56 != 0xFF || bitsOf w1 31 30 != 3
    | 5 => 2 ^ 49 ≤ w3 || bitsOf w3 23 0 == 0 || bitsOf w3 47 24 == 0
    | 6 => 2 ^ 7 ≤ w3 || bitsOf w3 6 5 == 3 || !([0, 1, 4, 5].contains (w3 % 32))
    | 7 => 2 ^ 16 ≤ w3 || w3 == 0
    | 8 => w2 != 0 || w3 != 0
    | 9 => w2 != 0 || w3 != 0 || 2 ^ 10 ≤ w1
    | _ => w0 != 0 || w1 != 0 || w2 != 0 || w3 != 0
  let lw := ((Fmt.ofCode (w3 % 32)).getD .i64).width / 8
  if bad then some (fcMalformed, rc)
  else if byteAt d 0 == 1 && w2 != 0 && w0 / 2 ^ 56 == w1 / 2 ^ 56 && overlap (w0, w2) (w1, w2) then some (fcMalformed, rc)
  else if byteAt d 0 == 6 && w2 % lw != 0 then some (fcMalformed, rc)
  else if byteAt d 0 == 6 && w0 % lw != 0 then some (fcMisaligned, w0)
  else if byteAt d 0 == 6 && w1 % lw != 0 then some (fcMisaligned, w1)
  else if (byteAt d 0 == 8 && w0 % 8 != 0) || (byteAt d 0 == 9 && w0 % 64 != 0) then some (fcMisaligned, w0)
  else none

/-! ## Endpoints (R318) -/

/-- Typed bytes as a copy engine may touch them (R162, R172): `scale` allows the write of SCALEPUT. -/
def State.engineTyped (s : State) (q t off n : Nat) (wr scale : Bool) : AccRes :=
  let x := s.queue q
  let vd := (s.queueVd q).getD noVd
  let sp := bitsOf t 31 30
  let o := bitsOf t 22 0 + off
  if bitsOf t 29 25 == 31 || typedLimit sp < o + n then .fault fcAccessFault
  else match typedCore (24 * x.cluster) t with
    | none => .fault fcAccessFault
    | some core =>
      let ok := match sp with
        | 0 => s.vdOfCore core == vd
        | 1 => s.granulesOk vd none core o n
        | 2 => false
        | _ => wr && scale && s.vdOfCore core == vd
      if ok then .ok (pa (typedSpace sp core) o) 4 else .fault fcAccessFault

/-- The place of `n` bytes at offset `off` of an endpoint. -/
def State.epPlace (s : State) (q ep off n : Nat) (k : Kind) (scale : Bool) : AccRes :=
  let top := ep / 2 ^ 56
  if top == 0xFF then
    if bitsOf ep 55 32 != 0 then .fault fcAccessFault else s.engineTyped q ep off n (k == .wr) scale
  else if top == 0 || top == 0xFD then
    match s.resolve (s.queueWho q) (BitVec.ofNat 64 (ep + off)) k with
    | .fault c => .fault c
    | .ok p t =>
      if (isMgmt p || isFarMgmt p) && k == .wr then .fault fcAccessFault
      else match s.placeFault ((s.queueVd q).getD noVd) p (k == .wr) with
        | some c => .fault c
        | none => .ok p t
  else .fault fcAccessFault

/-- The address of a fault at an endpoint. -/
def epAddr (ep off : Nat) : Nat := (ep + off) % 2 ^ 64

/-! ## What the bytes of a destination come from -/

/-- A source of bytes: an endpoint, a pattern, or indexed rows. -/
inductive Src where
  | copy (ep : Nat)
  | fill (pat : Nat)
  | gather (ep idx rb w : Nat)

/-- Whether a place reads as poison: its line is marked, or its package has failed (R179, R367). -/
def State.deadOrMarked (s : State) (q p : Nat) : Bool := s.reach ((s.queueVd q).getD noVd) p == .dead || s.poisoned p

/-- Whether an access of a queue waits behind a diverted value of its device (R375), or for a device to wake (R350). -/
def State.epDiverted (s : State) (q ep off : Nat) : Bool :=
  ep / 2 ^ 56 == 0 && (s.divertWait ((s.queueVd q).getD noVd) (epAddr ep off) ||
    (match s.epPlace q ep off 1 .rd false with
     | .ok p _ => (s.sleeper p).isSome || s.linkWait ((s.queueVd q).getD noVd) p 3
     | .fault _ => false))

/-- A source byte with the marked place it comes from, or the fault and its address. -/
def State.epByte (s : State) (q ep off : Nat) : (Nat × Option Nat) ⊕ (Nat × Nat) :=
  match s.epPlace q ep off 1 .rd false with
  | .fault c => .inr (c, epAddr ep off)
  | .ok p _ =>
    if s.deadOrMarked q p then .inl ((s.readByte p).toNat, some p)
    else .inl (s.seenNat (.queue q) p 1, none)

/-- The index of row `i` of a gather, or the fault and its address. -/
def State.rowIndex (s : State) (q idx w i : Nat) : Nat ⊕ (Nat × Nat) :=
  match s.epPlace q idx (i * w) w .rd false with
  | .fault c => .inr (c, epAddr idx (i * w))
  | .ok p _ => if s.deadOrMarked q p then .inr (fcPoison, epAddr idx (i * w)) else .inl (s.seenNat (.queue q) p w)

/-- Byte `j` of the destination, as its source gives it. -/
def State.srcByte (s : State) (q : Nat) (src : Src) (j : Nat) : (Nat × Option Nat) ⊕ (Nat × Nat) :=
  match src with
  | .copy ep => s.epByte q ep j
  | .fill p => .inl (byteAt p (j % 8), none)
  | .gather ep idx rb w => match s.rowIndex q idx w (j / rb) with
    | .inr f => .inr f
    | .inl i => s.epByte q ep (i * rb + j % rb)

/-- Whether byte `j` of the destination waits for its source, or for the index that names it (R375, R381, R394): asked of the first
byte of a read, a line or a row. -/
def State.srcWait (s : State) (q : Nat) (src : Src) (fst : Bool) (j : Nat) : Bool :=
  match src with
  | .copy ep => (fst || (ep + j) % 64 == 0) && s.epDiverted q ep j
  | .fill _ => false
  | .gather ep idx rb w =>
    let head := fst || j % rb == 0
    let at0 := j / rb * w
    (head && (s.epDiverted q idx at0 || s.epDiverted q idx (at0 + w - 1))) ||
      (match s.rowIndex q idx w (j / rb) with
       | .inr _ => false
       | .inl i => (head || (ep + i * rb + j % rb) % 64 == 0) && s.epDiverted q ep (i * rb + j % rb))

/-- Whether any of the bytes `j` to `j + n - 1` waits. -/
def State.srcWaits (s : State) (q : Nat) (src : Src) (j n : Nat) : Bool :=
  (List.range n).any fun i => s.srcWait q src (i == 0) (j + i)

/-- The bytes `j` to `j + n - 1`. -/
def State.srcBytes (s : State) (q : Nat) (src : Src) (j : Nat) : Nat → List (Nat × Option Nat) ⊕ (Nat × Nat)
  | 0 => .inl []
  | n + 1 => match s.srcByte q src j with
    | .inr f => .inr f
    | .inl b => match s.srcBytes q src (j + 1) n with
      | .inr f => .inr f
      | .inl l => .inl (b :: l)

/-- A value from its bytes, the first least significant. -/
def ofBytes (l : List Nat) : Nat := l.foldr (fun b v => b + 256 * v) 0

/-- One lane of REDUCE (R319). -/
def reduceLane (f : Fmt) (op a b : Nat) : Nat :=
  let w := f.width
  let sg := fun v => intValue w true v
  if f.cls == .int then
    (match op with
     | 0 => (a + b) % 2 ^ w
     | 1 => if sg a < sg b then b else a
     | _ => if sg b < sg a then b else a)
  else
    let x := (fmtValue f a).1
    let y := (fmtValue f b).1
    roundCode f .rne (match op with
      | 0 => sumExact .rne [x, y]
      | 1 => fmaxNum x y
      | _ => fminNum x y)

/-! ## One destination line (R317 step 3) -/

/-- A destination of a record: endpoint, length, source, the format and the operation of REDUCE. -/
structure Seg where
  dst : Nat
  len : Nat
  src : Src
  red : Option (Fmt × Nat)

/-- The number of destination lines of a segment. -/
def Seg.lines (g : Seg) : Nat := if g.len == 0 then 0 else (g.dst % 64 + g.len + 63) / 64
/-- The bytes of line `i`. -/
def Seg.lo (g : Seg) (i : Nat) : Nat := 64 * i - g.dst % 64
def Seg.hi (g : Seg) (i : Nat) : Nat := min g.len (64 * (i + 1) - g.dst % 64)

/-- What a step of a record gives: it waits, it faults (`faultAt`: with what it has performed), it goes on, or it has performed
one of the two granules of a line. -/
inductive Eng where
  | wait
  | fault (code info : Nat)
  | faultAt (s : State) (code info : Nat)
  | go (s : State)
  | part (s : State)

/-- Whether an access to bytes has been issued and is not performed yet: of a thread, a RED contribution on its way, or what an engine,
a down-converter or an MLDT has begun to write. It comes before a later entry (R171). -/
def State.issuedBefore (s : State) (p n : Nat) : Bool :=
  (s.threads.any fun t => t.2.ops.any fun o => o.touches p n) ||
    (s.clusters.any fun c => c.2.redMsgs.any fun m => overlap (m.pa, m.size) (p, n)) ||
    (s.cores.any fun c => c.2.issue.any fun m => (m.pieces.getD []).any fun y => overlap (y.p, y.n) (p, n)) ||
    (s.elems.any fun e => e.2.queue.any fun m => match m.op, m.left with
      | .mldt _ k _ d, some _ => !m.parked && (match s.effTyped (e.1 / 65536) (s.coreOf (e.1 / 65536) (e.1 % 65536)) d.toNat 0 (32 * k) 1 true with
        | .ok x _ => overlap (x, 32 * k) (p, n)
        | .fault _ => false)
      | _, _ => false)

/-- Allocate the scoreboard entry of a destination in a core (R170). -/
def State.allocScore (s : State) (q : Nat) (g : Seg) (scale : Bool) (k : State → Eng) : Eng :=
  match s.epPlace q g.dst 0 1 .wr scale with
  | .fault c => .fault c (epAddr g.dst 0)
  | .ok p _ =>
    if paSpace p < 16 || 1024 ≤ paSpace p then k s
    else
      let core := if paSpace p < 128 then paSpace p - 16 else paSpace p % 128
      let e : SbEntry := { lo := p / 64 * 64, hi := (p + g.len + 63) / 64 * 64, queue := q }
      if (s.core core).scoreboard.contains e then k s
      else if 32 ≤ (s.core core).scoreboard.length || s.issuedBefore e.lo (e.hi - e.lo) then .wait
      else k (s.updCore core fun c => { c with scoreboard := c.scoreboard ++ [e] })

/-- The events of poisoned source lines (R320): a source line is reported at its first byte, or at the first byte of the source
range or row in it. -/
def State.copyEvents (s : State) (q : Nat) (src : Src) (lo : Nat) (bs : List (Nat × Option Nat)) : State :=
  let starts := fun (j : Nat) => match src with
    | .gather _ _ rb _ => j % rb == 0
    | _ => j == 0
  let ms := (bs.zip (List.range bs.length)).filterMap fun b => b.1.2.map fun m => (m, b.2)
  (ms.filter fun m => m.1 % 64 == 0 || starts (lo + m.2)).foldl (fun s m => s.queueEvent q fcUncorrectable (poisonPayload m.1).toNat) s

/-- What the bytes of a destination become: the source's, or, for REDUCE, each lane combined with the source's (R319). -/
def State.mixBytes (s : State) (q : Nat) (g : Seg) (p n v : Nat) : Nat :=
  match g.red with
  | none => v
  | some (f, op) =>
    let old := s.seenNat (.queue q) p n
    let w := f.width
    (List.range (8 * n / w)).foldr (fun l acc =>
      reduceLane f op (old / 2 ^ (w * l) % 2 ^ w) (v / 2 ^ (w * l) % 2 ^ w) + 2 ^ w * acc) 0

/-- Perform bytes `lo` to `hi` of a segment, all in one 32-byte granule of the destination (R386): the state, and whether they
came from a marked line. A marked destination that REDUCE reads raises UncorrectableMemory (R179) and stays marked. -/
def State.doPiece (s : State) (q : Nat) (g : Seg) (lo hi : Nat) (scale : Bool) : (State × Bool) ⊕ (Nat × Nat) :=
  match s.srcBytes q g.src lo (hi - lo) with
  | .inr f => .inr f
  | .inl bs => match s.epPlace q g.dst lo (hi - lo) .wr scale with
    | .fault c => .inr (c, epAddr g.dst lo)
    | .ok p _ =>
      let old := g.red.isSome && s.poisoned p
      let bad := bs.any fun b => b.2.isSome
      let t := (s.storeBy (.queue q) 0 p (hi - lo) (s.mixBytes q g p (hi - lo) (ofBytes (bs.map (·.1))))).copyEvents q g.src lo bs
      let t := if old && (s.queue q).half.isNone then t.queueEvent q fcUncorrectable (poisonPayload p).toNat else t
      .inl (if bad then t.markPoison p else t, bad || old)

/-- A line that a record has written whole, from lines without a mark, loses its mark (R179). -/
def State.endLine (s : State) (q : Nat) (g : Seg) (lo hi : Nat) (scale bad : Bool) : State :=
  if bad || hi - lo != 64 then s
  else match s.epPlace q g.dst lo 64 .wr scale with
    | .ok p _ => { s with poison := s.poison.filter fun l => l != p / 64 }
    | .fault _ => s

/-- Perform line `i` of a segment, or one of its two granules, in a free order (R386, R391). It waits behind a diverted value, for
memory that sleeps and for a stopped link (R375, R381, R394). -/
def State.doLine (s : State) (q : Nat) (g : Seg) (i : Nat) (scale : Bool) : Eng :=
  s.allocScore q g scale fun s =>
    let lo := g.lo i
    let hi := g.hi i
    let mid := 64 * i + 32 - g.dst % 64
    if s.epDiverted q g.dst lo || s.srcWaits q g.src lo (hi - lo) then .wait
    else if 64 * i + 32 ≤ g.dst % 64 + lo || hi ≤ mid then
      match s.doPiece q g lo hi scale with
      | .inr f => .fault f.1 f.2
      | .inl (t, _) => .go t
    else
      let h := match (s.queue q).half with
        | some h => 1 - h
        | none => Config.choice s.free % 2
      match (if h == 0 then s.doPiece q g lo mid scale else s.doPiece q g mid hi scale) with
      | .inr f => .fault f.1 f.2
      | .inl (t, bad) =>
        if (s.queue q).half.isNone then .part (t.updQueue q fun x => { x with half := some h, halfBad := bad })
        else .go ((t.endLine q g lo hi scale (bad || (s.queue q).halfBad)).updQueue q fun x => { x with half := none, halfBad := false })

/-! ## The end of a record (R317 steps 4 to 7) -/

/-- The releases that a record's writes carry where its rel bit asks (R317 step 5). -/
def State.recRels (s : State) (q d : Nat) : List Release := if recRel d then [s.releaseOf (.queue q) [] (recScope d)] else []

/-- The completion action: the fault with its address, if any. The add carries the record's release and those of the value that it
adds to (R384); resolving a task is a release at pod scope (R259, R304). -/
def State.recAct (s : State) (q d : Nat) : State × Option (Nat × Nat) :=
  let x := s.queue q
  match recAction d with
  | 1 =>
    match s.resolve (s.queueWho q) (BitVec.ofNat 64 (recCaddr d)) .wr with
    | .fault c => (s, some (c, recCaddr d))
    | .ok p _ =>
      let no := s.placeFault ((s.queueVd q).getD noVd) p true
      if isMgmt p || isFarMgmt p then (s, some (fcAccessFault, recCaddr d))
      else if let some c := no then (s, some (c, recCaddr d))
      else if s.poisoned p then (s, some (fcPoison, recCaddr d))
      else (s.storeBy (.queue q) (if recRel d then recScope d else 0) p 8 ((s.readNat p 8 + recCval d) % 2 ^ 64)
              (s.recRels q d ++ s.carried p 8), none)
  | 2 =>
    let s := s.releaseAt (.queue q) [] 5
    let r := s.resolveTask ((s.queueVd q).getD noVd) x.cluster [s.releaseOf (.queue q) [] 5] (BitVec.ofNat 64 (recCaddr d))
    match r.2 with
    | .error c => (r.1, some (c, recCaddr d))
    | .ok _ => (r.1, none)
  | _ => (s, none)

/-- Write own := 0 and go on to the next record, or stop as idle. The write stands for the record's release at its scope (R317). An
engine that follows the next field of the tail makes that record the tail, so that an append still finds it (R316: no append is ever
lost). A fault of the write stops the queue at the record, whose action is done (R320). -/
def State.recNext (s : State) (q d : Nat) : State :=
  let rc := (s.queue q).cur
  match s.resolve (s.queueWho q) rc .wr with
  | .fault c => (s.updQueue q fun x => { x with acted := true }).stopQueue q c rc.toNat
  | .ok p _ =>
    let s := s.storeBy (.queue q) (if recRel d then recScope d else 0) (p + 1) 1 ((s.readByte (p + 1)).toNat / 2 * 2)
      [s.releaseOf (.queue q) [] (recScope d)]
    let nx := s.readNat (p + 8) 8
    let s := s.finishCopies q rc
    s.updQueue q fun x =>
      let x := { x with done := 0, half := none, halfBad := false, begun := false, fin := false, acted := false, last := false, held := [] }
      if nx == 0 then { x with run := false }
      else { x with cur := BitVec.ofNat 64 nx, tail := if x.tail == rc then BitVec.ofNat 64 nx else x.tail }

/-- End a record: scoreboard, release at its scope (R317), action, ownership, next. DoubleResolve of the action leaves the record
performed (R320); any other fault of the action leaves it to come, the body done. -/
def State.endRec (s : State) (q d : Nat) : State :=
  let s := if recRel d then s.releaseAt (.queue q) [] (recScope d) else s
  let r := (s.freeScore q).recAct q d
  match r.2 with
  | none => r.1.recNext q d
  | some (c, i) =>
    if c == fcDoubleResolve then (r.1.recNext q d).stopQueue q c i
    else (r.1.updQueue q fun x => { x with fin := true }).stopQueue q c i

/-- The plain end of a record; a counter in the line of a diverted value waits (R375). -/
def endPlain (q d : Nat) (s : State) : Eng :=
  if recAction d == 1 && s.epDiverted q (recCaddr d) 0 then .wait else .go (s.endRec q d)

/-! ## The frame of a record's step -/

/-- Whether a queue runs: its device is active (R348) and not condemned. -/
def State.queueRuns (s : State) (q : Nat) : Bool :=
  match s.queueVd q with
  | some v => (s.queue q).run && (s.vd v).mode == .active && !(s.vd v).dying
  | none => false

/-- The acquire of a record with acq (R317 step 2, R384): of the releases whose values the queue has read, with those in the record
itself. -/
def State.recAcquire (s : State) (q d : Nat) : State :=
  let now := match s.resolve (s.queueWho q) (s.queue q).cur .rd with
    | .ok p _ => s.seenSync (.queue q) p 64
    | .fault _ => []
  if recAcq d then s.acquireFrom (.queue q) (recScope d) (s.readBy (.queue q) ++ now) else s

/-- A record begins: it acquires, but for COUNT, which acquires after its wait (R319). -/
def State.recBegin (s : State) (q d : Nat) : State :=
  if (s.queue q).begun || byteAt d 0 == 8 then s else (s.recAcquire q d).updQueue q fun x => { x with begun := true }

/-- A step of a queue at a record of kind `kind`: the checks of R317 step 1, then the body; after a fault of the action, or of the
write of own, what is still to come. -/
def State.atRecord (s : State) (q kind : Nat) (k : Nat → State → Eng) : Out :=
  if 2048 ≤ q then .fault .noSuchUnit
  else if !s.queueRuns q then .next s
  else match s.fetchRec q with
    | .inr _ => .next s
    | .inl d =>
      if byteAt d 0 != kind then .next s
      else
        let rc := (s.queue q).cur.toNat
        match recFault d, bodyFault d rc with
        | some c, _ => .next (s.stopQueue q c rc)
        | none, some c => .next (s.stopQueue q c.1 c.2)
        | none, none =>
          let s := s.recBegin q d
          match (if (s.queue q).acted then .go (s.recNext q d) else if (s.queue q).fin then endPlain q d s else k d s) with
          | .wait => .next (s.rouseRec q)
          | .fault c i => .next (s.stopQueue q c i)
          | .faultAt t c i => .next (t.stopQueue q c i)
          | .go t => .next t.draw
          | .part t => .next t.draw

/-- The next line of a record with one destination, or its end. The scoreboard entry is freed with the last write, though the action
waits (R170). -/
def State.segStep (s : State) (q d : Nat) (g : Seg) (scale : Bool) (fin : State → Eng) : Eng :=
  let i := (s.queue q).done
  if g.lines ≤ i then fin s
  else match s.doLine q g i scale with
    | .go t =>
      let t := t.updQueue q fun x => { x with done := i + 1 }
      if i + 1 < g.lines then .go t
      else
        let t := t.freeScore q
        match fin t with
        | .wait => .go t
        | r => r
    | r => r

/-- COPY (R319). -/
def execCopy (q : Nat) (s : State) : Out :=
  s.atRecord q 1 fun d s => s.segStep q d { dst := recW d 1, len := recW d 2, src := .copy (recW d 0), red := none } false (endPlain q d)

/-- FILL (R319). -/
def execFill (q : Nat) (s : State) : Out :=
  s.atRecord q 3 fun d s => s.segStep q d { dst := recW d 1, len := recW d 2, src := .fill (recW d 3), red := none } false (endPlain q d)

/-- SCALEPUT (R319): with load, the record is loaded into a layout slot once the bytes are written (R226). -/
def execScaleput (q : Nat) (s : State) : Out :=
  s.atRecord q 4 fun d s =>
    let w3 := recW d 3
    s.segStep q d { dst := recW d 1, len := recW d 2, src := .copy (recW d 0), red := none } true fun s =>
      if !bitOf w3 22 then endPlain q d s
      else match typedCore (24 * (s.queue q).cluster) (recW d 1) with
        | none => .faultAt s fcAccessFault (recW d 1)
        | some core =>
          let o := bitsOf w3 17 0
          if bitsOf (recW d 1) 29 25 == 31 || Config.sizeScale < o + 16 then .faultAt s fcAccessFault (recW d 1)
          else if o % 16 != 0 then .faultAt s fcMisaligned (recW d 1)
          else
            let p := pa (spScale core) o
            let v := s.readNat p 16
            if s.poisoned p then .faultAt s fcPoison (recW d 1)
            else match layoutFault v with
              | some c => .faultAt s c (recW d 1)
              | none => endPlain q d (s.updCore core fun c => { c with layout := Sparse.put c.layout (bitsOf w3 21 18) (BitVec.ofNat 128 v) })

/-- GATHERCOPY (R319). -/
def execGathercopy (q : Nat) (s : State) : Out :=
  s.atRecord q 5 fun d s =>
    let w3 := recW d 3
    let rb := bitsOf w3 23 0
    let src := Src.gather (recW d 0) (recW d 2) rb (if bitOf w3 48 then 8 else 4)
    s.segStep q d { dst := recW d 1, len := rb * bitsOf w3 47 24, src := src, red := none } false (endPlain q d)

/-- REDUCE (R319). -/
def execReduce (q : Nat) (s : State) : Out :=
  s.atRecord q 6 fun d s =>
    let w3 := recW d 3
    let f := (Fmt.ofCode (w3 % 32)).getD .i64
    s.segStep q d { dst := recW d 1, len := recW d 2, src := .copy (recW d 0), red := some (f, bitsOf w3 6 5) } false (endPlain q d)

/-- Where a BCAST stands: at a destination and a line of it, at a list entry that it waits for, at one that faults, or at its end. -/
inductive Listed where
  | line (dst i : Nat)
  | wait
  | fault (code info : Nat)
  | noMore
deriving DecidableEq, Repr, Inhabited

/-- The destination and the line of BCAST at which the count of lines `i` stands; `n` entries are left. -/
def State.bcastAt (s : State) (q d : Nat) : Nat → Nat → Nat → Listed
  | 0, _, _ => .noMore
  | n + 1, k, i =>
    match s.epPlace q (recW d 1) (8 * k) 8 .rd false with
    | .fault c => .fault c (epAddr (recW d 1) (8 * k))
    | .ok p _ =>
      if s.epDiverted q (recW d 1) (8 * k) || s.epDiverted q (recW d 1) (8 * k + 7) then .wait
      else if s.deadOrMarked q p then .fault fcPoison (epAddr (recW d 1) (8 * k))
      else
        let g : Seg := { dst := s.seenNat (.queue q) p 8, len := recW d 2, src := .copy (recW d 0), red := none }
        if i < g.lines then .line g.dst i else s.bcastAt q d n (k + 1) (i - g.lines)

/-- BCAST (R319): the destinations in list order; each one's scoreboard entry is freed after its last line (R170). -/
def execBcast (q : Nat) (s : State) : Out :=
  s.atRecord q 7 fun d s =>
    if recW d 2 == 0 then endPlain q d s
    else match s.bcastAt q d (recW d 3) 0 (s.queue q).done with
      | .wait => .wait
      | .fault c a => .fault c a
      | .noMore => endPlain q d s
      | .line dst i =>
        let g : Seg := { dst := dst, len := recW d 2, src := .copy (recW d 0), red := none }
        match s.doLine q g i false with
        | .go t =>
          let t := t.updQueue q fun x => { x with done := x.done + 1 }
          .go (if i + 1 == g.lines then t.freeScore q else t)
        | r => r

/-- COUNT (R319): the engine begins to wait. -/
def execCount (q : Nat) (s : State) : Out :=
  s.atRecord q 8 fun _ s => .go (s.updQueue q fun x => { x with begun := true })

/-- COUNT_SATISFY (R319): the counter is at least the target, and the record completes; with acq it acquires what the value read
releases (R384). -/
def execCountSatisfy (q : Nat) (s : State) : Out :=
  s.atRecord q 8 fun d s =>
    if !(s.queue q).begun then .wait
    else match s.epPlace q (recW d 0) 0 8 .rd false with
      | .fault c => .fault c (recW d 0)
      | .ok p _ =>
        if s.deadOrMarked q p then .fault fcPoison (recW d 0)
        else if s.epDiverted q (recW d 0) 0 then .wait
        else if s.seenNat (.queue q) p 8 < recW d 1 then .go s
        else
          let s := s.noteRead (.queue q) p 8
          endPlain q d (s.recAcquire q d)

/-- LINK (R319): appends a record to another queue of the die, as CHAIN does. -/
def execLink (q : Nat) (s : State) : Out :=
  s.atRecord q 9 fun d s =>
    let w1 := recW d 1
    let t := 1024 * (q / 1024) + 64 * (w1 % 16) + w1 / 16
    match s.appendQueue (.queue q) t (BitVec.ofNat 64 (recW d 0)) ((s.queueVd q).getD noVd) with
    | .error f => .fault f.1 f.2
    | .ok u => endPlain q d u

/-- NOP_RECORD (R319). -/
def execNopRecord (q : Nat) (s : State) : Out := s.atRecord q 10 fun d s => endPlain q d s

/-- CHAIN_KIND_STOP (R63): the queue stands at a record of no kind, or at one that cannot be read. -/
def execChainKindStop (q : Nat) (s : State) : Out :=
  if 2048 ≤ q then .fault .noSuchUnit
  else if !s.queueRuns q then .next s
  else match s.fetchRec q with
    | .inr f => .next (s.stopQueue q f.1 f.2)
    | .inl d =>
      if 1 ≤ byteAt d 0 && byteAt d 0 ≤ 0x0A then .next s
      else .next (s.stopQueue q ((recFault d).getD fcChainKind) (s.queue q).cur.toNat)

/-! ## Stream ports (R321, R369) -/

/-- A port that a word names for a die (R152): on-die ports by die and number, Serdex ports from 512 on; none where the
device does not own it. -/
def State.portOf (s : State) (vd die w : Nat) : Option Nat :=
  let n := w % 256
  if bitOf w 8 then (if n < 40 && s.ownsSerdex vd n then some (512 + n) else none)
  else if (s.vd vd).ports.contains (256 * die + n) then some (256 * die + n) else none

/-- What a port holds. -/
def State.portFifo (s : State) (p : Nat) : List PortTok := if p < 512 then (s.port p).fifo else (s.serdexPort (p - 512)).fifo

/-- Change what a port holds. -/
def State.setFifo (s : State) (p : Nat) (l : List PortTok) : State :=
  if p < 512 then s.updPort p fun x => { x with fifo := l } else s.updSerdex (p - 512) fun x => { x with fifo := l }

/-- Whether a port takes a token: it is not full, and a Serdex port is bound. -/
def State.portTakes (s : State) (p : Nat) : Bool :=
  (s.portFifo p).length < 256 && (p < 512 || (s.serdexPort (p - 512)).bind.isSome)

/-- The next token of a STREAM record's source: it waits, it faults, or the token with what happens before it, and the state without
it. -/
def State.streamTake (s : State) (q ep i : Nat) : Option (Token × Past × State) ⊕ (Nat × Nat) :=
  let vd := (s.queueVd q).getD noVd
  if ep / 2 ^ 56 == 0xFB then
    if bitsOf ep 55 9 != 0 then .inr (fcAccessFault, ep)
    else match s.portOf vd (q / 1024) (ep % 512) with
      | none => .inr (fcAccessFault, ep)
      | some p => match s.portFifo p with
        | [] => .inl none
        | t :: l => .inl (some (t.tok, t.past, s.setFifo p l))
  else match s.epPlace q ep (16 * i) 16 .rd false with
    | .fault c => .inr (c, epAddr ep (16 * i))
    | .ok p _ =>
      let t := tokOfBits (s.seenNat (.queue q) p 16)
      if s.epDiverted q ep (16 * i) || s.epDiverted q ep (16 * i + 15) then .inl none
      else if s.deadOrMarked q p then
        .inl (some ({ t with kind := 7, payload := poisonPayload p }, [], s.queueEvent q fcUncorrectable (poisonPayload p).toNat))
      else .inl (some (t, [], s))

/-- Put a token into a STREAM record's destination: into a port, or among the bytes that the engine holds until their granule is
whole (R386). -/
def State.streamPut (s : State) (q ep : Nat) (t : Token) (past : Past) : Eng :=
  let vd := (s.queueVd q).getD noVd
  if ep / 2 ^ 56 == 0xFB then
    if bitsOf ep 55 9 != 0 then .fault fcAccessFault ep
    else match s.portOf vd (q / 1024) (ep % 512) with
      | none => .fault fcAccessFault ep
      | some p => if s.portTakes p then .go (s.setFifo p (s.portFifo p ++ [{ vd := vd, r := none, tok := t, past := past }])) else .wait
  else match s.epPlace q ep (16 * (s.queue q).done) 16 .wr false with
    | .fault c => .fault c (epAddr ep (16 * (s.queue q).done))
    | .ok _ _ => .go (s.updQueue q fun x => { x with held := x.held ++ (List.range 16).map fun i => byteAt (tokBits t) i })

/-- How many of the bytes that a STREAM record holds its next write writes: the rest of a granule, or, after the last token, all. -/
def streamCut (x : QueueState) (ep : Nat) (ended : Bool) : Nat :=
  let room := 32 - (ep + 16 * x.done - x.held.length) % 32
  if room ≤ x.held.length then room else if ended then x.held.length else 0

/-- Write the first `n` bytes that a STREAM record holds; a line that it has written whole loses its mark (R179). -/
def State.streamWrite (s : State) (q ep len n : Nat) : Eng :=
  let x := s.queue q
  let lo := 16 * x.done - x.held.length
  let g : Seg := { dst := ep, len := if len == 0 then 16 * x.done else len, src := .fill 0, red := none }
  (if len == 0 then s.freeScore q else s).allocScore q g false fun s =>
    if s.epDiverted q ep lo then .wait
    else match s.epPlace q ep lo n .wr false with
      | .fault c => .fault c (epAddr ep lo)
      | .ok p _ =>
        let t := s.storeBy (.queue q) 0 p n (ofBytes (x.held.take n))
        let t := if (p + n) % 64 == 0 && 64 ≤ lo + n then { t with poison := t.poison.filter fun l => l != p / 64 } else t
        .go (t.updQueue q fun y => { y with held := y.held.drop n })

/-- STREAM (R319): one token at a step, with length 0 until a token with last 1; a destination in memory is written by whole granules
of 32 bytes, and the rest at the end (R386, R391). -/
def execStream (q : Nat) (s : State) : Out :=
  s.atRecord q 2 fun d s =>
    let x := s.queue q
    let len := recW d 2
    let ended := if len == 0 then x.last else decide (len / 16 ≤ x.done)
    let cut := streamCut x (recW d 1) ended
    if 0 < cut then
      (match s.streamWrite q (recW d 1) len cut with
       | .go t => .go (if ended && (t.queue q).held.isEmpty then t.freeScore q else t)
       | r => r)
    else if ended then endPlain q d s
    else match s.streamTake q (recW d 0) x.done with
      | .inr f => .fault f.1 f.2
      | .inl none => .wait
      | .inl (some (t, past, u)) => match u.streamPut q (recW d 1) t past with
        | .go v => .go (v.updQueue q fun y => { y with done := y.done + 1, last := t.last })
        | r => r

/-- STREAM_PORT_DELIVERY (R321, R322): a bound on-die port delivers its first token to its region. -/
def execStreamPortDelivery (p : Nat) (s : State) : Out :=
  if 512 ≤ p then .fault .noSuchUnit
  else match (s.port p).bind, (s.port p).fifo with
    | some r, t :: l =>
      if !(s.region r).live then .next s
      else .next ((s.updPort p fun x => { x with fifo := l }).send (2 ^ 41 + p) r { t.tok with net := true } t.past)
    | _, _ => .next s

end Sys2Proof.Machine
end

