-- ==== Sys2Proof/Machine/ElemFlow.lean ====
section
/-! DEFINITION. Flow, tag and context instructions of elements (R137 to R144, R156, R159). -/
namespace Sys2Proof.Machine

/-! ## The frame (R137 to R139) -/

/-- The form check of R137: arity, function and flags among those listed. -/
def formOk (w : Slot) (arities : List Nat) (fnOk : Nat → Bool) (maxFlag : Nat) : Bool :=
  arities.contains w.arityN && fnOk w.fnN && w.flagsN ≤ maxFlag

/-- Whether the out channel has the lane count of operand `k` (R139). -/
def sameOut (x : FireIn) (k : Nat) : Bool := (x.op k).fmt.lanes == x.out.fmt.lanes

/-- A flow, tag or system instruction: checks, then its effect on the input of the firing. -/
def State.flow (s : State) (w : Slot) (ok : Bool) (ctl : List Nat) (k : FireIn → State → Out) : Out :=
  s.gated w ok false fun s => s.poisonRule w ctl (k (s.fin w))

/-- The payload of operand `k` as 64 bits; a plane or an iteration as R94 makes it payload bits. -/
def payOf (x : FireIn) (k : Nat) : Nat := ((x.op k).passBits x.out).1

/-- Emit operand `k` unchanged (R139, R94), with the causes that writing it sets. -/
def State.pass (s : State) (w : Slot) (x : FireIn) (k : Nat) (dst : Which) (f : Emission → Emission) : State :=
  let p := (x.op k).passBits x.out
  (s.setCauses (s.coreOf s.site.r s.site.a) p.2).emit w dst (f (s.out w (BitVec.ofNat 64 p.1)))

/-- Consume the set and pass a on to both destinations, where the lane counts agree. -/
def State.passA (s : State) (w : Slot) (x : FireIn) (f : Emission → Emission) : Out :=
  if !sameOut x 0 then .next (s.siteMalformed w) else .next ((s.consume w).pass w x 0 .both f)

/-- Kind 1 with `.bnd` (R139). -/
def bndKind (w : Slot) (e : Emission) : Emission := { e with kind := if w.flagsN == 1 then 1 else 0 }

/-! ## Steering (R140) -/

/-- STEER (R140). -/
def execSteer (w : Slot) (s : State) : Out :=
  s.flow w (isAnyElem s.site.a && formOk w [2] fnZero 0 && w.fire == 0) [1] fun x s =>
    if !sameOut x 0 then .next (s.siteMalformed w)
    else .next ((s.consume w).pass w x 0 (if payOf x 1 != 0 then .d0 else .d1) id)

/-- MERGE (R140): the one entry taken goes to both destinations. -/
def execMerge (w : Slot) (s : State) : Out :=
  s.flow w (isAnyElem s.site.a && formOk w [1, 2, 3] fnZero 0 && w.fire == 1) [] fun x s =>
    let k := ((s.site.ents.map (·.1)).head?).getD 0
    if !sameOut x k then .next (s.siteMalformed w) else .next ((s.consume w).pass w x k .both id)

/-- GATE (R140): port p decides; it requires rule 2 and reads p itself. A closed gate consumes the set whatever the data
ports hold (R96). Only a's lane count is compared with the out channel's, though b is emitted too (DESIGN CHOICE, log 101:
R139 speaks of a, R68 of all operands). -/
def execGate (w : Slot) (s : State) : Out :=
  s.gated w (isAnyElem s.site.a && formOk w [1, 2] fnZero 1 && w.fire == 2) true fun s =>
    let p := (((s.site.fed 3).map (·.1)).getD 0) != 0
    if s.site.poisonAt 3 then s.sitePoison
    else if p == (w.flagsN == 1) then .next (s.consume w)
    else s.poisonRule w [] fun s =>
      let x := s.fin w
      if !sameOut x 0 then .next (s.siteMalformed w)
      else
        let t := (s.consume w).pass w x 0 .d0 id
        .next (if w.arityN == 2 then t.pass w x 1 .d1 id else t)

/-- FORK (R140). Only a's lane count is compared with the out channel's, as at GATE (DESIGN CHOICE, log 101). -/
def execFork (w : Slot) (s : State) : Out :=
  s.flow w (isAnyElem s.site.a && formOk w [2] fnZero 0 && w.fire == 0) [] fun x s =>
    if !sameOut x 0 then .next (s.siteMalformed w)
    else .next (((s.consume w).pass w x 0 .d0 id).pass w x 1 .d1 id)

/-- SINK (R140): consumes the set and emits nothing, poison included. -/
def execSink (w : Slot) (s : State) : Out :=
  s.gated w (isAnyElem s.site.a && formOk w [1, 2, 3] fnZero 0) false fun s =>
    .next (if s.site.firstPoison.isNone && !sameOut (s.fin w) 0 then s.siteMalformed w else s.consume w)

/-- CONST (R140): the plane widened into the out channel's format. Its a is only a trigger, whose lane count is not compared: the
description gives the result's lanes (DESIGN CHOICE, log 101). -/
def execConst (w : Slot) (s : State) : Out :=
  s.flow w (isAnyElem s.site.a && formOk w [1] (fun n => n ≤ 1) 1) [] fun x s =>
    let p := (constOpnd x.out.fmt x.out w.signed w.const).passBits x.out
    let s := (s.consume w).setCauses (s.coreOf s.site.r s.site.a) p.2
    .next (s.emit w .both (bndKind w (s.out w (BitVec.ofNat 64 p.1))))

/-- NOP (R159): a is passed on; b and c are consumed and not read. -/
def execNop (w : Slot) (s : State) : Out :=
  s.flow w (isAnyElem s.site.a && formOk w [1, 2, 3] fnZero 1) [] fun x s => s.passA w x (bndKind w)

/-! ## Tags (R141 to R144) -/

/-- TAGGET (R141). -/
def execTagget (w : Slot) (s : State) : Out :=
  s.flow w (isAnyElem s.site.a && formOk w [1] fnZero 0) [] fun x s =>
    if x.out.fmt != .i64 && x.out.fmt != .raw then .next (s.siteMalformed w)
    else
      let p := s.site.seq.toNat * 2 ^ 24 + s.site.tag.toNat
      .next ((s.consume w).emit w .both (s.out w (BitVec.ofNat 64 p)))

/-- TAGSET (R141). -/
def execTagset (w : Slot) (s : State) : Out :=
  s.flow w (isAnyElem s.site.a && formOk w [2] (fun n => n ≤ 1) 0) [1] fun x s =>
    let b := payOf x 1
    if b / 2 ^ 28 != 0 || !sameOut x 0 then .next (s.siteMalformed w)
    else if !ctxBound (s.region s.site.r) (bitsOf b 23 16) then
      .next ((s.consume w).siteFault fcTagOverflow 0 0)
    else
      .next ((s.consume w).pass w x 0 .both fun e =>
        { e with tag := BitVec.ofNat 24 b, seq := if w.fnN == 1 then BitVec.ofNat 4 (b / 2 ^ 24) else e.seq })

/-- SEQSET (R142). -/
def execSeqset (w : Slot) (s : State) : Out :=
  s.flow w (isAnyElem s.site.a && formOk w [2] fnZero 0) [1] fun x s =>
    let b := payOf x 1
    if b / 16 != 0 || !sameOut x 0 then .next (s.siteMalformed w)
    else .next ((s.consume w).pass w x 0 .both fun e => { e with seq := BitVec.ofNat 4 b })

/-- Discard the tokens of a list with Malformed at element `a`, each with its token in the record (R144). -/
def State.discard (s : State) (r a : Nat) : List Token → State
  | [] => s
  | t :: l => (s.raiseTok r fcMalformed a noSlot t).discard r a l

/-- Free a context of a region (R143, R144): entries and spill records under it are discarded at every element. -/
def State.freeContext (s : State) (r c : Nat) : State :=
  let s := s.updRegion r fun x => freeOf x c
  (s.elems.filter fun p => p.1 / 65536 == r).foldl (fun s p =>
    let gone := (p.2.store ++ p.2.spill).filter fun m => m.tok.ctx.toNat == c
    let s := s.updElem r (p.1 % 65536) fun e =>
      { e with store := e.store.filter fun m => m.tok.ctx.toNat != c,
               spill := e.spill.filter fun m => m.tok.ctx.toNat != c }
    s.discard r (p.1 % 65536) (gone.map (·.tok))) s

/-- CTXALLOC (R143): where no context is free, and none is bound to the tag, the set waits. -/
def execCtxalloc (w : Slot) (s : State) : Out :=
  s.flow w (isAnyElem s.site.a && formOk w [1] fnZero 0) [] fun x s =>
    let g := s.site.tag
    let r := s.region s.site.r
    if !sameOut x 0 then .next (s.siteMalformed w)
    else if (childOf r g).isSome then s.passA w x id
    else match freeCtx r with
      | none => .next s
      | some k =>
        let c : Ctx := { bound := true, parent := BitVec.ofNat 8 (tagCtx g), iter := tagIter g, orphan := false }
        State.passA (s.updRegion s.site.r fun r => { r with ctxs := Sparse.put r.ctxs k c }) w x id

/-- CTXRET (R143): a goes to the parent tag, then the context becomes free; a destination with `.enter` finds it still bound (R100
updates every copy of the table before a firing emits; DESIGN CHOICE, log 121: R143's order is kept). Under a context whose parent
was freed it raises TagOverflow, as a tag operation does there (R144), the set is consumed and the context stays (DESIGN CHOICE,
log 121). -/
def execCtxret (w : Slot) (s : State) : Out :=
  s.flow w (isAnyElem s.site.a && formOk w [1] fnZero 0) [] fun x s =>
    let c := tagCtx s.site.tag
    if !sameOut x 0 then .next (s.siteMalformed w)
    else match parentTag (s.region s.site.r) c with
      | none => .next ((s.consume w).siteFault fcTagOverflow 0 0)
      | some p => .next (((s.consume w).pass w x 0 .both fun e => { e with tag := p }).freeContext s.site.r c)

/-- CTXFREE (R143). -/
def execCtxfree (w : Slot) (s : State) : Out :=
  s.flow w (isAnyElem s.site.a && formOk w [1] fnZero 0) [0] fun x s =>
    let k := payOf x 0
    if !sameOut x 0 || 256 ≤ k || k == 0 || !ctxBound (s.region s.site.r) k then .next (s.siteMalformed w)
    else .next (((s.consume w).freeContext s.site.r k).pass w x 0 .both id)

/-! ## The element's own state (R156) -/

/-- CHBIND (R156): channel entry fn of the active configuration; a whole rewrite clears an uncorrectable error of it (R110). -/
def execChbind (w : Slot) (s : State) : Out :=
  s.flow w (isComputeElem s.site.a && formOk w [1] (fun _ => true) 0) [0] fun x s =>
    let v := payOf x 0
    if !sameOut x 0 || 2 ^ 32 ≤ v || (Chan.ofBits? v).isNone then .next (s.siteMalformed w)
    else
      let old := (Sparse.atD (s.elem s.site.r s.site.a).bank.chans w.fnN 0).toNat
      let t := (s.consume w).updElem s.site.r s.site.a fun e =>
        e.updBank fun b => { b with chans := Sparse.put b.chans w.fnN (BitVec.ofNat 32 v), badChans := b.badChans.filter (· != w.fnN) }
      .next (t.emit w .both (s.out w (BitVec.ofNat 64 old)))

/-- SCLSET (R156): scale register fn[3:0]. -/
def execSclset (w : Slot) (s : State) : Out :=
  s.flow w (isComputeElem s.site.a && formOk w [1] (fun n => n < 16) 0) [0] fun x s =>
    let v := payOf x 0
    if !sameOut x 0 || 2 ^ 32 ≤ v then .next (s.siteMalformed w)
    else
      let old := (s.unit s.site.r s.site.a).sc w.fnN
      let t := (s.consume w).updUnit s.site.r s.site.a fun u =>
        { u with scale := Sparse.put u.scale w.fnN (BitVec.ofNat 32 v) }
      .next (t.emit w .both (s.out w (BitVec.ofNat 64 old)))

end Sys2Proof.Machine
end

