-- ==== Sys2Proof/Machine/MemElem.lean ====
section
/-! DEFINITION. Memory-element instructions (R183 to R204): what each firing checks and queues, and the stream and fibre
contexts it opens. The requests are performed by the step MEMORY_REQUEST_ISSUE (MemIssue.lean). -/
namespace Sys2Proof.Machine

/-! ## The frame -/

/-- A base register of the firing's element (R185), as it stands at the issue. -/
def State.mbOf (s : State) (r a k : Nat) : Nat := (Sparse.atD (s.unit r a).mb k 0).toNat

/-- Base register number in a constants plane. -/
def planeBase (w : Slot) : Nat := w.const.toNat % 8

/-- The kind of the token or latch on port a (R93): 0 where a plane or the iteration feeds it. -/
def Site.kindA (x : Site) : Nat := ((x.entry 0).map fun m => m.tok.kind.toNat).getD 0

/-- Whether the request queue is full (R167). -/
def State.queueFullAt (s : State) (r a : Nat) : Bool := decide (64 ≤ (s.elem r a).queue.length)

/-- The frame of the instructions of the chapter: form (R183), gate, reserved constants bits, poison on any port (R189),
the kinds that port a accepts (R187), then the effect. A full queue holds the firing back (R167). -/
def State.memFire (s : State) (w : Slot) (ok : Bool) (constOk : Bool) (kinds : List Nat) (k : FireIn → State → Out) : Out :=
  s.gated w (isMemElem s.site.a && ok) false fun s =>
    if !constOk then .next (s.siteMalformed w)
    else if s.site.firstPoison.isSome then s.sitePoison
    else if !kinds.contains s.site.kindA then .next (s.siteMalformed w)
    else if s.queueFullAt s.site.r s.site.a then .next s
    else k (s.fin w) s

/-- A request of the firing (R167, R186). -/
def State.mkReq (s : State) (w : Slot) (op : MemOp) (off size : Nat) (typed : Bool) (order : Nat) (dst : ReplyTo) : MemReq :=
  { slot := s.site.slot, tag := s.site.tag, seq := s.site.seq, last := s.site.last, op := op,
    base := s.mbOf s.site.r s.site.a (planeBase w), off := off, size := size, typed := typed, order := order,
    scope := w.flagsN, dst := dst, parked := false, sent := false, id := (s.elem s.site.r s.site.a).stamp, past := s.site.past }

/-- Queue a request; behind a parked one of its stream it is parked too (R169). -/
def State.queueReq (s : State) (q : MemReq) : State :=
  s.updElem s.site.r s.site.a fun e =>
    { e with queue := e.queue ++ [{ q with parked := e.queue.any fun y => y.parked && y.slot == q.slot }], stamp := e.stamp + 1 }

/-- Consume the set and queue a request. -/
def State.issueReq (s : State) (w : Slot) (q : MemReq) : Out := .next ((s.consume w).queueReq q)

/-- Port a of LD and ST (R187, R40): the offset and where the reply goes, or none where the token is Malformed. -/
def State.addrPort (s : State) (w : Slot) (x : FireIn) : Option (Nat × ReplyTo) :=
  let p := payOf x 0
  if s.site.kindA == 2 then
    let ch := ((s.site.entry 0).map fun m => m.tok.chan).getD 0
    if contOk (s.region s.site.r).cores.length p then
      some (p % 2 ^ 41, .cont (BitVec.ofNat 16 (bitsOf p 63 48)) (BitVec.ofNat 5 (bitsOf p 47 43)) (BitVec.ofNat 2 (bitsOf p 42 41)) ch)
    else none
  else if 2 ^ 41 ≤ p then none else some (p, slotTo w)

/-- Fields of the access fn (R184). -/
def fnSize (w : Slot) : Nat := 2 ^ (w.fnN % 4)
def fnOrder (w : Slot) : Nat := w.fnN / 4 % 4
def fnTyped (w : Slot) : Bool := bitOf w.fnN 4

/-- Form of the instructions with an access fn and a scope (R183). -/
def accessForm (w : Slot) (arity : Nat) : Bool := formOk w [arity] (fun _ => true) 5

/-! ## Loads, stores and lane-wise access (R190 to R192) -/

/-- LD (R190). -/
def execElemLd (w : Slot) (s : State) : Out :=
  s.memFire w (accessForm w 1) (decide (w.const.toNat < 8)) [0, 2, 3] fun x s =>
    match s.addrPort w x with
    | none => .next (s.siteMalformed w)
    | some (off, dst) => s.issueReq w (s.mkReq w .ld off (fnSize w) (fnTyped w) (fnOrder w) dst)

/-- ST (R191). -/
def execElemSt (w : Slot) (s : State) : Out :=
  s.memFire w (accessForm w 2) (decide (w.const.toNat < 8)) [0, 2, 3] fun x s =>
    match s.addrPort w x with
    | none => .next (s.siteMalformed w)
    | some (off, dst) =>
      s.issueReq w (s.mkReq w (.st (BitVec.ofNat 64 (payOf x 1))) off (fnSize w) (fnTyped w) (fnOrder w) dst)

/-- Whether port a is an index token of GATHER or SCATTER (R192). -/
def indexOk (w : Slot) (x : FireIn) : Bool :=
  (x.op 0).fmt.cls == .int && (x.op 0).fmt.lanes * fnSize w ≤ 8

/-- GATHER (R192). -/
def execGather (w : Slot) (s : State) : Out :=
  s.memFire w (accessForm w 1) (decide (w.const.toNat < 8)) [0, 3] fun x s =>
    if !indexOk w x then .next (s.siteMalformed w)
    else
      let f := (x.op 0).fmt
      s.issueReq w (s.mkReq w (.gather f.lanes f.width (BitVec.ofNat 64 (payOf x 0))) 0 (fnSize w) (fnTyped w) (fnOrder w) (slotTo w))

/-- SCATTER (R192). -/
def execScatter (w : Slot) (s : State) : Out :=
  s.memFire w (accessForm w 2) (decide (w.const.toNat < 8)) [0, 3] fun x s =>
    if !indexOk w x then .next (s.siteMalformed w)
    else
      let f := (x.op 0).fmt
      s.issueReq w (s.mkReq w (.scatter f.lanes f.width (BitVec.ofNat 64 (payOf x 0)) (BitVec.ofNat 64 (payOf x 1))) 0 (fnSize w)
        (fnTyped w) (fnOrder w) (slotTo w))

/-! ## Atomics, reductions and fences (R193 to R195) -/

/-- Size of ATOM and RED (R183). -/
def fnWide (w : Slot) : Nat := if bitOf w.fnN 0 then 8 else 4

/-- ATOM (R193): acquire-release. -/
def execAtom (w : Slot) (s : State) : Out :=
  let op := w.fnN / 2
  s.memFire w (op ≤ 9 && formOk w [if op == 9 then 3 else 2] (fun _ => true) 5) (decide (w.const.toNat < 8)) [0, 3] fun x s =>
    let p := payOf x 0
    if 2 ^ 41 ≤ p then .next (s.siteMalformed w)
    else s.issueReq w (s.mkReq w (.atom op (BitVec.ofNat 64 (payOf x 1)) (BitVec.ofNat 64 (if op == 9 then payOf x 2 else 0))) p
      (fnWide w) false 3 (slotTo w))

/-- The code of a format (R46). -/
def fmtCode (f : Fmt) : Nat :=
  match f with
  | .i64 => 0 | .i32 => 1 | .i16 => 2 | .i8 => 3 | .fp32 => 4 | .bf16 => 5 | .fp16 => 6 | .e4m3 => 7 | .e5m2 => 8
  | .e2m1 => 9 | .raw => 10

/-- Whether a format fits a contribution of `n` bytes (R194). -/
def redFmtOk (f : Fmt) (fadd : Bool) (n : Nat) : Bool :=
  (if fadd then f == .fp32 || f == .bf16 else f.cls == .int) && f.width ≤ 8 * n

/-- RED (R194): release order. -/
def execRed (w : Slot) (s : State) : Out :=
  let fadd := !bitOf w.fnN 1
  s.memFire w (formOk w [3] (fun n => n < 4) 5) (decide (w.const.toNat < 2 ^ 19)) [0, 3] fun x s =>
    let p := payOf x 0
    let c := payOf x 2
    if 2 ^ 41 ≤ p || 2 ^ 16 ≤ c || !redFmtOk (x.op 1).fmt fadd (fnWide w) then .next (s.siteMalformed w)
    else s.issueReq w (s.mkReq w (.red c (bitsOf w.const.toNat 18 3 + 1) fadd (fmtCode (x.op 1).fmt) (BitVec.ofNat 64 (payOf x 1))) p
      (fnWide w) false 2 (slotTo w))

/-- FENCE (R195). Its a is neither an address nor data (R189): kind 7 on it is Malformed, as every kind but 0 and 3 (R187). -/
def execElemFence (w : Slot) (s : State) : Out :=
  s.memFire w (formOk w [1] (fun n => n % 4 == 0 && 4 ≤ n && n < 16) 5) (w.const == 0 && s.site.kindA != 7) [0, 3] fun x s =>
    if !sameOut x 0 then .next (s.siteMalformed w)
    else s.issueReq w (s.mkReq w (.fence (BitVec.ofNat 64 (payOf x 0))) 0 1 false (fnOrder w) (slotTo w))

/-! ## Apertures (R196) -/

/-- The target aperture (0 die HBM, 1 commons, 2 pod-remote) of a translated address: none for an unmapped page. -/
def State.pageTarget (s : State) (w : Who) (va : Nat) : Option Nat :=
  match s.leafOf (dieOfCluster w.cluster) w.vd va with
  | .leaf e _ => some (bitsOf e 63 62)
  | .fault _ => none

/-- APTEST's answer for party `w` with core index `own` in its cluster. -/
def State.apTest (s : State) (w : Who) (own t a : Nat) : Bool :=
  let top := bitsOf a 63 56
  let fc := top == 0xFC && bitsOf a 55 21 == 0 && w.core.isSome
  let fd := top == 0xFD && bitsOf a 55 29 == 0 && bitsOf a 23 21 == 0 && bitsOf a 28 24 < 24
  match t with
  | 0 => fc || (fd && bitsOf a 28 24 == own && w.core.isSome)
  | 1 => fc || fd
  | _ => top == 0 && s.pageTarget w (bitsOf a 55 0) == some (t - 2)

/-- APCVT's result: the form of `a` in aperture `t`, or 0. -/
def State.apConvert (s : State) (w : Who) (own t a : Nat) : Nat :=
  let top := bitsOf a 63 56
  if !s.apTest w own t a then 0
  else match t with
    | 0 => if top == 0xFC then a else 0xFC * 2 ^ 56 + bitsOf a 20 0
    | 1 => if top == 0xFD then a else 0xFD * 2 ^ 56 + own * 2 ^ 24 + bitsOf a 20 0
    | _ => a

/-- The index of the firing's core within its cluster. -/
def State.siteCore (s : State) : Nat := s.coreOf s.site.r s.site.a % 24

/-- APCVT (R196): `.mb` writes the result into a base register when it issues. -/
def execElemApcvt (w : Slot) (s : State) : Out :=
  s.memFire w (formOk w [1] (fun n => n ≤ 4) 1) (if w.flagsN == 1 then decide (w.const.toNat < 8) else w.const == 0) [0, 3] fun x s =>
    let v := s.apConvert (s.whoElem s.site.r s.site.a) s.siteCore (w.fnN % 8) (payOf x 0)
    let t := (s.draw.consume w).emit w .both (s.out w (BitVec.ofNat 64 v))
    .next (if w.flagsN == 1 then
        t.updUnit s.site.r s.site.a fun u => { u with mb := Sparse.put u.mb (planeBase w) (BitVec.ofNat 64 v) }
      else t)

/-- APTEST (R196). -/
def execElemAptest (w : Slot) (s : State) : Out :=
  s.memFire w (formOk w [1] (fun n => n ≤ 4) 0) (w.const == 0) [0, 3] fun x s =>
    let v := s.apTest (s.whoElem s.site.r s.site.a) s.siteCore (w.fnN % 8) (payOf x 0)
    .next ((s.draw.consume w).emit w .both (s.out w (if v then 1 else 0)))

/-! ## Streams and fibres (R197 to R201) -/

/-- The lowest free context of an element (R198). -/
def freeStream (e : ElemState) : Option Nat := (List.range 4).find? fun i => (Sparse.entry? e.ctxs i).isNone

/-- A context of the firing, not open yet. -/
def State.newCtx (s : State) (w : Slot) (kind : CtxKind) : StreamCtx :=
  { kind := kind, slot := s.site.slot, tag := s.site.tag, seq := s.site.seq, dst := slotTo w, base := planeBase w,
    id := (s.elem s.site.r s.site.a).stamp, past := s.site.past }

/-- The operand set as entries, to be put back where a descriptor is poisoned (R197): a latch as a latch-pending entry. -/
def Site.back (x : Site) : List MsEntry :=
  x.ents.map (·.2) ++ x.lats.map fun l => { tok := latchTok x.a x.slot l.1 l.2, stamp := l.2.order, pend := true, past := l.2.past }

/-- Reserve a context and queue the read of its descriptor. -/
def State.openCtx (s : State) (w : Slot) (c : StreamCtx) (off : Nat) (op : Nat → MemOp) : Out :=
  match freeStream (s.elem s.site.r s.site.a) with
  | none => .next s
  | some i =>
    let q := s.mkReq w (op i) off 64 false 0 (slotTo w)
    .next (((s.consume { w with arity := 1 }).updElem s.site.r s.site.a fun e => { e with ctxs := Sparse.put e.ctxs i c }).queueReq q)

/-- AGSTREAM (R197, R198): the set is port a's alone; the entries of a store stream's port b are taken by
STORE_STREAM_DATA. -/
def execAgstream (w : Slot) (s : State) : Out :=
  s.memFire w (formOk w [1, 2] fnZero 0) (decide (w.const.toNat < 8)) [0, 3] fun x s =>
    let p := payOf x 0
    let st := w.arityN == 2
    if 2 ^ 41 ≤ p then .next (s.siteMalformed w)
    else s.openCtx w (s.newCtx w (if st then .store else .load)) p fun i => .agOpen i st s.site.back

/-- FIB.OPEN (R199). -/
def execFibOpen (w : Slot) (s : State) : Out :=
  s.memFire w (formOk w [1] (fun n => n ≤ 1) 0) true [0, 3] fun x s =>
    let p := payOf x 0
    let dem := w.fnN == 0
    if 2 ^ 32 ≤ p then .next (s.siteMalformed w)
    else s.openCtx w (s.newCtx w (if dem then .fibDemand else .fibRun)) (bitsOf w.const.toNat 31 3 * 64)
      fun i => .fibOpen i dem p s.site.back

/-- The open fibre that a names (R200). -/
def State.fibreOf (s : State) (a : Nat) : Option StreamCtx :=
  match Sparse.entry? (s.elem s.site.r s.site.a).ctxs (a % 4) with
  | some c => if c.begun && !c.closing && (c.kind == .fibRun || c.kind == .fibDemand) then some c else none
  | none => none

/-- FIB.ADV (R200). -/
def execFibAdv (w : Slot) (s : State) : Out :=
  s.memFire w (formOk w [1] fnZero 0) (w.const == 0) [0, 3] fun x s =>
    let p := payOf x 0
    match s.fibreOf p with
    | some c => if c.kind != .fibDemand || bitsOf p 31 2 != 0 then .next (s.siteMalformed w)
                else s.issueReq w (s.mkReq w (.fibAdv (p % 4) (bitsOf p 63 32)) 0 4 false 0 (slotTo w))
    | none => .next (s.siteMalformed w)

/-- FIB.END (R200). -/
def execFibEnd (w : Slot) (s : State) : Out :=
  s.memFire w (formOk w [1] fnZero 0) (w.const == 0) [0, 3] fun x s =>
    let p := payOf x 0
    match s.fibreOf p with
    | some c => if c.kind != .fibDemand || bitsOf p 63 2 != 0 then .next (s.siteMalformed w)
                else s.issueReq w (s.mkReq w (.fibEnd (p % 4)) 0 4 false 0 (slotTo w))
    | none => .next (s.siteMalformed w)

/-- Whether nothing of context `i` is under way in an element. -/
def ctxQuiet (e : ElemState) (i : Nat) : Bool :=
  !(e.replies.any fun y => y.stream == 32 + i) && !(e.queue.any fun q => match q.op with
    | .fibAdv x _ => x == i
    | .fibEnd x => x == i
    | _ => false)

/-- Free a context whose work has ended: a stream after its last element, a fibre once FIB.CLOSE waits for it, which then
emits the number of entries (R198, R200). -/
def State.settleCtx (s : State) (r a i : Nat) : State :=
  match Sparse.entry? (s.elem r a).ctxs i with
  | none => s
  | some c =>
    let e := s.elem r a
    let drop := fun (s : State) => s.updElem r a fun e => { e with ctxs := Sparse.del e.ctxs i }
    if !c.begun || !ctxQuiet e i then s
    else match c.kind with
      | .load | .store => if c.next == c.stop then drop s else s
      | .shelf => s
      | _ =>
        if !c.closing || (c.kind == .fibRun && c.next != c.stop) then s
        else match c.closeTo with
          | some (dst, g, q, l) =>
            (drop s).sendOut r a c.slot { dst := dst, which := 2, tag := g, seq := q, last := l,
                                          pay := BitVec.ofNat 64 c.emitted, poison := false } (s.pastOf (s.streamAgent r a (32 + i)) c.past)
          | none => drop s

/-- FIB.CLOSE (R200). -/
def execFibClose (w : Slot) (s : State) : Out :=
  s.memFire w (formOk w [1] fnZero 0) (w.const == 0) [0, 3] fun x s =>
    let p := payOf x 0
    match s.fibreOf p with
    | some c =>
      if bitsOf p 63 2 != 0 then .next (s.siteMalformed w)
      else
        let c := { c with closing := true, closeTo := some (slotTo w, s.site.tag, s.site.seq, s.site.last) }
        .next (((s.consume w).updElem s.site.r s.site.a fun e => { e with ctxs := Sparse.put e.ctxs (p % 4) c }).settleCtx
          s.site.r s.site.a (p % 4))
    | none => .next (s.siteMalformed w)

/-! ## Tiles and prefetch (R202, R203) -/

/-- MLDT (R202). -/
def execMldt (w : Slot) (s : State) : Out :=
  let k := w.const.toNat
  let n := bitsOf k 8 3 + 1
  let sw := w.fnN == 1
  s.memFire w (formOk w [2] (fun n => n ≤ 1) 0) (decide (k < 2 ^ 25)) [0, 3] fun x s =>
    let p := payOf x 0
    let b := payOf x 1
    if 2 ^ 41 ≤ p || 2 ^ 32 ≤ b || (sw && (n < 8 || 2 ^ Nat.log2 n != n)) then .next (s.siteMalformed w)
    else s.issueReq w (s.mkReq w (.mldt sw (16 * n) (16 * bitsOf k 24 9) (BitVec.ofNat 32 b)) p 1 false 0 (slotTo w))

/-- PREF (R203): it changes no memory contents and has no order; a is emitted at the issue. -/
def execPref (w : Slot) (s : State) : Out :=
  s.memFire w (formOk w [1] fnZero 0) (decide (w.const.toNat < 2 ^ 19)) [0, 3] fun x s =>
    if 2 ^ 41 ≤ payOf x 0 || !sameOut x 0 then .next (s.siteMalformed w) else .next ((s.consume w).pass w x 0 .both id)

end Sys2Proof.Machine
end

