-- ==== Sys2Proof/Machine/MemIssue.lean ====
section
/-! DEFINITION. The requests of memory elements (R166 to R171, R186 to R202): when one may issue, what it performs, the
park of a faulting stream, replies, the elements of streams and fibres, and reductions at their home slice (R194). -/
namespace Sys2Proof.Machine

/-! ## Whether a region may act (R32, R270, R333) -/

/-- A region that is placed and running, active on its cores, not stopped and not throttled. -/
def State.regionGoes (s : State) (r : Nat) : Bool :=
  let x := s.region r
  x.live && x.status == .running && x.activeNow && !x.dbgStop && !x.throttled

/-! ## The order of requests (R168, R188, R195) -/

/-- Acquire and release of a request. -/
def MemReq.acq (q : MemReq) : Bool := q.order % 2 == 1
def MemReq.rel (q : MemReq) : Bool := 2 ≤ q.order
/-- Whether a request is a fence. -/
def MemReq.isFence (q : MemReq) : Bool :=
  match q.op with
  | .fence _ => true
  | _ => false
/-- Whether a request is a RED. -/
def MemReq.isRed (q : MemReq) : Bool :=
  match q.op with
  | .red _ _ _ _ _ => true
  | _ => false

/-- The offsets that a request accesses, with their sizes. -/
def MemReq.spans (q : MemReq) : List (Nat × Nat) :=
  match q.op with
  | .gather l w i => (List.range l).map fun k => (i.toNat / 2 ^ (w * k) % 2 ^ w * q.size, q.size)
  | .scatter l w i _ => (List.range l).map fun k => (i.toNat / 2 ^ (w * k) % 2 ^ w * q.size, q.size)
  | .fence _ => []
  | .mldt _ n p _ => (List.range 32).map fun k => (q.off + k * p, n)
  | .fibAdv _ _ | .fibEnd _ => []
  | _ => [(q.off, q.size)]

/-- Whether a request loads: its reply waits for what it reads (R195). -/
def MemReq.isLoad (q : MemReq) : Bool :=
  match q.op with
  | .st _ | .scatter _ _ _ _ | .red _ _ _ _ _ | .fence _ => false
  | _ => true

/-- A byte range of an access: by the address itself and by the physical place that it resolves to. -/
def State.rangeAt (s : State) (r a : Nat) (typed : Bool) (b off n : Nat) : List (Nat × Nat) :=
  let v := (2 ^ 80 + (if typed then 2 ^ 70 else 0) + eaOf b off, n)
  match s.effAddr r a typed b off n 1 .rd with
  | .ok x _ => [v, (x, n)]
  | .fault _ => [v]

/-- The offsets of the entries that FIB.ADV with target `t` reads, from position `p` on; `n` bounds them. -/
def State.fibScan (s : State) (r a : Nat) (c : StreamCtx) (t : Nat) : Nat → Nat → List (Nat × Nat)
  | 0, _ => []
  | n + 1, p =>
    let now := [(c.coord + 4 * p, 4), (c.val + c.vsize * p, c.vsize)]
    match s.effAddr r a false (s.mbOf r a c.base) (c.coord + 4 * p) 4 4 .rd with
    | .fault _ => now
    | .ok x _ => if t ≤ s.regRead r x 4 then now else now ++ s.fibScan r a c t n (p + 1)

/-- The byte ranges of a request: those of its own offsets; MLDT's destination; the entries that FIB.ADV reads, and the pointers that
FIB.OPEN reads. FIB.ADV and FIB.END of one fibre meet in it (R206). -/
def State.rangesOf (s : State) (r a : Nat) (q : MemReq) : List (Nat × Nat) :=
  q.spans.flatMap (fun p => s.rangeAt r a q.typed q.base p.1 p.2) ++
    match q.op with
    | .mldt _ n _ d => s.rangeAt r a true d.toNat 0 (32 * n)
    | .fibAdv x t => (match Sparse.entry? (s.elem r a).ctxs x with
      | some c => (2 ^ 90 + x, 1) :: (s.fibScan r a c t (c.stop - c.next) c.next).flatMap fun p =>
          s.rangeAt r a false (s.mbOf r a c.base) p.1 p.2
      | none => [])
    | .fibEnd x => [(2 ^ 90 + x, 1)]
    | .fibOpen _ _ row _ => (match s.effAddr r a false q.base q.off 64 64 .rd with
      | .ok x _ =>
        let n := 2 ^ (s.regRead r (x + 25) 1 % 4)
        s.rangeAt r a false q.base (s.regRead r x 8 + n * row) (2 * n)
      | .fault _ => [])
    | _ => []

/-- Whether two lists of byte ranges have a byte in common. -/
def meet (x y : List (Nat × Nat)) : Bool := x.any fun p => y.any fun q => overlap p q

/-- Whether two requests have a location in common (R168). -/
def State.sameLocation (s : State) (r a : Nat) (x y : MemReq) : Bool := meet (s.rangesOf r a x) (s.rangesOf r a y)

/-- The offset of element `j` of a stream. -/
def streamOff (c : StreamCtx) (j : Nat) : Int :=
  let step := fun (q : Int × Nat) (d : Nat × Int) => (q.1 + (q.2 % d.1 : Nat) * d.2, q.2 / d.1)
  ((c.counts.zip c.strides).foldl step ((c.start : Int), j)).1

/-- The request of an element of a stream, for the form of its reply. -/
def ctxReq (c : StreamCtx) (tag : BitVec 24) (last : Bool) : MemReq :=
  { slot := c.slot, tag := tag, seq := c.seq, last := last, op := .ld, base := 0, off := 0, size := c.size, typed := c.typed,
    order := 0, scope := 0, dst := c.dst, parked := false, sent := false, id := 0 }

/-- The byte ranges of the next element of a stream or fibre. -/
def State.headRanges (s : State) (r a : Nat) (c : StreamCtx) : List (Nat × Nat) :=
  let at1 := fun (off n : Nat) => s.rangesOf r a { ctxReq c c.tag false with base := s.mbOf r a c.base, off := off, size := n }
  match c.kind with
  | .load | .store => if streamOff c c.next < 0 then [] else at1 (streamOff c c.next).toNat c.size
  | .fibRun | .fibDemand => at1 (c.coord + 4 * c.next) 4 ++ at1 (c.val + c.vsize * c.next) c.vsize
  | .shelf => []

/-- Whether a request has issued: it is parked or waits for its retry, is under way to its home, or has begun to move. -/
def MemReq.issued (q : MemReq) : Bool := q.first != 0 || q.sent || q.left.isSome

/-- Whether a request comes before the next element of a stream of its element (R168): its firing came before the stream's, or it
has issued where the element has not; of two that have issued, the first. -/
def MemReq.before (q : MemReq) (c : StreamCtx) : Bool :=
  decide (q.id < c.id) || (if c.first == 0 then q.issued else q.first != 0 && decide (q.first < c.first))

/-- Whether the element of a stream has issued, is parked or waits for its retry, and comes before a request. -/
def StreamCtx.before (c : StreamCtx) (q : MemReq) : Bool := c.first != 0 && !q.before c

/-- A RED that waits for the acknowledgement of a reduction window (R372). -/
def State.isRetained (s : State) (r a id : Nat) : Bool :=
  s.retained.any fun t => t.msg.r == r && t.msg.elem == a && t.msg.id == id

/-- Whether a replayed head, of order number `n`, comes before every other replayed head of its element (R330). -/
def retryFirst (e : ElemState) (n : Nat) : Bool :=
  n == 0 || (e.queue.all (fun y => y.parked || y.first == 0 || n ≤ y.first) &&
    e.ctxs.all fun c => c.2.parked || c.2.first == 0 || n ≤ c.2.first)

/-- Whether request `k` of an element's queue may issue now: after the earlier ones of its slot and to its location, after
acquires and fences, and, a release or a fence, after everything that R188 and R195 name. The element of a stream that has parked
counts as issued and not performed, until its retry succeeds. -/
def State.mayIssue (s : State) (r a k : Nat) : Bool :=
  let e := s.elem r a
  match e.queue[k]? with
  | none => false
  | some q =>
    let pend := (e.queue.take k).filter fun y => !(q.isRed && y.sent && s.isRetained r a y.id)
    let park := (e.ctxs.map (·.2)).filter fun c => c.before q
    !q.parked && !q.sent && retryFirst e q.first &&
      !(pend.any fun y => y.slot == q.slot || y.acq || y.isFence || s.sameLocation r a y q) &&
      !(park.any fun c => meet (s.headRanges r a c) (s.rangesOf r a q)) &&
      (!q.rel || (pend.isEmpty && park.isEmpty)) &&
      (!(q.isFence && q.acq) || (e.replies.isEmpty && park.isEmpty && !(pend.any fun y => y.parked || y.isLoad)))

/-- Whether the next element of a stream may issue beside the acquires and fences of its element: none is pending, but those that its
head, once issued, comes before. -/
def mayStream (e : ElemState) (c : StreamCtx) : Bool := !(e.queue.any fun q => (q.acq || q.isFence) && (c.first == 0 || q.before c))

/-- Whether the next element of context `x` may issue now: the context is open and not parked, no acquire or fence holds it, and no
request or element of another stream that comes before it to its location is unperformed (R168, R328). -/
def State.mayStep (s : State) (r a x : Nat) (c : StreamCtx) : Bool :=
  let e := s.elem r a
  c.begun && !c.parked && decide (c.next < c.stop) && mayStream e c && retryFirst e c.first &&
    !(e.queue.any fun q => q.before c && !(q.sent && s.isRetained r a q.id) && meet (s.rangesOf r a q) (s.headRanges r a c)) &&
    !(e.ctxs.any fun d => d.1 != x && d.2.first != 0 && (c.first == 0 || decide (d.2.first < c.first)) &&
      meet (s.headRanges r a d.2) (s.headRanges r a c))

/-! ## Performing -/

/-- What performing a request gives: it waits, it faults (code and effective address), it is done with the tokens of its
reply, it is under way to its home, or a piece of it has been moved (R386). -/
inductive Perf where
  | stall
  | fault (code info : Nat)
  | done (s : State) (outs : List OutTok)
  | sent (s : State)
  | part (s : State) (left hits bad : List Nat)

/-- Resolve an access of an element: the place, or the outcome that stops it. -/
def State.place (s : State) (r a : Nat) (typed : Bool) (b off n al : Nat) (k : Kind) (f : Nat → Nat → Perf) : Perf :=
  match s.effAddr r a typed b off n al k with
  | .fault c => .fault c (eaOf b off)
  | .ok p t => if s.blocked (s.region r).vd p n || (!typed && s.divertWait (s.region r).vd (eaOf b off)) then .stall else f p t

/-- Read `n` bytes at a place for a region: the value, or the payload of poison (R179, R311, R367). -/
def State.readAt (s : State) (r p n : Nat) : Nat ⊕ Word :=
  if s.reach (s.region r).vd p == .dead || s.regMarked r p then .inr (poisonPayload p) else .inl (s.regRead r p n)

/-- The same for a load by agent `x`, which need not see every write yet (R385). -/
def State.loadAt (s : State) (x : Agent) (r p n : Nat) : Nat ⊕ Word :=
  match s.readAt r p n with
  | .inr w => .inr w
  | .inl _ => .inl (s.agentRead x r p n)

/-- What a load by agent `x`, of element `e`, leaves of its order: with acquire order the element learns what the value read releases,
and a later fence can ask which releases were read (R188, R195). -/
def State.loadOrder (s : State) (x e : Agent) (order sc p n : Nat) : State :=
  let s := s.noteRead x p n
  if order % 2 == 1 then s.acquireFrom e sc (s.seenSync x p n) else s

/-- Raise UncorrectableMemory where a read found poison in storage. -/
def State.noteUnc (s : State) (r a slot : Nat) (tag : BitVec 24) (p : Nat) : State :=
  if s.regMarked r p then s.unc r a slot tag p else s

/-- A store by agent `x` of a region at a place, at a scope, with the releases that it carries: memory, or the management aperture,
which takes it at once (R341). -/
def State.storeAt (s : State) (x : Agent) (r sc p n v : Nat) (rel : List Release := []) : Chk State :=
  if s.reach (s.region r).vd p == .dead then .error fcAccessFault
  else if isMgmt p then s.mgmtStore (s.region r).vd p n v
  else if isFarMgmt p then s.farStore p n
  else .ok (s.regWrite x sc r p n v rel)

/-- The payload of a store's completion token: 0 (R191); of the notify store of a launch queue that is deferred, what reports the
deferral (R265), a value that the spec leaves open (DESIGN CHOICE, log 109). -/
def State.storePay (s : State) (vd p n v : Nat) : Word :=
  let o := paOff p - Config.mgmtBase
  if isMgmt p && n == 8 && 0x20000 ≤ o && o < 0x24000 && o % 4096 == 0 && s.defers ((o - 0x20000) / 4096) vd (BitVec.ofNat 64 v) then
    Config.freeWord s.free
  else 0

/-- The agents of a request: its stream, and its element, for which it acquires and releases (R188). -/
def State.reqAgent (s : State) (r a : Nat) (q : MemReq) : Agent := s.streamAgent r a q.slot

/-- The releases of a request by its order (R188). -/
def State.reqRel (s : State) (r a : Nat) (q : MemReq) : List Release := s.releasesOf q.order (s.elemAgent r a) q.past q.scope

/-- LD (R190). `break addr` stops a typed access by its 32-bit typed address too: the spec gives it no typed form (DESIGN CHOICE, log 53). -/
def State.doLd (s : State) (r a : Nat) (q : MemReq) : Perf :=
  s.place r a q.typed q.base q.off q.size q.size .rd fun p _ =>
    let t := (s.fillTlb (s.whoElem r a) (BitVec.ofNat 64 (eaOf q.base q.off))).touched r a q.slot q.tag false (eaOf q.base q.off) q.size
    let x := s.reqAgent r a q
    match s.loadAt x r p q.size with
    | .inl v => .done (t.loadOrder x (s.elemAgent r a) q.order q.scope p q.size) [out1 q v false]
    | .inr w => .done (t.noteUnc r a q.slot q.tag p) [out1 q w.toNat true]

/-- ST (R191). -/
def State.doSt (s : State) (r a : Nat) (q : MemReq) (b : Word) : Perf :=
  s.place r a q.typed q.base q.off q.size q.size .wr fun p _ =>
    match s.storeAt (s.reqAgent r a q) r q.scope p q.size b.toNat (s.reqRel r a q) with
    | .error c => .fault c (eaOf q.base q.off)
    | .ok t => .done (t.touched r a q.slot q.tag true (eaOf q.base q.off) q.size)
        [out1 q (s.storePay (s.region r).vd p q.size b.toNat).toNat false]

/-- The places of lanes with their byte shifts, or the first outcome that stops one (R192). -/
def State.lanePlaces (s : State) (r a : Nat) (q : MemReq) (k : Kind) : List (Nat × Nat) → Perf ⊕ List Nat
  | [] => .inr []
  | (off, n) :: rest =>
    if 2 ^ 41 ≤ off then .inl (.fault fcAccessFault (eaOf q.base off))
    else match s.effAddr r a q.typed q.base off n n k with
      | .fault c => .inl (.fault c (eaOf q.base off))
      | .ok p _ => match s.lanePlaces r a q k rest with
        | .inl x => .inl x
        | .inr l => if s.blocked (s.region r).vd p n || (!q.typed && s.divertWait (s.region r).vd (eaOf q.base off)) then .inl .stall else .inr (p :: l)

/-- GATHER (R192). -/
def State.doGather (s : State) (r a : Nat) (q : MemReq) : Perf :=
  match s.lanePlaces r a q .rd q.spans with
  | .inl x => x
  | .inr ps =>
    let t := q.spans.foldl (fun t p => t.touched r a q.slot q.tag false (eaOf q.base p.1) p.2) s
    let bad := ps.find? fun p => match s.readAt r p q.size with
      | .inr _ => true
      | .inl _ => false
    match bad with
    | some p =>
      let t := (ps.map fun p => p / 64 * 64).eraseDups.foldl (fun t p => t.noteUnc r a q.slot q.tag p) t
      .done t [out1 q (poisonPayload p).toNat true]
    | none =>
      let x := s.reqAgent r a q
      .done (ps.foldl (fun t p => t.loadOrder x (s.elemAgent r a) q.order q.scope p q.size) t)
        [out1 q (ps.foldr (fun p v => s.agentRead x r p q.size + 256 ^ q.size * v) 0) false]

/-- Store the lanes of SCATTER in ascending order; a lane that faults is given by the number of lanes from it on. -/
def State.storeLanes (s : State) (x : Agent) (r sc n : Nat) (rel : List Release) : List Nat → Nat → State ⊕ (Nat × Nat)
  | [], _ => .inl s
  | p :: l, v => match s.storeAt x r sc p n v rel with
    | .error c => .inr (c, l.length + 1)
    | .ok t => t.storeLanes x r sc n rel l (v / 256 ^ n)

/-- SCATTER (R192). -/
def State.doScatter (s : State) (r a : Nat) (q : MemReq) (b : Word) : Perf :=
  match s.lanePlaces r a q .wr q.spans with
  | .inl x => x
  | .inr ps => match s.storeLanes (s.reqAgent r a q) r q.scope q.size (s.reqRel r a q) ps b.toNat with
    | .inr (c, n) => .fault c (eaOf q.base ((q.spans[ps.length - n]?).map (·.1) |>.getD 0))
    | .inl t => .done (q.spans.foldl (fun t p => t.touched r a q.slot q.tag true (eaOf q.base p.1) p.2) t) [out1 q 0 false]

/-- ATOM (R193). Of the three kinds of R314 it asks for write permission alone, since no rule names one for an access that reads and
writes (DESIGN CHOICE, log 121). It reads the newest value, acquires what that releases, and carries it on (R384). -/
def State.doAtom (s : State) (r a : Nat) (q : MemReq) (op : Nat) (b c : Word) : Perf :=
  s.place r a false q.base q.off q.size q.size .wr fun p _ =>
    let ea := eaOf q.base q.off
    if isMgmt p || isFarMgmt p || s.reach (s.region r).vd p == .dead then .fault fcAccessFault ea
    else
      let s := (s.irrevocable r).touched r a q.slot q.tag false ea q.size
      match s.readAt r p q.size with
      | .inr w => .done (s.noteUnc r a q.slot q.tag p) [out1 q w.toNat true]
      | .inl old =>
        let m := 256 ^ q.size
        let rel := s.carried p q.size
        let s := s.noteRead (s.reqAgent r a q) p q.size
        let put := fun v => s.storeBy (s.reqAgent r a q) q.scope p q.size v (s.reqRel r a q ++ rel)
        let t := if op == 9 then (if old == c.toNat % m then put (b.toNat % m) else s) else put (amoValue op q.size old b.toNat)
        .done ((t.acquireFrom (s.elemAgent r a) q.scope rel).touched r a q.slot q.tag true ea q.size) [out1 q old false]

/-- The slice that serves a RED (R194 item 7). -/
def redHome (p t : Nat) : Nat :=
  if t == 3 then clusterOfCore (paSpace p - 16)
  else if t == 0 then 2 * paSpace p + paOff p / 64 % 2
  else paOff p / 64 % 4

/-- The leaf of a translated address, for a RED: pod, package, die and offset of a target-2 page that permits the store
(R370, R372). -/
def State.farLeaf (s : State) (w : Who) (ea : Nat) : Option (Nat × Nat × Nat × Nat) :=
  if bitsOf ea 63 56 != 0 then none
  else match s.leafOf (dieOfCluster w.cluster) w.vd (bitsOf ea 55 0) with
    | .fault _ => none
    | .leaf e l =>
      if bitsOf e 63 62 == 2 && leafPermits e .wr w.user then
        some (bitsOf e 51 48, bitsOf e 61 54, bitsOf e 52 52, bitsOf e 47 12 * 4096 + bitsOf ea 55 0 % leafBytes e l)
      else none

/-- The window of this package that a place of its commons map falls into, with the address in the home device. -/
def State.homeWindow (s : State) (span off n : Nat) : Option (Window × Nat) :=
  (s.windows.filter fun w => w.span == span).findSome? fun w =>
    (List.range (w.len / 64)).findSome? fun i =>
      match s.resolve (hwWho w.vd (((s.vd w.vd).clusters.head?).getD 0)) (w.base + BitVec.ofNat 64 (64 * i)) .wr with
      | .ok q _ =>
        if q == pa spCommons (off / 64 * 64) && off % 64 + n ≤ 64 then some (w, w.base.toNat + 64 * i + off % 64) else none
      | .fault _ => none

/-- The message of a contribution. -/
def State.redMsgOf (s : State) (r a : Nat) (q : MemReq) (p x n : Nat) (fadd : Bool) (fmt : Nat) (b : Word) : RedMsg :=
  { r := r, elem := a, slot := q.slot, tag := q.tag, seq := q.seq, dst := q.dst, pa := p, size := q.size, x := x, n := n,
    fadd := fadd, fmt := fmt, val := b, scope := q.scope, id := q.id, ea := eaOf q.base q.off, rel := s.reqRel r a q, past := q.past }

/-- The node of a contribution (R372): it stands for its index alone. -/
def nodeOf (c : Retained) (retx : Bool) : RedNode :=
  { win := c.win, addr := c.addr.toNat, lo := c.x, m := 1, val := c.val, srcs := [{ pkg := here, x := c.x, id := c.id }],
    retx := retx, terms := c.msg.n, fmt := c.msg.fmt, size := c.msg.size, fadd := c.msg.fadd }

/-- RED (R194, R372): to its home slice, or as a contribution of a reduction window, which the package retains; it waits for a live
port whose lane 2 is not stopped. -/
def State.doRed (s : State) (r a : Nat) (q : MemReq) (x n : Nat) (fadd : Bool) (fmt : Nat) (b : Word) : Perf :=
  let ea := eaOf q.base q.off
  let vd := (s.region r).vd
  if ea % q.size != 0 then .fault fcMisaligned ea
  else match s.farLeaf (s.whoElem r a) ea with
    | some (pod, pkg, die, off) =>
      match s.spanOf vd with
      | none => .fault fcAccessFault ea
      | some sp =>
        let own := pod == Config.pod && pkg == Config.package
        let far := pa (spRemote pod pkg die) off
        let win : Option (Nat × Nat) :=
          if own then (s.homeWindow sp.num off q.size).map fun w => (256 * sp.num + w.1.num, w.2)
          else if s.routed vd pod pkg && Config.farWindow far then some (2 ^ 40 + sp.num, far) else none
        match win, s.pathPort vd pod off with
        | none, _ => .fault fcAccessFault ea
        | some _, none => .stall
        | some (num, addr), some port =>
          if 16384 ≤ s.retained.length || s.laneStopped port 2 then .stall
          else
            let s := (s.irrevocable r).touched r a q.slot q.tag true ea q.size
            let c : Retained := { id := s.redId, sw := portSwitch port, win := num, addr := BitVec.ofNat 64 addr, x := x, val := b,
                                  msg := s.redMsgOf r a q far x n fadd fmt b, acked := none, retx := false, vd := vd }
            let nd : SwNode := { sw := c.sw, node := nodeOf c false, home := false }
            .sent { s with redId := s.redId + 1, retained := s.retained ++ [c], nodes := if own then s.nodes ++ [nd] else s.nodes }
    | none =>
      s.place r a false q.base q.off q.size q.size .wr fun p t =>
        if isMgmt p || 1024 ≤ paSpace p then .fault fcAccessFault ea
        else
          let s := s.irrevocable r
          .sent (s.updCluster (redHome p t) fun c => { c with redMsgs := c.redMsgs ++ [s.redMsgOf r a q p x n fadd fmt b] })

/-- Put an operand set back, its slot stopped, with Poison (R197, R199). -/
def State.poisonedDesc (s : State) (r a x : Nat) (q : MemReq) (ents : List MsEntry) (ea : Nat) : State :=
  let s := s.updElem r a fun e => { e with ctxs := Sparse.del e.ctxs x, store := e.store ++ ents }
  (s.raise r fcPoison a q.slot q.tag.toNat ea 0).stopSlotAt r a q.slot

/-- Malformed of a descriptor: no context opens. -/
def State.badDesc (s : State) (r a x : Nat) (q : MemReq) (ents : List MsEntry) : State :=
  (s.updElem r a fun e => { e with ctxs := Sparse.del e.ctxs x }).raise r fcMalformed a q.slot q.tag.toNat 0
    (((ents.find? fun m => m.tok.port == 0).map fun m => tokBits m.tok).getD 0)

/-- Change a context of an element. -/
def State.updCtx (s : State) (r a x : Nat) (f : StreamCtx → StreamCtx) : State :=
  s.updElem r a fun e => match Sparse.entry? e.ctxs x with
    | some c => { e with ctxs := Sparse.put e.ctxs x (f c) }
    | none => e

/-- A signed 32-bit field. -/
def int32 (v : Nat) : Int := intValue 32 true v

/-- The descriptor of AGSTREAM (R197). -/
def State.doAgOpen (s : State) (r a : Nat) (q : MemReq) (x : Nat) (store : Bool) (ents : List MsEntry) : Perf :=
  s.place r a false q.base q.off 64 64 .rd fun p _ =>
    let s := s.touched r a q.slot q.tag false (eaOf q.base q.off) 64
    match s.loadAt (s.reqAgent r a q) r p 64 with
    | .inr _ => .done ((s.noteUnc r a q.slot q.tag p).poisonedDesc r a x q ents (eaOf q.base q.off)) []
    | .inl d =>
      let f := fun o n => d / 256 ^ o % 256 ^ n
      if 2 ^ 41 ≤ f 0 8 || f 32 1 != (if store then 1 else 0) || 4 ≤ f 33 1 || 64 < f 34 1 || 4 ≤ f 35 1 || f 36 28 != 0 then
        .done (s.badDesc r a x q ents) []
      else
        let cs := (List.range 4).map fun i => f (8 + 2 * i) 2 + 1
        .done (s.updCtx r a x fun c =>
          { c with
            begun := true
            start := f 0 8
            counts := cs
            strides := (List.range 4).map fun i => int32 (f (16 + 4 * i) 4)
            size := 2 ^ f 33 1
            depth := if f 34 1 == 0 then 64 else f 34 1
            typed := f 35 1 % 2 == 1
            itstep := f 35 1 / 2 == 1
            next := 0
            stop := cs.foldl (· * ·) 1 }) []

/-- The descriptor and the pointers of FIB.OPEN (R199). -/
def State.doFibOpen (s : State) (r a : Nat) (q : MemReq) (x : Nat) (row : Nat) (ents : List MsEntry) : Perf :=
  s.place r a false q.base q.off 64 64 .rd fun p _ =>
    let s := s.touched r a q.slot q.tag false (eaOf q.base q.off) 64
    match s.loadAt (s.reqAgent r a q) r p 64 with
    | .inr _ => .done ((s.noteUnc r a q.slot q.tag p).poisonedDesc r a x q ents (eaOf q.base q.off)) []
    | .inl d =>
      let f := fun o n => d / 256 ^ o % 256 ^ n
      if 2 < f 24 1 || (f 25 1 != 2 && f 25 1 != 3) || 64 < f 26 1 || f 27 37 != 0 then .done (s.badDesc r a x q ents) []
      else
        let n := 2 ^ f 25 1
        s.place r a false q.base (f 0 8 + n * row) n n .rd fun p0 _ =>
          s.place r a false q.base (f 0 8 + n * (row + 1)) n n .rd fun p1 _ =>
            let s := s.touched r a q.slot q.tag false (eaOf q.base (f 0 8 + n * row)) (2 * n)
            match s.loadAt (s.reqAgent r a q) r p0 n, s.loadAt (s.reqAgent r a q) r p1 n with
            | .inl lo, .inl hi =>
              if hi < lo then .done (s.badDesc r a x q ents) []
              else
                let t := s.updCtx r a x fun c =>
                  { c with
                    begun := true
                    next := lo
                    stop := hi
                    start := lo
                    coord := f 8 8
                    val := f 16 8
                    vsize := 2 ^ f 24 1
                    depth := if f 26 1 == 0 then 64 else f 26 1 }
                .done t [{ (out1 q ((hi - lo) % 2 ^ 32 * 2 ^ 32 + x) false) with which := 1 }]
            | .inr _, _ => .done ((s.noteUnc r a q.slot q.tag p0).poisonedDesc r a x q ents (eaOf q.base (f 0 8 + n * row))) []
            | _, .inr _ => .done ((s.noteUnc r a q.slot q.tag p1).poisonedDesc r a x q ents (eaOf q.base (f 0 8 + n * (row + 1)))) []

/-- What position `p` of a fibre holds. -/
inductive FibEntry where
  | stall
  | fault (code info : Nat)
  | poison (p : Nat)
  | entry (coord val : Nat)

/-- Read an entry of a fibre for agent `ag` (R199), its base register as it stands now; it waits behind a diverted value (R375). -/
def State.fibEntry (s : State) (ag : Agent) (r a : Nat) (c : StreamCtx) (p : Nat) : FibEntry :=
  let b := s.mbOf r a c.base
  let co := c.coord + 4 * p
  let vo := c.val + c.vsize * p
  match s.effAddr r a false b co 4 4 .rd, s.effAddr r a false b vo c.vsize c.vsize .rd with
  | .fault e, _ => .fault e (eaOf b co)
  | _, .fault e => .fault e (eaOf b vo)
  | .ok x _, .ok y _ =>
    if s.blocked (s.region r).vd x 4 || s.blocked (s.region r).vd y c.vsize || s.divertWait (s.region r).vd (eaOf b co) ||
      s.divertWait (s.region r).vd (eaOf b vo) then .stall
    else match s.loadAt ag r x 4, s.loadAt ag r y c.vsize with
      | .inr _, _ => .poison x
      | _, .inr _ => .poison y
      | .inl u, .inl v => .entry u v

/-- Note the reads of an entry of a fibre for `ifepel`. -/
def State.fibTouch (s : State) (r a : Nat) (c : StreamCtx) (slot : Nat) (tag : BitVec 24) (p : Nat) : State :=
  let b := s.mbOf r a c.base
  (s.touched r a slot tag false (eaOf b (c.coord + 4 * p)) 4).touched r a slot tag false (eaOf b (c.val + c.vsize * p)) c.vsize

/-- The end of a fibre at an entry whose coordinate is 0xFFFF_FFFF (R199). -/
def State.endFibre (s : State) (r a x slot : Nat) (tag : BitVec 24) : State :=
  (s.updCtx r a x fun c => { c with stop := c.next }).raise r fcMalformed a slot tag.toNat 0 0

/-- FIB.ADV (R200): consume entries up to the first with coordinate at least `t`, which goes to dest0; `n` bounds the entries
left. -/
def State.fibSeek (s : State) (r a : Nat) (q : MemReq) (x t : Nat) : Nat → Perf
  | 0 => .done s [{ (out0 q 0xFFFFFFFF false) with last := true }]
  | n + 1 =>
    match Sparse.entry? (s.elem r a).ctxs x with
    | none => .done s [{ (out0 q 0xFFFFFFFF false) with last := true }]
    | some c =>
      if c.stop ≤ c.next then .done s [{ (out0 q 0xFFFFFFFF false) with last := true }]
      else
        let s := s.fibTouch r a c q.slot q.tag c.next
        let took := fun (s : State) (e : Nat) => s.updCtx r a x fun c => { c with next := c.next + 1, emitted := c.emitted + e }
        match s.fibEntry (s.reqAgent r a q) r a c c.next with
        | .stall => .stall
        | .fault e i => .fault e i
        | .poison p => .done ((took s 1).noteUnc r a q.slot q.tag p) [out0 q (poisonPayload p).toNat true]
        | .entry u v =>
          if u == 0xFFFFFFFF then .done (s.endFibre r a x q.slot q.tag) [{ (out0 q 0xFFFFFFFF false) with last := true }]
          else if t ≤ u then .done (took s 1) [out0 q (u + 2 ^ 32 * v) false]
          else (took s 0).fibSeek r a q x t n

/-- FIB.END (R200). -/
def State.doFibEnd (s : State) (r a : Nat) (q : MemReq) (x : Nat) : Perf :=
  match Sparse.entry? (s.elem r a).ctxs x with
  | none => .done s [out1 q 0 false]
  | some c => .done (s.updCtx r a x fun c => { c with next := c.stop }) [out1 q (c.stop - c.next) false]

/-- The source bytes of a chunk of MLDT, for agent `ag`: the value and the lines that read as poison (R179, R367), or what stops it;
it waits behind a diverted value (R375). -/
def State.chunkBytes (s : State) (ag : Agent) (r a b off : Nat) : Nat → (Nat × List Nat) ⊕ Perf
  | 0 => .inl (0, [])
  | n + 1 =>
    match s.effAddr r a false b off 1 1 .rd with
    | .fault c => .inr (.fault c (eaOf b off))
    | .ok p _ =>
      if s.blocked (s.region r).vd p 1 || s.divertWait (s.region r).vd (eaOf b off) then .inr .stall
      else match s.chunkBytes ag r a b (off + 1) n with
        | .inr x => .inr x
        | .inl (v, l) => match s.loadAt ag r p 1 with
          | .inl u => .inl (u + 256 * v, l)
          | .inr _ => .inl (s.regRead r p 1 + 256 * v, insertNat (p / 64) l)

/-- The chunks of MLDT, by source offset, as they stand now. -/
def State.tileChunks (s : State) (ag : Agent) (r a b : Nat) : List Nat → List (Nat × List Nat) ⊕ Perf
  | [] => .inl []
  | off :: rest => match s.chunkBytes ag r a b off 16 with
    | .inr x => .inr x
    | .inl c => match s.tileChunks ag r a b rest with
      | .inr x => .inr x
      | .inl l => .inl (c :: l)

/-- The source offsets of an MLDT's 16-byte chunks, in the order of the destination (R202). -/
def tileOffs (off rowBytes pitch : Nat) (sw : Bool) : List Nat :=
  (List.range 32).flatMap fun i => (List.range (rowBytes / 16)).map fun c =>
    off + i * pitch + 16 * (if sw then c ^^^ (i % 8) else c)

/-- Move piece `k` of an MLDT, 32 bytes of its destination at `p`, the typed address `d`: the state, the poisoned source lines reported
so far, and the destination lines to which such lines went. -/
def State.movePiece (s : State) (r a : Nat) (q : MemReq) (p d : Nat) (offs : List Nat) (k : Nat) : (State × List Nat × List Nat) ⊕ Perf :=
  let os := (offs.drop (2 * k)).take 2
  let x := s.reqAgent r a q
  match s.tileChunks x r a q.base os with
  | .inr f => .inr f
  | .inl cs =>
    let at0 := p + 32 * k
    let t := os.foldl (fun t o => t.touched r a q.slot q.tag false (eaOf q.base o) 16) s
    let t := t.regWrite x 0 r at0 (16 * cs.length) (cs.foldr (fun c v => c.1 + 256 ^ 16 * v) 0)
    let bad := (cs.zip (List.range cs.length)).filterMap fun c => if c.1.2.isEmpty then none else some (at0 + 16 * c.2)
    let t := (bad.foldl (fun t m => t.regMark r m) t).touched r a q.slot q.tag true (d + 32 * k) (16 * cs.length)
    let ls := (cs.flatMap (·.2)).eraseDups.filter fun l => !q.hits.contains l
    .inl ((ls.filter fun l => s.regMarked r (64 * l)).foldl (fun t l => t.unc r a q.slot q.tag (64 * l)) t, q.hits ++ ls,
      bad.foldl (fun l m => insertNat (m / 64) l) q.bad)

/-- MLDT (R202): where every place of its source and destination can be reached, its 32-byte pieces move one by one, in a free
order (R386). At its end the lines that it has written whole, and to which no marked source line went, lose their mark (R179). -/
def State.doMldt (s : State) (r a : Nat) (q : MemReq) (sw : Bool) (rowBytes pitch : Nat) (dst : BitVec 32) : Perf :=
  let d := dst.toNat
  if 1 < bitsOf d 31 30 then .fault fcAccessFault d
  else match s.effTyped r (s.coreOf r a) d 0 (32 * rowBytes) 1 true with
    | .fault c => .fault c d
    | .ok p _ =>
      let offs := tileOffs q.off rowBytes pitch sw
      if s.scoreHit p (32 * rowBytes) then .stall
      else match q.left with
        | none => match s.tileChunks (s.reqAgent r a q) r a q.base offs with
          | .inr x => x
          | .inl _ => .part s (List.range rowBytes) [] []
        | some l =>
          let k := (l[Config.choice s.free % l.length]?).getD 0
          match s.movePiece r a q p d offs k with
          | .inr x => x
          | .inl (t, h, b) =>
            if l.length ≤ 1 then .done (t.regClear r ((wholeLines p (32 * rowBytes)).filter fun l => !b.contains l)) [out1 q 0 false]
            else .part t (l.filter (· != k)) h b

/-- Perform a request. -/
def State.perform (s : State) (r a : Nat) (q : MemReq) : Perf :=
  match q.op with
  | .ld => s.doLd r a q
  | .st b => s.doSt r a q b
  | .gather _ _ _ => s.doGather r a q
  | .scatter _ _ _ b => s.doScatter r a q b
  | .atom op b c => s.doAtom r a q op b c
  | .red x n fadd fmt b => s.doRed r a q x n fadd fmt b
  | .fence pay => .done (s.fenceAt q.order (s.elemAgent r a) q.past q.scope) [out1 q pay.toNat false]
  | .mldt sw n p d => s.doMldt r a q sw n p d
  | .fibAdv x t =>
    s.fibSeek r a q x t (match Sparse.entry? (s.elem r a).ctxs x with
      | some c => c.stop - c.next
      | none => 0)
  | .fibEnd x => s.doFibEnd r a q x
  | .agOpen x st ents => s.doAgOpen r a q x st ents
  | .fibOpen x _ row ents => s.doFibOpen r a q x row ents

/-! ## Issue (R167, R169) -/

/-- Remove a request from a queue. -/
def dropReq (e : ElemState) (id : Nat) : ElemState := { e with queue := e.queue.filter fun q => q.id != id }

/-- Add a reply, where it has tokens to emit, with what happens before them. -/
def addReply (e : ElemState) (stream slot : Nat) (tag : BitVec 24) (outs : List OutTok) (past : Past) : ElemState :=
  if outs.isEmpty then e else { e with replies := e.replies ++ [{ stream := stream, slot := slot, tag := tag, outs := outs, past := past }] }

/-- Park a request and the later ones of its stream; the fault goes to the fault edge (R169, R189). The request keeps the order
number of its first issue (R330). -/
def State.parkReq (s : State) (r a : Nat) (q : MemReq) (code info : Nat) : State :=
  (s.updElem r a fun e => { e with
      queue := e.queue.map fun (y : MemReq) =>
        if y.slot == q.slot && q.id ≤ y.id && !y.sent then
          { y with parked := true, first := if y.id == q.id && y.first == 0 then s.free + 1 else y.first }
        else y }).sendEvent r code a q.slot q.tag.toNat info 0

/-- The wakes that a waiting access asks for, by its byte ranges (R347). -/
def State.rouseAll (s : State) (r : Nat) (l : List (Nat × Nat)) : State := l.foldl (fun s p => s.rouse (s.region r).vd p.1) s

/-- Issue request `k` of an element's queue. -/
def State.issueAt (s : State) (r a k : Nat) : State :=
  match (s.elem r a).queue[k]? with
  | none => s
  | some q =>
    if !s.mayIssue r a k then s
    else match (((s.learn (s.reqAgent r a q) q.past).releaseIf q.order (s.elemAgent r a) q.past q.scope).perform r a q) with
      | .stall => s.rouseAll r (s.rangesOf r a q)
      | .fault c i => s.draw.parkReq r a q c i
      | .sent t => t.draw.updElem r a fun e => { e with queue := e.queue.map fun (y : MemReq) => if y.id == q.id then { y with sent := true } else y }
      | .part t l h b => t.draw.updElem r a fun e => { e with queue := e.queue.map fun (y : MemReq) =>
          if y.id == q.id then { y with left := some l, hits := h, bad := b, first := 0 } else y }
      | .done t outs =>
        let t := t.draw
        let t := t.updElem r a fun e => addReply (dropReq e q.id) q.slot q.slot q.tag outs (t.pastOf (s.reqAgent r a q) q.past)
        match q.op with
        | .fibAdv x _ => t.settleCtx r a x
        | .fibEnd x => t.settleCtx r a x
        | _ => t

/-! ## Elements of streams (R198, R199) -/

/-- Park a stream (R169). -/
def State.parkCtx (s : State) (r a x : Nat) (c : StreamCtx) (tag : BitVec 24) (code info : Nat) : State :=
  (s.updCtx r a x fun c => { c with parked := true, first := if c.first == 0 then s.free + 1 else c.first }).sendEvent r code a c.slot
    tag.toNat info 0

/-- The place of the next element of a stream, for a read or a write. -/
def State.streamPlace (s : State) (r a : Nat) (c : StreamCtx) (k : Kind) (f : Nat → Nat → Perf) : Perf :=
  let off := streamOff c c.next
  let b := s.mbOf r a c.base
  let ea := ((b : Int) + off).toNat % 2 ^ 64
  if off < 0 || 2 ^ 41 ≤ off then .fault fcAccessFault (if (b : Int) + off < 0 then (2 ^ 64 + (b : Int) + off).toNat else ea)
  else s.place r a c.typed b off.toNat c.size c.size k f

/-- The count that ends a stream (R198). -/
def countTok (c : StreamCtx) : OutTok :=
  { (out1 (ctxReq c c.tag true) c.stop false) with which := 1 }

/-- The next element of a load stream (R198). -/
def State.loadElem (s : State) (r a x : Nat) (c : StreamCtx) : State :=
  let it := tagIter c.tag + (if c.itstep then c.next else 0)
  let fin := c.next + 1 == c.stop
  if 0xFFFF < it then ((s.raise r fcTagOverflow a c.slot c.tag.toNat 0 0).updCtx r a x fun c => { c with stop := c.next }).settleCtx r a x
  else
    let g := mkTag (tagCtx c.tag) it
    let q := ctxReq c g fin
    let ag := s.streamAgent r a (32 + x)
    match (s.learn ag c.past).streamPlace r a c .rd (fun p _ =>
      let ea := eaOf (s.mbOf r a c.base) (streamOff c c.next).toNat
      let t := s.touched r a c.slot g false ea c.size
      let tail := if fin then [countTok c] else []
      match (s.learn ag c.past).loadAt ag r p c.size with
      | .inl v => .done ((t.learn ag c.past).noteRead ag p c.size) ({ (out1 q v false) with which := 0 } :: tail)
      | .inr w => .done (t.noteUnc r a c.slot g p) ({ (out1 q w.toNat true) with which := 0 } :: tail)) with
    | .fault e i => s.parkCtx r a x c g e i
    | .done t outs => (t.updCtx r a x fun c => { c with next := c.next + 1, first := 0 }).updElem r a fun e => addReply e (32 + x) c.slot g outs (t.pastOf ag c.past)
    | _ => s.rouseAll r (s.headRanges r a c)

/-- The next entry of a `.run` fibre (R199). -/
def State.runEntry (s : State) (r a x : Nat) (c : StreamCtx) : State :=
  let q := ctxReq c c.tag (c.next + 1 == c.stop)
  let ag := s.streamAgent r a (32 + x)
  let s := (s.learn ag c.past).fibTouch r a c c.slot c.tag c.next
  let took := fun (s : State) (o : OutTok) => (s.updCtx r a x fun c => { c with next := c.next + 1, first := 0, emitted := c.emitted + 1 }).updElem r a
    fun e => addReply e (32 + x) c.slot c.tag [{ o with which := 0 }] (s.pastOf ag c.past)
  match s.fibEntry ag r a c c.next with
  | .stall => s.rouseAll r (s.headRanges r a c)
  | .fault e i => s.parkCtx r a x c c.tag e i
  | .poison p => took (s.noteUnc r a c.slot c.tag p) (out1 q (poisonPayload p).toNat true)
  | .entry u v =>
    if u == 0xFFFFFFFF then (s.endFibre r a x c.slot c.tag).settleCtx r a x else took s (out1 q (u + 2 ^ 32 * v) false)

/-- The address generator issues the next element of context `x` (R167, R198). -/
def State.genIssue (s : State) (r a x : Nat) : State :=
  match Sparse.entry? (s.elem r a).ctxs x with
  | none => s
  | some c =>
    let e := s.elem r a
    if !s.mayStep r a x c || c.depth ≤ (e.replies.filter fun y => y.stream == 32 + x).length then s
    else match c.kind with
      | .load => (s.loadElem r a x c).draw
      | .fibRun => (s.runEntry r a x c).draw
      | _ => s

/-- Whether an element address is a memory element of a live region that goes. -/
def State.memGoes (s : State) (r a : Nat) : Bool :=
  s.regionGoes r && isMemElem a && a / 128 < (s.region r).cores.length

/-- MEMORY_REQUEST_ISSUE (R167): entry `k` of the queue, or context `k - 64` of the address generator. -/
def execMemoryRequestIssue (r a k : Nat) (s : State) : Out :=
  if 256 ≤ r || 65536 ≤ a || 68 ≤ k then .fault .noSuchUnit
  else if !s.memGoes r a then .next s
  else .next (if k < 64 then s.issueAt r a k else s.genIssue r a (k - 64))

/-- MEMORY_REPLY (R168): reply `k`, the first of its stream, returns its tokens. -/
def execMemoryReply (r a k : Nat) (s : State) : Out :=
  if 256 ≤ r || 65536 ≤ a then .fault .noSuchUnit
  else
    let e := s.elem r a
    match e.replies[k]? with
    | none => .next s
    | some y =>
      if !s.regionGoes r || (e.replies.take k).any (fun z => z.stream == y.stream) then .next s
      else
        let s := s.updElem r a fun e => { e with replies := removeAt e.replies k }
        let s := y.outs.foldl (fun s o => s.sendOut r a y.slot o y.past) s
        .next (if 32 ≤ y.stream then s.settleCtx r a (y.stream - 32) else s)

/-- Whether the open store stream of context `x` may store its next element, where its data has arrived. -/
def State.mayStore (s : State) (r a x : Nat) (c : StreamCtx) : Bool :=
  let e := s.elem r a
  c.kind == .store && s.mayStep r a x c && !(e.stopped.contains (32 * e.active + c.slot))

/-- STORE_STREAM_DATA (R198): an open store stream takes the oldest port-b entry under its tag and stores it. -/
def execStoreStreamData (r a x : Nat) (s : State) : Out :=
  if 256 ≤ r || 65536 ≤ a || 4 ≤ x then .fault .noSuchUnit
  else
    let e := s.elem r a
    match Sparse.entry? e.ctxs x with
    | none => .next s
    | some c =>
      match entryAt (entriesOf e c.slot) 1 c.tag with
      | none => .next s
      | some m =>
        if !s.memGoes r a || !s.mayStore r a x c then .next s
        else if m.tok.kind == 7 then
          .next ((s.raise r fcPoison a c.slot c.tag.toNat 0 (tokBits m.tok)).stopSlotAt r a c.slot)
        else
          let ag := s.streamAgent r a (32 + x)
          let past := joinPast c.past m.past
          match s.streamPlace r a c .wr (fun p _ =>
            match (s.learn ag past).storeAt ag r 0 p c.size m.tok.payload.toNat with
            | .error k => .fault k (eaOf (s.mbOf r a c.base) (streamOff c c.next).toNat)
            | .ok t => .done (t.touched r a c.slot c.tag true (eaOf (s.mbOf r a c.base) (streamOff c c.next).toNat) c.size)
                (if c.next + 1 == c.stop then [countTok c] else [])) with
          | .fault k i => .next (s.draw.parkCtx r a x c c.tag k i)
          | .done t outs =>
            let t := t.draw.progress r
            let t := t.updCtx r a x fun c => { c with next := c.next + 1, first := 0 }
            .next (t.updElem r a fun e => addReply (dropEnts e [(1, m)]) (32 + x) c.slot c.tag outs (t.pastOf ag past))
          | _ => .next (s.rouseAll r (s.headRanges r a c))

/-- What an element learns of a tile as it acquires at cluster scope (R235, R389): what SHSEAL released, of the tile's bytes. -/
def State.tileLearn (s : State) (x : Agent) (cl : Nat) (t : Tile) : State :=
  s.learnIf x t.past fun h => overlap (h.p, h.n) (pa (spA (24 * cl + t.core)) (4096 * t.gran), 4096 * t.size)

/-! ## Reductions at their home slice (R194) -/

/-- The value of a finished reduction: Tree(0, n) lane by lane, or the wrapped sum. -/
def redValue (o : RedOpen) : Nat :=
  let f := (Fmt.ofCode o.fmt).getD .i64
  let val := fun i => (Sparse.atD o.terms i 0).toNat
  ofLanes f ((List.range (8 * o.size / f.width)).map fun l =>
    if o.fadd then treeSum f (fun i => laneOf f (val i) l) 16 0 o.n
    else (List.range o.n).foldl (fun v i => (v + laneOf f (val i) l) % 2 ^ f.width) 0)

/-- The acknowledgement of a contribution: its request leaves the queue and its token is to be emitted; after a final write it
acquires at scope `sc` what the write releases (R194, R373), and has nothing to acquire before. -/
def State.ackRed (s : State) (m : RedMsg) (pay sc : Nat) (rel : List Release) : State :=
  if 256 ≤ m.r then s
  else
    let s := s.acquireFrom (s.elemAgent m.r m.elem) sc rel
    s.updElem m.r m.elem fun e =>
      let l := ((e.queue.find? fun q => q.id == m.id).map fun q => q.last).getD false
      addReply (dropReq e m.id) m.slot m.slot m.tag
        [{ dst := m.dst, which := 2, tag := m.tag, seq := m.seq, last := l, pay := BitVec.ofNat 64 pay, poison := false }]
        (s.pastOf (s.elemAgent m.r m.elem) m.past)

/-- A contribution that the home rejects (R194 item 3): Malformed, and it is discarded. -/
def State.rejectRed (s : State) (m : RedMsg) : State :=
  if 256 ≤ m.r then s
  else (s.updElem m.r m.elem fun e => dropReq e m.id).raise m.r fcMalformed m.elem m.slot m.tag.toNat 0 0

/-- RED_CONTRIBUTION (R194): message `k` of a slice. -/
def execRedContribution (c k : Nat) (s : State) : Out :=
  if 4 ≤ c then .fault .noSuchUnit
  else match (s.cluster c).redMsgs[k]? with
    | none => .next s
    | some m =>
      let t := s.updCluster c fun x => { x with redMsgs := removeAt x.redMsgs k }
      let seen := fun (u : State) => if 256 ≤ m.r then u else u.touched m.r m.elem m.slot m.tag true m.ea m.size
      let hit := (s.cluster c).reds.find? fun o => overlap (o.pa, o.size) (m.pa, m.size)
      let add := fun (o : RedOpen) =>
        let o := { o with terms := Sparse.put o.terms m.x m.val, rel := o.rel ++ m.rel }
        if o.terms.length == o.n then
          let v := redValue o
          let u := t.updCluster c fun x => { x with reds := x.reds.filter fun z => z.pa != o.pa }
          let who := if 256 ≤ m.r then .port else s.elemAgent m.r m.elem
          (seen (u.storeBy who m.scope o.pa o.size v o.rel)).ackRed m 1 m.scope o.rel
        else (seen (t.updCluster c fun x => { x with reds := (x.reds.filter fun z => z.pa != o.pa) ++ [o] })).ackRed m 0 m.scope []
      match hit with
      | none =>
        if m.n ≤ m.x then .next (t.rejectRed m)
        else if 256 ≤ (s.cluster c).reds.length then .next s
        else .next (add { pa := m.pa, size := m.size, n := m.n, fadd := m.fadd, fmt := m.fmt, terms := [] })
      | some o =>
        if o.pa != m.pa || o.size != m.size || o.n != m.n || o.fadd != m.fadd || o.fmt != m.fmt || m.n ≤ m.x ||
          (Sparse.entry? o.terms m.x).isSome then .next (t.rejectRed m)
        else .next (add o)

end Sys2Proof.Machine
end

