-- ==== Sys2Proof/Machine/ThreadMem.lean ====
section
/-! DEFINITION. The memory instructions of the control core (R283 to R291, R293): an access is checked and its place
fixed at issue; it is performed by THREAD_OPERATION_COMPLETE (R285, R292). -/
namespace Sys2Proof.Machine

/-! ## Places (R56, R273, R284) -/

/-- The place of a thread's access at a generic address (R164, R284, R364). -/
def State.locate (s : State) (w : Who) (a : Word) (k : Kind) : AccRes :=
  match s.resolve w a k with
  | .fault c => .fault c
  | .ok p t => match s.placeFault w.vd p (k == .wr) with
    | some c => .fault c
    | none => .ok p t

/-- The place of an access that does all of `ks`: the first fault stops it. -/
def State.locateAll (s : State) (w : Who) (a : Word) : List Kind → AccRes
  | [] => .fault fcAccessFault
  | [k] => s.locate w a k
  | k :: ks => match s.locate w a k with
    | .fault c => .fault c
    | .ok _ _ => s.locateAll w a ks

/-- The frame of an access to `n` bytes at `a`: Misaligned, PageFault or AccessFault, of the aperture as well (`aper`), then Poison; it
stalls at the range scoreboard (R170), behind a diverted value (R375) and for a device to wake (R350). -/
def State.access (s : State) (a : Word) (n : Nat) (ks : List Kind) (clean : List Reg) (k : Nat → State → Out)
    (aper : Nat → Option Nat := fun _ => none) : Out :=
  if a.toNat % n != 0 then s.trap fcMisaligned a
  else match s.locateAll s.whoMe a ks with
    | .fault c => s.trap c a
    | .ok p _ =>
      if let some c := aper p then s.trap c a
      else if s.poisonedAny clean then s.trap fcPoison 0
      else if s.blocked s.whoMe.vd p n || s.divertWait s.whoMe.vd a.toNat then .next (s.rouse s.whoMe.vd p)
      else k p (s.fillTlb s.whoMe a)

/-! ## Loads, stores, atomics (R283, R286) -/

/-- LD and LDU. -/
def State.issueLoad (s : State) (d b : Reg) (ord : BitVec 2) (scope : BitVec 3) (size : BitVec 2) (off : BitVec 8)
    (signed : Bool) : Out :=
  if s.waits [d, b] then .next s
  else s.room s.me.loads fun _ =>
    s.access (memAddr s b size off) (sizeBytes size) [.rd] [b] fun p s =>
      .next (s.pushOp { kind := .load p (sizeBytes size) signed, dest := d, ord := ord.toNat, scope := scope.toNat,
                        ea := memAddr s b size off }).advance

def execLd (d b : Reg) (ord : BitVec 2) (scope : BitVec 3) (size : BitVec 2) (off : BitVec 8) (s : State) : Out :=
  s.wellFormed (okLoad ord scope) fun _ => s.issueLoad d b ord scope size off true
/-- LDU accepts sizes 0 to 2. -/
def execLdu (d b : Reg) (ord : BitVec 2) (scope : BitVec 3) (size : BitVec 2) (off : BitVec 8) (s : State) : Out :=
  s.wellFormed (okLoad ord scope && decide (size.toNat ≤ 2)) fun _ => s.issueLoad d b ord scope size off false

/-- What the management aperture refuses of a store (R346). -/
def State.storeRefused (s : State) (p n v : Nat) : Option Nat :=
  match (if isMgmt p then s.mgmtStore s.whoMe.vd p n v else if isFarMgmt p then s.farStore p n else .ok s) with
  | .error c => some c
  | .ok _ => none

/-- ST: what the management aperture would refuse (R346) is an aperture check of the issue. -/
def execSt (d b : Reg) (ord : BitVec 2) (scope : BitVec 3) (size : BitVec 2) (off : BitVec 8) (s : State) : Out :=
  s.wellFormed ((ord.toNat == 0 || ord.toNat == 2) && decide (scope.toNat ≤ 5)) fun _ =>
    if s.waits [d, b] then .next s
    else s.room s.me.stores fun _ =>
      let a := memAddr s b size off
      s.access (aper := fun p => s.storeRefused p (sizeBytes size) (s.g d).toNat) a (sizeBytes size) [.wr] [b, d] fun p t =>
        .next (t.pushOp { kind := .store p (sizeBytes size) (t.g d), dest := 0, ord := ord.toNat, scope := scope.toNat, ea := a }).advance

/-- AMO and CAS: no atomic step reaches the management aperture (R346). -/
def State.issueAtomic (s : State) (d a b : Reg) (ord : BitVec 2) (scope : BitVec 3) (size : BitVec 2)
    (kind : Nat → State → ThreadOpKind) : Out :=
  if s.waits [d, a, b] then .next s
  else s.room s.me.loads fun _ =>
    s.access (aper := fun p => if isMgmt p || isFarMgmt p then some fcAccessFault else none) (s.g a) (sizeBytes size) [.rd, .wr] [a, b]
      fun p t => .next (t.pushOp { kind := kind p t, dest := d, ord := ord.toNat, scope := scope.toNat, ea := s.g a }).advance

def execAmo (d a b : Reg) (op : BitVec 3) (ord : BitVec 2) (scope : BitVec 3) (size : BitVec 2) (s : State) : Out :=
  s.wellFormed (decide (op.toNat ≤ 6) && decide (scope.toNat ≤ 5) && decide (2 ≤ size.toNat)) fun _ =>
    s.issueAtomic d a b ord scope size fun p t => .amo op.toNat p (sizeBytes size) (t.g b)
def execCas (d a b : Reg) (ord : BitVec 2) (scope : BitVec 3) (size : BitVec 2) (s : State) : Out :=
  s.wellFormed (decide (scope.toNat ≤ 5) && decide (2 ≤ size.toNat)) fun _ =>
    s.issueAtomic d a b ord scope size fun p t => .cas p (sizeBytes size) (t.g b) (t.g d)

/-! ## Order (R285, R287) -/

/-- Whether an outstanding operation has acquire order. -/
def ThreadOp.acq (o : ThreadOp) : Bool := o.ord % 2 == 1

/-- A later access waits for the acquires before it (R188, R285). -/
def ThreadState.acquiring (x : ThreadState) : Bool := x.ops.any ThreadOp.acq

/-- FENCE: release waits until the thread's loads, stores and atomics are performed, acquire until its loads and
atomics have returned; it waits for no copy and no tile operation. It acts at its scope (R384). -/
def execFence (ord : BitVec 2) (scope : BitVec 3) (s : State) : Out :=
  s.wellFormed (ord.toNat != 0 && decide (scope.toNat ≤ 5)) fun _ =>
    if (2 ≤ ord.toNat && !s.me.released) || (ord.toNat % 2 == 1 && s.me.loads != 0) then .next s
    else .next (s.fenceAt ord.toNat (.thread s.cur.t) [] scope.toNat).advance

/-- Whether memory operation `k` of a thread may be performed now: not before an earlier one to its location, an
acquire before it, or, where it is a release, any access before it. -/
def ThreadState.mayPerform (x : ThreadState) (k : Nat) : Bool :=
  match x.ops[k]? with
  | none => false
  | some o => match o.range with
    | none => false
    | some r => !((x.ops.take k).any fun y => y.acq || y.touches r.1 r.2 || (2 ≤ o.ord && y.range.isSome))

/-! ## Performing -/

/-- Operation `k` of a thread ends with a value in its destination (R274, R275, R292). -/
def State.endOp (s : State) (t k : Nat) (v : Word) (poison : Bool) : State :=
  s.updThread t fun x => match x.ops[k]? with
    | none => x
    | some o => { (x.setReg o.dest v poison).setBusy o.dest false with ops := x.ops.eraseIdx k }

/-- A value of `n` bytes as a register takes it (R283, R286). -/
def widen (n : Nat) (signed : Bool) (v : Nat) : Word := BitVec.ofInt 64 (intValue (8 * n) signed v)

/-- Whether a read of a place by a device gives poison (R179, R311, R367). -/
def State.marked (s : State) (vd p : Nat) : Bool := s.reach vd p == .dead || s.poisoned p

/-- A read that found poison in storage raises UncorrectableMemory as an event, to the supervisor: a thread has no
fault edge (R179). -/
def State.threadUnc (s : State) (vd p : Nat) : State :=
  if s.poisoned p then s.raiseSuper vd fcUncorrectable (poisonPayload p).toNat else s

/-- A store that can no longer be performed: its fault goes to the supervisor, never to the thread (R277, R367). -/
def State.lateFault (s : State) (vd code p : Nat) : State := s.raiseSuper vd code (paOff p)

/-- Operation `k` of a thread, an atomic step at its home (R286), of an order and a scope: a marked location is not written, and
its poison payload is returned (R193). It reads the newest value, whose releases its own value carries on (R384). -/
def State.atomicOp (s : State) (t k p n ord sc : Nat) (new : Nat → Option Nat) : State :=
  let vd := s.vdOfThread t
  if s.reach vd p == .dead then ((s.lateFault vd fcAccessFault p).endOp t k (Config.freeWord s.free) false).draw
  else if s.poisoned p then (s.threadUnc vd p).endOp t k (poisonPayload p) true
  else
    let x := Agent.thread t
    let old := s.readNat p n
    let rel := s.carried p n
    let s := match new old with
      | some v => s.storeBy x sc p n v (s.releasesOf ord x [] sc ++ rel)
      | none => s
    (if ord % 2 == 1 then s.acquireFrom x sc rel else s).endOp t k (widen n true old) false

/-- Whether the place of an operation has lost its route since the issue (R364). -/
def State.lost (s : State) (vd : Nat) (o : ThreadOp) : Option Nat :=
  match o.range with
  | some r => if s.reach vd r.1 == .fault then some r.1 else none
  | none => none

/-- The place of an operation, where it lies in memory that sleeps now (R350) or its path's lane is stopped (R360). -/
def State.asleep (s : State) (vd : Nat) (o : ThreadOp) : Option Nat :=
  o.range.bind fun r => if (s.sleeper r.1).isSome || (s.reach vd r.1 == .far && s.linkWait vd r.1 0) then some r.1 else none

/-- Perform operation `o`, number `k` of a thread, at its place: a load returns what the thread must or may see (R385) and, with
acquire order, acquires what that value releases (R384); a store is performed at its scope. -/
def State.performAt (s : State) (t k : Nat) (o : ThreadOp) : Option State :=
  let vd := s.vdOfThread t
  let x := Agent.thread t
  match o.kind with
  | .load p n sg =>
    if s.marked vd p then some ((s.threadUnc vd p).endOp t k (poisonPayload p) true)
    else
      let v := widen n sg (s.seenNat x p n)
      some ((if o.acq then s.acquireAt x o.scope p n else s.noteRead x p n).endOp t k v false)
  | .store p n v =>
    if s.reach vd p == .dead then some ((s.lateFault vd fcAccessFault p).endOp t k 0 false)
    else if isMgmt p || isFarMgmt p then match (if isMgmt p then s.mgmtStore vd p n v.toNat else s.farStore p n) with
      | .error c => some ((s.lateFault vd c p).endOp t k 0 false)
      | .ok s' => some (s'.endOp t k 0 false)
    else some ((s.storeBy x o.scope p n v.toNat (s.releasesOf o.ord x [] o.scope)).endOp t k 0 false)
  | .amo op p n b => some (s.atomicOp t k p n o.ord o.scope fun old => some (amoValue op n old b.toNat))
  | .cas p n b e => some (s.atomicOp t k p n o.ord o.scope fun old =>
      if old == e.toNat % 2 ^ (8 * n) then some (b.toNat % 2 ^ (8 * n)) else none)
  | .frame p epc prev ev word => some ((s.writeFrame t p epc prev ev word).endOp t k 0 false)
  | _ => none

/-- Perform memory operation `k` of a thread: none where it is not one, or must wait, behind a diverted value too (R375). An
operation at memory that sleeps waits for the wake (R394). -/
def State.performOp (s : State) (t k : Nat) : Option State :=
  if !(s.thread t).mayPerform k then none
  else
    let vd := s.vdOfThread t
    match (s.thread t).ops[k]? with
    | none => none
    | some o => if s.divertWait vd o.ea.toNat then none
     else if let some p := s.asleep vd o then some (s.rouse vd p)
     else match s.lost vd o with
     | some p => some ((s.lateFault vd fcAccessFault p).endOp t k (Config.freeWord s.free) false).draw
     | none => (s.releaseIf o.ord (.thread t) [] o.scope).performAt t k o

/-! ## Aperture forms (R288) -/

/-- The party of a thread's aperture forms: it belongs to no core. -/
def execApcvt (d a : Reg) (ap : BitVec 3) (s : State) : Out :=
  s.wellFormed (decide (ap.toNat ≤ 4)) fun _ => s.withRegs [d, a] [] fun _ =>
    s.result d (BitVec.ofNat 64 (s.apConvert s.whoMe 0 ap.toNat (s.g a).toNat))
def execAptest (d a : Reg) (ap : BitVec 3) (s : State) : Out :=
  s.wellFormed (decide (ap.toNat ≤ 4)) fun _ => s.withRegs [d, a] [] fun _ =>
    s.result d (truth (s.apTest s.whoMe 0 ap.toNat (s.g a).toNat))

/-! ## Waits (R290, R291, R293) -/

/-- Whether a count meets a limit of WAITC: 7 sets no limit (R55, R290). -/
def underLimit (limit count : Nat) : Bool := limit == 7 || decide (count ≤ limit)

/-- Whether the counts of a thread meet the limits of WAITC. -/
def ThreadState.countsMet (x : ThreadState) (l st c tl : Nat) : Bool :=
  underLimit l x.loads && underLimit st x.stores && underLimit c x.copies && underLimit tl x.tiles

def execWaitc (l st c tl : BitVec 3) (s : State) : Out :=
  if s.me.countsMet l.toNat st.toNat c.toNat tl.toNat then .next s.advance
  else .next (s.updMe fun x => { x with run := .waitc l.toNat st.toNat c.toNat tl.toNat })

/-- WAITC_SATISFY: the counts meet the limits. -/
def execWaitcSatisfy (t : Nat) (s : State) : Out :=
  if 64 ≤ t then .fault .noSuchUnit
  else match (s.thread t).run with
    | .waitc l st c tl =>
      if (s.thread t).countsMet l st c tl then .next (s.updThread t fun x => { x with run := .running, pc := x.pc + 4 })
      else .next s
    | _ => .next s

/-- One read of WAITGE by thread `t`: the value that it sees, with an acquire at pod scope (R291), the trap of a marked location, or
no change. -/
def State.waitgeRead (s : State) (t : Nat) (d : Reg) (p : Nat) (addr target : Word) (word : BitVec 32) : State :=
  if s.marked (s.vdOfThread t) p then s.takeTrap t fcPoison addr (s.thread t).pc word
  else
    let v := BitVec.ofNat 64 (s.seenNat (.thread t) p 8)
    if v.ult target then s.draw.updThread t fun x => { x with run := .waitge d p addr target }
    else (s.acquireAt (.thread t) 5 p 8).draw.updThread t fun x => { x.setReg d v false with run := .running, pc := x.pc + 4 }

/-- WAITGE: the address is checked at issue; it comes after the thread's acquires and its own accesses to the
location (R285). -/
def execWaitge (d a b : Reg) (s : State) : Out :=
  if s.waits [d, a, b] then .next s
  else s.room s.me.loads fun _ =>
    s.access (s.g a) 8 [.rd] [a] fun p t =>
      if t.me.acquiring || t.me.ops.any (fun o => o.touches p 8) then .next s
      else .next (t.waitgeRead t.cur.t d p (t.g a) (t.g b) t.cur.word)

/-- The word at a thread's pc, for the frame of a trap that an instruction raises while it waits (R276). -/
def State.wordAt (s : State) (t : Nat) : BitVec 32 :=
  match s.resolve (s.whoOf t) (s.thread t).pc .fetch with
  | .ok p _ => BitVec.ofNat 32 (s.readNat p 4)
  | .fault _ => 0

/-- WAITGE_SATISFY: the location is read again; where its route is gone since (R364, R365), the wait ends in the trap of an access
that the device can no longer make. -/
def execWaitgeSatisfy (t : Nat) (s : State) : Out :=
  if 64 ≤ t then .fault .noSuchUnit
  else match (s.thread t).run with
    | .waitge d p addr target =>
      let vd := s.vdOfThread t
      if s.reach vd p == .fault then .next (s.takeTrap t fcAccessFault addr (s.thread t).pc (s.wordAt t))
      else if s.blocked vd p 8 || s.divertWait vd addr.toNat then .next (s.rouse vd p)
      else .next (s.waitgeRead t d p addr target (s.wordAt t))
    | _ => .next s

/-- Whether WFI's condition holds (R293): at user level a bit that the mask leaves open, else any bit. -/
def ThreadState.wfiMet (x : ThreadState) : Bool :=
  if x.level == 0 then (BitVec.ofNat 6 x.uipend.toNat &&& x.uimask) != 0 else BitVec.ofNat 6 x.uipend.toNat != 0

def execWfi (s : State) : Out :=
  if s.me.wfiMet then .next s.advance else .next (s.updMe fun x => { x with run := .wfi })

/-- WFI_WAKE: the stall ends, and the thread goes on behind WFI; at user level the interrupt is then taken. -/
def execWfiWake (t : Nat) (s : State) : Out :=
  if 64 ≤ t then .fault .noSuchUnit
  else if (s.thread t).run == .wfi && (s.thread t).wfiMet then
    .next (s.updThread t fun x => { x with run := .running, pc := x.pc + 4 })
  else .next s

/-! ## User-level interrupts (R254, R299, R300) -/

/-- Whether a user-level interrupt is open at a thread's boundary (R300). -/
def ThreadState.interruptOpen (x : ThreadState) : Bool :=
  x.level == 0 && !x.inui && x.uient != 0 && (BitVec.ofNat 6 x.uipend.toNat &&& x.uimask) != 0

/-- A thread that stands at an instruction boundary, or in a wait that an interrupt may end (R291). -/
def ThreadState.atBoundary (x : ThreadState) : Bool :=
  match x.run with
  | .running | .waitc _ _ _ _ | .waitge _ _ _ _ => true
  | _ => false

/-- USER_INTERRUPT_TAKE (R300): pc and mask are saved, the mask closes, and the thread goes to its entry. -/
def execUserInterruptTake (t : Nat) (s : State) : Out :=
  if 64 ≤ t then .fault .noSuchUnit
  else if (s.thread t).interruptOpen && (s.thread t).atBoundary then
    .next (s.updThread t fun x =>
      { x with uepc := x.pc, umask := x.uimask, uimask := 0, inui := true, pc := x.uient, run := .running })
  else .next s

/-! ## Instruction fetch (R273) -/

/-- The pc of a thread resolves to the place its next instruction is fetched from (R273), over a route where that is on another
package (R364). A fetch from memory that sleeps is refused and is no wake: R347 names loads, stores and atomics (DESIGN CHOICE, log 122). -/
def State.fetchPlace (s : State) (t : Nat) : AccRes :=
  match s.resolve (s.whoOf t) (s.thread t).pc .fetch with
  | .fault c => .fault c
  | .ok p l => match s.placeFault (s.vdOfThread t) p false with
    | some c => .fault c
    | none => if (s.sleeper p).isSome then .fault fcVdDormant else .ok p l

/-- Whether a fetch reads a line with an uncorrectable-error mark (R273), or the poison of a package that has failed (R367). -/
def State.fetchMarked (s : State) (vd p : Nat) : Bool := s.poisoned p || s.reach vd p == .dead

/-- INSTRUCTION_FETCH_FAULT: the fault of the fetch, with pc in info; a line with an uncorrectable-error mark is
UncorrectableMemory. Where pc can be fetched there is no such event. -/
def execInstructionFetchFault (s : State) : Out :=
  match s.fetchPlace s.cur.t with
  | .fault c => s.trap c s.me.pc
  | .ok p _ => if s.fetchMarked (s.vdOfThread s.cur.t) p then s.trap fcUncorrectable s.me.pc else .next s

end Sys2Proof.Machine
end

