-- ==== Sys2Proof/Machine/ThreadSys.lean ====
section
/-! DEFINITION. The control core's system instructions that are no tile operations: tasks (R294), RGNCONST (R297), CHAIN
(R298), interrupts, device queries, TRAP and ERET (R299), and the system registers (R57, R108, R255 to R257, R345, R352,
R355). -/
namespace Sys2Proof.Machine

/-! ## Tasks (R294) -/

/-- The device and the cluster of the issuing thread. -/
def State.myVd (s : State) : Nat := s.vdOfThread s.cur.t
def State.myCluster (s : State) : Nat := clusterOfThread s.cur.t

/-- The frame of a task instruction: registers, an operand's alignment (R56 before R273's Poison), then a release at pod
scope. -/
def State.taskOp (s : State) (used clean : List Reg) (aligned : Option Word) (k : State → Out) : Out :=
  let a := aligned.getD 0
  s.withAligned used clean (a.toNat % 64 != 0) a fun _ => if s.me.released then k (s.releaseAt (.thread s.cur.t) [] 5) else .next s

/-- The release of a task instruction (R294): at pod scope, of what the thread has done. -/
def State.taskRel (s : State) : List Release := [s.releaseOf (.thread s.cur.t) [] 5]

/-- TASKPUB: it stalls where too few dependence entries are free (R261). -/
def execTaskpub (d a : Reg) (s : State) : Out :=
  s.taskOp [d, a] [a] (some (s.g a)) fun s =>
    match s.publish s.myVd s.myCluster (s.g a) { thread := s.cur.t, own := true, rel := s.taskRel } with
    | (_, none) => .next s
    | (t, some v) => t.result d (BitVec.ofNat 64 v)

/-- TASKJOIN: only the alignment of S traps. -/
def execTaskjoin (d a b : Reg) (s : State) : Out :=
  s.taskOp [d, a, b] [a, b] (some (s.g b)) fun s =>
    let q := s.joinTask s.myVd s.myCluster s.taskRel (s.g a) (s.g b)
    q.1.result d (BitVec.ofNat 64 q.2)

/-- TASKRES: resolve or reclaim; a RETIRED record traps with DoubleResolve and is unchanged. -/
def execTaskres (d a b : Reg) (s : State) : Out :=
  s.taskOp [d, a, b] [a, b] none fun s =>
    match (s.g b).toNat with
    | 0 => match s.resolveTask s.myVd s.myCluster s.taskRel (s.g a) with
      | (_, .error c) => s.trap c 0
      | (t, .ok v) => t.result d (BitVec.ofNat 64 v)
    | 1 =>
      let q := s.reclaimTask s.myVd s.myCluster (s.g a)
      q.1.result d (BitVec.ofNat 64 q.2)
    | _ => s.trap fcMalformed 0

/-- ETRIG. -/
def execEtrig (d a : Reg) (s : State) : Out :=
  s.taskOp [d, a] [a] none fun s =>
    let q := s.triggerTask s.myVd s.myCluster s.taskRel (s.g a)
    q.1.result d (BitVec.ofNat 64 q.2)

/-! ## Regions: RID operands (R295, R296) and RGNCONST (R297) -/

/-- The region that a RID names for a device: Malformed for set upper bits, a stale generation or a free place,
AccessFault for a region of another device. -/
def State.ridCheck (s : State) (vd : Nat) (v : Word) : Chk Nat :=
  let r := v.toNat % 256
  if 2 ^ 16 ≤ v.toNat || !(s.region r).live || s.rid r != v.toNat then .error fcMalformed
  else if (s.region r).vd != vd then .error fcAccessFault
  else .ok r

/-- RGNCONST: one constants plane of one resident configuration, whole; gd receives the old value. It waits while its
region still loads (log 93). -/
def execRgnconst (d a b : Reg) (s : State) : Out :=
  s.withRegs [d, a, b] [d, a, b] fun _ =>
    match s.ridCheck s.myVd (s.g a) with
    | .error c => s.trap c (s.g a)
    | .ok r =>
      let x := s.region r
      let loc := (s.g b).toNat
      let e := 128 * bitsOf loc 22 14 + bitsOf loc 13 7
      let slot := bitsOf loc 6 2
      let c := loc % 4
      if 2 ^ 32 ≤ (s.g d).toNat || 2 ^ 23 ≤ loc || x.cores.length ≤ e / 128 || !hasTable e || x.confs.length ≤ c then
        s.trap fcMalformed 0
      else if x.status == .loading then .next s
      else
        let old := (Sparse.atD (Sparse.atD (s.elem r e).confs c {}).planes slot {}).const
        let fresh := (Sparse.entry? s.elems (65536 * r + e)).isNone
        let t := s.updElem r e fun y =>
          let y := if fresh then { y with active := x.conf } else y
          { y with confs := Sparse.upd y.confs c {} fun k =>
              { k with planes := Sparse.upd k.planes slot {} fun p => { p with const := BitVec.ofNat 32 (s.g d).toNat } } }
        t.result d (old.setWidth 64)

/-! ## CHAIN (R298) -/

def execChain (d a b : Reg) (s : State) : Out :=
  s.withAligned [d, a, b] [a, b] ((s.g a).toNat % 64 != 0) (s.g a) fun _ =>
    let n := (s.g b).toNat
    if 2 ^ 10 ≤ n then s.trap fcMalformed 0
    else s.room s.me.copies fun _ =>
      if s.me.acquiring then .next s
      else
        let q := 1024 * dieOfCluster s.myCluster + 64 * (n % 16) + n / 16
        if (match s.tailLink q with
          | some (.ok p _) => s.me.ops.any fun o => o.touches p 8
          | _ => false) then .next s
        else match s.appendQueue (.thread s.cur.t) q (s.g a) s.myVd with
        | .error f => s.trap f.1 (BitVec.ofNat 64 f.2)
        | .ok t => (t.pushOp { kind := .copy q (s.g a), dest := 0, ord := 0, scope := 0 }).result d 0

/-! ## Interrupts (R299) -/

/-- UISEND: the sent bit of a thread of the cluster. -/
def execUisend (a : Reg) (s : State) : Out :=
  s.withRegs [a] [] fun _ =>
    let t := 16 * s.myCluster + (s.g a).toNat % 16
    if 16 ≤ (s.g a).toNat then s.trap fcMalformed 0
    else if s.vdOfThread t != s.myVd then s.trap fcAccessFault (s.g a)
    else .next (s.postPend t 0x20).advance

/-- UIMASK: gd := old mask; mask := ga[5:0] OR v. -/
def execUimask (d a : Reg) (v : BitVec 6) (s : State) : Out :=
  s.withRegs [d, a] [] fun _ =>
    let t := s.updMe fun x => { x with uimask := (s.g a).setWidth 6 ||| v }
    t.result d (s.me.uimask.setWidth 64)

/-- UIMASK.ENT: gd := old entry; entry := ga, a multiple of 4. -/
def execUimaskEnt (d a : Reg) (s : State) : Out :=
  s.withAligned [d, a] [a] ((s.g a).toNat % 4 != 0) (s.g a) fun _ =>
    (s.updMe fun x => { x with uient := s.g a }).result d s.me.uient

/-- UIRET: inui must be 1. -/
def execUiret (s : State) : Out :=
  if s.me.inui then .next (s.updMe fun x => { x with pc := x.uepc, uimask := x.umask, inui := false }) else s.illegal

/-! ## Devices (R299, R346) -/

/-- Whether the creator endpoint of device `v` names a thread of a cluster that `own` holds. -/
def State.createdBy (s : State) (v own : Nat) : Bool :=
  match placeOf 1 Config.pod Config.package 0 (s.vd v).creator.toNat with
  | .ok p _ => s.readNat (p + 1) 1 == 1 && (s.vd own).live && (s.vd own).clusters.contains (s.readNat (p + 2) 1 / 16 % 4)
  | .fault _ => false

/-- Whether a thread of device `own` may name device `v`: its own, one that it created and, for VDQUERY, one whose
wakers list it. -/
def State.mayName (s : State) (own v : Nat) (query : Bool) : Bool :=
  (s.vd v).live && (v == own || s.createdBy v own || (query && (s.vd v).wakers.contains (Config.package, own)))

def execVdquery (d a b : Reg) (s : State) : Out :=
  s.withRegs [d, a, b] [] fun _ =>
    let v := (s.g a).toNat
    if 2 ^ 10 ≤ v || 3 ≤ (s.g b).toNat then s.trap fcMalformed 0
    else if !s.mayName s.myVd v true then s.trap fcAccessFault (s.g a)
    else match (s.g b).toNat with
      | 0 => s.result d (BitVec.ofNat 64 (s.vdstate v))
      | 1 => s.result d (s.vd v).counter
      | _ => s.result d (s.vd v).resident

/-! ## TRAP and ERET (R299) -/

/-- TRAP: IllegalInstruction with info 2^63 + v; epc is the next instruction. -/
def execTrap (v : BitVec 15) (s : State) : Out :=
  .next (s.takeTrap s.cur.t fcIllegal (BitVec.ofNat 64 (2 ^ 63 + v.toNat)) (s.me.pc + 4) s.cur.word)

def execEret (s : State) : Out := s.eret

/-! ## System registers (R57) -/

/-- The level from which a register may be read: none where its number is not listed. -/
def sysReadLevel (n : Nat) : Option Nat :=
  match n with
  | 0x001 | 0x002 | 0x004 | 0x010 | 0x030 | 0x040 | 0x050 => some 0
  | 0x003 | 0x005 | 0x006 | 0x020 | 0x051 => some 1
  | _ => none

/-- The level from which a register may be written: none where it has none. -/
def sysWriteLevel (n : Nat) : Option Nat :=
  match n with
  | 0x004 | 0x010 | 0x030 => some 0
  | 0x001 | 0x002 | 0x003 | 0x005 | 0x006 | 0x040 | 0x050 | 0x051 => some 1
  | _ => none

/-- The bits of a register's RW fields. -/
def sysRw (n : Nat) : Word :=
  match n with
  | 0x001 => 0x1FF
  | 0x002 => 7
  | 0x003 | 0x051 => 0xFFFFFFFFFFFFFFFF
  | 0x004 => 0x7F
  | 0x005 | 0x006 => 0xFFFFFFFF
  | 0x040 => 0xFF000000
  | 0x050 => 3
  | _ => 0

/-- The bits of a register's W1C fields. -/
def sysW1c (n : Nat) : Word := if n == 0x010 || n == 0x030 then 0x3F else 0

/-- The bits of a register's RO fields that are not reserved. -/
def sysRo (n : Nat) : Word :=
  match n with
  | 0x010 => 0x0FFFFF00
  | 0x020 => 0xFFFFFF13
  | 0x040 => 0x00FFC0F7
  | _ => 0

/-- BOOTSTAT (R355). -/
def State.bootstat (s : State) : Nat :=
  s.fails % 4 + (if s.boot == .minimal then 16 else 0) +
    ((s.causes[0]?).getD 0).toNat * 2 ^ 8 + ((s.causes[1]?).getD 0).toNat * 2 ^ 16 + ((s.causes[2]?).getD 0).toNat * 2 ^ 24

/-- A register as thread `t` reads it. VDSTATE, XPRED and XPTAB are held per device; a thread of no device reads a free
value. -/
def State.sysRead (s : State) (t n : Nat) : Word :=
  let x := s.thread t
  let v := s.vdOfThread t
  match n with
  | 0x001 => x.tagwin.setWidth 64
  | 0x002 => x.hrank.setWidth 64
  | 0x003 => x.fedge
  | 0x004 => x.msquota.setWidth 64
  | 0x005 => x.wdlim.setWidth 64
  | 0x006 => x.thlim.setWidth 64
  | 0x010 => BitVec.ofNat 64 (s.tstat t)
  | 0x020 => BitVec.ofNat 64 s.bootstat
  | 0x030 => x.uipend.setWidth 64
  | 0x040 => if v == noVd then Config.freeWord s.free else BitVec.ofNat 64 (s.vdstate v)
  | 0x050 => if v == noVd then Config.freeWord s.free else (s.vd v).xpred.setWidth 64
  | _ => if v == noVd then Config.freeWord s.free else (s.vd v).xptab

/-- The limits of a register's RW value (R108, R256, R352). -/
def State.sysLimit (s : State) (t n : Nat) (v : Word) : Bool :=
  match n with
  | 0x001 => 1 ≤ v.toNat && v.toNat ≤ 256
  | 0x004 => 1 ≤ v.toNat && v.toNat ≤ 64
  | 0x050 => !v.getLsbD 0 || (s.vd (s.vdOfThread t)).xptab != 0
  | 0x051 => v.toNat % 32 == 0
  | _ => true

/-- Store a register's RW fields; XPRED's enable set from 0 clears the learned counts (R352). -/
def State.sysStore (s : State) (t n : Nat) (v : Word) : State :=
  let d := s.vdOfThread t
  match n with
  | 0x001 => s.updThread t fun x => { x with tagwin := v.setWidth 32 }
  | 0x002 => s.updThread t fun x => { x with hrank := v.setWidth 32 }
  | 0x003 => s.updThread t fun x => { x with fedge := v }
  | 0x004 => s.updThread t fun x => { x with msquota := v.setWidth 32 }
  | 0x005 => s.updThread t fun x => { x with wdlim := v.setWidth 32 }
  | 0x006 => s.updThread t fun x => { x with thlim := v.setWidth 32 }
  | 0x040 => if d == noVd then s else s.updVd d fun y => { y with idle := v.toNat / 2 ^ 24 % 256 }
  | 0x050 => if d == noVd then s else s.updVd d fun y =>
      { y with xpred := v.setWidth 32, learned := if v.getLsbD 0 && !y.xpred.getLsbD 0 then [] else y.learned }
  | 0x051 => if d == noVd then s else s.updVd d fun y => { y with xptab := v }
  | _ => s

/-- Clear W1C bits (R255, R257). -/
def State.sysClear (s : State) (t n : Nat) (v : Word) : State :=
  match n with
  | 0x010 => s.clearTstat t v.toNat
  | 0x030 => s.updThread t fun x => { x with uipend := x.uipend &&& ~~~(v.setWidth 32) }
  | _ => s

/-- A register takes new RW bits and clears W1C bits: none where a limit is broken. -/
def State.sysPut (s : State) (t n : Nat) (rw clr : Word) : Option State :=
  if s.sysLimit t n rw then some ((s.sysStore t n rw).sysClear t n clr) else none

/-- The frame of a system-register instruction (R56, R57, R273). -/
def State.sysOp (s : State) (level : Option Nat) (used clean : List Reg) (k : Unit → Out) : Out :=
  match level with
  | none => s.illegal
  | some l => if s.me.level.toNat < l then s.trap fcPrivilege 0 else s.withRegs used clean k

/-- Whether a value has a bit outside every field of a register (R256: reserved). -/
def sysReserved (n : Nat) (v : Word) : Bool := (v &&& ~~~(sysRw n ||| sysW1c n ||| sysRo n)) != 0

/-- SYSWR of register `n` (R299): RW fields take the value, W1C bits of the value clear, RO fields stay. -/
def State.sysWrite (s : State) (n : Nat) (a : Reg) : Out :=
  s.sysOp (sysWriteLevel n) [a] [a] fun _ =>
    if sysReserved n (s.g a) then s.trap fcMalformed 0
    else match s.sysPut s.cur.t n (s.g a &&& sysRw n) (s.g a &&& sysW1c n) with
      | none => s.trap fcMalformed 0
      | some t => .next t.advance

def execSysrd (d : Reg) (n : BitVec 15) (s : State) : Out :=
  s.sysOp (sysReadLevel n.toNat) [d] [] fun _ => s.draw.result d (s.sysRead s.cur.t n.toNat)
def execSyswr (a : Reg) (n : BitVec 15) (s : State) : Out := s.sysWrite n.toNat a
/-- TSTAT_WRITE: SYSWR of TSTAT (R257). -/
def execTstatWrite (a : Reg) (s : State) : Out := s.sysWrite 0x010 a
/-- UIPEND_WRITE: SYSWR of UIPEND (R255). -/
def execUipendWrite (a : Reg) (s : State) : Out := s.sysWrite 0x030 a
/-- XPRED_WRITE: SYSWR of XPRED (R352). -/
def execXpredWrite (a : Reg) (s : State) : Out := s.sysWrite 0x050 a

/-- SYSSET: gd := old; RW fields OR ga; W1C fields unchanged. -/
def execSysset (d a : Reg) (n : BitVec 15) (s : State) : Out :=
  s.sysOp (sysWriteLevel n.toNat) [d, a] [a] fun _ =>
    let old := s.sysRead s.cur.t n.toNat
    if sysReserved n.toNat (s.g a) then s.trap fcMalformed 0
    else match s.sysPut s.cur.t n.toNat ((old ||| s.g a) &&& sysRw n.toNat) 0 with
      | none => s.trap fcMalformed 0
      | some t => t.draw.result d old

/-- SYSCLR: gd := old; RW fields AND NOT ga; W1C bits set in ga are cleared. It sets no bit, so a reserved bit of ga is
no fault (R256, R299). -/
def execSysclr (d a : Reg) (n : BitVec 15) (s : State) : Out :=
  s.sysOp (sysWriteLevel n.toNat) [d, a] [a] fun _ =>
    let old := s.sysRead s.cur.t n.toNat
    match s.sysPut s.cur.t n.toNat (old &&& ~~~(s.g a) &&& sysRw n.toNat) (s.g a &&& sysW1c n.toNat) with
    | none => s.trap fcMalformed 0
    | some t => t.draw.result d old

end Sys2Proof.Machine
end

