-- ==== Sys2Proof/Machine/Services.lean ====
section
/-! DEFINITION. The firmware services (R267, R322, R362, R363, R365, R369, R371, R376): a thread that has trapped to machine
level with a service code gets its status in g1 and its result in g2. Status 1, 2 and 3 change nothing; their result is 0
(logs 83, 100). -/
namespace Sys2Proof.Machine

/-- A service ends with a status and a result. -/
def State.answer (s : State) (t status res : Nat) : Out := .next (s.serviceReturn t status res)

/-- Read a record of a device, 64-byte aligned: none where it is not, or where it cannot be read. -/
def State.recordAt (s : State) (t vd a : Nat) : Option Who :=
  let w := hwWho vd (clusterOfThread t)
  if a % 64 != 0 then none
  else match s.hwRead w a 8 with
    | .ok _ => some w
    | .error _ => none

/-- A field of a record; a byte that cannot be read makes the record malformed. -/
def State.field (s : State) (w : Who) (a n : Nat) : Option Nat :=
  match s.hwRead w a n with
  | .ok v => some v
  | .error _ => none

/-! ## SPAN (R363) -/

/-- Member `i` of a span record. -/
def spanMember (v : Nat) : Option SpanMember :=
  if bitsOf v 63 62 != 0 then none
  else some { pkg := bitsOf v 7 0, vd := bitsOf v 17 8, ports := BitVec.ofNat 40 (bitsOf v 57 18), pod := bitsOf v 61 58 }

/-- Read a span record: none where it is malformed. -/
def State.readSpan (s : State) (w : Who) (a : Nat) : Option Span := do
  let m ← s.field w a 2
  let fl ← s.field w (a + 2) 1
  let r0 ← s.field w (a + 3) 5
  let id ← s.field w (a + 8) 8
  let r1 ← s.field w (a + 0x10) 48
  if m == 0 || 4096 < m || 1 < fl || r0 != 0 || id == 0 || r1 != 0 then none
  else
    let ms ← (List.range m).mapM fun i => do
      let v ← s.field w (a + 0x40 + 8 * i) 8
      spanMember v
    some { num := 0, id := BitVec.ofNat 64 id, edge := fl == 1, members := ms, submitted := [], active := false, left := [] }

/-- Whether a listed member exists. -/
def State.memberExists (s : State) (m : SpanMember) : Bool :=
  Config.podHolds m.pod m.pkg &&
    (if m.pkg == Config.package && m.pod == Config.pod then (s.vd m.vd).live && !(s.vd m.vd).dying
     else Config.remoteVd m.pod m.pkg m.vd)

/-- The lowest span number that is not in use. -/
def State.freeSpan (s : State) : Nat :=
  ((List.range (s.spans.length + 1)).find? fun n => !(s.spans.any fun p => p.num == n)).getD 0

/-- Whether every member of a span has submitted its record, and none of this package is in an active span. -/
def State.spanReady (s : State) (p : Span) : Bool :=
  (List.range p.members.length).all fun i => p.submitted.contains i && (p.members[i]?).all fun m =>
    !(m.pkg == Config.package && m.pod == Config.pod) || (s.spanOf m.vd).isNone

/-- Member `i` submits a record: the span with it among those that are not active yet, which becomes active where it was the last
one. -/
def State.submitSpan (s : State) (p : Span) (i : Nat) : State × Span :=
  let same := fun (q : Span) => !q.active && q.id == p.id && q.edge == p.edge && q.members == p.members
  let q := (s.spans.find? same).getD { p with num := s.freeSpan }
  let q := { q with submitted := insertNat i q.submitted }
  let q := { q with active := s.spanReady q }
  ({ s with spans := (s.spans.filter fun (y : Span) => y.num != q.num) ++ [q] }, q)

/-- SPAN: the record is submitted for the caller's member; the span is active once every member has submitted it. -/
def execSpan (t : Nat) (s : State) : Out :=
  s.service t (fun c => c == 0x7F00) fun vd g1 _ =>
    match (s.recordAt t vd g1).bind fun w => s.readSpan w g1 with
    | none => s.answer t 1 0
    | some p =>
      if (s.spanOf vd).isSome then s.answer t 3 0
      else if !(p.members.all s.memberExists) then s.answer t 1 0
      else match p.indexOf Config.pod Config.package vd with
        | none => s.answer t 3 0
        | some i =>
          let u := s.submitSpan p i
          if u.2.active then u.1.answer t 0 u.2.num else u.1.answer t 4 0

/-! ## Windows (R371) -/

/-- The format and the operation of a window: floats add, integer classes wrap (R194). -/
def windowKind (fmt : Nat) (add : Bool) : Bool :=
  if add then fmt == 0 || fmt == 1 else fmt == 4 || fmt == 5

/-- WINOPEN: only the home member's Bextex may open a window. A span has at most 256, each under a number of its own; which numbers its
members on other packages hold is not known here (R371). -/
def execWinopen (t : Nat) (s : State) : Out :=
  s.service t (fun c => c == 0x7F01) fun vd g1 _ =>
    let f := do
      let w ← s.recordAt t vd g1
      let base ← s.field w g1 8
      let len ← s.field w (g1 + 8) 8
      let n ← s.field w (g1 + 0x10) 2
      let fmt ← s.field w (g1 + 0x12) 1
      let op ← s.field w (g1 + 0x13) 1
      let home ← s.field w (g1 + 0x14) 1
      let r0 ← s.field w (g1 + 0x15) 3
      let hd ← s.field w (g1 + 0x18) 8
      let r1 ← s.field w (g1 + 0x20) 32
      if base % 64 != 0 || len % 64 != 0 || len == 0 || 2 ^ 30 < len || !windowKind fmt (bitOf op 1) || 3 < op || r0 != 0 ||
        hd % 64 != 0 || r1 != 0 then none
      else some ({ num := 0, span := 0, vd := vd, base := BitVec.ofNat 64 base, len := len, terms := n + 1, fmt := fmt,
                   dbl := bitOf op 0, intAdd := bitOf op 1, home := home, handler := BitVec.ofNat 64 hd, closing := false } : Window)
    match f with
    | none => s.answer t 1 0
    | some w => match s.spanOf vd with
      | none => s.answer t 3 0
      | some p =>
        let mine := s.windows.filter fun x => x.span == p.num
        let alone := p.members.all fun m => m.pod == Config.pod && m.pkg == Config.package
        let far := if alone then [] else Config.farWindows s.free
        let clash := mine.any fun x => x.vd == vd && overlap (x.base.toNat, x.len) (w.base.toNat, w.len)
        if p.members.length ≤ w.home then s.answer t 1 0
        else if p.indexOf Config.pod Config.package vd != some w.home then s.answer t 3 0
        else if clash then s.answer t 1 0
        else match (List.range 256).find? fun n => !far.contains n && !(mine.any fun x => x.num == n) with
          | none => s.answer t 2 0
          | some n => { s.draw with windows := s.windows ++ [{ w with num := n, span := p.num }] }.answer t 0 n

/-- WINCLOSE waits until no reduction of the window is open. -/
def execWinclose (t : Nat) (s : State) : Out :=
  s.service t (fun c => c == 0x7F02) fun vd g1 _ =>
    match s.spanOf vd with
    | none => s.answer t 3 0
    | some p => match s.windows.find? fun w => w.span == p.num && w.num == g1 with
      | none => s.answer t 1 0
      | some w =>
        if w.vd != vd then s.answer t 3 0
        else if s.windowBusy w.num w.span then
          .next { s with windows := s.windows.map fun x => if x == w then { x with closing := true } else x }
        else (s.removeWindow w.num w.span).answer t 0 0

/-! ## Gangs (R376, R377) -/

/-- Read a member of a gang record: none where it is malformed. -/
def State.gangMember (s : State) (w : Who) (a : Nat) : Option GangMember := do
  let pl ← s.field w a 8
  let d ← s.field w (a + 8) 8
  let k ← s.field w (a + 16) 8
  let im ← s.field w (a + 24) 8
  if bitsOf pl 15 14 != 0 || bitsOf pl 31 29 != 0 || bitsOf pl 63 40 != 0 || d % 64 != 0 || k % 64 != 0 then none
  else some { pkg := bitsOf pl 7 0, cluster := bitsOf pl 9 8, pod := bitsOf pl 13 10,
              spare := if bitOf pl 24 then some (bitsOf pl 28 25, bitsOf pl 23 16) else none, desc := BitVec.ofNat 64 d,
              task := BitVec.ofNat 64 k, image := BitVec.ofNat 64 im, prep := none, go := false, status := 4, region := none }

/-- Read a gang record. -/
def State.readGang (s : State) (w : Who) (vd t a : Nat) : Option Gang := do
  let m ← s.field w a 2
  let r0 ← s.field w (a + 2) 2
  let b ← s.field w (a + 4) 4
  let hd ← s.field w (a + 8) 8
  let r1 ← s.field w (a + 0x10) 48
  if m == 0 || 4096 < m || r0 != 0 || 1000000 < b || hd % 64 != 0 || r1 != 0 then none
  else
    let ms ← (List.range m).mapM fun i => s.gangMember w (a + 0x40 + 32 * i)
    some { vd := vd, record := BitVec.ofNat 64 a, bound := if b == 0 then 10000 else b, handler := BitVec.ofNat 64 hd, members := ms,
           phase := .prepare, thread := some t, since := s.clock }

/-- The device of this package that a span has as its member on a cluster: the cluster's owner, else the first one. -/
def State.spanHere (s : State) (p : Span) (c : Nat) : Option Nat :=
  let l := (List.range p.members.length).filterMap fun i => if p.left.contains i then none else
    (p.members[i]?).bind fun m => if m.pkg == Config.package && m.pod == Config.pod then some m.vd else none
  if l.contains (s.vdOfCluster c) then some (s.vdOfCluster c) else l.head?

/-- RGNLOAD of a gang member (R377): a region of device `v` on the lowest free cores of cluster `c`, under the registers of thread
`t`; none where it has no room, or its descriptor cannot be read. -/
def State.loadMember (s : State) (t v c : Nat) (desc : Word) : Option (State × Nat) :=
  let w := hwWho v c
  match s.readDesc w desc, s.descCores w desc, s.freePlace c with
  | .ok x, .ok n, some p =>
    let f := s.freeCores c v
    if f.length < n then none
    else
      let r := 64 * c + p
      let x := { x with keep := true, fedge := if x.declEdge == 0 then (s.thread t).fedge else x.declEdge, thread := t }
      let u := s.standRegion r x (f.take n)
      some (match u.rankCheck r with
        | (u, true) => (u, r)
        | (u, false) => (u.updRegion r fun y =>
            { y with status := .loaded, load := none, shadowValid := false, loadFault := fcRankCycle }, r))
  | _, _, _ => none

/-- Prepare member `i` of gang `k`, where it is on this package. -/
def State.prepareMember (s : State) (k t v i : Nat) (m : GangMember) : State :=
  if m.pkg != Config.package || m.pod != Config.pod then s
  else
    let v := ((s.spanOf v).bind fun p => s.spanHere p m.cluster).getD v
    match s.loadMember t v m.cluster m.desc with
    | none => s
    | some (u, r) =>
      let put := fun (g : Gang) => { g with members := modifyAt (fun (y : GangMember) => { y with region := some r }) g.members i }
      { u with gangs := modifyAt put u.gangs k }

/-- Prepare every member of gang `k` on this package. -/
def State.prepareGang (s : State) (k t v : Nat) : State :=
  match s.gangs[k]? with
  | none => s
  | some g => (List.range g.members.length).foldl (fun s i => match g.members[i]? with
      | some m => s.prepareMember k t v i m
      | none => s) s

/-- GANG: the launch begins; the thread waits for its end. -/
def execGang (t : Nat) (s : State) : Out :=
  s.service t (fun c => c == 0x7F03) fun vd g1 _ =>
    if s.gangs.any fun g => g.thread == some t then .next s
    else match (s.recordAt t vd g1).bind fun w => s.readGang w vd t g1 with
      | none => s.answer t 1 0
      | some g => match s.spanOf vd with
        | none => s.answer t 3 0
        | some p =>
          if !(g.members.all fun m => p.onPackage m.pod m.pkg) then s.answer t 3 0
          else .next ({ s with gangs := s.gangs ++ [g] }.prepareGang s.gangs.length t vd)

/-! ## Bindings (R322, R369) -/

/-- SBIND. -/
def execSbind (t : Nat) (s : State) : Out :=
  s.service t (fun c => c == 0x7F04) fun vd g1 _ =>
    let p := bitsOf g1 5 0
    if bitsOf g1 63 50 != 0 || bitsOf g1 18 6 != 0 || Config.serdexCount ≤ p then s.answer t 1 0
    else if !s.ownsSerdex vd p then s.answer t 3 0
    else match s.spanOf vd with
      | none => s.answer t 3 0
      | some sp =>
        if (sp.indexOf (bitsOf g1 30 27) (bitsOf g1 26 19) (bitsOf g1 40 31)).isNone then s.answer t 3 0
        else (s.updSerdex p fun x => { x with bind := some (BitVec.ofNat 64 g1) }).answer t 0 0

/-- QBIND. -/
def execQbind (t : Nat) (s : State) : Out :=
  s.service t (fun c => c == 0x7F05) fun vd g1 g2 =>
    let q := 1024 * bitsOf g1 10 10 + 64 * bitsOf g1 3 0 + bitsOf g1 9 4
    let c := bitsOf g1 12 11
    let bind := bitOf g1 13
    if bitsOf g1 63 14 != 0 || bind != (g2 != 0) || g2 % 64 != 0 then s.answer t 1 0
    else if dieOfCluster c != bitsOf g1 10 10 || s.vdOfCluster c != vd || !(s.vd vd).queues.contains q || (s.queue q).run ||
      (s.queue q).stopped then s.answer t 3 0
    else (s.updQueue q fun x => { x with bound := bind, cluster := if bind then c else 0, endpoint := BitVec.ofNat 64 g2 }).answer t 0 0

/-- PBIND. -/
def execPbind (t : Nat) (s : State) : Out :=
  s.service t (fun c => c == 0x7F06) fun vd g1 g2 =>
    let p := 256 * bitsOf g1 8 8 + bitsOf g1 7 0
    if bitsOf g1 63 9 != 0 || bitsOf g1 7 0 == 255 then s.answer t 1 0
    else if !(s.vd vd).ports.contains p then s.answer t 3 0
    else if g2 == 0 then (s.updPort p fun x => { x with bind := none }).answer t 0 0
    else match s.ridCheck vd (BitVec.ofNat 64 g2) with
      | .error c => s.answer t (if c == fcMalformed then 1 else 3) 0
      | .ok r => (s.updPort p fun x => { x with bind := some r }).answer t 0 0

/-- The bitmap of RLIST: the numbers of what a device was assigned on a die. -/
def State.listOf (s : State) (vd : Nat) (ports : Bool) (die : Nat) : List Nat :=
  if ports then ((s.vd vd).ports.filter fun p => p / 256 == die).map (· % 256)
  else ((s.vd vd).queues.filter fun q => q / 1024 == die).map (· % 1024)

/-- RLIST: an area that cannot be written is malformed (log 83). -/
def execRlist (t : Nat) (s : State) : Out :=
  s.service t (fun c => c == 0x7F08) fun vd g1 g2 =>
    let w := hwWho vd (clusterOfThread t)
    let l := s.listOf vd (bitOf g1 0) (bitsOf g1 1 1)
    if bitsOf g1 63 2 != 0 || g2 % 64 != 0 then s.answer t 1 0
    else
      let put := (List.range 2).foldl (fun (c : Chk State) i => do
        let u ← c
        u.hwWrite w (g2 + 64 * i) 64 ((l.filter fun n => n / 512 == i).foldl (fun v n => v + 2 ^ (n % 512)) 0)) (.ok s)
      match put with
      | .ok u => u.answer t 0 l.length
      | .error _ => s.answer t 1 0

/-! ## PART (R267) -/

/-- The plain granules of a cluster that no loaded block holds. -/
def State.plainCount (s : State) (c : Nat) : Nat :=
  (List.range 24).foldl (fun n k => n + ((List.range 1024).filter fun g =>
    (granAt (s.cluster c) k g).part == none && !s.loadedGran c k g).length) 0

/-- Meet a floor: plain granules in the order of R308. -/
def State.meetFloor (s : State) (c p floor : Nat) : Nat → State
  | 0 => s
  | n + 1 =>
    if floor ≤ (partGrans (s.cluster c) p).length then s
    else match s.plainFor c 0 with
      | none => s
      | some k => (s.updCluster c fun x => setPart x k (some p)).meetFloor c p floor n

/-- The granules assigned to a partition. -/
def State.assigned (s : State) (c p : Nat) : Nat := (partGrans (s.cluster c) p).length

/-- Create or resize partition `p` of cluster `c`. -/
def State.setPartition (s : State) (vd c p floor ceil : Nat) : State :=
  let s := s.updCluster c fun x =>
    { x with parts := Sparse.upd x.parts p {} fun y => { y with floor := floor, ceil := ceil, vd := vd, live := true } }
  let s := s.meetFloor c p floor floor
  (s.updCluster c fun x => shrinkTo x p ceil).servePart c p

/-- PART. -/
def execPart (t : Nat) (s : State) : Out :=
  s.service t (fun c => c == 0x7F07) fun vd g1 g2 =>
    let op := bitsOf g1 7 6
    let c := bitsOf g1 5 4
    let p := bitsOf g1 3 0
    let ceil := bitsOf g2 31 16
    let floor := bitsOf g2 15 0
    let x := Sparse.atD (s.cluster c).parts p {}
    let sized := op == 1 || op == 2
    let others := (s.cluster c).parts.foldl (fun n q => if q.1 == p then n else n + q.2.floor) 0
    if bitsOf g1 63 8 != 0 || (sized && (bitsOf g2 63 32 != 0 || 24576 < ceil || ceil < floor)) then s.answer t 1 0
    else if s.vdOfCluster c != vd || x.live != (op != 1) || (x.live && x.vd != vd) then s.answer t 3 0
    else if sized then
      (if 24576 < others + floor || s.plainCount c + s.assigned c p < floor then s.answer t 2 0
       else let u := s.setPartition vd c p floor ceil
            u.answer t 0 (u.assigned c p))
    else if op == 3 then
      let u := if x.queue.isEmpty then s.updCluster c fun y => shrinkTo y p x.floor else s
      u.answer t 0 (u.assigned c p)
    else if !x.queue.isEmpty || (s.cluster c).tiles.any fun y => y.part == p then s.answer t 3 0
    else (s.updCluster c fun y =>
      { (partGrans y p).foldl (fun y k => setPart y k none) y with parts := Sparse.del y.parts p }).answer t 0 0

/-! ## SPANLEAVE and other codes (R362, R365) -/

/-- SPANLEAVE waits until no reduction of the caller's windows is open; meanwhile they close, as WINCLOSE closes them. -/
def execSpanleave (t : Nat) (s : State) : Out :=
  s.service t (fun c => c == 0x7F09) fun vd g1 _ =>
    if g1 != 0 then s.answer t 1 0
    else if (s.spanOf vd).isNone then s.answer t 3 0
    else if s.windowsQuiet vd then (s.leaveSpan vd).answer t 0 0
    else .next { s with windows := s.windows.map fun (x : Window) => if x.vd == vd then { x with closing := true } else x }

/-- FIRMWARE_SERVICE_UNKNOWN: every other code. -/
def execFirmwareServiceUnknown (t : Nat) (s : State) : Out :=
  s.service t (fun c => c < 0x7F00 || 0x7F09 < c) fun _ _ _ => s.answer t 1 0

end Sys2Proof.Machine
end

