-- ==== Sys2Proof/Machine/Loader.lean ====
section
/-! DEFINITION. `ifepel load` (R27 to R31, R247, R302, R303, R306 to R308, R323, R339): what the loader writes for an image, and
when it refuses one. -/
namespace Sys2Proof.Machine

/-! ## Page tables as the loader sees them -/

/-- The last entry that a walk of `va` reads: its place, the entry and its level (R314, R340). -/
def State.lastEntry (s : State) (va : Nat) : Nat → Nat → Option (Nat × Nat × Nat)
  | lvl, t =>
    let off := bitsOf t 47 12 * 4096 + 8 * walkIndex va lvl
    match placeOf (bitsOf t 63 62) Config.pod Config.package (bitsOf t 52 52) off with
    | .fault _ => none
    | .ok p _ =>
      let e := Memory.readN s.mem p 8
      match lvl with
      | 0 => some (p, e, 0)
      | n + 1 =>
        if !bitOf e 0 || pteReserved e || bitOf e 6 || bitOf e 1 || 1 < bitsOf e 63 62 then some (p, e, n + 1)
        else s.lastEntry va n e

/-- The last entry from a device's root. -/
def State.pteOf (s : State) (v va : Nat) : Option (Nat × Nat × Nat) :=
  if rootOk (s.vd v).root.toNat then s.lastEntry va 3 (s.vd v).root.toNat else none

/-- The place of a byte of the device's memory: by its leaf, whose v may be 0 (R339). -/
def State.framePlace (s : State) (v va : Nat) : Option Nat :=
  if 2 ^ 56 ≤ va then none
  else (s.pteOf v va).bind fun (_, e, lvl) =>
    let base := bitsOf e 47 12 * 4096
    if !bitOf e 1 || lvl == 3 || pteReserved e || base % leafBytes e lvl != 0 || 1 < bitsOf e 63 62 then none
    else
      let off := base + va % leafBytes e lvl
      if !s.owned v (bitsOf e 63 62) Config.pod Config.package (bitsOf e 52 52) off then none
      else match placeOf (bitsOf e 63 62) Config.pod Config.package (bitsOf e 52 52) off with
        | .ok p _ => some p
        | .fault _ => none

/-- Write bytes of an image into the frames of its device: none where a page has no frame. -/
def State.loadBytes (s : State) (v va : Nat) : List Byte → Option State
  | [] => some s
  | b :: r => (s.framePlace v va).bind fun p => { s with mem := Memory.write s.mem p b }.loadBytes v (va + 1) r

/-- The leaf of a deferred page gets v = 0, all its other fields as they are (R339). -/
def State.defer (s : State) (v va : Nat) : Option State :=
  (s.pteOf v va).bind fun (p, e, lvl) =>
    if lvl != 0 || bitOf e 6 then none else some { s with mem := Memory.writeN s.mem p 8 (e - e % 2) }

/-! ## The parts of an image as bytes -/

/-- `n` bytes of a value, little-endian. -/
def leBytes (v : Nat) : Nat → List Byte
  | 0 => []
  | n + 1 => BitVec.ofNat 8 v :: leBytes (v / 256) n

/-- A record of a configuration image (R323) with one item. -/
def imageRecord (a kind first pay n : Nat) : List Byte :=
  leBytes (a + kind * 2 ^ 16 + first * 2 ^ 24 + 2 ^ 32) 16 ++ leBytes pay n ++ List.replicate (48 - n) 0

/-- The records of a configuration; one with the reset value of a channel entry where it sets nothing. -/
def confRecords (c : ImgConf) : List (List Byte) :=
  let l := (c.slots.map fun q => imageRecord q.1.toNat 0 q.2.1 (q.2.2.1.toNat + 2 ^ 32 * q.2.2.2.1.toNat + 2 ^ 96 * q.2.2.2.2.toNat) 16) ++
    (c.chans.map fun q => imageRecord q.1.toNat 1 q.2.1 q.2.2.toNat 4) ++
    (c.scales.map fun q => imageRecord q.1.toNat 2 q.2.1 q.2.2.toNat 4) ++
    (c.routes.map fun q => imageRecord q.1.toNat 3 q.2.1 q.2.2.toNat 1)
  if l.isEmpty then [imageRecord 0 1 0 0 4] else l

/-- A configuration image (R323). -/
def confImage (c : ImgConf) : List Byte :=
  let l := confRecords c
  leBytes l.length 4 ++ leBytes c.depth 4 ++ List.replicate 56 0 ++ l.flatten

/-- A configuration list (R250). -/
def confList (g : ImgRegion) : List Byte :=
  (g.confs.map fun c => leBytes c.imageAt.toNat 8 ++
    ((List.range 4).map fun i => leBytes ((c.extents[i]?).getD 1 - 1) 2).flatten).flatten

/-- The number that Bextex grants for partition `k` of an image (R306). -/
def imageNumber (im : Image) (k : Nat) : Nat := ((im.parts[k]?).map fun p => p.2.1).getD 0

/-- The value of a constant expression (R26), with the numbers of the partitions; `>>` shifts zeros in (DESIGN CHOICE, log 122). -/
def evalConst (f : Nat → Nat) : ConstExpr → Word
  | .num v => v
  | .part i => BitVec.ofNat 64 (f i)
  | .add x y => evalConst f x + evalConst f y
  | .sub x y => evalConst f x - evalConst f y
  | .mul x y => evalConst f x * evalConst f y
  | .shl x y => evalConst f x <<< (evalConst f y).toNat
  | .shr x y => evalConst f x >>> (evalConst f y).toNat
  | .band x y => evalConst f x &&& evalConst f y
  | .bor x y => evalConst f x ||| evalConst f y

/-- The partitions that an expression names. -/
def constParts : ConstExpr → List Nat
  | .num _ => []
  | .part i => [i]
  | .add x y | .sub x y | .mul x y | .shl x y | .shr x y | .band x y | .bor x y => constParts x ++ constParts y

/-- Bits of a number replaced: `width` from bit `lo` on. -/
def putBits (old lo width v : Nat) : Nat :=
  old / 2 ^ (lo + width) * 2 ^ (lo + width) + v % 2 ^ width * 2 ^ lo + old % 2 ^ lo

/-- The same in `n` bytes of a list from an offset on, little-endian. -/
def putBytes (l : List Byte) (off n lo width v : Nat) : List Byte :=
  let old := (List.range n).foldr (fun i x => ((l[off + i]?).getD 0).toNat + 256 * x) 0
  (List.range n).foldl (fun l i => modifyAt (fun _ => BitVec.ofNat 8 (putBits old lo width v / 256 ^ i)) l (off + i)) l

/-- The loader writes the value of one expression in which a partition's name is used (R306). -/
def resolveUse (im : Image) (u : NameUse) : Image :=
  let v := (evalConst (imageNumber im) u.expr).toNat
  let w := fun (x : Word) => BitVec.ofNat 64 (putBits x.toNat u.lo u.width v)
  let slot := fun (i : Nat) (k : ImgConf) =>
    { k with slots := modifyAt (fun q => (q.1, q.2.1, (q.2.2.1, q.2.2.2.1, (w (q.2.2.2.2.setWidth 64)).setWidth 32))) k.slots i }
  let task := fun (t : Nat) (f : ImgTask → ImgTask) => { im with tasks := modifyAt f im.tasks t }
  let pair := fun (t i : Nat) (f : Word × Word → Word × Word) => task t fun k =>
    if i < 8 then { k with reads := modifyAt f k.reads i } else { k with writes := modifyAt f k.writes (i - 8) }
  match u.place with
  | .slot r c i => { im with regions := modifyAt (fun (g : ImgRegion) => { g with confs := modifyAt (slot i) g.confs c }) im.regions r }
  | .tile t i => pair t i fun q => (w q.1, q.2)
  | .tileLen t i => pair t i fun q => (q.1, w q.2)
  | .arg t i => task t fun k => if i == 0 then { k with arg0 := w k.arg0 } else { k with arg1 := w k.arg1 }
  | .done t i => task t fun k => if i == 0 then { k with doneAt := w k.doneAt } else { k with doneTarget := w k.doneTarget }
  | .data b off n => { im with datas := modifyAt (fun (d : ImgData) => { d with bytes := putBytes d.bytes off n u.lo u.width v }) im.datas b }

/-- An image with the granted number wherever a partition's name is used (R306). -/
def imageResolved (im : Image) : Image := im.names.foldl resolveUse im

/-- The partmask of region `r`: the partitions whose names its SHALLOC slots use (R306). -/
def imageMask (im : Image) (r : Nat) : Nat :=
  im.names.foldl (fun m u => match u.place with
    | .slot r' c i =>
      let op := (((im.regions[r']?).bind fun g => g.confs[c]?).bind fun k => k.slots[i]?).map fun q => bitsOf q.2.2.1.toNat 31 24
      if r' == r && op == some 0xB0 then (constParts u.expr).foldl (fun m p => m ||| 2 ^ (imageNumber im p % 16)) m else m
    | _ => m) 0

/-- The descriptor of region `r` (R249, R306): the partition numbers and the readers' descriptors are resolved. -/
def descBytes (im : Image) (r : Nat) (g : ImgRegion) : List Byte :=
  let mask := imageMask im r
  let reader := fun (i : Nat) => (((g.readers[i]?).bind fun k => im.regions[k]?).map fun x => x.descAt.toNat).getD 0
  leBytes g.listAt.toNat 8 ++ leBytes g.fedge.toNat 8 ++ leBytes g.mbox.toNat 8 ++ leBytes g.cores 2 ++
    leBytes (g.tagwin - 1) 1 ++ leBytes g.confs.length 1 ++ leBytes g.rank 1 ++
    leBytes ((if g.idem then 1 else 0) + (if g.peek then 2 else 0)) 1 ++ leBytes mask 2 ++
    leBytes (reader 0) 8 ++ leBytes (reader 1) 8 ++ leBytes (reader 2) 8 ++ leBytes (reader 3) 8 ++
    leBytes g.gates.toNat 4 ++ List.replicate 60 0

/-- The successors that the loader appends to task `i`: every task whose `after` names it (R307). -/
def succsOf (im : Image) (i : Nat) : List Word :=
  (im.tasks.filter fun t => (t.after.getD []).contains i).map (·.recAt)

/-- Successor blocks from address `a` on (R60). -/
def blockBytes (a : Nat) : Nat → List Word → List Byte
  | 0, _ => []
  | n + 1, l =>
    let w := l.take 7
    let rest := l.drop 7
    (w.map fun x => leBytes x.toNat 8).flatten ++ List.replicate (8 * (7 - w.length)) 0 ++
      leBytes (if rest.isEmpty then 0 else a + 64) 8 ++ (if rest.isEmpty then [] else blockBytes (a + 64) n rest)

/-- A task record (R58, R303, R307). -/
def taskBytes (im : Image) (i : Nat) (t : ImgTask) : List Byte :=
  let tiles := if t.reads.isEmpty && t.writes.isEmpty then 0 else t.tilesAt.toNat
  let succ := if (succsOf im i).isEmpty then 0 else t.blockAt.toNat
  leBytes (16 * t.prio + (if t.after.isSome then 64 else 0)) 4 ++ leBytes (t.after.getD []).length 4 ++ leBytes succ 8 ++
    leBytes (((im.regions[t.region]?).map fun g => g.descAt.toNat).getD 0) 8 ++ leBytes tiles 8 ++
    leBytes t.doneAt.toNat 8 ++ leBytes t.doneTarget.toNat 8 ++ leBytes t.arg0.toNat 8 ++ leBytes t.arg1.toNat 8

/-- A tile set (R60). -/
def tileBytes (t : ImgTask) : List Byte :=
  let half := fun (l : List (Word × Word)) => (l.take 8).flatMap (fun q => leBytes q.1.toNat 8 ++ leBytes q.2.toNat 8) ++
    List.replicate (16 * (8 - l.length)) 0
  half t.reads ++ half t.writes

/-- Everything that the loader writes into the device's memory: address and bytes. -/
def imageWrites (im : Image) : List (Nat × List Byte) :=
  ((im.regions.zip (List.range im.regions.length)).flatMap fun (g, r) =>
    (g.descAt.toNat, descBytes im r g) :: (g.listAt.toNat, confList g) :: (g.confs.map fun c => (c.imageAt.toNat, confImage c))) ++
  ((List.range im.tasks.length).flatMap fun i => match im.tasks[i]? with
    | none => []
    | some t =>
      let ss := succsOf im i
      [(t.recAt.toNat, taskBytes im i t)] ++
        (if t.reads.isEmpty && t.writes.isEmpty then [] else [(t.tilesAt.toNat, tileBytes t)]) ++
        (if ss.isEmpty then [] else [(t.blockAt.toNat, blockBytes t.blockAt.toNat ss.length ss)])) ++
  (im.datas.map fun d => (if d.space == .hbm || d.space == .commons then d.addr.toNat else d.copyAt.toNat, d.bytes))

/-! ## The refusals -/

/-- The device that the image expects (R31): a wake class of 0 is none asked for (log 89), and a device of any other class than the
one asked for does not meet it, a better one neither (DESIGN CHOICE, log 101). -/
def State.vdMeets (s : State) (v : Nat) (im : Image) : Bool :=
  let d := s.vd v
  im.clusters ≤ d.nclusters && im.hbmgroups ≤ d.ngroups && im.commons ≤ d.commonsLen &&
    (im.wakeclass == 0 || im.wakeclass == d.wclass) && (!im.pinned || d.pinned)

/-- The blocks of an image in the storage of core 0: space, offset, length. -/
def coreBlocks (im : Image) : List (DataSpace × Nat × Nat) :=
  im.datas.filterMap fun d => match d.space with
    | .scratch => some (d.space, bitsOf d.addr.toNat 20 0, d.bytes.length)
    | .abuf | .wbuf => some (d.space, bitsOf d.addr.toNat 22 0, d.bytes.length)
    | _ => none

/-- The address of a block in core storage has the form of R247. -/
def blockForm (d : ImgData) : Bool :=
  let a := d.addr.toNat
  match d.space with
  | .scratch => a / 2 ^ 21 == 0xFC * 2 ^ 35 && a % 64 == 0
  | .abuf => a / 2 ^ 23 == 0x7E00_0000 / 2 ^ 23 && a % 64 == 0
  | .wbuf => a / 2 ^ 23 == 0x3E00_0000 / 2 ^ 23 && a % 64 == 0
  | _ => true

/-- The limit of a space (R161, R247). -/
def spaceLimit : DataSpace → Nat
  | .scratch => Config.sizeScratch
  | .abuf => Config.sizeA
  | .wbuf => Config.sizeW
  | _ => 0

/-- Whether the blocks keep their limits and do not overlap. -/
def blocksApart : List (DataSpace × Nat × Nat) → Bool
  | [] => true
  | b :: r => decide (b.2.1 + b.2.2 ≤ spaceLimit b.1) && !(r.any fun c => c.1 == b.1 && c.2.1 < b.2.1 + b.2.2 && b.2.1 < c.2.1 + c.2.2) &&
      blocksApart r

/-- Whether an `abuf` block touches a granule that a partition holds, in any core of the device's clusters (R247). -/
def State.blockOnShelf (s : State) (v : Nat) (im : Image) : Bool :=
  (s.vd v).clusters.any fun c => (s.cluster c).granules.any fun g => g.2.part.isSome &&
    (coreBlocks im).any fun b => b.1 == .abuf && b.2.2 != 0 && b.2.1 / 4096 ≤ g.1 % 1024 && g.1 % 1024 * 4096 < b.2.1 + b.2.2

/-- Grant the partitions of an image in the device's first cluster, as PART does (R267, R306). -/
def State.grantParts (s : State) (v c : Nat) : List (String × Nat × Nat × Nat) → Option State
  | [] => some s
  | (_, p, floor, ceil) :: r =>
    let used := (s.cluster c).parts.foldl (fun n q => n + q.2.floor) 0
    if 16 ≤ p || (Sparse.atD (s.cluster c).parts p {}).live || ceil < floor || 24576 < ceil || 24576 < used + floor ||
      s.plainCount c < floor then none
    else (s.setPartition v c p floor ceil).grantParts v c r

/-- Whether a page-table entry that the image brings stands in the device's own HBM groups or commons share. -/
def State.ptePlaceOk (s : State) (v p : Nat) : Bool :=
  p % 8 == 0 &&
    (if paSpace p == spCommons then
       (s.vd v).commonsLo ≤ paOff p && paOff p + 8 ≤ (s.vd v).commonsLo + (s.vd v).commonsLen
     else paSpace p < 2 && paOff p < Config.hbmDie && s.owned v 0 Config.pod Config.package (paSpace p) (paOff p))

/-- Load an image into a device: none where it is refused, and then nothing of it is loaded. A region with the peek bit needs the
device's permission (R235). -/
def State.loadImage (s : State) (v : Nat) (im0 : Image) : Option State :=
  let im := imageResolved im0
  let bs := coreBlocks im
  if !s.vdMeets v im || !(im.datas.all blockForm) || !blocksApart bs || s.blockOnShelf v im ||
    (im.regions.any (·.peek) && !Config.peekPermit v) || !(im.ptes.all fun q => s.ptePlaceOk v q.1) || im.tasks.any (fun t => im.regions.length ≤ t.region) then none
  else match (s.vd v).clusters.head? with
    | none => none
    | some c =>
      let s := { s with mem := im.ptes.foldl (fun m q => Memory.writeN m q.1 8 q.2) s.mem }
      do
        let s ← (imageWrites im).foldl (fun (x : Option State) w => x.bind fun s => s.loadBytes v w.1 w.2) (some s)
        let s ← im.datas.foldl (fun (x : Option State) d =>
          if !d.deferred then x
          else (List.range ((d.bytes.length + 4095) / 4096)).foldl (fun (x : Option State) i =>
            x.bind fun s => s.defer v (d.addr.toNat + 4096 * i)) x) (some s)
        let s ← s.grantParts v c im.parts
        some { s with dbg := { s.dbg with images := s.dbg.images ++ [(v, im)] } }

/-- The order of `run` (R307): every task before those that its own `after` names. `n` bounds the tasks left. -/
def runOrder (im : Image) : Nat → List Nat → List Nat
  | 0, l => l
  | n + 1, l =>
    match l.find? fun i => l.all fun j => i == j || !(((im.tasks[j]?).bind (·.after)).getD []).contains i with
    | none => l
    | some i => i :: runOrder im n (l.filter (· != i))

end Sys2Proof.Machine
end

