-- ==== Sys2Proof/Machine/ElemLoops.lean ====
section
/-! DEFINITION. Instructions that keep state from one firing to the next and match their ports by rules of their own:
LOOPGEN, LOOPRET, ACCUM, COMPRESS, TOPK, MERGE2 (R145 to R151), their matched sets, and LOOPGEN's emissions. -/
namespace Sys2Proof.Machine

/-! ## Loops (R145 to R147) -/

/-- Whether some generator of the region governs a context (R146). -/
def State.governed (s : State) (r c : Nat) : Bool :=
  s.elems.any fun p => p.1 / 65536 == r && p.2.gens.any fun g => g.ctx.toNat == c

/-- SetWindowBase (R145): a control token to every element of the region (R50, R146); those to another package are there. -/
def State.setWindowBase (s : State) (r c base : Nat) : State :=
  let ks := (List.range (s.region r).cores.length).filter fun k => !isFar (s.coreOf r (128 * k))
  let es := ks.flatMap fun k => (List.range 96).map fun i => 128 * k + i
  { s with ctl := s.ctl ++ es.map fun a =>
      { r := r, elem := a, ctx := BitVec.ofNat 8 c, base := BitVec.ofNat 16 base } }

/-- The sets of a LOOPGEN slot: none while it is armed, none under a governed context (R146). -/
def State.loopgenSets (s : State) (e : ElemState) (r a slot : Nat) (w : Slot) : List Site :=
  if e.gens.any fun g => g.slot == slot then []
  else (matchedSets e r a slot { w with fire := if w.fire == 3 then 3 else 0 }).filter fun x =>
    !s.governed r (tagCtx x.tag)

/-- LOOPGEN (R145): the firing arms the generator. The lane count of the seed b, which is emitted later, is not compared with the out
channel's (DESIGN CHOICE, log 101: R139 speaks of a, R68 of all operands). -/
def execLoopgen (w : Slot) (s : State) : Out :=
  s.gated w (isComputeElem s.site.a && formOk w [1, 2] fnZero 0 && w.fire != 2) true fun s =>
    let x := s.fin w
    let a := payOf x 0
    let k := (s.site.entry 0).map fun m => m.tok.kind.toNat
    let f := bitsOf a 47 32
    let n := bitsOf a 31 0
    if s.site.poisonAt 0 then s.sitePoison
    else if !sameOut x 0 || (k.getD 0) > 1 || 257 ≤ w.const.toNat || 2 ^ 48 ≤ a || 65536 < n then .next (s.siteMalformed w)
    else if n != 0 && 0xFFFF < f + n - 1 then .next ((s.consume w).siteFault fcTagOverflow 0 0)
    else
      let g : LoopGen :=
        { slot := s.site.slot, ctx := BitVec.ofNat 8 (tagCtx s.site.tag), iter := tagIter s.site.tag, f := f, n := n, j := 0,
          live := [], cap := if w.const.toNat == 0 then (s.region s.site.r).tagwin else w.const.toNat, seq := s.site.seq,
          seed := if w.arityN == 2 then some (BitVec.ofNat 64 (payOf x 1)) else none, poison := s.site.poisonAt 1, past := s.site.past }
      let t := (s.consume w).updElem s.site.r s.site.a fun e => { e with gens := e.gens ++ [g] }
      .next (if n == 0 then t else t.setWindowBase s.site.r (tagCtx s.site.tag) f)

/-- One emission of an armed generator (R145): an iteration where the cap and TAGWIN admit it, or the done token once
every iteration has been admitted and retired. -/
def State.genEmit (s : State) (r a : Nat) (w : Slot) (g : LoopGen) : State :=
  let x := s.region r
  let put := fun (s : State) (g' : LoopGen) => s.updElem r a fun e =>
    { e with gens := replaceFirst (fun q => q.slot == g.slot) (fun _ => g') e.gens }
  let fg := mkTag g.ctx.toNat g.iter
  if g.j < g.n then
    if g.live.length < g.cap && x.inFlight < x.tagwin then
      let s := s.updRegion r fun x => { x with inFlight := x.inFlight + 1, progress := true }
      let s := put s { g with live := insertNat (g.f + g.j) g.live, j := g.j + 1 }
      let p : Word := match g.seed with
        | some v => v
        | none => BitVec.ofNat 64 g.j
      s.emitAt r a g.slot (mkTag g.ctx.toNat (g.f + g.j)) w.d0
        { kind := if g.poison then 7 else 0, pay := p, tag := mkTag g.ctx.toNat (g.f + g.j), seq := g.seq,
          last := g.j + 1 == g.n, chan := w.out, past := g.past }
    else s
  else if g.live.isEmpty then
    let s := s.updElem r a fun e => { e with gens := removeFirst (fun q => q.slot == g.slot) e.gens }
    let s := s.emitAt r a g.slot fg w.d1
      { kind := 0, pay := BitVec.ofNat 64 g.n, tag := fg, seq := g.seq, last := true, chan := w.out,
        past := joinPast g.past g.ends }
    (s.progress r).setWindowBase r g.ctx.toNat 0
  else s

/-- A retire token for iteration `it` of context `c` at a generator (R145): none where the iteration is not live. -/
def genRetire (g : LoopGen) (c it : Nat) : Option LoopGen :=
  if g.ctx.toNat == c && g.live.contains it then some { g with live := g.live.filter fun y => y != it } else none

/-- LOOPRET (R147): a retire token to port p of a LOOPGEN slot by dest0, and a to dest1. -/
def execLoopret (w : Slot) (s : State) : Out :=
  s.flow w (isComputeElem s.site.a && formOk w [1] fnZero 0) [] fun x s =>
    if !w.d0.valid || w.d0.port != 3 || !sameOut x 0 then .next (s.siteMalformed w)
    else
      let t := (s.consume w).emit w .d0 { (s.out w 0) with kind := 6 }
      .next (t.pass w x 0 .d1 id)

/-! ## ACCUM (R148) -/

/-- The oldest entries of a slot by port and tag, for ports a and b. -/
def headsOf (es : List MsEntry) : List (Nat × MsEntry) :=
  (tagsOf es).flatMap fun g => [0, 1].filterMap fun k => (entryAt es k g).map fun m => (k, m)

/-- The sets of an ACCUM slot: an opening b, the a of the next iteration, and a stale a (R148). -/
def accumSets (e : ElemState) (r a slot : Nat) : List Site :=
  (headsOf (entriesOf e slot)).filterMap fun q =>
    let c := q.2.tok.ctx
    let x := mkSite r a slot (tokTag q.2.tok) [q] []
    match e.accums.find? fun z => z.slot == slot && z.ctx == c with
    | none => if q.1 == 1 && e.accums.length < 8 then some x else none
    | some z =>
      if q.1 == 0 && (q.2.tok.iter.toNat + 65536 - z.it0) % 65536 ≤ z.next - z.it0 then some x else none

/-- One application: an exact addition and one encoding per lane; integer lanes wrap (R83, R148). -/
def accumAdd (x : FireIn) (v : Word) : Nat × Nat :=
  let f := x.out.fmt
  let sg := x.w.signed
  if f.cls == .int then
    (ofLanes f ((List.range f.lanes).map fun i =>
      bitsLow f.width (intValue f.width sg (laneOf f v.toNat i) + x.a.ilane sg i)), 0)
  else joinLanes f ((List.range f.lanes).map fun i =>
    let o := decodeLane x.out sg x.outSc i (laneOf f v.toNat i)
    let a := x.a.lane sg i
    let q := encodeLane x.out sg x.outSc i (sumExact x.out.round [o.1, a.1])
    (q.1, q.2 ||| o.2 ||| a.2))

/-- The opening of an accumulation by a b token (R148). The running value is b's lane codes, decoded from then on under the out
channel (its scale register and flush bits), also where b's channel selects another scale register (DESIGN CHOICE, log 101). -/
def State.accumOpen (s : State) (w : Slot) (x : FireIn) : Out :=
  let m := (s.site.ents.head?).map (·.2)
  let kind := (m.map fun m => m.tok.kind.toNat).getD 0
  let pois := kind == 7
  if (kind != 0 && !pois) || x.out.fmt.cls == .raw || (!pois && x.b.fmt != x.out.fmt) then .next (s.siteMalformed w)
  else
    let z : Accum :=
      { slot := s.site.slot, ctx := BitVec.ofNat 8 (tagCtx s.site.tag), it0 := tagIter s.site.tag, next := tagIter s.site.tag,
        seq := s.site.seq, value := BitVec.ofNat 64 x.b.bits, poison := if pois then some (BitVec.ofNat 64 x.b.bits) else none,
        past := s.site.past }
    .next ((s.consume w).updElem s.site.r s.site.a fun e => { e with accums := e.accums ++ [z] })

/-- The accumulation after an a entry; `last` closes it, and so does the 65,536th application (R148). -/
def State.accumStep (s : State) (w : Slot) (z : Accum) : State :=
  let same := fun (q : Accum) => q.slot == z.slot && q.ctx == z.ctx
  let g := mkTag z.ctx.toNat z.it0
  let l := joinPast z.past s.site.past
  if s.site.last then
    let s := s.updElem s.site.r s.site.a fun e => { e with accums := removeFirst same e.accums }
    s.emit w .both { kind := if z.poison.isSome then 7 else 0, pay := z.poison.getD z.value, tag := g, seq := z.seq,
                     last := false, chan := w.out, past := l }
  else if z.it0 + 65535 < z.next + 1 then
    (s.updElem s.site.r s.site.a fun e => { e with accums := removeFirst same e.accums }).siteFault fcTagOverflow 0 0
  else s.updElem s.site.r s.site.a fun e => { e with accums := replaceFirst same (fun _ => { z with next := z.next + 1, past := l }) e.accums }

/-- ACCUM (R148). -/
def execAccum (w : Slot) (s : State) : Out :=
  s.gated w (isComputeElem s.site.a && formOk w [2] (fun n => n ≤ 1) 0 && w.fire != 2) true fun s =>
    let x := s.fin w
    let c := tagCtx s.site.tag
    if !(s.site.ents.any fun q => q.1 == 0) then s.accumOpen w x
    else match (s.elem s.site.r s.site.a).accums.find? fun z => z.slot == s.site.slot && z.ctx.toNat == c with
      | none => .next s
      | some z =>
        if (tagIter s.site.tag + 65536 - z.it0) % 65536 < z.next - z.it0 then .next (s.siteMalformed w)
        else if s.site.poisonAt 0 then
          .next ((s.consume w).accumStep w { z with poison := some (z.poison.getD (BitVec.ofNat 64 x.a.bits)) })
        else if x.out.fmt.cls == .raw || x.a.fmt.cls != x.out.fmt.cls || x.a.fmt.lanes != x.out.fmt.lanes then
          .next (s.siteMalformed w)
        else
          let v := accumAdd x z.value
          .next (((s.consume w).setCauses (s.coreOf s.site.r s.site.a) v.2).accumStep w { z with value := BitVec.ofNat 64 v.1 })

/-! ## COMPRESS and TOPK (R149, R150) -/

/-- The sets of a COMPRESS or TOPK slot: tokens of the row it is taking, or of any row (R149). -/
def rowSets (e : ElemState) (r a slot : Nat) : List Site :=
  let es := (entriesOf e slot).filter fun m => m.tok.port == 0
  let es := match e.rows.find? fun z => z.slot == slot with
    | some z => es.filter fun m => tokTag m.tok == z.tag
    | none => es
  (headsOf es).map fun q => mkSite r a slot (tokTag q.2.tok) [q] []

/-- Insert into a list kept in the order `before`. -/
def insertBy (before : RowElem → RowElem → Bool) (x : RowElem) : List RowElem → List RowElem
  | [] => [x]
  | y :: l => if before x y then x :: y :: l else y :: insertBy before x l

/-- Sort by a strict order that breaks ties by index. -/
def sortBy (before : RowElem → RowElem → Bool) (l : List RowElem) : List RowElem := l.foldr (insertBy before) []

/-- Greatest first under R88, the lower index first among equals. -/
def topBefore (x y : RowElem) : Bool := rankLt y.num x.num || (!rankLt x.num y.num && decide (x.idx < y.idx))
/-- Greatest key first under R89, the lower index first among equals. -/
def magBefore (x y : RowElem) : Bool := magLt y.num x.num || (!magLt x.num y.num && decide (x.idx < y.idx))

/-- An entry's payload (R149). -/
def rowPay (x : RowElem) : Word := BitVec.ofNat 64 (x.bits % 2 ^ 32 * 2 ^ 32 + x.idx % 65536)

/-- The entries that TOPK emits, with its pads, and the count of real ones (R150). -/
def topEntries (k : Nat) (l : List RowElem) : List Word × Nat :=
  let c := (sortBy topBefore l).take k
  (c.map rowPay ++ (List.range (k - c.length)).map fun _ => 0xFF8000000000FFFF#64, c.length)

/-- The entries that COMPRESS emits in ascending index order, and their count (R150). -/
def compressEntries (k : Nat) (l : List RowElem) : List Word × Nat :=
  let c := sortBy (fun x y => decide (x.idx < y.idx)) ((sortBy magBefore l).take k)
  (c.map rowPay, c.length)

/-- Emit a row: entries to dest0, the last with last 1, then the count to dest1 (R149). -/
def State.emitRow (s : State) (w : Slot) (g : BitVec 24) (r : List Word × Nat) (past : Past) : State :=
  let tok := fun (p : Word) (l : Bool) => ({ kind := 0, pay := p, tag := g, seq := 0, last := l, chan := w.out, past := past } : Emission)
  let n := r.1.length
  let s := (r.1.zip (List.range n)).foldl (fun s p => s.emit w .d0 (tok p.1 (p.2 + 1 == n))) s
  s.emit w .d1 (tok (BitVec.ofNat 64 r.2) true)

/-- The elements of one token of a row (R149, R150), with the causes that its scales set. -/
def rowTake (x : FireIn) (w : Slot) (j : Nat) : List RowElem × Nat :=
  let f := x.a.fmt
  let ls := (List.range f.lanes).map fun i => (i, x.a.lane w.signed i)
  (ls.filterMap fun p =>
    if w.flagsN == 1 && p.2.1.isZero then none
    else some { idx := j * f.lanes + p.1, num := p.2.1,
                bits := if f.cls == .float then roundCode .fp32 .rne p.2.1 else bitsLow 32 (x.a.ilane w.signed p.1) },
   ls.foldl (fun m p => m ||| p.2.2) 0)

/-- Whether a token of a row is Malformed (R149). So is one whose lane count differs from that of the row's tokens before it
(DESIGN CHOICE, log 101: the spec gives that no outcome). -/
def rowBad (x : FireIn) (w : Slot) (z : RowSel) : Bool :=
  let f := x.a.fmt
  let k := w.const.toNat
  k == 0 || 256 < k || f.cls == .raw || f == .i64 || (x.out.fmt != .i64 && x.out.fmt != .raw) ||
    (z.lanes != 0 && z.lanes != f.lanes) || 65534 < z.taken * f.lanes + f.lanes - 1

/-- COMPRESS and TOPK: `pick` chooses the entries of a finished row. A token that is Malformed or poison ends the row's
use: what follows of it is consumed and gives nothing. -/
def State.fireRow (s : State) (w : Slot) (choose : Nat → List RowElem → List Word × Nat) : Out :=
  s.gated w (isComputeElem s.site.a && formOk w [1] (fun n => n ≤ 1) 1 && w.fire != 2) true fun s =>
    let x := s.fin w
    let z : RowSel := (((s.elem s.site.r s.site.a).rows.find? fun z => z.slot == s.site.slot)).getD
      { slot := s.site.slot, tag := s.site.tag, taken := 0, lanes := 0, elems := [], dead := false }
    let put := fun (s : State) (z : RowSel) => s.updElem s.site.r s.site.a fun e =>
      let rest := e.rows.filter fun q => q.slot != s.site.slot
      { e with rows := if s.site.last then rest else rest ++ [z] }
    if z.dead then .next (put (s.consume w) z)
    else if s.site.poisonAt 0 then
      .next (put ((s.consume w).emit w .both { (s.out w (BitVec.ofNat 64 x.a.bits)) with kind := 7 }) { z with dead := true })
    else if rowBad x w z then .next (put (s.siteMalformed w) { z with dead := true })
    else
      let t := rowTake x w z.taken
      let z := { z with taken := z.taken + 1, lanes := x.a.fmt.lanes, elems := z.elems ++ t.1, past := joinPast z.past s.site.past }
      let s := put ((s.consume w).setCauses (s.coreOf s.site.r s.site.a) t.2) z
      .next (if s.site.last then s.emitRow w z.tag (choose w.const.toNat z.elems) z.past else s)

/-- COMPRESS (R149, R150). -/
def execCompress (w : Slot) (s : State) : Out := s.fireRow w compressEntries

/-- TOPK (R149, R150). -/
def execTopk (w : Slot) (s : State) : Out := s.fireRow w topEntries

/-! ## MERGE2 (R151) -/

/-- The state of a tag of a MERGE2 slot. -/
def mergeOf (e : ElemState) (slot : Nat) (g : BitVec 24) : MergeSt :=
  (e.merges.find? fun z => z.slot == slot && z.tag == g).getD
    { slot := slot, tag := g, lastA := none, lastB := none, endA := false, endB := false, stopped := false }

/-- The sets of a MERGE2 slot: a poison head alone, else both heads, or the one of the stream that has not ended. -/
def mergeSets (e : ElemState) (r a slot : Nat) : List Site :=
  let es := entriesOf e slot
  (tagsOf es).filterMap fun g =>
    let z := mergeOf e slot g
    let ha := if z.endA then none else entryAt es 0 g
    let hb := if z.endB then none else entryAt es 1 g
    let site := fun l => some (mkSite r a slot g l [])
    if z.stopped then none
    else match ha, hb with
      | some x, some y =>
        if x.tok.kind == 7 then site [(0, x)] else if y.tok.kind == 7 then site [(1, y)] else site [(0, x), (1, y)]
      | some x, none => if z.endB || x.tok.kind == 7 then site [(0, x)] else none
      | none, some y => if z.endA || y.tok.kind == 7 then site [(1, y)] else none
      | none, none => none

/-- The coordinate and the value bits of a MERGE2 token (R151). -/
def mcoord (m : MsEntry) : Nat := bitsOf m.tok.payload.toNat 31 0

/-- Consume heads of the streams: remove the entries, note the coordinates and the ends. -/
def State.mergeTake (s : State) (z : MergeSt) (l : List (Nat × MsEntry)) : State :=
  let z := l.foldl (fun z q =>
    let c := if q.2.tok.kind == 7 || mcoord q.2 == 0xFFFFFFFF then none else some (mcoord q.2)
    if q.1 == 0 then { z with lastA := if c.isSome then c else z.lastA, endA := z.endA || q.2.tok.last }
    else { z with lastB := if c.isSome then c else z.lastB, endB := z.endB || q.2.tok.last }) z
  s.updElem s.site.r s.site.a fun e =>
    let e := dropEnts e l
    { e with merges := (e.merges.filter fun q => !(q.slot == z.slot && q.tag == z.tag)) ++ [z] }

/-- The terminator, once both streams have ended (R151). -/
def State.mergeEnd (s : State) (w : Slot) : State :=
  let z := mergeOf (s.elem s.site.r s.site.a) s.site.slot s.site.tag
  if z.endA && z.endB then
    let s := s.updElem s.site.r s.site.a fun e =>
      { e with merges := e.merges.filter fun q => !(q.slot == z.slot && q.tag == z.tag) }
    s.emit w .both { (s.out w 0xFFFFFFFF) with last := true }
  else s

/-- Whether a head breaks the order of its stream (R151). -/
def outOfOrder (last : Option Nat) (m : MsEntry) : Bool :=
  match last with
  | some c => mcoord m ≤ c
  | none => false

/-- MERGE2 (R151). A token that is Malformed, for the terminator's coordinate or its lane count (R68), is consumed alone, the
other head stays, and its last bit ends its stream (DESIGN CHOICE, log 101). A token carries the last bit of the entry
that R98 names. A head that breaks the order of its stream raises StreamOrder as soon as the set stands, before a lower head of the other
stream is consumed (DESIGN CHOICE, log 101: the spec does not say which comes first). -/
def execMerge2 (w : Slot) (s : State) : Out :=
  s.gated w (isComputeElem s.site.a && formOk w [2] (fun n => n ≤ 1) 0 && w.fire != 2) true fun s =>
    let z := mergeOf (s.elem s.site.r s.site.a) s.site.slot s.site.tag
    let hd := fun k => (s.site.ents.find? fun q => q.1 == k).map (·.2)
    let tok := fun (m : MsEntry) (p : Word) (kind : BitVec 4) =>
      ({ kind := kind, pay := p, tag := s.site.tag, seq := m.tok.seq, last := m.tok.last, chan := w.out,
         past := s.site.past } : Emission)
    let alone := fun (k : Nat) => match hd k with
      | some m => [(k, m)]
      | none => []
    let pois := s.site.ents.find? fun q => q.2.tok.kind == 7
    let x := s.fin w
    let term := s.site.ents.find? fun q => mcoord q.2 == 0xFFFFFFFF || !sameOut x q.1
    let bad := s.site.ents.find? fun q => outOfOrder (if q.1 == 0 then z.lastA else z.lastB) q.2
    match pois, term, bad with
    | some q, _, _ =>
      .next (((s.mergeTake z [q]).emit w (if q.1 == 0 then .d0 else .d1) (tok q.2 q.2.tok.payload 7)).mergeEnd w)
    | none, some q, _ =>
      .next (((s.mergeTake z [q]).siteFault fcMalformed 0 (tokBits q.2.tok)).mergeEnd w)
    | none, none, some q =>
      .next ((s.mergeTake { z with stopped := true } []).siteFault fcStreamOrder 0 (tokBits q.2.tok))
    | none, none, none =>
      let un := w.fnN == 1
      let low := fun (m : MsEntry) => (BitVec.ofNat 64 (mcoord m) : Word)
      match hd 0, hd 1 with
      | some x, some y =>
        if mcoord x == mcoord y then
          .next ((((s.mergeTake z s.site.ents).emit w .d0 (tok x x.tok.payload 0)).emit w .d1 (tok x y.tok.payload 0)).mergeEnd w)
        else if mcoord x < mcoord y then
          let s := s.mergeTake z (alone 0)
          .next ((if un then (s.emit w .d0 (tok x x.tok.payload 0)).emit w .d1 (tok x (low x) 0) else s).mergeEnd w)
        else
          let s := s.mergeTake z (alone 1)
          .next ((if un then (s.emit w .d0 (tok y (low y) 0)).emit w .d1 (tok y y.tok.payload 0) else s).mergeEnd w)
      | some x, none =>
        let s := s.mergeTake z (alone 0)
        .next ((if un then (s.emit w .d0 (tok x x.tok.payload 0)).emit w .d1 (tok x (low x) 0) else s).mergeEnd w)
      | none, some y =>
        let s := s.mergeTake z (alone 1)
        .next ((if un then (s.emit w .d0 (tok y (low y) 0)).emit w .d1 (tok y y.tok.payload 0) else s).mergeEnd w)
      | none, none => .next s

end Sys2Proof.Machine
end

