-- ==== Sys2Proof/Machine/ElemSystem.lean ====
section
/-! DEFINITION. System instructions of compute elements (R152 to R155, R157, R158): stream ports, traps, early triggers,
the end of a step, counter watches and chain appends; and the completion of a watch. -/
namespace Sys2Proof.Machine

/-- The die of the firing's core. -/
def State.siteDie (s : State) : Nat := dieOfCluster (clusterOfCore (s.coreOf s.site.r s.site.a))

/-! ## TOKOUT (R152, R352) -/

/-- Consume the set and raise a fault that carries its first operand token. -/
def State.consumeFault (s : State) (w : Slot) (code info : Nat) : State :=
  (s.consume w).siteFault code info (s.site.firstTok fun _ _ => true)

/-- The port of a TOKOUT: port 255 of the die is the predictor's, open to devices that enabled it (R352). -/
def State.tokPort (s : State) (w : Slot) : Option Nat :=
  let n := w.const.toNat % 512
  let vd := (s.region s.site.r).vd
  if n == 255 then (if bitOf (s.vd vd).xpred.toNat 0 then some (256 * s.siteDie + 255) else none)
  else s.portOf vd s.siteDie n

/-- Operand a as a token: the one that arrived or that its latch holds; a plane or the iteration as a data token of the
firing on the out channel (DESIGN CHOICE, log 101). -/
def State.tokenA (s : State) (w : Slot) (x : FireIn) : Token :=
  match s.site.entry 0 with
  | some m => m.tok
  | none =>
    { rsv := 0, net := false, last := s.site.last, kind := 0, dest := BitVec.ofNat 16 s.site.a, port := 0,
      slot := BitVec.ofNat 5 s.site.slot, chan := w.out, seq := s.site.seq, ctx := BitVec.ofNat 8 (tagCtx s.site.tag),
      iter := BitVec.ofNat 16 (tagIter s.site.tag), payload := BitVec.ofNat 64 (payOf x 0) }

/-- The token that leaves: a with the firing's tag, sequence and last bit, and its place as it arrived. -/
def State.tokLeaves (s : State) (w : Slot) (x : FireIn) : Token :=
  { s.tokenA w x with
    kind := 0, net := true, payload := BitVec.ofNat 64 (payOf x 0), seq := s.site.seq, last := s.site.last,
    ctx := BitVec.ofNat 8 (tagCtx s.site.tag), iter := BitVec.ofNat 16 (tagIter s.site.tag) }

/-- A router output is well formed (R352). -/
def routerOk (p : Nat) : Bool := bitsOf p 63 48 == 0 && bitsOf p 15 14 ≤ 1

/-- Whether a TOKOUT is well formed (R152, R139): port word, no destination, lane count. A valid destination, which R152 excludes
without naming an outcome, makes the firing Malformed (DESIGN CHOICE, log 101). -/
def tokoutOk (w : Slot) (x : FireIn) : Bool := decide (w.const.toNat < 512) && !w.d0.valid && !w.d1.valid && sameOut x 0

/-- TOKOUT (R152): a full port stalls the element (`State.portStalls`). -/
def execTokout (w : Slot) (s : State) : Out :=
  s.flow w (isComputeElem s.site.a && formOk w [1] fnZero 0) [0] fun x s =>
    if !tokoutOk w x then .next (s.siteMalformed w)
    else match s.tokPort w with
      | none => .next (s.consumeFault w fcAccessFault 0)
      | some p =>
        if w.const.toNat == 255 && !routerOk (payOf x 0) then .next (s.siteMalformed w)
        else if !s.portTakes p then .next s
        else
          let t : PortTok := { vd := (s.region s.site.r).vd, r := some s.site.r, tok := s.tokLeaves w x, past := s.site.past }
          let s := (s.consume w).irrevocable s.site.r
          .next (s.setFifo p (s.portFifo p ++ [t]))

/-! ## TRAP, ETRIG, DONE (R153 to R155) -/

/-- TRAP (R153). -/
def execElemTrap (w : Slot) (s : State) : Out :=
  s.flow w (isComputeElem s.site.a && formOk w [1] (fun n => n ≤ 1) 0) [] fun x s =>
    let a := tokBits (s.tokenA w x)
    if 2 ^ 15 ≤ w.const.toNat || !sameOut x 0 then .next ((s.consume w).siteFault fcMalformed 0 a)
    else
      let t := s.siteFault fcIllegal (2 ^ 63 + w.const.toNat) a
      if w.fnN == 1 then .next ((t.consume w).pass w x 0 .both id) else .next (t.stopSlotAt s.site.r s.site.a s.site.slot)

/-- ETRIG (R154): the writes that come before it by a token path are released at its scope, the task is triggered once, a goes on. -/
def execElemEtrig (w : Slot) (s : State) : Out :=
  s.flow w (isComputeElem s.site.a && formOk w [1] (fun n => 1 ≤ n && n ≤ 5) 0) [] fun x s =>
    if !sameOut x 0 then .next (s.siteMalformed w)
    else
      let r := s.site.r
      let y := s.streamAgent r s.site.a s.site.slot
      let t := ((s.consume w).irrevocable r).releaseAt y s.site.past w.fnN
      let q := t.region r
      let t := match q.task with
        | some a => if q.triggered then t
                    else
                      let u := t.triggerTask q.vd (r / 64) [t.releaseOf y s.site.past w.fnN] a
                      u.1.updRegion r fun y => { y with triggered := u.2 == tsTriggered }
        | none => t
      .next (t.pass w x 0 .both id)

/-- The kind-6 token that DONE sends (R155). -/
def doneToken (x : Site) : Token :=
  { rsv := 0, net := false, last := x.last, kind := 6, dest := 0, port := 0, slot := 0, chan := 0, seq := x.seq,
    ctx := BitVec.ofNat 8 (tagCtx x.tag), iter := BitVec.ofNat 16 (tagIter x.tag), payload := 0 }

/-- The sequencer of a region takes a DONE (R155): a second one in the step is Malformed there. -/
def State.takeDone (s : State) (r : Nat) (stop : Bool) (tag : Nat) (tok : Nat) (past : Past) : State :=
  if (s.region r).doneRecv then s.raise r fcMalformed noElem noSlot tag 0 tok
  else s.updRegion r fun y => { y with doneRecv := true, stopFlag := stop, past := joinPast y.past past }

/-- DONE (R155): it goes to the region sequencer, of this package or of the one that steps the region (R368). -/
def execDone (w : Slot) (s : State) : Out :=
  s.flow w (isComputeElem s.site.a && formOk w [1] (fun n => n ≤ 1) 0) [] fun x s =>
    let r := s.site.r
    let t := s.consume w
    if !sameOut x 0 then .next (s.siteMalformed w)
    else if (t.region r).lead.isSome then .next t
    else .next (t.takeDone r (w.fnN == 1) s.site.tag.toNat (tokBits (doneToken s.site)) s.site.past)

/-! ## CNTWATCH (R157) -/

/-- CNTWATCH: all 8 watches in use hold the firing back. -/
def execCntwatch (w : Slot) (s : State) : Out :=
  s.flow w (isComputeElem s.site.a && formOk w [2] (fun n => 1 ≤ n && n ≤ 5) 0) [0, 1] fun x s =>
    let core := s.coreOf s.site.r s.site.a
    if !sameOut x 0 then .next (s.siteMalformed w)
    else if 8 ≤ (s.core core).watches.length then .next s
    else
      let y : Watch :=
        { r := s.site.r, elem := s.site.a, slot := s.site.slot, tag := s.site.tag, seq := s.site.seq, last := s.site.last,
          addr := BitVec.ofNat 64 (payOf x 0), target := BitVec.ofNat 64 (payOf x 1), scope := w.fnN, d0 := w.d0, d1 := w.d1,
          chan := w.out, past := s.site.past }
      .next ((s.consume w).updCore core fun c => { c with watches := c.watches ++ [y] })

/-- COUNTER_WATCH_COMPLETE (R157): the counter has reached the target, or its read faults; the read waits behind a diverted value
(R375, R393) and for memory that sleeps (R394). A drained region's watches are saved with its context. -/
def execCounterWatchComplete (core k : Nat) (s : State) : Out :=
  if 96 ≤ core then .fault .noSuchUnit
  else match (s.core core).watches[k]? with
    | none => .next s
    | some y =>
      let n := y.addr.toNat
      let drop := s.updCore core fun c => { c with watches := removeAt c.watches k }
      let bad := fun (c : Nat) => drop.draw.raise y.r c y.elem y.slot y.tag.toNat n 0
      if !s.regionGoes y.r || (s.region y.r).drained || (s.region y.r).frozenEnd then .next s
      else match s.effAddr y.r y.elem false n 0 8 8 .rd with
        | .fault c => .next (bad c)
        | .ok p _ =>
          let vd := (s.region y.r).vd
          let x := s.streamAgent y.r y.elem y.slot
          if s.blocked vd p 8 || s.divertWait vd n then .next (s.rouse vd p)
          else if s.regMarked y.r p then .next (bad fcPoison)
          else
            let u := s.learn x y.past
            let v := u.agentRead x y.r p 8
            if v < y.target.toNat then .next u.draw
            else
              let t := { u.acquireAt x y.scope p 8 with cores := drop.cores }.draw
              let t := t.touched y.r y.elem y.slot y.tag false n 8
              .next (t.sendOut y.r y.elem y.slot { dst := .dests y.d0 y.d1 y.chan, which := 2, tag := y.tag, seq := y.seq, last := y.last,
                                                   pay := BitVec.ofNat 64 v, poison := false } (t.pastOf x y.past))

/-! ## CHAIN (R158) -/

/-- Whether a destination is a copy-engine gateway with slot 0. -/
def isEngineGate (d : Dest) : Bool := d.valid && 100 ≤ d.elem.toNat % 128 && d.elem.toNat % 128 < 104 && d.slot == 0

/-- CHAIN (R158): the append and the advance of the tail are one step. -/
def execElemChain (w : Slot) (s : State) : Out :=
  s.flow w (isComputeElem s.site.a && formOk w [1] fnZero 0) [0] fun x s =>
    let k := w.const.toNat
    let p := payOf x 0
    if 1024 ≤ k || !isEngineGate w.d0 || w.d1.valid || !sameOut x 0 then .next (s.siteMalformed w)
    else
      let t := (s.consume w).irrevocable s.site.r
      let x := s.streamAgent s.site.r s.site.a s.site.slot
      match t.appendQueue x (1024 * s.siteDie + 64 * (k % 16) + k / 16) (BitVec.ofNat 64 p) (s.region s.site.r).vd with
      | .error f => .next (s.consumeFault w f.1 f.2)
      | .ok u => .next u

end Sys2Proof.Machine
end

