-- ==== Sys2Proof/Machine/Matrix.lean ====
section
/-! DEFINITION. Matrix engines (R80, R81, R85, R86, R163, R173 to R177, R207 to R229): the firings that deliver an
instruction to an engine, the pool and the order of k-steps, operands and scales, the k-step, and the accumulator and
scale instructions. -/
namespace Sys2Proof.Machine

/-! ## Accumulators (R163, R174, R218) -/

def CoreState.acc (c : CoreState) (n : Nat) : AccState := Sparse.atD c.accs n {}
def State.accOf (s : State) (core n : Nat) : AccState := (s.core core).acc n
def State.updAcc (s : State) (core n : Nat) (f : AccState → AccState) : State :=
  s.updCore core fun c => { c with accs := Sparse.put c.accs n (f (c.acc n)) }

/-- The place of word `i` of an accumulator's tile (R163). -/
def accPa (core n i : Nat) : Nat := pa (spC core) (4096 * n + 4 * i)
def State.accWord (s : State) (core n i : Nat) : Nat := s.readNat (accPa core n i) 4
def State.accBad (s : State) (core n i : Nat) : Bool := s.poisonedWord (accPa core n i)
/-- Write a word of a tile whole: its mark clears (R179). -/
def State.setWord (s : State) (core n i v : Nat) : State := (s.writeNat (accPa core n i) 4 v).markWord (accPa core n i) false

/-- A checksum word, and a band scale, of an accumulator. -/
def AccState.row (z : AccState) (i : Nat) : Nat := (Sparse.atD z.rowck i 0).toNat
def AccState.col (z : AccState) (j : Nat) : Nat := (Sparse.atD z.colck j 0).toNat
def AccState.bandOfA (z : AccState) (i : Nat) : Nat := (Sparse.atD z.bandA i 0x3F80).toNat
def AccState.bandOfB (z : AccState) (j : Nat) : Nat := (Sparse.atD z.bandB j 0x3F80).toNat

/-- A list of 32 values as a sparse table without the entries equal to `d`. -/
def sparseOf {n : Nat} (d : Nat) (l : List Nat) : Sparse (BitVec n) :=
  ((List.range l.length).zip l).filterMap fun p => if p.2 == d then none else some (p.1, BitVec.ofNat n p.2)

/-- The indices of row `i`, of column `j`, and of the tile. -/
def rowIdx (i : Nat) : List Nat := (List.range 32).map fun j => 32 * i + j
def colIdx (j : Nat) : List Nat := (List.range 32).map fun i => 32 * i + j

/-- Readout (R81, R219): the exact value with the band scales applied once. -/
def State.readout (s : State) (core n i j : Nat) : Num :=
  let z := s.accOf core n
  ((fp32Value (s.accWord core n (32 * i + j))).mul (bf16Value (z.bandOfA i))).mul (bf16Value (z.bandOfB j))

/-- SCALE_INVALID where a readout of these rows and columns uses an unusable band scale (R74, R219). -/
def bandCause (z : AccState) (rows cols : List Nat) : Nat :=
  if rows.any (fun i => badScale (bf16Value (z.bandOfA i))) || cols.any (fun j => badScale (bf16Value (z.bandOfB j))) then
    causeInvalid else 0

/-- A sum of FP32 words, exact. -/
def sumWords (l : List Nat) : Num := sumExact .rne (l.map fp32Value)

/-- The words of row `i` and of column `j` of a tile. -/
def State.rowWords (s : State) (core n i : Nat) : List Nat := (rowIdx i).map fun k => s.accWord core n k
def State.colWords (s : State) (core n j : Nat) : List Nat := (colIdx j).map fun k => s.accWord core n k

/-- The checksums of a tile re-formed (R222). -/
def State.reform (s : State) (core n : Nat) : State :=
  let f := fun (l : List Nat) => roundCode .fp32 .rne (sumWords l)
  s.updAcc core n fun z => { z with ck := true, verify := none,
                                    rowck := sparseOf 0 ((List.range 32).map fun i => f (s.rowWords core n i)),
                                    colck := sparseOf 0 ((List.range 32).map fun j => f (s.colWords core n j)) }

/-! ## The sequence of k-steps (R175, R215) -/

def MxCmd.isMma (c : MxCmd) : Bool :=
  match c.op with
  | .mma _ _ => true
  | _ => false
/-- Whether an instruction opens an instance: MMA.Z and ACC.WR `.tile` (R215, R221). -/
def MxCmd.opens (c : MxCmd) : Bool :=
  match c.op with
  | .mma z _ => z
  | .accWr el _ => !el
  | _ => false
/-- The accumulator that an instruction names: b[39:32] of MMA (R209), a[7:0] of ACC (R208). -/
def MxCmd.acc (c : MxCmd) : Nat := if c.isMma then bitsOf c.b.toNat 39 32 else c.a.toNat % 256

/-- Raise a fault of an instruction at its issuing firing (R208). -/
def State.mxRaise (s : State) (c : MxCmd) (code info : Nat) : State := s.raise c.r code c.elem c.slot c.tag.toNat info 0

/-- The triggers of an accumulator's open instance that wait in the pools. -/
def waitingOf (c : CoreState) (n : Nat) : List MxCmd :=
  c.pool.filter fun y => y.acc == n && !y.opens && (c.acc n).opened && y.tag == (c.acc n).tag

/-- The held bits (R174, R175). -/
def heldBits (c : CoreState) (n : Nat) : BitVec 16 :=
  (waitingOf c n).foldl (fun b y => if y.seq == (c.acc n).next then b else b ||| (1#16 <<< y.seq.toNat)) 0

/-- After a change of an instance or of the pool: held bits, and openings of the same tag, which are Malformed (R215). -/
def State.settleAcc (s : State) (core n : Nat) : State :=
  let c := s.core core
  let z := c.acc n
  let dup := fun (y : MxCmd) => y.acc == n && y.opens && z.opened && y.tag == z.tag
  let s := s.updCore core fun c =>
    let c := { c with pool := c.pool.filter fun y => !dup y }
    { c with accs := Sparse.put c.accs n { c.acc n with held := heldBits c n } }
  (c.pool.filter dup).foldl (fun s y => s.mxRaise y fcMalformed 0) s

/-- Open an instance (R215): tile and checksums +0, marks cleared. -/
def State.openAcc (s : State) (core n : Nat) (tag : BitVec 24) (next : BitVec 4) (ck : Bool) : State :=
  let lo := accPa core n 0
  let s := { s with mem := s.mem.filter fun q => q.1 < lo || lo + 4096 ≤ q.1
                    poisonW := s.poisonW.filter fun l => l < lo / 4 || lo / 4 + 1024 ≤ l }
  s.updAcc core n fun _ => { tag := tag, next := next, opened := true, ck := ck }

/-- Close an instance (R215): its held k-steps are discarded with Malformed; the tile stays. -/
def State.closeAcc (s : State) (core n : Nat) : State :=
  let c := s.core core
  let gone := fun (y : MxCmd) => (c.acc n).opened && y.acc == n && !y.opens && y.tag == (c.acc n).tag && y.seq != (c.acc n).next
  let s := s.updCore core fun c => { c with pool := c.pool.filter fun y => !gone y }
  let s := s.updAcc core n fun z => { z with opened := false, held := 0 }
  (c.pool.filter gone).foldl (fun s y => s.mxRaise y fcMalformed 0) s

/-! ## Firings (R207 to R211) -/

/-- A channel entry as a word (R46). -/
def chanBits (c : Chan) : BitVec 32 :=
  let m := match c.round with
    | .rne => 0 | .rtz => 1 | .rdn => 2 | .rup => 3
  let f := match c.fmt with
    | .i64 => 0 | .i32 => 1 | .i16 => 2 | .i8 => 3 | .fp32 => 4 | .bf16 => 5 | .fp16 => 6 | .e4m3 => 7 | .e5m2 => 8
    | .e2m1 => 9 | .raw => 10
  BitVec.ofNat 32 (f + 32 * c.scale + 512 * m + (if c.nflush then 2048 else 0) + (if c.f32flush then 4096 else 0) +
    (if c.sat then 8192 else 0))

/-- The issue port that dest0 names, where it keeps R208. -/
def portOfMx (w : Slot) (a : Nat) : Option Nat :=
  let k := w.d0.elem.toNat
  if w.d0.valid && w.d0.port == 0 && w.d0.slot == 0 && k / 128 == a / 128 && 96 ≤ k % 128 && k % 128 ≤ 98 then
    some (k % 128 - 96) else none

/-- The agent of an instruction: an engine acts for the element whose firing issued it (R382). -/
def State.mxAgent (s : State) (c : MxCmd) : Agent := s.streamAgent c.r c.elem c.slot

/-- The typed addresses of a byte of a core's storage (R161): in the form of the own core, and by the core's index. -/
def typedOf (p : Nat) : List Nat :=
  let t := (paSpace p / 128 - 1) % 4 * 2 ^ 30 + paOff p
  [t + 31 * 2 ^ 25, t + paSpace p % 128 % 24 * 2 ^ 25]

/-- Note an access of an engine for `ifepel` (R32), by its typed addresses. -/
def State.mxTouched (s : State) (c : MxCmd) (wr : Bool) (p n : Nat) : State :=
  (typedOf p).foldl (fun s e => s.touched c.r c.elem c.slot c.tag wr e n) s

/-- Deliver an instruction to its engine (R208): the set is consumed. -/
def State.deliverMx (s : State) (w : Slot) (x : FireIn) (mx : Nat) (op : MxOp) : Out :=
  let u := s.unit s.site.r s.site.a
  let sc := fun (c : Chan) => BitVec.ofNat 32 (u.sc c.scale)
  let c : MxCmd :=
    { mx := mx, r := s.site.r, elem := s.site.a, slot := s.site.slot, tag := s.site.tag, seq := s.site.seq, op := op,
      a := BitVec.ofNat 64 (payOf x 0), b := if w.arityN < 2 then 0 else BitVec.ofNat 64 (payOf x 1),
      c := if w.arityN < 3 then 0 else BitVec.ofNat 64 (payOf x 2),
      chA := chanBits (x.op 0).chan, scA := sc (x.op 0).chan, chB := chanBits (x.op 1).chan, chOut := chanBits x.out,
      scOut := sc x.out, const := w.const, outCh := w.out, d1 := w.d1, last := s.site.last, past := s.site.past }
  .next ((s.consume w).updCore (s.coreOf s.site.r s.site.a) fun k => { k with issue := k.issue ++ [c] })

/-- The frame of the matrix instructions (R207, R208): form, gate, poison on any port, dest0, then the instruction's own
checks (`bad`), each Malformed with nothing sent. -/
def State.mxFire (s : State) (w : Slot) (ok : Bool) (bad : FireIn → Bool) (op : MxOp) : Out :=
  s.gated w (isComputeElem s.site.a && ok) false fun s =>
    if s.site.firstPoison.isSome then s.sitePoison
    else match portOfMx w s.site.a with
      | none => .next (s.siteMalformed w)
      | some mx => if bad (s.fin w) then .next (s.siteMalformed w) else s.deliverMx w (s.fin w) mx op

/-- The k of a pair of operand formats (R211): none for a pair that is not listed. -/
def mmaK (a b : Fmt) : Option Nat :=
  let fp8 := fun (f : Fmt) => f == .e4m3 || f == .e5m2
  let half := fun (f : Fmt) => f == .bf16 || f == .fp16
  if fp8 a && fp8 b then some 32
  else if a == .e2m1 && b == .e2m1 then some 64
  else if half a && half b then some 16 else none

/-- Reserved values of an operand plane (R210, R212). -/
def planeBad (k : Nat) : Bool :=
  let half := fun (sw : Bool) (q : Nat) => 5 < q || (sw && 32 * 2 ^ q < 128)
  bitsOf k 31 24 != 0 || half (bitOf k 19) (bitsOf k 18 16) || half (bitOf k 23) (bitsOf k 22 20)

/-- The checks of MMA and MMA.Z at the firing (R209 to R211, R214). -/
def mmaBad (w : Slot) (x : FireIn) : Bool :=
  let a := payOf x 0
  let b := payOf x 1
  let c := if w.arityN < 3 then 0 else payOf x 2
  let kind := bitsOf a 34 32
  let fa := (x.op 0).fmt
  let src := bitsOf a 7 0
  bitsOf a 63 51 != 0 || 3 < kind || bitsOf b 63 40 != 0 || bitsOf c 63 48 != 0 || planeBad w.const.toNat ||
  (mmaK fa (x.op 1).fmt).isNone ||
  (kind % 2 == 0 && bitsOf a 50 35 != 0) ||
  (kind == 2 && (bitsOf a 31 10 != 0 || fa == .e2m1 || src == bitsOf b 39 32 ||
    (if fa == .e4m3 || fa == .e5m2 then 0 else 1) < bitsOf a 9 8))

/-- MMA (R207 to R217). -/
def execMma (w : Slot) (s : State) : Out := s.mxFire w (formOk w [2, 3] fnZero 0) (mmaBad w) (.mma false false)

/-- MMA.Z (R207 to R217). -/
def execMmaZ (w : Slot) (s : State) : Out := s.mxFire w (formOk w [2, 3] fnZero 1) (mmaBad w) (.mma true (w.flagsN == 1))

/-- The out formats of ACC.RD (R219). -/
def readoutFmt (f : Fmt) : Bool := f == .fp32 || f == .bf16 || f == .fp16 || f == .e4m3 || f == .e5m2

/-- ACC.RD (R219). -/
def execAccRd (w : Slot) (s : State) : Out :=
  let m := w.fnN == 1
  s.mxFire w (formOk w [if m then 2 else 1] (fun n => n ≤ 1) 1) (fun x =>
    let a := payOf x 0
    w.const != 0 || !readoutFmt x.out.fmt ||
      (if m then bitsOf a 63 8 != 0 || bitsOf (payOf x 1) 63 32 != 0
       else bitsOf a 63 17 != 0 || 32 / x.out.fmt.lanes ≤ bitsOf a 16 13)) (.accRd m (w.flagsN == 1))

/-- ACC.WR (R221). -/
def execAccWr (w : Slot) (s : State) : Out :=
  let el := w.fnN == 1
  s.mxFire w (formOk w [2] (fun n => n ≤ 1) (if el then 0 else 1)) (fun x =>
    let f := (x.op 1).fmt
    w.const != 0 || bitsOf (payOf x 1) 63 32 != 0 ||
      (if el then bitsOf (payOf x 0) 63 18 != 0
       else bitsOf (payOf x 0) 63 8 != 0 || !(f == .fp32 || f == .bf16 || f == .fp16))) (.accWr el (w.flagsN == 1))

/-- ACC.CVT (R220). -/
def execAccCvt (w : Slot) (s : State) : Out :=
  let k := w.const.toNat
  s.mxFire w (formOk w [3] (fun n => n ≤ 1) 1) (fun x =>
    let c := payOf x 2
    5 < bitsOf k 2 0 || bitsOf k 10 3 == 0 || bitsOf k 31 11 != 0 || bitsOf (payOf x 0) 63 8 != 0 ||
      bitsOf (payOf x 1) 63 32 != 0 || bitsOf c 31 18 != 0 || bitsOf c 63 50 != 0 || x.out.fmt != .e2m1)
    (.accCvt (w.fnN == 1) (w.flagsN == 1))

/-- ACC.CHK (R222). -/
def execAccChk (w : Slot) (s : State) : Out :=
  s.mxFire w (formOk w [1] fnZero 0) (fun x => w.const != 0 || bitsOf (payOf x 0) 63 8 != 0) .accChk

/-- ACC.VFY (R223): the floor is a number not below zero; −0 is accepted. -/
def execAccVfy (w : Slot) (s : State) : Out :=
  let k := w.const.toNat
  let f := bf16Value (bitsOf k 31 16)
  s.mxFire w (formOk w [1] fnZero 0) (fun x =>
    bitsOf k 15 5 != 0 || f.special || (f.sign && !f.isZero) || bitsOf (payOf x 0) 63 8 != 0) .accVfy

/-- ACC.FIX (R225). -/
def execAccFix (w : Slot) (s : State) : Out :=
  s.mxFire w (formOk w [1] fnZero 0) (fun x => w.const != 0 || bitsOf (payOf x 0) 63 8 != 0) .accFix

/-- SCL.LD (R226). -/
def execSclLd (w : Slot) (s : State) : Out :=
  let k := w.const.toNat
  s.mxFire w (formOk w [if w.fnN == 0 then 2 else 1] (fun n => n ≤ 2) 0) (fun x =>
    let a := payOf x 0
    match w.fnN with
    | 0 => bitsOf k 31 6 != 0 || bitsOf a 63 32 != 0 || bitsOf (payOf x 1) 63 18 != 0
    | 1 => bitsOf k 31 4 != 0 || bitsOf a 63 18 != 0
    | _ => k != 0 || bitsOf a 63 5 != 0) (.sclLd w.fnN)

/-! ## Reading operands (R212, R176) -/

/-- What an engine computes: a value, a wait (none), or a fault with its info field. -/
abbrev Mx (α : Type) := Except (Option (Nat × Nat)) α

def mxFault {α : Type} (code info : Nat) : Mx α := .error (some (code, info))
def mxNeed (ok : Bool) (code info : Nat) : Mx Unit := if ok then .ok () else mxFault code info
def mxClear (stall : Bool) : Mx Unit := if stall then .error none else .ok ()

/-- The offsets of the two halves of rows 0 to 31 (R212). -/
def rowHalves (o pitch : Nat) (sw : Bool) : List (Nat × Nat) :=
  (List.range 32).map fun i =>
    if sw then
      let kb := o % pitch
      let at1 := fun (h : Nat) => (o - kb) + i * pitch + 16 * ((kb / 16 + h) ^^^ (i % 8))
      (at1 0, at1 1)
    else (o + i * pitch, o + i * pitch + 16)

/-- Whether an operand's offset is aligned (R212). -/
def halvesAligned (o pitch : Nat) (sw : Bool) : Bool := if sw then o % pitch % 32 == 0 else o % 32 == 0

/-- A row's 32 bytes from the places of its halves, and those that are marked. -/
def State.readRow (s : State) (r : Nat) (h : Nat × Nat) : Nat × List Nat :=
  (s.regRead r h.1 16 + 2 ^ 128 * s.regRead r h.2 16, [h.1, h.2].filter fun p => s.regMarked r p)

/-- The rows of an operand from the places of their halves, with each marked place and its row. -/
def State.readRows (s : State) (r : Nat) (hs : List (Nat × Nat)) : List Nat × List (Nat × Nat) :=
  let rs := hs.map fun h => s.readRow r h
  (rs.map (·.1), ((List.range rs.length).zip rs).flatMap fun q => q.2.2.map fun p => (q.1, p))

/-- The scales of `n` bytes at a list of places, one for each row, with each marked place and its row. -/
def State.readScales (s : State) (r n : Nat) (ps : List Nat) : List Nat × List (Nat × Nat) :=
  (ps.map fun p => s.regRead r p n,
   ((List.range ps.length).zip ps).flatMap fun e => ([e.2, e.2 + n - 1].filter fun q => s.regMarked r q).map fun p => (e.1, p))

/-- The places of an operand at a typed address of the engine's own core (R161, R162, R212): `permit` allows a space and an
offset. -/
def State.typedRows (s : State) (core t pitch : Nat) (sw : Bool) (permit : Nat → Nat → Bool) : Mx (List (Nat × Nat)) := do
  let o := bitsOf t 22 0
  let sp := bitsOf t 31 30
  mxNeed (halvesAligned o pitch sw) fcMisaligned t
  let hs := rowHalves o pitch sw
  let offs := hs.flatMap fun h => [h.1, h.2]
  mxNeed (typedCore core t == some core && offs.all fun f => f + 16 ≤ typedLimit sp && permit sp f) fcAccessFault t
  mxClear (offs.any fun f => s.scoreHit (pa (typedSpace sp core) f) 16)
  .ok (hs.map fun h => (pa (typedSpace sp core) h.1, pa (typedSpace sp core) h.2))

/-- The place of a scale of `n` bytes in a core's scale memory (R177). -/
def scaleAt (core a n : Nat) : Mx Nat := do
  mxNeed (a + n ≤ Config.sizeScale) fcAccessFault a
  .ok (pa (spScale core) a)

/-- The record of a layout slot for a use (R213): kind 0 block, 1 band. -/
def State.layoutRec (s : State) (core q kind : Nat) : Mx Nat := do
  let v := (Sparse.atD (s.core core).layout q 0).toNat
  match layoutFault v with
  | some c => mxFault c 0
  | none => if byteAt v 4 == kind then .ok v else mxFault fcMalformed 0

/-- The places of the band scales of 32 rows from `org` on (R177, R213). -/
def State.bandRows (s : State) (core q org : Nat) : Mx (List Nat) := do
  let v ← s.layoutRec core q 1
  (List.range 32).mapM fun i => do
    mxNeed (org + i < bitsOf v 63 48) fcAccessFault 0
    scaleAt core (bitsOf v 17 0 + 2 * ((org + i) / 64)) 2

/-- The places of the eight block scales of each of 32 rows (R177, R213). -/
def State.blockRows (s : State) (core q org kb : Nat) : Mx (List Nat) := do
  let v ← s.layoutRec core q 0
  mxNeed (kb + 8 ≤ bitsOf v 127 96) fcAccessFault 0
  (List.range 32).mapM fun i => do
    mxNeed (org + i < bitsOf v 63 48) fcAccessFault 0
    scaleAt core (bitsOf v 17 0 + (org + i) * bitsOf v 95 64 + kb) 8

/-- The places of an operand in a shelf tile (R209, R212, R235): kinds 1 and 3. The range comes before the read check
(R230). -/
def State.shelfRows (s : State) (r core h toff pitch : Nat) (sw consume : Bool) : Mx (List (Nat × Nat)) := do
  let cl := clusterOfCore core
  let c := s.cluster cl
  let x := s.region r
  mxNeed (handleOk h) fcMalformed h
  let hs := rowHalves (32 * toff) pitch sw
  let offs := hs.flatMap fun q => [q.1, q.2]
  mxNeed (offs.all fun f => f + 16 ≤ 4096 * hSize h) fcAccessFault h
  mxNeed (consume || x.peek) fcAccessFault h
  match tileOf c h with
  | none => mxFault fcShelfOverRead h
  | some t =>
    match readCheck t x.vd x.desc consume with
    | some e => mxFault e h
    | none =>
      mxClear (consume && !journalRoom c (s.rid r) h)
      let at1 := fun (f : Nat) => pa (spA (24 * cl + t.core)) (4096 * t.gran + f)
      mxClear (offs.any fun f => s.scoreHit (at1 f) 16)
      .ok (hs.map fun q => (at1 q.1, at1 q.2))

/-- A down-converted operand A (R214): codes by row, the marked words with their rows, and the causes. -/
def State.downRows (s : State) (core src slice k : Nat) (ch : Chan) (sc : Nat) : List (List Nat) × List (Nat × Nat) × Nat :=
  let col := fun (p : Nat) => if k == 16 then 16 * slice + p else p
  let cell := fun (i p : Nat) => encodeLane ch false sc 0 (s.readout core src i (col p))
  let rows := (List.range 32).map fun i => (List.range k).map fun p => cell i p
  let bad := (List.range 32).flatMap fun i => ((List.range k).filter fun p => s.accBad core src (32 * i + col p)).map fun p =>
    (i, accPa core src (32 * i + col p))
  let z := s.accOf core src
  (rows.map fun r => r.map (·.1), bad,
   rows.foldl (fun m r => r.foldl (fun m q => m ||| q.2) m) (bandCause z (List.range 32) ((List.range k).map col)))

/-! ## The k-step (R80, R216) -/

/-- What a k-step reads. -/
structure KStep where
  a      : List (List Num)          -- rows of A
  b      : List (List Num)          -- columns of B
  bands  : Option (List Nat × List Nat)
  badA   : List (Nat × Nat)
  badB   : List (Nat × Nat)
  causes : Nat

/-- The values of a row of codes, under block scales where the format has them. -/
def rowVals (ch : Chan) (codes : List Nat) (blocks : Nat) : List Num :=
  ((List.range codes.length).zip codes).map fun q => decodeNoBand ch (byteAt blocks (q.1 / 8)) q.2

/-- The codes of a row of 32 bytes (R212). -/
def rowCodes (f : Fmt) (v : Nat) : List Nat := (List.range (256 / f.width)).map fun p => laneOf f v p

/-- Rows of codes as values. -/
def allVals (ch : Chan) (rows : List (List Nat)) (blocks : List Nat) : List (List Num) :=
  ((List.range rows.length).zip rows).map fun q => rowVals ch q.2 ((blocks[q.1]?).getD 0)

/-- Where a k-step reads: the halves of B's columns and of A's rows (none for a down-converted A), the scales of each row. -/
structure KPlaces where
  a    : Option (List (Nat × Nat))
  b    : List (Nat × Nat)
  ablk : List Nat
  bblk : List Nat
  ba   : List Nat
  bb   : List Nat

/-- The places of a k-step (R175, R216), or what stops it: B and the scales, then A. `capture` says that it takes the band
scales. -/
def State.kPlaces (s : State) (core : Nat) (c : MxCmd) (capture : Bool) : Mx KPlaces := do
  let ca := Chan.ofBits c.chA.toNat
  let cb := Chan.ofBits c.chB.toNat
  let a := c.a.toNat
  let k := c.const.toNat
  let o := c.c.toNat
  let kind := bitsOf a 34 32
  let fp4 := ca.fmt == .e2m1
  let vd := (s.region c.r).vd
  let plain := fun (sp f : Nat) => sp == 0 || (sp == 1 && (granAt (s.cluster (clusterOfCore core)) (core % 24) (f / 4096)).part.isNone
    && s.vdOfCore core == vd)
  let b ← s.typedRows core (bitsOf c.b.toNat 31 0) (32 * 2 ^ bitsOf k 22 20) (bitOf k 23) plain
  let bblk ← if fp4 then s.blockRows core (bitsOf k 11 8) (bitsOf o 47 32) (bitsOf o 15 0) else .ok []
  let ablk ← if fp4 then s.blockRows core (bitsOf k 3 0) (bitsOf o 31 16) (bitsOf o 15 0) else .ok []
  let bb ← if capture && cb.fmt.scaled then s.bandRows core (bitsOf k 15 12) (bitsOf o 47 32) else .ok []
  let ba ← if capture && ca.fmt.scaled && kind != 2 then s.bandRows core (bitsOf k 7 4) (bitsOf o 31 16) else .ok []
  let pitch := 32 * 2 ^ bitsOf k 18 16
  let own := fun (sp f : Nat) => sp == 1 && s.granulesOk vd (some (s.rid c.r)) core f 16
  let ra ← match kind with
    | 0 => (s.typedRows core (bitsOf a 31 0) pitch (bitOf k 19) own).map some
    | 2 => .ok none
    | _ => (s.shelfRows c.r core (bitsOf a 31 0) (bitsOf a 50 35) pitch (bitOf k 19) (kind == 1)).map some
  .ok { a := ra, b := b, ablk := ablk, bblk := bblk, ba := ba, bb := bb }

/-- The 64-byte lines of a k-step's places. -/
def KPlaces.lines (k : KPlaces) : List Nat :=
  let hs := (k.a.getD []) ++ k.b
  ((hs.flatMap fun h => [h.1, h.2]) ++ k.ba ++ k.bb ++ (k.ablk ++ k.bblk).flatMap fun p => [p, p + 7]).foldl
    (fun l p => insertNat (p / 64) l) []

/-- What a k-step reads at its places. -/
def State.kRead (s : State) (core : Nat) (c : MxCmd) (capture : Bool) (k : KPlaces) : KStep :=
  let ca := Chan.ofBits c.chA.toNat
  let cb := Chan.ofBits c.chB.toNat
  let a := c.a.toNat
  let b := s.readRows c.r k.b
  let bblk := s.readScales c.r 8 k.bblk
  let ablk := s.readScales c.r 8 k.ablk
  let ones := List.replicate 32 0x3F80
  let bb := if capture && cb.fmt.scaled then s.readScales c.r 2 k.bb else (ones, [])
  let ba := if capture && ca.fmt.scaled then
      (if bitsOf a 34 32 == 2 then (List.replicate 32 (bitsOf c.scA.toNat 31 16), []) else s.readScales c.r 2 k.ba)
    else (ones, [])
  let ra : List (List Nat) × List (Nat × Nat) × Nat := match k.a with
    | some hs =>
      let q := s.readRows c.r hs
      (q.1.map (rowCodes ca.fmt), q.2, 0)
    | none => s.downRows core (bitsOf a 7 0) (bitsOf a 9 8) (256 / ca.fmt.width) ca c.scA.toNat
  { a := allVals ca ra.1 ablk.1, b := allVals cb (b.1.map (rowCodes cb.fmt)) bblk.1,
    bands := if capture then some (ba.1, bb.1) else none,
    badA := ra.2.1 ++ ablk.2 ++ ba.2, badB := b.2 ++ bblk.2 ++ bb.2, causes := ra.2.2 }

/-! The lines of a k-step are read one by one, in a free order, before it is applied: of each, before or after a store that no
token path orders (R176, R182, R386). -/

/-- A line as the agent of an instruction sees it. -/
def State.seeLine (s : State) (c : MxCmd) (l : Nat) : SeenLine :=
  { line := l, v := s.agentRead (s.mxAgent c) c.r (64 * l) 64, bad := s.regMarked c.r (64 * l) }

/-- An instruction reads after what precedes its trigger on a token path (R176). -/
def State.mxLearn (s : State) (c : MxCmd) : State := s.learn (s.mxAgent c) c.past

/-- A k-step of kind 1 or 3 acquires as SHLD does (R235). -/
def State.mxAcquire (s : State) (core : Nat) (c : MxCmd) : State :=
  if bitsOf c.a.toNat 32 32 == 0 then s
  else match tileOf (s.cluster (clusterOfCore core)) (bitsOf c.a.toNat 31 0) with
    | some t => s.tileLearn (s.elemAgent c.r c.elem) (clusterOfCore core) t
    | none => s

/-- The state in which a line holds what was read of it. -/
def State.putSeen (s : State) (r : Nat) (y : SeenLine) : State :=
  let away := fun (b : Sparse Byte) => b.filter fun q => q.1 / 64 != y.line
  { s.writeNat (64 * y.line) 64 y.v with
    poison := if y.bad then insertNat y.line s.poison else s.poison.filter (· != y.line) }.updRegion r fun x =>
      { x with storeBuf := away x.storeBuf, storePoison := x.storePoison.filter (· != y.line) }

/-- The state as a k-step has read it. -/
def State.seenBy (s : State) (c : MxCmd) : State := c.seen.foldl (fun s y => s.putSeen c.r y) s

/-- The lines, of a list, that an instruction has still to read. -/
def linesLeft (c : MxCmd) (l : List Nat) : List Nat := l.filter fun l => !(c.seen.any fun y => y.line == l)

/-- Change an instruction at the head of an issue port, or in the pool. -/
def State.putMx (s : State) (core : Nat) (c c' : MxCmd) : State :=
  s.updCore core fun k => { k with issue := replaceFirst (· == c) (fun _ => c') k.issue, pool := replaceFirst (· == c) (fun _ => c') k.pool }

/-- Read one more line for an instruction: one of those left, in a free order. -/
def State.seeOne (s : State) (core : Nat) (c : MxCmd) (left : List Nat) : State :=
  let l := (left[Config.choice s.free % left.length]?).getD 0
  let t := s.mxLearn c
  ((t.putMx core c { c with seen := c.seen ++ [t.seeLine c l] }).mxTouched c false (64 * l) 64).draw

/-- The products of element (i, j) (R216). -/
def products (d : KStep) (i j : Nat) : List Num :=
  (((d.a[i]?).getD []).zip ((d.b[j]?).getD [])).map fun q => q.1.mul q.2

/-- One word and its products, summed exactly and rounded once (R80). -/
def addProducts (w : Nat) (l : List Num) : Nat := roundCode .fp32 .rne (sumExact .rne (fp32Value w :: l))

/-- Write the updated words of a tile: their marks stay (R228). -/
def State.addTile (s : State) (core n : Nat) (d : KStep) : State :=
  (List.range 1024).foldl (fun (t : State) k =>
    t.writeNat (accPa core n k) 4 (addProducts (s.accWord core n k) (products d (k / 32) (k % 32)))) s

/-- Update the checksums (R216). -/
def State.addChecks (s : State) (core n : Nat) (d : KStep) : State :=
  s.updAcc core n fun z =>
    if !z.ck then z
    else { z with
      rowck := sparseOf 0 ((List.range 32).map fun i => addProducts (z.row i) ((List.range 32).flatMap fun j => products d i j))
      colck := sparseOf 0 ((List.range 32).map fun j => addProducts (z.col j) ((List.range 32).flatMap fun i => products d i j)) }

/-- Mark the words that bad bytes reach (R228). -/
def State.markTile (s : State) (core n : Nat) (d : KStep) : State :=
  let ks := (List.range 1024).filter fun k => (d.badA.any fun q => q.1 == k / 32) || d.badB.any fun q => q.1 == k % 32
  ks.foldl (fun s k => s.markWord (accPa core n k) true) s

/-- UncorrectableMemory once for each bad line or word (R228). -/
def State.mxUnc (s : State) (c : MxCmd) (ps : List Nat) : State :=
  ((ps.map poisonPayload).eraseDups).foldl (fun s v => s.mxRaise c fcUncorrectable v.toNat) s

/-- Send a token to dest1 of the issuing slot (R208). -/
def State.mxReply (s : State) (c : MxCmd) (kind : BitVec 4) (pay : Nat) : State :=
  s.emitAt c.r c.elem c.slot c.tag c.d1
    { kind := kind, pay := BitVec.ofNat 64 pay, tag := c.tag, seq := c.seq, last := c.last, chan := c.outCh,
      past := s.pastOf (s.mxAgent c) c.past }

/-- The shelf's part of an applied k-step of kind 1 (R235 step 5). -/
def State.mxConsume (s : State) (core : Nat) (c : MxCmd) : State :=
  if bitsOf c.a.toNat 34 32 != 1 then s
  else
    let x := s.region c.r
    let rid := s.rid c.r
    let cl := clusterOfCore core
    s.updCluster cl fun k => match tileOf k (bitsOf c.a.toNat 31 0) with
      | some t => settleTile (s.savedNames cl) (consumeRead k t rid (chargeOf t x.desc)) t.handle
      | none => k

/-- Apply a k-step whose operands are read (R216, R217). -/
def State.applyK (s : State) (core n : Nat) (c : MxCmd) (d : KStep) : State :=
  let s := match c.op with
    | .mma true ck => s.openAcc core n c.tag c.seq ck
    | _ => s
  let s := match d.bands with
    | some (ba, bb) => s.updAcc core n fun z => { z with bands := true, bandA := sparseOf 0x3F80 ba, bandB := sparseOf 0x3F80 bb }
    | none => s
  let s := ((s.addTile core n d).addChecks core n d).markTile core n d
  let s := s.updAcc core n fun z => { z with verify := none, next := z.next + 1 }
  let s := s.updCore core fun k => { k with pool := removeFirst (· == c) k.pool }
  let s := (s.mxConsume core c).setCauses core d.causes
  let s := s.mxUnc c ((d.badA ++ d.badB).map (·.2))
  ((s.mxReply c 0 n).settleAcc core n).progress c.r

/-- The k-step of an accumulator that may be applied: the eligible one of the open instance, or the first MMA.Z (R175,
R215). -/
def nextK (c : CoreState) (n : Nat) : Option MxCmd :=
  let z := c.acc n
  c.pool.find? fun y => y.isMma && y.acc == n && (if z.opened then !y.opens && y.tag == z.tag && y.seq == z.next else y.opens)

/-- Whether an instruction delivered to an engine goes on: its region is active, running and not throttled. A region that
`ifepel` has stopped fires nothing and issues no request (R32), and what it has delivered to its engines is performed (R248). -/
def State.mxGoes (s : State) (r : Nat) : Bool :=
  let x := s.region r
  x.live && x.status == .running && x.activeNow && !x.throttled

/-- KSTEP_APPLY (R216): the next k-step reads a line that it has not read yet, or, with all of them read, is applied; one that
faults is discarded and next does not advance. -/
def execKstepApply (core n : Nat) (s : State) : Out :=
  if Config.coreCount ≤ core || 256 ≤ n then .fault .noSuchUnit
  else match nextK (s.core core) n with
    | none => .next s
    | some c =>
      let cap := c.opens || !(s.accOf core n).bands
      if !s.mxGoes c.r then .next s
      else match s.kPlaces core c cap with
        | .error none => .next s
        | .error (some (code, info)) =>
          let t := s.updCore core fun k => { k with pool := removeFirst (· == c) k.pool }
          .next ((t.mxRaise c code info).settleAcc core n)
        | .ok k =>
          let l := linesLeft c k.lines
          if l.isEmpty then .next (s.applyK core n c ((s.seenBy c).kRead core c cap k))
          else .next ((s.mxAcquire core c).seeOne core c l)

/-- The instruction at the head of an engine's issue port. -/
def headOf (c : CoreState) (mx : Nat) : Option MxCmd := c.issue.find? fun y => y.mx == mx

/-- Whether an engine's pool is full (R175). -/
def poolFull (c : CoreState) (mx : Nat) : Bool := decide (64 ≤ (c.pool.filter fun y => y.mx == mx).length)

/-- Take the head of an issue port. -/
def State.popMx (s : State) (core mx : Nat) : State :=
  s.updCore core fun c => { c with issue := removeFirst (fun (y : MxCmd) => y.mx == mx) c.issue }

/-- KSTEP_TRIGGER_ARRIVAL (R175, R215): the trigger at the head of an issue port enters the pool; a set held bit and a
full pool stall the port. -/
def execKstepTriggerArrival (core mx : Nat) (s : State) : Out :=
  if Config.coreCount ≤ core || 3 ≤ mx then .fault .noSuchUnit
  else match headOf (s.core core) mx with
    | none => .next s
    | some c =>
      let z := s.accOf core c.acc
      let mine := z.opened && z.tag == c.tag
      if !c.isMma || !s.mxGoes c.r then .next s
      else if c.opens && mine then .next ((s.popMx core mx).mxRaise c fcMalformed 0)
      else if poolFull (s.core core) mx || (mine && c.seq != z.next && z.held.getLsbD c.seq.toNat) then .next s
      else .next (((s.popMx core mx).updCore core fun k => { k with pool := k.pool ++ [c] }).settleAcc core c.acc)

/-! ## Accumulator and scale instructions (R219 to R226) -/

/-- What an instruction performed gives: the state and its token to dest1. -/
abbrev MxOut := Mx (State × BitVec 4 × Nat)

/-- Close where the `.cl` flag asks for it. -/
def State.closeIf (s : State) (core n : Nat) (cl : Bool) : State := if cl then s.closeAcc core n else s

/-- ACC.RD `.tok` (R219, R228); each marked word that it reads raises UncorrectableMemory (R179). -/
def State.accTok (s : State) (core : Nat) (c : MxCmd) (cl : Bool) : MxOut :=
  let ch := Chan.ofBits c.chOut.toNat
  let n := c.acc
  let i := bitsOf c.a.toNat 12 8
  let cols := (List.range ch.fmt.lanes).map fun l => bitsOf c.a.toNat 16 13 * ch.fmt.lanes + l
  let vs := ((List.range cols.length).zip cols).map fun q => encodeLane ch false c.scOut.toNat q.1 (s.readout core n i q.2)
  let causes := vs.foldl (fun m v => m ||| v.2) (bandCause (s.accOf core n) [i] cols)
  let bad := (cols.filter fun j => s.accBad core n (32 * i + j)).map fun j => accPa core n (32 * i + j)
  let t := ((s.setCauses core causes).mxUnc c bad).closeIf core n cl
  match bad with
  | p :: _ => .ok (t, 7, (poisonPayload p).toNat)
  | [] => .ok (t, 0, ofLanes ch.fmt (vs.map (·.1)))

/-- The place of a typed destination in the core's own A-buffer (R162, R172), as a unit of the issuing region. -/
def State.ownA (s : State) (core : Nat) (c : MxCmd) (t n : Nat) : Mx Nat := do
  let o := bitsOf t 22 0
  mxNeed (bitsOf t 31 30 == 1 && typedCore core t == some core && o + n ≤ Config.sizeA &&
    s.granulesOk (s.region c.r).vd (some (s.rid c.r)) core o n) fcAccessFault t
  mxClear (s.scoreHit (pa (spA core) o) n)
  .ok (pa (spA core) o)

/-- What an instruction that writes memory piece by piece begins: the state and the pieces. -/
abbrev MxBegin := Mx (State × List MxPiece)

/-- The marked words of a tile. -/
def State.badWords (s : State) (core n : Nat) : List Nat := ((List.range 1024).filter fun k => s.accBad core n k).map (accPa core n)

/-- ACC.RD `.mem` (R219): the tile is read, and the instance closed where `.cl` asks for it, at one point in the sequence of k-steps;
the values are written line by line; each marked word raises UncorrectableMemory (R179). -/
def State.accMem (s : State) (core : Nat) (c : MxCmd) (cl : Bool) : MxBegin := do
  let ch := Chan.ofBits c.chOut.toNat
  let n := c.acc
  let lb := ch.fmt.width / 8
  let t := c.b.toNat
  mxNeed (t % 64 == 0) fcMisaligned t
  let p ← s.ownA core c t (1024 * lb)
  let vs := (List.range 1024).map fun k =>
    encodeLane ch false c.scOut.toNat (k % ch.fmt.lanes) (s.readout core n (k / 32) (k % 32))
  let causes := vs.foldl (fun m v => m ||| v.2) (bandCause (s.accOf core n) (List.range 32) (List.range 32))
  let m := 64 / lb
  let ps := (List.range (16 * lb)).map fun l =>
    ({ p := p + 64 * l, n := 64, v := ofLanes ch.fmt (((vs.drop (m * l)).take m).map (·.1)),
       bad := (List.range m).any fun k => s.accBad core n (m * l + k) } : MxPiece)
  .ok (((s.setCauses core causes).mxUnc c (s.badWords core n)).closeIf core n cl, ps)

/-- ACC.WR `.el` (R221). -/
def State.accEl (s : State) (core : Nat) (c : MxCmd) : MxOut :=
  let n := c.acc
  .ok ((s.setWord core n (bitsOf c.a.toNat 17 8) (bitsOf c.b.toNat 31 0)).updAcc core n fun z => { z with verify := none }, 0, n)

/-- A typed source of ACC.WR `.tile` and SCL.LD `.data`: W-buffer or A-buffer of the own core (R162). -/
def State.ownSrc (s : State) (core : Nat) (c : MxCmd) (t n : Nat) : Mx Nat := do
  let o := bitsOf t 22 0
  let sp := bitsOf t 31 30
  mxNeed (sp ≤ 1 && typedCore core t == some core && o + n ≤ typedLimit sp &&
    (sp == 0 || s.granulesOk (s.region c.r).vd (some (s.rid c.r)) core o n)) fcAccessFault t
  mxClear (s.scoreHit (pa (typedSpace sp core) o) n)
  .ok (pa (typedSpace sp core) o)

/-- The first byte of the source of ACC.WR `.tile` (R221): it waits while another instance is open. -/
def State.tileSrc (s : State) (core : Nat) (c : MxCmd) : Mx Nat := do
  let t := c.b.toNat
  mxNeed (t % 64 == 0) fcMisaligned t
  let p ← s.ownSrc core c t (128 * (Chan.ofBits c.chB.toNat).fmt.width)
  let z := s.accOf core c.acc
  mxNeed (!(z.opened && z.tag == c.tag)) fcMalformed 0
  mxClear z.opened
  .ok p

/-- ACC.WR `.tile` (R221), its source lines read: it opens an instance as MMA.Z does. -/
def State.accTile (s : State) (core : Nat) (c : MxCmd) (ck : Bool) : MxOut := do
  let ch := Chan.ofBits c.chB.toNat
  let n := c.acc
  let w := ch.fmt.width
  let p ← s.tileSrc core c
  let seen := s.seenBy c
  let v := seen.regRead c.r p (128 * w)
  let u := s.openAcc core n c.tag (c.seq + 1) ck
  let u := (List.range 1024).foldl (fun (u : State) k =>
    u.writeNat (accPa core n k) 4 (roundCode .fp32 .rne (fmtValue ch.fmt (laneOf ch.fmt v k)).1)) u
  let bad := (List.range (2 * w)).filter fun l => seen.regMarked c.r (p + 64 * l)
  let u := bad.foldl (fun u l => (List.range (512 / w)).foldl (fun u i => u.markWord (accPa core n (512 / w * l + i)) true) u) u
  let u := if ck then u.reform core n else u
  .ok ((u.mxUnc c (bad.map fun l => p + 64 * l)).settleAcc core n, 0, n)

/-- Whether a row or column of words fails against its checksum (R223). -/
def lineFails (ws : List Nat) (ck : Nat) (f : Num) (t : Nat) : Bool :=
  let rho := sumExact .rne (ws.map fp32Value ++ [(fp32Value ck).neg])
  let tau := (sumExact .rne (ws.map fun w => (fp32Value w).abs)).mul (.fin false 1 (2 ^ t))
  let tau := if tau.lt f then f else tau
  rho.isNan || rho.isInf || tau.lt rho.abs

/-- The result of ACC.VFY (R223, R224). -/
def State.verifyOf (s : State) (core n k : Nat) : Nat :=
  let z := s.accOf core n
  let f := bf16Value (bitsOf k 31 16)
  if !z.ck then 4
  else
    let rows := (List.range 32).filter fun i =>
      (rowIdx i).any (fun w => s.accBad core n w) || lineFails (s.rowWords core n i) (z.row i) f (k % 32)
    let cols := (List.range 32).filter fun j =>
      (colIdx j).any (fun w => s.accBad core n w) || lineFails (s.colWords core n j) (z.col j) f (k % 32)
    let nr := rows.length
    let nc := cols.length
    let st := if nr == 0 && nc == 0 then 0 else if nr == 1 && nc == 1 then 1 else if nr + nc == 1 then 2 else 3
    st + 2 ^ 8 * nr + 2 ^ 16 * nc + 2 ^ 32 * (rows.head?).getD 0 + 2 ^ 40 * (cols.head?).getD 0

/-- ACC.VFY (R224). -/
def State.accVerify (s : State) (core : Nat) (c : MxCmd) : MxOut :=
  let v := s.verifyOf core c.acc c.const.toNat
  .ok (s.updAcc core c.acc fun z => { z with verify := some (BitVec.ofNat 64 v) }, 0, v)

/-- ACC.FIX (R225). -/
def State.accFixup (s : State) (core : Nat) (c : MxCmd) : MxOut :=
  let n := c.acc
  let z := s.accOf core n
  let v := match z.verify with
    | some v => v.toNat
    | none => 3
  let i := bitsOf v 36 32
  let j := bitsOf v 44 40
  let f := fun (l : List Nat) => roundCode .fp32 .rne (sumWords l)
  let t := s.updAcc core n fun z => { z with verify := none }
  let res := fun (act val : Nat) => val + 2 ^ 32 * (32 * i + j) + 2 ^ 44 * act
  match v % 256 with
  | 0 => .ok (t, 0, res 0 0)
  | 1 =>
    let rest := ((List.range 32).filter (· != j)).map fun k => s.accWord core n (32 * i + k)
    let w := roundCode .fp32 .rne (sumExact .rne [fp32Value (z.row i), (sumWords rest).neg])
    .ok (t.setWord core n (32 * i + j) w, 0, res 1 w)
  | 2 =>
    if bitsOf v 15 8 != 0 then
      .ok (t.updAcc core n fun z => { z with rowck := Sparse.put z.rowck i (BitVec.ofNat 32 (f (s.rowWords core n i))) }, 0, res 2 0)
    else .ok (t.updAcc core n fun z => { z with colck := Sparse.put z.colck j (BitVec.ofNat 32 (f (s.colWords core n j))) }, 0, res 2 0)
  | _ => .ok (t, 0, res 3 0)

/-- The codes of ACC.CVT (R85, R86): band, and for each of the 128 blocks its code and element codes, with the causes. -/
def convertTile (ex nflush : Bool) (xs : List Num) (band0 : Nat) (given : List Nat) : Nat × List (Nat × List Nat) × Nat :=
  let band := if ex then band0 else bandBasic xs
  let bv := bf16Value band
  let bs := (List.range 128).map fun k =>
    let l := (xs.drop (8 * k)).take 8
    if ex then convertBlockExpert nflush bv ((given[k]?).getD 0) l else convertBlockBasic nflush bv l
  (band, bs.map (fun b => (b.1, b.2.1)), bs.foldl (fun m b => m ||| b.2.2) 0)

/-- The places of the scales of ACC.CVT (R220): of the band, and of the block codes of row `i`. -/
def cvtBand (core : Nat) (c : MxCmd) : Nat := pa (spScale core) (bitsOf c.c.toNat 49 32)
def cvtBlock (core : Nat) (c : MxCmd) (i q : Nat) : Nat :=
  pa (spScale core) (bitsOf c.c.toNat 17 0 + i * bitsOf c.const.toNat 10 3 + q)

/-- The places of the codes of ACC.CVT, row by row, or what stops it (R220). -/
def State.cvtRows (s : State) (core : Nat) (c : MxCmd) : Mx (List Nat) := do
  let t := c.b.toNat
  let pitch := 32 * 2 ^ bitsOf c.const.toNat 2 0
  let bb := bitsOf c.c.toNat 17 0
  let bo := bitsOf c.c.toNat 49 32
  mxNeed (t % 16 == 0) fcMisaligned t
  mxNeed (bo % 2 == 0) fcMisaligned bo
  mxNeed (bo + 2 ≤ Config.sizeScale && bb + 31 * bitsOf c.const.toNat 10 3 + 4 ≤ Config.sizeScale) fcAccessFault (max bo bb)
  let ps ← (List.range 32).mapM fun i => do
    mxNeed (bitsOf t 22 0 + i * pitch + 16 ≤ Config.sizeA) fcAccessFault t
    s.ownA core c (t + i * pitch) 16
  mxClear (s.scoreHit (cvtBand core c) 2 || (List.range 32).any fun i => s.scoreHit (cvtBlock core c i 0) 4)
  .ok ps

/-- ACC.CVT (R220, R228), the scales of `.ex` read: the tile is read, and the instance closed where `.cl` asks for it, at one point;
the codes are written row by row; each marked word raises UncorrectableMemory (R179). -/
def State.accConvert (s : State) (core : Nat) (c : MxCmd) (ex cl : Bool) : MxBegin := do
  let n := c.acc
  let ps ← s.cvtRows core c
  let seen := s.seenBy c
  let xs := (List.range 1024).map fun q => s.readout core n (q / 32) (q % 32)
  let given := (List.range 128).map fun q => seen.regRead c.r (cvtBlock core c (q / 4) (q % 4)) 1
  let d := convertTile ex (Chan.ofBits c.chOut.toNat).nflush xs (seen.regRead c.r (cvtBand core c) 2) given
  let blk := fun (q : Nat) => (d.2.1[q]?).getD (0, [])
  let badScl := fun (i : Nat) => if !ex then [] else
    ([cvtBand core c] ++ (List.range 4).map (cvtBlock core c i)).filter fun p => seen.regMarked c.r p
  let codes := (List.range 32).map fun i =>
    ({ p := (ps[i]?).getD 0, n := 16, v := ofLanes .e2m1 ((List.range 4).flatMap fun q => (blk (4 * i + q)).2),
       bad := (rowIdx i).any (fun w => s.accBad core n w) || !(badScl i).isEmpty } : MxPiece)
  let scales := (List.range 32).map fun i =>
    ({ p := cvtBlock core c i 0, n := 4, v := ofLanes .i8 ((List.range 4).map fun q => (blk (4 * i + q)).1), bad := false } : MxPiece)
  let band : List MxPiece := if ex then [] else [{ p := cvtBand core c, n := 2, v := d.1, bad := false }]
  let causes := d.2.2 ||| bandCause (s.accOf core n) (List.range 32) (List.range 32)
  .ok (((s.setCauses core causes).mxUnc c ((List.range 32).flatMap badScl ++ s.badWords core n)).closeIf core n cl, codes ++ scales ++ band)

/-- The first byte of the source of SCL.LD `.data` (R226). -/
def State.sclSrc (s : State) (core : Nat) (c : MxCmd) : Mx Nat := do
  let n := bitsOf c.const.toNat 5 0 + 1
  let t := c.a.toNat
  let o := c.b.toNat
  mxNeed (t % 64 == 0 && o % 64 == 0) fcMisaligned (if t % 64 == 0 then o else t)
  mxNeed (o + 64 * n ≤ Config.sizeScale) fcAccessFault o
  s.ownSrc core c t (64 * n)

/-- SCL.LD `.data` (R226), its source lines read: line by line, for an idem region through its store buffer (R335); a marked line is
copied with its mark. -/
def State.sclData (s : State) (core : Nat) (c : MxCmd) : MxBegin := do
  let n := bitsOf c.const.toNat 5 0 + 1
  let o := c.b.toNat
  let p ← s.sclSrc core c
  let seen := s.seenBy c
  let ps := (List.range n).map fun l =>
    ({ p := pa (spScale core) (o + 64 * l), n := 64, v := seen.regRead c.r (p + 64 * l) 64, bad := seen.regMarked c.r (p + 64 * l) } : MxPiece)
  .ok (s.mxUnc c (((List.range n).filter fun l => seen.regMarked c.r (p + 64 * l)).map fun l => p + 64 * l), ps)

/-- The 64-byte lines that an instruction reads one by one before it begins (R386), or what stops it. -/
def State.mxLines (s : State) (core : Nat) (c : MxCmd) : Mx (List Nat) :=
  let run := fun (p n : Nat) => (List.range n).map fun l => p / 64 + l
  match c.op with
  | .accWr false _ => (s.tileSrc core c).map fun p => run p (2 * (Chan.ofBits c.chB.toNat).fmt.width)
  | .sclLd 0 => (s.sclSrc core c).map fun p => run p (bitsOf c.const.toNat 5 0 + 1)
  | .accCvt true _ => (s.cvtRows core c).map fun _ =>
      (cvtBand core c :: (List.range 128).map fun q => cvtBlock core c (q / 4) (q % 4)).foldl (fun l p => insertNat (p / 64) l) []
  | _ => .ok []

/-- SCL.LD `.lay` (R226): a record in a marked line is a control value (R64). -/
def State.sclLay (s : State) (core : Nat) (c : MxCmd) : MxOut := do
  let a := c.a.toNat
  mxNeed (a % 16 == 0) fcMisaligned a
  let p := pa (spScale core) a
  mxNeed (!s.regMarked c.r p) fcPoison (poisonPayload p).toNat
  let v := s.agentRead (s.mxAgent c) c.r p 16
  match layoutFault v with
  | some e => mxFault e a
  | none => .ok (s.updCore core fun k => { k with layout := Sparse.put k.layout (bitsOf c.const.toNat 3 0) (BitVec.ofNat 128 v) }, 0, 0)

/-- SCL.LD `.st` (R226, R227). -/
def State.sclSt (s : State) (core : Nat) (c : MxCmd) : MxOut :=
  .ok (s.clearCauses core (c.a.toNat % 32), 0, (s.core core).scaleStatus.toNat)

/-- Perform an instruction of an engine (R219 to R226) at once; of those that write memory, the end, once every piece is
written. -/
def State.performMx (s : State) (core : Nat) (c : MxCmd) : MxOut :=
  match c.op with
  | .accRd m cl => if m then .ok (s, 0, c.acc) else s.accTok core c cl
  | .accWr el ck => if el then s.accEl core c else s.accTile core c ck
  | .accCvt _ _ => .ok (s, 0, c.acc)
  | .accChk => .ok (s.reform core c.acc, 0, c.acc)
  | .accVfy => s.accVerify core c
  | .accFix => s.accFixup core c
  | .sclLd fn => if fn == 0 then .ok (s, 0, 0) else if fn == 1 then s.sclLay core c else s.sclSt core c
  | .mma _ _ => .error none

/-- What an instruction that writes memory begins; none for the others. -/
def State.beginMx (s : State) (core : Nat) (c : MxCmd) : Option MxBegin :=
  match c.op with
  | .accRd m cl => if m then some (s.accMem core c cl) else none
  | .accCvt ex cl => some (s.accConvert core c ex cl)
  | .sclLd fn => if fn == 0 then some (s.sclData core c) else none
  | _ => none

/-- Write one piece of an instruction, at core scope (R219). -/
def State.writePiece (s : State) (c : MxCmd) (y : MxPiece) : State :=
  let s := (s.mxLearn c).regWrite (s.mxAgent c) 1 c.r y.p y.n y.v
  (if y.bad then s.regMark c.r y.p else s).mxTouched c true y.p y.n

/-- Whether a piece may be written now: into the A-buffer, only where R172 permits the region's store, after a seal as well (R182). -/
def State.pieceOk (s : State) (core : Nat) (c : MxCmd) (y : MxPiece) : Bool :=
  paSpace y.p != spA core || s.granulesOk (s.region c.r).vd (some (s.rid c.r)) core (paOff y.p) y.n

/-- An ACC.WR `.tile` of an engine that waits in the pool, and may go now (R215, R221). -/
def tileWaiting (c : CoreState) (mx : Nat) : Option MxCmd :=
  c.pool.find? fun y => y.mx == mx && !y.isMma && !(c.acc y.acc).opened

/-- The end of an attempt to perform `c`; `t` is the state without it. -/
def State.endMx (s t : State) (c : MxCmd) (x : MxOut) : Out :=
  match x with
  | .error none => .next s
  | .error (some (code, info)) => .next (t.mxRaise c code info)
  | .ok (u, kind, pay) => .next ((u.mxReply c kind pay).progress c.r)

/-- A turn of an instruction: it reads one of its source lines, begins to write, writes one piece, in a free order, or is performed; `t`
is the state without it. -/
def State.turnMx (s t : State) (core : Nat) (c : MxCmd) : Out :=
  match c.pieces with
  | some (y :: l) =>
    let i := Config.choice s.free % (l.length + 1)
    let z := ((y :: l)[i]?).getD y
    if s.scoreHit z.p z.n then .next s
    else if !s.pieceOk core c z then .next (t.mxRaise c fcAccessFault (c.b.toNat / 2 ^ 23 * 2 ^ 23 + paOff z.p))
    else .next (((s.writePiece c z).putMx core c { c with pieces := some (removeAt (y :: l) i) }).draw)
  | some [] => s.endMx t c (t.performMx core c)
  | none => match s.mxLines core c with
    | .error none => .next s
    | .error (some (code, info)) => .next (t.mxRaise c code info)
    | .ok ls =>
      let left := linesLeft c ls
      if !left.isEmpty then .next (s.seeOne core c left)
      else match s.beginMx core c with
        | none => s.endMx t c (t.performMx core c)
        | some (.error none) => .next s
        | some (.error (some (code, info))) => .next (t.mxRaise c code info)
        | some (.ok (u, ps)) => .next (u.putMx core c { c with pieces := some ps })

/-- ACC_PERFORM (R219, R221, R226): an engine performs an ACC or SCL.LD instruction: one that waited in the pool for its
accumulator, else the head of its issue port. -/
def execAccPerform (core mx : Nat) (s : State) : Out :=
  if Config.coreCount ≤ core || 3 ≤ mx then .fault .noSuchUnit
  else match tileWaiting (s.core core) mx, headOf (s.core core) mx with
    | some c, _ =>
      let t := s.updCore core fun k => { k with pool := removeFirst (· == c) k.pool }
      if !s.mxGoes c.r then .next s else s.turnMx t core c
    | none, some c =>
      let z := s.accOf core c.acc
      let t := s.popMx core mx
      if c.isMma || !s.mxGoes c.r then .next s
      else if c.opens && z.opened && z.tag != c.tag then
        (if poolFull (s.core core) mx then .next s else .next (t.updCore core fun k => { k with pool := k.pool ++ [c] }))
      else s.turnMx t core c
    | none, none => .next s

end Sys2Proof.Machine
end

