-- ==== Sys2Proof/Machine/ShelfElem.lean ====
section
/-! DEFINITION. Shelf instructions (R230 to R241): allocation, seal, reads, abandonment, queries, and the steps of the
shelf: serving a partition's queue (R233, R308), reading words (R235), starvation (R239) and the stage balancer (R268). -/
namespace Sys2Proof.Machine

/-! ## The frame -/

/-- The cluster whose shelf the firing acts on (R61). -/
def State.siteCluster (s : State) : Nat := clusterOfCore (s.coreOf s.site.r s.site.a)

/-- A fault of a shelf instruction: the set stays and the slot stops (R230). -/
def State.shelfFault (s : State) (code info : Nat) : Out :=
  .next ((s.siteFault code info 0).stopSlotAt s.site.r s.site.a s.site.slot)

/-- The frame of the shelf instructions (R230): form, gate, poison on any port, the constants plane, then the effect. -/
def State.shelfFire (s : State) (w : Slot) (ok constOk : Bool) (k : FireIn → State → Out) : Out :=
  s.gated w (isMemElem s.site.a && ok) false fun s =>
    if s.site.firstPoison.isSome then s.sitePoison
    else if !constOk then s.shelfFault fcMalformed 0
    else k (s.fin w) s

/-- The frame of those that take a handle on port a (R61, R230). -/
def State.handleFire (s : State) (w : Slot) (ok : Bool) (k : Nat → FireIn → State → Out) : Out :=
  s.shelfFire w ok (w.const == 0) fun x s =>
    let h := payOf x 0
    if bitsOf h 63 32 != 0 || !handleOk h then s.shelfFault fcMalformed (h % 2 ^ 32) else k h x s

/-! ## Instructions -/

/-- SHALLOC (R232, R233): the request enters the partition's queue. -/
def execShalloc (w : Slot) (s : State) : Out :=
  s.shelfFire w (formOk w [1, 2] fnZero 0) (decide (w.const.toNat < 16)) fun x s =>
    let a := payOf x 0
    let ex := w.arityN == 2
    let b := if ex then payOf x 1 else 0
    let sh := (List.range 4).map fun i => bitsOf b (16 * i + 15) (16 * i)
    let rd := (s.region s.site.r).readers
    let emptyUsed := (List.range 4).any fun i => (sh[i]?).getD 0 != 0 && (rd[i]?).getD 0 == 0
    let p := Sparse.atD (s.cluster s.siteCluster).parts w.const.toNat {}
    if bitsOf a 63 20 != 0 || a % 2 ^ 16 == 0 || (ex && (sh.sum != a % 2 ^ 16 || emptyUsed)) then s.shelfFault fcMalformed 0
    else if !p.live || p.vd != (s.region s.site.r).vd then s.shelfFault fcAccessFault 0
    else
      let q : SReq := { r := s.site.r, elem := s.site.a, slot := s.site.slot, tag := s.site.tag, seq := s.site.seq,
                        last := s.site.last, dst := slotTo w, count := a % 2 ^ 16, size := bitsOf a 19 16 + 1, expert := ex,
                        shares := sh, task := (s.region s.site.r).task, past := s.site.past }
      .next ((s.consume w).updCluster s.siteCluster fun c =>
        { c with parts := Sparse.upd c.parts w.const.toNat {} fun y => { y with queue := y.queue ++ [q] } })

/-- SHSEAL (R234): a release, so it waits for the element's earlier requests; it is an irrevocable act (R335). -/
def execShseal (w : Slot) (s : State) : Out :=
  s.handleFire w (formOk w [1] fnZero 0) fun h x s =>
    match tileOf (s.cluster s.siteCluster) h with
    | none => s.shelfFault fcShelfOverRead h
    | some t =>
      if t.state != .opened then s.shelfFault fcMalformed h
      else if t.region != s.rid s.site.r then s.shelfFault fcAccessFault h
      else if !(s.elem s.site.r s.site.a).queue.isEmpty then .next s
      else
        let u := ((s.consume w).irrevocable s.site.r).updCluster s.siteCluster fun c =>
          putTile c { t with state := .sealed, past := s.pastOf (s.streamAgent s.site.r s.site.a s.site.slot) s.site.past }
        .next (u.emit w .both (s.out w (BitVec.ofNat 64 (payOf x 0))))

/-- SHLD and SHPEEK (R235): the request takes a stream context and waits there for step 2. -/
def State.shelfRead (s : State) (w : Slot) (peek : Bool) : Out :=
  s.handleFire w (formOk w [1, 2] (fun n => n ≤ 1) 0) fun h x s =>
    let b := payOf x 1
    let first := if w.arityN == 2 then bitsOf b 12 0 else 0
    let words := if w.arityN == 2 then bitsOf b 28 16 + 1 else 512 * hSize h
    if w.arityN == 2 && (bitsOf b 15 13 != 0 || bitsOf b 63 29 != 0) then s.shelfFault fcMalformed h
    else if 512 * hSize h < first + words then s.shelfFault fcAccessFault h
    else if peek && !(s.region s.site.r).peek then s.shelfFault fcAccessFault h
    else match freeStream (s.elem s.site.r s.site.a) with
      | none => .next s
      | some i =>
        let c0 := s.newCtx w .shelf
        let c : StreamCtx :=
          { c0 with
            base := 0
            handle := BitVec.ofNat 32 h
            peek := peek
            start := first
            stop := words
            itstep := w.fnN == 1
            ents := s.site.back }
        .next ((s.consume w).updElem s.site.r s.site.a fun e => { e with ctxs := Sparse.put e.ctxs i c })

/-- SHLD (R235). -/
def execShld (w : Slot) (s : State) : Out := s.shelfRead w false

/-- SHPEEK (R235). -/
def execShpeek (w : Slot) (s : State) : Out := s.shelfRead w true

/-- SHABANDON (R237): reads in progress finish first, so it waits for them. -/
def execShabandon (w : Slot) (s : State) : Out :=
  s.handleFire w (formOk w [1] fnZero 0) fun h _ s =>
    let x := s.region s.site.r
    match tileOf (s.cluster s.siteCluster) h with
    | none => s.shelfFault fcShelfOverRead h
    | some t =>
      if !(t.region == s.rid s.site.r || (t.vd == x.vd && t.rank < x.rank)) then s.shelfFault fcAccessFault h
      else if t.reading != 0 then .next s
      else
        let u := (s.consume w).updCluster s.siteCluster fun c =>
          { freeTile c t with journal := c.journal.filter fun j => j.handle != h }
        .next (u.emit w .both (s.out w (BitVec.ofNat 64 t.count)))

/-- The state code of a tile (R240). -/
def tileCode (t : TileState) : Nat :=
  match t with
  | .opened => 1 | .sealed => 2 | .drained => 3 | .orphan => 4

/-- The answer of SHQUERY `.h` and `.p` (R240). -/
def queryTile (c : ClusterState) (h : Nat) : Nat :=
  let g := (granAt c (hCore h) (hGran h)).gen
  match tileOf c h with
  | some t => t.count % 2 ^ 16 + 2 ^ 16 * tileCode t.state + 2 ^ 19 * g
  | none => 2 ^ 19 * g
def queryPart (c : ClusterState) (p : Nat) : Nat :=
  (partFree c p).length % 2 ^ 16 + 2 ^ 16 * ((partGrans c p).length % 2 ^ 16) +
    2 ^ 32 * ((Sparse.atD c.parts p {}).queue.length % 2 ^ 16)

/-- SHQUERY (R240). -/
def execShquery (w : Slot) (s : State) : Out :=
  s.shelfFire w (formOk w [1] (fun n => n ≤ 1) 0) (w.const == 0) fun x s =>
    let a := payOf x 0
    let c := s.cluster s.siteCluster
    let answer := fun (v : Nat) => Host.Outcome.next ((s.consume w).emit w .both (s.out w (BitVec.ofNat 64 v)))
    if w.fnN == 1 then
      let p := Sparse.atD c.parts a {}
      if 16 ≤ a then s.shelfFault fcMalformed 0
      else if !p.live || p.vd != (s.region s.site.r).vd then s.shelfFault fcAccessFault 0
      else answer (queryPart c a)
    else if bitsOf a 63 32 != 0 || !handleOk a then s.shelfFault fcMalformed (a % 2 ^ 32)
    else answer (queryTile c a)

/-! ## Steps of the shelf -/

/-- SHALLOC_SERVE (R233, R266, R308): while a request is parked the partition grows towards its ceiling; the head is
served where it has room. -/
def execShallocServe (c p : Nat) (s : State) : Out :=
  if 4 ≤ c || 16 ≤ p then .fault .noSuchUnit
  else match (Sparse.atD (s.cluster c).parts p {}).queue with
    | [] => .next s
    | q :: _ => .next ((s.grow c p (s.reqCore q) q.size (Sparse.atD (s.cluster c).parts p {}).ceil).servePart c p)

/-- A shelf read that faults at step 2: its set returns, its context is free, the slot stops (R230). -/
def State.shelfReadFault (s : State) (r a x : Nat) (c : StreamCtx) (code : Nat) : State :=
  let s := s.updElem r a fun e => { e with ctxs := Sparse.del e.ctxs x, store := e.store ++ c.ents }
  (s.raise r code a c.slot c.tag.toNat c.handle.toNat 0).stopSlotAt r a c.slot

/-- Steps 1 to 3 of R235: the read acquires at cluster scope before its first word (R389). -/
def State.shelfBegin (s : State) (r a x : Nat) (c : StreamCtx) : State :=
  let cl := clusterOfCore (s.coreOf r a)
  let h := c.handle.toNat
  let g := s.region r
  match tileOf (s.cluster cl) h with
  | none => s.shelfReadFault r a x c fcShelfOverRead
  | some t =>
    if t.state == .opened then s
    else match readCheck t g.vd g.desc (!c.peek) with
      | some e => s.shelfReadFault r a x c e
      | none =>
        if c.itstep && 0xFFFF < tagIter c.tag + c.stop - 1 then s.shelfReadFault r a x c fcTagOverflow
        else if !c.peek && !journalRoom (s.cluster cl) (s.rid r) h then s
        else
          let s := s.updCluster cl fun k =>
            let k := markReading k h g.desc (!c.peek) true
            if c.peek then k else journalOpen k (s.rid r) h (chargeOf t g.desc)
          let s := (s.learn (s.streamAgent r a (32 + x)) c.past).tileLearn (s.elemAgent r a) cl t
          s.updCtx r a x fun c => { c with begun := true, ents := [] }

/-- Steps 5 and 6 of R235. -/
def State.shelfEnd (s : State) (r a x : Nat) (c : StreamCtx) : State :=
  let cl := clusterOfCore (s.coreOf r a)
  let h := c.handle.toNat
  let g := s.region r
  let s := s.updCluster cl fun k =>
    let k := markReading k h g.desc (!c.peek) false
    let k := match tileOf k h with
      | some t => if c.peek then k else consumeRead k t (s.rid r) (chargeOf t g.desc)
      | none => k
    settleTile (s.savedNames cl) k h
  let s := s.updElem r a fun e => { e with ctxs := Sparse.del e.ctxs x }
  s.sendOut r a c.slot { dst := c.dst, which := 1, tag := c.tag, seq := c.seq, last := true, pay := BitVec.ofNat 64 c.stop,
                         poison := false } (s.pastOf (s.streamAgent r a (32 + x)) c.past)

/-- Step 4 of R235 for the next word. -/
def State.shelfWord (s : State) (r a x : Nat) (c : StreamCtx) : State :=
  let cl := clusterOfCore (s.coreOf r a)
  let h := c.handle.toNat
  let p := pa (spA (24 * cl + hCore h)) (4096 * hGran h + 8 * (c.start + c.next))
  if s.scoreHit p 8 then s
  else
    let fin := c.next + 1 == c.stop
    let g := if c.itstep then mkTag (tagCtx c.tag) (tagIter c.tag + c.next) else c.tag
    let o : OutTok := { dst := c.dst, which := 0, tag := g, seq := c.seq, last := fin, pay := 0, poison := false }
    let ag := s.streamAgent r a (32 + x)
    let past := s.pastOf ag c.past
    let s := match s.loadAt ag r p 8 with
      | .inl v => s.sendOut r a c.slot { o with pay := BitVec.ofNat 64 v } past
      | .inr v => (s.noteUnc r a c.slot c.tag p).sendOut r a c.slot { o with pay := v, poison := true } past
    if fin then s.shelfEnd r a x c else s.updCtx r a x fun c => { c with next := c.next + 1 }

/-- SHLD_READ (R235): a shelf read begins, or delivers its next word. -/
def execShldRead (r a x : Nat) (s : State) : Out :=
  if 256 ≤ r || 65536 ≤ a || 4 ≤ x then .fault .noSuchUnit
  else match Sparse.entry? (s.elem r a).ctxs x with
    | none => .next s
    | some c =>
      if c.kind != .shelf || !s.memGoes r a then .next s
      else .next (if c.begun then s.shelfWord r a x c else s.shelfBegin r a x c)

/-! ## Watchdog periods of partitions (R239, R268, R270) -/

/-- The regions that name a partition of a cluster in their descriptor: those that issue there, placed there or with a core of it
(R61). -/
def State.naming (s : State) (c p : Nat) : List Nat :=
  let vd := (Sparse.atD (s.cluster c).parts p {}).vd
  (s.regions.filter fun q => (q.1 / 64 == c || q.2.cores.any fun k => !isFar k && clusterOfCore k == c) &&
    q.2.live && q.2.vd == vd && q.2.partmask.getLsbD p).map (·.1)

/-- The watchdog period of a partition in cycles: none where every region that names it has WDLIM 0 (R270). -/
def State.partPeriod (s : State) (c p : Nat) : Option Nat :=
  let l := ((s.naming c p).map fun r => (s.region r).wdlim).filter (· != 0)
  match l with
  | [] => none
  | n :: rest => some (1024 * rest.foldl min n)

/-- SHELF_STARVED (R239): to the fault edge of the region whose request heads the queue; the queue is kept. -/
def execShelfStarved (c p : Nat) (s : State) : Out :=
  if 4 ≤ c || 16 ≤ p then .fault .noSuchUnit
  else
    let x := Sparse.atD (s.cluster c).parts p {}
    match s.partPeriod c p, x.queue with
    | some n, q :: _ =>
      if x.starve < n then .next s
      else
        let s := s.updCluster c fun k => { k with parts := Sparse.upd k.parts p {} fun y => { y with starve := 0 } }
        .next (if q.elem == noElem then s.raiseSuper x.vd fcShelfStarved 0
          else s.raise q.r fcShelfStarved noElem noSlot 0 0 0)
    | _, _ => .next s

/-- One replica of stage `i` takes no new task (R268). -/
def moveReplica (i : Nat) (l : Pipeline) : Pipeline :=
  match ((l.stages[i]?).map (·.2)).bind List.getLast? with
  | none => l
  | some k => { l with stages := modifyAt (fun (q : Word × List Nat) => (q.1, q.2.dropLast)) l.stages i, moving := l.moving ++ [(i, k)] }

/-- How many of the replicas that leave stage `i` run no task. -/
def State.stageLeft (s : State) (c : Nat) (l : Pipeline) (i : Nat) : Nat :=
  (l.moving.filter fun q => q.1 == i).length - ((l.stages[i]?).elim 0 fun q => s.stageRuns c l.vd q.1 - q.2.length)

/-- A replica that leaves a stage while it runs no task has nothing to wait for (R268). -/
def State.settlePipe (s : State) (c : Nat) (l : Pipeline) : Pipeline :=
  (List.range l.stages.length).foldl (fun l i => (List.range (s.stageLeft c l i)).foldl (fun l _ => arrive i [] l) l) l

/-- The pipelines of a cluster with the one, if any, that Bextex declares now (R268; log 111). -/
def State.declaredPipes (s : State) (c : Nat) : List Pipeline :=
  let ps := (s.cluster c).pipes
  match Config.pipeline s.free with
  | none => ps
  | some (v, st, parts, ex) =>
    if s.vdOfCluster c == v && st.length ≤ 8 && parts.length + 1 == st.length && !(ps.any (·.vd == v)) then
      ps ++ [{ vd := v, stages := st.map (fun q => (q.1, List.range q.2)), parts := parts, expert := ex }]
    else ps

/-- STAGE_BALANCER (R268): at the end of a partition's watchdog period. -/
def execStageBalancer (c p : Nat) (s : State) : Out :=
  if 4 ≤ c || 16 ≤ p then .fault .noSuchUnit
  else
    let s := s.updCluster c fun k => { k with pipes := (s.declaredPipes c).map (s.settlePipe c) }
    let x := Sparse.atD (s.cluster c).parts p {}
    match s.partPeriod c p with
    | none => .next s
    | some n =>
      if x.period < n then .next s
      else
        let move := fun (l : Pipeline) =>
          match l.parts.findIdx? (· == p) with
          | none => l
          | some i => if l.expert || l.vd != x.vd || stageWidth l i ≤ 1 || l.stages.length ≤ i + 1 || 2 * x.parkedC ≤ x.period then l
                      else moveReplica i l
        .next (s.updCluster c fun k =>
          { k with pipes := k.pipes.map move
                   parts := Sparse.upd k.parts p {} fun y => { y with period := 0, parkedC := 0 } })

/-- Whether a stage of a pipeline may take another task (R268): a descriptor that is no stage may. -/
def State.stageRoom (s : State) (c vd : Nat) (desc : Word) : Bool :=
  ((s.cluster c).pipes.map (s.settlePipe c)).all fun l =>
    l.vd != vd || l.stages.all fun q => q.1 != desc || s.stageRuns c vd desc < q.2.length

end Sys2Proof.Machine
end

