-- ==== Sys2Proof/Machine/Ready.lean ====
section
/-! DEFINITION. Which firing an element may perform (R96, R101, R103), and when a region is quiet or frozen (R155, R328,
R331). -/
namespace Sys2Proof.Machine

/-! ## Operand sets of a slot -/

/-- The operand sets that a slot may take: by its fire rule, or by the rule of its own instruction (R145, R148, R149,
R151, R197). -/
def State.slotSets (s : State) (r a slot : Nat) : List Site :=
  let e := s.elem r a
  let w := e.slotW slot
  let op := e.opcode slot
  if op == 0 || e.stopped.contains (32 * e.active + slot) then []
  else if isComputeElem a && op == 0x54 then s.loopgenSets e r a slot w
  else if isComputeElem a && op == 0x56 then accumSets e r a slot
  else if isComputeElem a && (op == 0x58 || op == 0x59) then rowSets e r a slot
  else if isComputeElem a && op == 0x5A then mergeSets e r a slot
  else if isMemElem a && op == 0x82 then matchedSets e r a slot { w with arity := 1 }
  else matchedSets e r a slot w

/-! ## Whether the outputs can take a firing (R103) -/

/-- Whether port p holds a 0 that closes the gate of rule 2 (R96). -/
def closedGate (w : Slot) (x : Site) : Bool :=
  w.fire == 2 && x.ents.any fun e => e.1 == 3 && e.2.tok.kind != 7 && e.2.tok.payload == 0

/-- The handle that port a of a set names. -/
def handleA (x : Site) : Option Nat := (x.fed 0).map fun f => f.1.toNat % 2 ^ 32

/-- Whether what a firing needs is free: queue places, stream contexts, contexts, watches, and the tile and the queue that
SHABANDON and SHSEAL wait for (log 11). -/
def State.takesFiring (s : State) (x : Site) : Bool :=
  let e := s.elem x.r x.a
  let w := e.slotW x.slot
  let op := e.opcode x.slot
  let ctx := (freeStream e).isSome
  let room := decide (e.queue.length < 64)
  if closedGate w x then true
  else if isMemElem x.a && (op == 0x82 || op == 0x8A) then ctx && room
  else if isMemElem x.a && 0x80 ≤ op && op ≤ 0x8F then room
  else if isMemElem x.a && (op == 0xB2 || op == 0xB3) then ctx
  else if isMemElem x.a && op == 0xB1 then e.queue.isEmpty
  else if isMemElem x.a && op == 0xB4 then
    (match (handleA x).bind fun h => tileOf (s.cluster (clusterOfCore (s.coreOf x.r x.a))) h with
     | some t => t.reading == 0
     | none => true)
  else if op == 0x4E then (freeCtx (s.region x.r)).isSome || (childOf (s.region x.r) x.tag).isSome
  else if isComputeElem x.a && op == 0x62 then decide ((s.core (s.coreOf x.r x.a)).watches.length < 8)
  else true

/-- Whether a firing is a well-formed TOKOUT whose port is full: the element stalls on it (R152, R103). -/
def State.portStalls (s : State) (x : Site) : Bool :=
  let e := s.elem x.r x.a
  let w := e.slotW x.slot
  isComputeElem x.a && e.opcode x.slot == 0x5C && !closedGate w x && !x.poisonAt 0 && tokoutOk w ({ s with site := x }.fin w) &&
    (match { s with site := x }.tokPort w with
     | some p => !s.portTakes p
     | none => false)

/-- The sets that an element may fire now. -/
def State.readySets (s : State) (r a : Nat) : List Site :=
  ((List.range 32).flatMap fun k => s.slotSets r a k).filter s.takesFiring

/-- The firing that an element performs next (R101): none while it stalls on a full port. -/
def State.nextFiring (s : State) (r a : Nat) : Option Site :=
  (s.pick (s.readySets r a)).filter fun x => !s.portStalls x

/-! ## Quiet regions (R155, R328, R331) -/

/-- Whether a matrix instruction at the head of an issue port cannot move: a k-step held back by the pool or its held bit,
or an instruction that waits for its accumulator. -/
def State.mxStuck (s : State) (core : Nat) (c : MxCmd) : Bool :=
  let z := s.accOf core c.acc
  let full := poolFull (s.core core) c.mx
  if c.isMma then !(c.opens && z.opened && z.tag == c.tag) &&
    (full || (z.opened && z.tag == c.tag && c.seq != z.next && z.held.getLsbD c.seq.toNat))
  else if c.opens && z.opened && z.tag != c.tag then full
  else match c.pieces, s.beginMx core c with
    | none, some (.error none) => true
    | none, none => (match (s.popMx core c.mx).performMx core c with
      | .error none => true
      | _ => false)
    | _, _ => false

/-- Whether an instruction in a pool waits: a k-step out of order, or one whose accumulator is open under another tag. -/
def State.poolStuck (s : State) (core : Nat) (c : MxCmd) : Bool :=
  if c.isMma then nextK (s.core core) c.acc != some c else (s.accOf core c.acc).opened

/-- Whether no matrix instruction of a region can move. -/
def State.mxIdle (s : State) (r : Nat) : Bool :=
  (s.region r).cores.all fun k =>
    ((s.core k).issue.all fun c => c.r != r || (match headOf (s.core k) c.mx with
      | some h => s.mxStuck k h
      | none => true)) &&
    (s.core k).pool.all fun c => c.r != r || s.poolStuck k c

/-- Whether no matrix instruction of a region is left. -/
def State.mxEmpty (s : State) (r : Nat) : Bool :=
  (s.region r).cores.all fun k => ((s.core k).issue ++ (s.core k).pool).all fun c => c.r != r

/-- Whether the networks and the control path of a region are empty. -/
def State.netEmpty (s : State) (r : Nat) : Bool := !(s.net.any fun f => f.r == r) && !(s.ctl.any fun c => c.r == r)

/-- Whether an element holds a parked request or stream (R169). -/
def elemParked (e : ElemState) : Bool := e.queue.any (·.parked) || e.ctxs.any fun c => c.2.parked

/-- Whether a region holds a parked request. -/
def State.anyParked (s : State) (r : Nat) : Bool := (s.elemsOf r).any fun p => elemParked p.2

/-- Whether stream context `x` of an element has an element to issue or to store. -/
def State.ctxMoves (s : State) (r a x : Nat) (c : StreamCtx) : Bool :=
  match c.kind with
  | .load | .fibRun => s.mayStep r a x c
  | .store => s.mayStore r a x c && (entryAt (entriesOf (s.elem r a) c.slot) 1 c.tag).isSome
  | .shelf => c.begun && !c.parked
  | .fibDemand => false

/-- Whether no request of an element is in flight: replies are out, and what is left is parked or must wait. -/
def State.memIdle (s : State) (r a : Nat) : Bool :=
  let e := s.elem r a
  e.replies.isEmpty && ((List.range e.queue.length).all fun k => !s.mayIssue r a k) && !(e.queue.any (·.sent)) &&
    !(e.ctxs.any fun c => s.ctxMoves r a c.1 c.2)

/-- Whether the requests, replies and reads of an element are all done. -/
def memEmpty (e : ElemState) : Bool := e.queue.isEmpty && e.replies.isEmpty

/-- Whether every store and spill area of a region is empty. -/
def State.storesEmpty (s : State) (r : Nat) : Bool := (s.elemsOf r).all fun p => p.2.store.isEmpty && p.2.spill.isEmpty

/-- Whether no iteration of a region is live. -/
def State.noneLive (s : State) (r : Nat) : Bool := (s.elemsOf r).all fun p => p.2.gens.all fun g => g.live.isEmpty

/-- Whether the parts of a region on other packages are at rest: it has none, or they have answered so (R368). -/
def State.farRest (s : State) (r : Nat) : Bool := !hasFar (s.region r) || Config.farQuiet s.free r

/-- Whether a drain has ended with every admitted iteration retired (R331). -/
def State.drainDone (s : State) (r : Nat) : Bool :=
  s.farRest r && s.noneLive r && s.storesEmpty r && s.netEmpty r && s.mxEmpty r &&
    (s.elemsOf r).all fun p => memEmpty p.2 && !(p.2.ctxs.any fun c => s.ctxMoves r p.1 c.1 c.2)

/-- Whether a region is frozen (R328). -/
def State.frozen (s : State) (r : Nat) : Bool :=
  s.farRest r && s.anyParked r && s.netEmpty r && s.mxIdle r &&
    (s.elemsOf r).all fun p => (s.nextFiring r p.1).isNone && s.memIdle r p.1

end Sys2Proof.Machine
end

