-- ==== Sys2Proof/Machine/Steps.lean ====
section
/-! DEFINITION. The steps of a region beside its firings: tokens that arrive (R49, R50, R95, R105), refills (R107), the
generators' tokens and emissions (R145, R146), the configuration switch (R91), gateway posts (R254), the end of a region
step (R155, R201, R251) and of a drain (R331). -/
namespace Sys2Proof.Machine

/-! ## Arrival (R49, R95, R102, R105, R106) -/

/-- Whether flight `k` is the next to arrive of those from its emitter to its element (R102), and its region takes
tokens: it is not stopped by a breakpoint (R32), and its load is over. -/
def State.mayArrive (s : State) (k : Nat) (f : Flight) : Bool :=
  let x := s.region f.r
  x.live && !x.dbgStop && x.status != .loading &&
    !((s.net.take k).any fun g => g.src == f.src && g.r == f.r && g.tok.dest == f.tok.dest)

/-- Take a flight off the networks. -/
def State.land (s : State) (k : Nat) : State := { s with net := removeAt s.net k }

/-- Discard an arriving token with a fault at its destination. -/
def State.refuseTok (s : State) (k code : Nat) (f : Flight) : State :=
  (s.land k).raiseTok f.r code f.tok.dest.toNat (if hasTable f.tok.dest.toNat then f.tok.slot.toNat else noSlot) f.tok

/-- Whether a slot uses a port (R95): a, b, c within the arity in token or latch mode; p under rule 2. -/
def portUsed (w : Slot) (port : Nat) : Bool :=
  if port == 3 then w.fire == 2 else decide (port < w.arityN) && (slotMode w port == 0 || slotMode w port == 2)

/-- A port is in latch mode, and its latch is busy: it is valid, and a firing consumes it (R93). -/
def latchMode (w : Slot) (port : Nat) : Bool := port != 3 && slotMode w port == 2
def latchBusy (e : ElemState) (w : Slot) (slot port : Nat) : Bool :=
  (Sparse.atD e.bank.latches (4 * slot + port) {}).valid && !(w.fire == 3 && port == 1)

/-- The order in which entries are spilled (R105): greatest age, then context, then the most recent. -/
def State.spillBefore (s : State) (r a : Nat) (x y : MsEntry) : Bool :=
  let k := fun (m : MsEntry) => s.age r a (tokTag m.tok) * 256 + m.tok.ctx.toNat
  decide (k y < k x) || (k x == k y && decide (y.stamp < x.stamp))

/-- The entry that SpillOne writes out. -/
def State.furthest (s : State) (r a : Nat) (l : List MsEntry) : Option MsEntry :=
  l.foldl (fun b m => match b with
    | none => some m
    | some x => if s.spillBefore r a m x then some m else some x) none

/-- The records that a spill area holds (R106). The loader's place for the area is not in the spec, so the records are a list of
the element's own and no bytes of the region's memory (DESIGN CHOICE, log 103). -/
def spillRoom (x : RegionState) : Nat := x.tagwin * 128

/-- Whether the input of an element stalls: its spill area is full (R106). -/
def State.inputStalls (s : State) (r a : Nat) : Bool := decide (spillRoom (s.region r) ≤ (s.elem r a).spill.length)

/-- The stamp of a token that arrives now (R95): the cycle counter of the element's core, and later than the stamp of every
token that arrived before. -/
def State.stampOf (s : State) (r a : Nat) : Nat := max (s.elem r a).stamp (s.coreClock (s.coreOf r a))

/-- A token enters the matching store (R95): none where its element must wait, for a full spill area. -/
def State.enterStore (s : State) (r a : Nat) (t : Token) (past : Past) (pend : Bool) : Option State :=
  let e := s.elem r a
  let m : MsEntry := { tok := t, stamp := s.stampOf r a, pend := pend, past := past }
  if e.store.length < (s.region r).quota then
    some (s.updElem r a fun e => { e with store := e.store ++ [m], stamp := m.stamp + 1 })
  else if spillRoom (s.region r) ≤ e.spill.length then none
  else match s.furthest r a (e.store ++ [m]) with
    | none => none
    | some v => some (s.updElem r a fun e =>
        { e with store := (e.store ++ [m]).filter fun q => q.stamp != v.stamp, spill := e.spill ++ [v], stamp := m.stamp + 1 })

/-- A token at a slot that is not empty (R95): under a context that is not bound it is Malformed (R144). -/
def State.enterSlot (s : State) (k : Nat) (f : Flight) : Option State :=
  let a := f.tok.dest.toNat
  let sl := f.tok.slot.toNat
  let port := f.tok.port.toNat
  let e := s.elem f.r a
  let w := e.slotW sl
  if !ctxBound (s.region f.r) f.tok.ctx.toNat || !portUsed w port || (e.opcode sl == 0x54 && isComputeElem a && port == 3) then
    some (s.refuseTok k fcMalformed f)
  else if latchMode w port && !latchBusy e w sl port then
    let l : Latch := { pay := f.tok.payload, chan := f.tok.chan, kind := f.tok.kind, tag := tokTag f.tok,
                       seq := f.tok.seq, last := f.tok.last, valid := true, order := s.stampOf f.r a, past := f.past }
    some ((s.land k).updElem f.r a fun e =>
      { (e.updBank fun b => { b with latches := Sparse.put b.latches (4 * sl + port) l }) with stamp := l.order + 1 })
  else (s.enterStore f.r a f.tok f.past (latchMode w port)).map fun s => s.land k

/-- The type of a control token (R50). -/
def ctlType (t : Token) : Nat := bitsOf t.payload.toNat 63 60

/-- Set an element's window base for a context (R146). -/
def State.setBase (s : State) (r a c base : Nat) : State :=
  s.updUnit r a fun u => { u with winBase := if base == 0 then Sparse.del u.winBase c else Sparse.put u.winBase c (BitVec.ofNat 16 base) }

/-- Whether a token goes to a thread gateway that takes it (R50, R254). -/
def isPost (t : Token) : Bool :=
  120 ≤ t.dest.toNat % 128 && t.dest.toNat % 128 < 124 && (t.kind == 0 || t.kind == 3) && t.slot == 0 && t.rsv == 0

/-- Whether a token is a retire token at an element (R50). -/
def isRetire (t : Token) : Bool := hasTable t.dest.toNat && t.kind == 6 && t.rsv == 0 && ctlType t == 0

/-- Whether an element address of a region lies on another package (R368). -/
def State.farElem (s : State) (r a : Nat) : Bool := isFar (s.coreOf r a)

/-- A token for another package leaves over the edge link to it (R368): none where lane 3 of the link is stopped, or there is no
link. -/
def State.leaveEdge (s : State) (k : Nat) (f : Flight) : Option State :=
  (s.edgePort (s.region f.r).vd (farPackage (s.coreOf f.r f.tok.dest.toNat))).bind fun p =>
    if s.laneStopped p 3 then none else some (s.land k)

/-- An arriving token (R41, R49): none where it must wait, or where another step takes it. -/
def State.arrive (s : State) (k : Nat) (f : Flight) : Option State :=
  let a := f.tok.dest.toNat
  if s.farElem f.r a then s.leaveEdge k f
  else if (s.region f.r).cores.length ≤ a / 128 || !assignedElem a || f.tok.rsv != 0 || 8 ≤ f.tok.kind.toNat then
    some (s.refuseTok k fcMalformed f)
  else if !hasTable a then (if isPost f.tok then none else some (s.refuseTok k fcMalformed f))
  else if (s.elem f.r a).order.isSome || s.inputStalls f.r a then none
  else if f.tok.kind == 6 then
    let p := f.tok.payload.toNat
    if ctlType f.tok == 0 then none
    else if ctlType f.tok == 1 && bitsOf p 59 24 == 0 then
      some ((s.land k).setBase f.r a (bitsOf p 23 16) (bitsOf p 15 0))
    else some (s.refuseTok k fcMalformed f)
  else if (s.elem f.r a).opcode f.tok.slot.toNat == 0 then some (s.refuseTok k fcSlotEmpty f)
  else s.enterSlot k f

/-- TOKEN_ARRIVAL: flight `k` of the networks. -/
def execTokenArrival (k : Nat) (s : State) : Out :=
  match s.net[k]? with
  | none => .next s
  | some f => if s.mayArrive k f then .next ((s.arrive k f).getD s) else .next s

/-! ## Refill (R107) -/

/-- The order in which records return: least age, then context, then the earliest stamp. -/
def State.refillBefore (s : State) (r a : Nat) (x y : MsEntry) : Bool :=
  let k := fun (m : MsEntry) => s.age r a (tokTag m.tok) * 256 + m.tok.ctx.toNat
  decide (k x < k y) || (k x == k y && decide (x.stamp < y.stamp))

/-- REFILL: it never takes a store above its quota; a latch-pending record moves on where its latch is clear (R93). -/
def execRefill (r a : Nat) (s : State) : Out :=
  if 256 ≤ r || 65536 ≤ a then .fault .noSuchUnit
  else
    let e := s.elem r a
    let v := e.spill.foldl (fun b m => match b with
      | none => some m
      | some x => if s.refillBefore r a m x then some m else some x) none
    match v with
    | none => .next s
    | some m =>
      if (s.region r).quota ≤ e.store.length || !(s.region r).activeNow || (s.region r).dbgStop then .next s
      else .next (s.updElem r a fun e =>
        let e := { e with spill := e.spill.filter (fun q => q.stamp != m.stamp), store := e.store ++ [m] }
        if m.pend then fillLatch e m.tok.slot.toNat m.tok.port.toNat else e)

/-! ## Generators (R50, R145, R146) -/

/-- The generator of a slot that governs a retire token's context. -/
def genOf (e : ElemState) (t : Token) : Option LoopGen :=
  e.gens.find? fun g => g.slot == t.slot.toNat && g.ctx == t.ctx && t.port == 3

/-- A generator ends an iteration: the region's count falls, and the window base follows (R145). -/
def State.retireIter (s : State) (r a : Nat) (g : LoopGen) : State :=
  let s := s.updElem r a fun e => { e with gens := replaceFirst (fun q => q.slot == g.slot) (fun _ => g) e.gens }
  let s := (s.updRegion r fun x => { x with inFlight := x.inFlight - 1 }).progress r
  s.setWindowBase r g.ctx.toNat (genBase g)

/-- RETIRE_TOKEN: a retire token whose payload, slot or iteration is not as it must be is Malformed. -/
def execRetireToken (k : Nat) (s : State) : Out :=
  match s.net[k]? with
  | none => .next s
  | some f =>
    let a := f.tok.dest.toNat
    if !s.mayArrive k f || !isRetire f.tok || s.farElem f.r a || (s.region f.r).cores.length ≤ a / 128 || (s.elem f.r a).order.isSome ||
      s.inputStalls f.r a then .next s
    else match genOf (s.elem f.r a) f.tok with
      | none => .next (s.refuseTok k fcMalformed f)
      | some g =>
        if bitsOf f.tok.payload.toNat 59 0 != 0 then .next (s.refuseTok k fcMalformed f)
        else match genRetire g f.tok.ctx.toNat f.tok.iter.toNat with
          | none => .next (s.refuseTok k fcMalformed f)
          | some g' => .next ((s.land k).retireIter f.r a { g' with ends := joinPast g'.ends f.past })

/-- WINDOW_BASE_TOKEN: message `k` of the control path; those of one context reach an element in order. -/
def execWindowBaseToken (k : Nat) (s : State) : Out :=
  match s.ctl[k]? with
  | none => .next s
  | some c =>
    if ((s.ctl.take k).any fun b => b.r == c.r && b.elem == c.elem && b.ctx == c.ctx) || !(s.region c.r).activeNow then .next s
    else .next ({ s with ctl := removeAt s.ctl k }.setBase c.r c.elem c.ctx.toNat c.base.toNat)

/-- LOOPGEN_EMIT: a drain holds the admission back, not the done token; after a drain's end neither goes (R331). -/
def execLoopgenEmit (r a slot : Nat) (s : State) : Out :=
  if 256 ≤ r || 65536 ≤ a || 32 ≤ slot then .fault .noSuchUnit
  else
    let x := s.region r
    let e := s.elem r a
    match e.gens.find? fun g => g.slot == slot with
    | none => .next s
    | some g =>
      if !s.regionGoes r || x.drained || x.frozenEnd || (x.draining && g.j < g.n) || e.stopped.contains (32 * e.active + slot) then .next s
      else .next (s.genEmit r a (e.slotW slot) g)

/-! ## The switch between resident configurations (R91) -/

/-- The switch of a region ends: its step begins, unless a drain withholds the start token (R331). A part that another package
steps only stands ready, and a region with such parts waits for theirs (R368). -/
def State.endSwitch (s : State) (r : Nat) : State :=
  let x := s.region r
  if !x.switching || (s.elemsOf r).any fun p => p.2.order.isSome then s
  else if x.lead.isSome then s.updRegion r fun y => { y with switching := false }
  else if !s.farRest r then s
  else if x.draining || x.drained || x.frozenEnd then s.updRegion r fun y => { y with switching := false, pendStep := true }
  else s.beginStep r

/-- CONFIG_SWITCH: an element whose store and spill area are empty. Where no element waits, the switch of the region may end. -/
def execConfigSwitch (r a : Nat) (s : State) : Out :=
  if 256 ≤ r || 65536 ≤ a then .fault .noSuchUnit
  else
    let e := s.elem r a
    match e.order with
    | none => .next (s.endSwitch r)
    | some c =>
      if !e.store.isEmpty || !e.spill.isEmpty || !(s.region r).activeNow || (s.region r).dbgStop then .next s
      else .next ((s.updElem r a fun e => { e with active := c, order := none }).endSwitch r)

/-! ## Gateway posts (R254) -/

/-- The agent of the slot that emitted a token. -/
def State.emitter (s : State) (f : Flight) : Agent := s.streamAgent f.r (f.src / 32 % 65536) (f.src % 32)

/-- A post at gateway `n`: the mailbox word takes the sum, with release at cluster scope, and bit `n` of the thread's UIPEND is set.
A store of another agent that the adder need not see yet is added to all the same: the add is made at the word's home arbiter. -/
def State.post (s : State) (k n : Nat) (f : Flight) : State :=
  let x := s.region f.r
  let h := byteAt x.gates.toNat n
  let ad := x.mbox.toNat + 8 * n
  let bad := fun (c info : Nat) =>
    (s.land k).raise f.r c f.tok.dest.toNat noSlot (tokTag f.tok).toNat info (tokBits f.tok)
  if h == 0xFF || x.mbox == 0 then bad fcAccessFault 0
  else match s.resolve (hwWho x.vd (f.r / 64)) (BitVec.ofNat 64 ad) .wr with
    | .fault c => bad c ad
    | .ok p _ =>
      if isMgmt p then bad fcAccessFault ad
      else if s.poisoned p then bad fcPoison ad
      else
        let e := s.emitter f
        let rel := s.releaseOf e f.past 2 :: s.carried p 8
        let t := (s.land k).releaseAt e f.past 2
        (t.storeBy e 2 p 8 ((s.readNat p 8 + f.tok.payload.toNat) % 2 ^ 64) rel).postPend (16 * (f.r / 64) + h % 16) (1#32 <<< n)

/-- GATEWAY_POST: flight `k`, at a thread gateway that takes it. -/
def execGatewayPost (k : Nat) (s : State) : Out :=
  match s.net[k]? with
  | none => .next s
  | some f =>
    if !s.mayArrive k f || !isPost f.tok || s.farElem f.r f.tok.dest.toNat || (s.region f.r).cores.length ≤ f.tok.dest.toNat / 128 then .next s
    else .next (s.post k (f.tok.dest.toNat % 128 - 120) f)

/-! ## The end of a region step (R155, R201, R251) -/

/-- Whether a SHALLOC of a region waits in the queue of a partition (R233). -/
def State.sallocWaits (s : State) (r : Nat) : Bool :=
  s.clusters.any fun c => c.2.parts.any fun p => p.2.queue.any fun q => q.r == r && q.elem != noElem

/-- Whether a watch of a region is outstanding (R157). -/
def State.watchWaits (s : State) (r : Nat) : Bool := s.cores.any fun c => c.2.watches.any fun y => y.r == r

/-- Whether the step of a region is complete (R155): DONE received, no fault before it that consumed its set (R160), stores,
spill areas and networks empty, and nothing of the region under way that can still emit: a request, a reply, a watch, a
SHALLOC, a matrix instruction that can move (R252: no firing of the region is in progress between steps). -/
def State.stepDone (s : State) (r : Nat) : Bool :=
  let x := s.region r
  x.live && x.lead.isNone && s.farRest r && x.status == .running && x.activeNow && !x.dbgStop && x.inStep && x.doneRecv && !x.stepFault && s.storesEmpty r &&
    !(s.net.any fun f => f.r == r) && !s.anyParked r && !s.watchWaits r && !s.sallocWaits r && s.mxIdle r &&
    (s.elemsOf r).all fun p => memEmpty p.2

/-- Close the contexts that are open, with Malformed once for each (R201). -/
def State.closeContexts (s : State) (r : Nat) : State :=
  (s.elemsOf r).foldl (fun s p => p.2.ctxs.foldl (fun s c =>
    let s := s.dropShelfRead r p.1 c.2
    (s.updElem r p.1 fun e => { e with ctxs := Sparse.del e.ctxs c.1 }).raise r fcMalformed p.1 c.2.slot c.2.tag.toNat 0 0) s) s

/-- The end of a region's last step: its task waits for the completion counter, or, without a task, the region stays
loaded or leaves its place (R258, R330). -/
def State.lastStep (s : State) (r : Nat) : State :=
  let x := s.region r
  match x.task with
  | some _ => s.updRegion r fun y => { y with inStep := false, awaiting := true }
  | none =>
    let s := (s.flushStores r).commitJournal (s.rid r)
    if x.keep then s.updRegion r fun y => { y with inStep := false, status := .completed }
    else s.freeRegion r

/-- The sequencer goes on after a step (R251); a drain withholds the next start token (R331). -/
def State.afterStep (s : State) (r : Nat) : State :=
  let x := s.region r
  match if x.stopFlag then none else nextStep x.confs x.point x.conf with
  | none => s.lastStep r
  | some (p, c) =>
    let s := s.updRegion r fun y => { y with point := p, conf := c, inStep := false, doneRecv := false }
    if x.draining || x.drained || x.frozenEnd then s.updRegion r fun y => { y with pendStep := true } else s.startStep r

/-- STEP_COMPLETE. -/
def execStepComplete (r : Nat) (s : State) : Out :=
  if 256 ≤ r then .fault .noSuchUnit
  else if !s.stepDone r then .next s
  else .next (((s.closeContexts r).progress r).afterStep r)

/-! ## The end of a drain (R331) -/

/-- DRAIN_END: drained, or frozen. -/
def execDrainEnd (r : Nat) (s : State) : Out :=
  if 256 ≤ r then .fault .noSuchUnit
  else
    let x := s.region r
    if !x.live || !x.draining || x.drained || x.frozenEnd then .next s
    else if s.drainDone r then .next (s.updRegion r fun y => { y with draining := false, drained := true })
    else if s.frozen r then .next (s.updRegion r fun y => { y with draining := false, frozenEnd := true })
    else .next s

end Sys2Proof.Machine
end

