-- ==== Sys2Proof/Machine/Text.lean ====
section
/-! DEFINITION. How `ifepel` prints state (R15 to R22, R35, R246, R248, R305, R309, R340). -/
namespace Sys2Proof.Machine

/-! ## Numbers -/

def hexDigit (d : Nat) : String := (["0", "1", "2", "3", "4", "5", "6", "7", "8", "9", "A", "B", "C", "D", "E", "F"][d]?).getD ""

/-- `n` hexadecimal digits of a value. -/
def hexDigits (v : Nat) : Nat → String
  | 0 => ""
  | n + 1 => hexDigits (v / 16) n ++ hexDigit (v % 16)

/-- `n` groups of four digits, with an underscore between groups. -/
def hexGroups (v : Nat) : Nat → String
  | 0 => ""
  | 1 => hexDigits (v % 65536) 4
  | n + 1 => hexGroups (v / 65536) n ++ "_" ++ hexDigits (v % 65536) 4

/-- A 64-bit value, and one of 32 or 16 bits. -/
def hex64 (v : Nat) : String := "0x" ++ hexGroups v 4
def hex32 (v : Nat) : String := "0x" ++ hexGroups v 2
def hex16 (v : Nat) : String := "0x" ++ hexDigits v 4
def hex8 (v : Nat) : String := "0x" ++ hexDigits v 2

/-- Strings joined by a separator. -/
def joinWith (sep : String) : List String → String
  | [] => ""
  | [x] => x
  | x :: r => x ++ sep ++ joinWith sep r

def bit01 (b : Bool) : String := if b then "1" else "0"

/-- A tag (R35): iteration as four digits, context as two. -/
def showTag (g : BitVec 24) : String := hexDigits (tagIter g) 4 ++ ":" ++ hexDigits (tagCtx g) 2

/-- `n` decimal digits of a value. -/
def decDigits (v : Nat) : Nat → String
  | 0 => ""
  | n + 1 => decDigits (v / 10) n ++ hexDigit (v % 10)

/-- Remove the trailing zeros of a value of at most `n` digits: the value and the digits left. -/
def trimZeros (v : Nat) : Nat → Nat × Nat
  | 0 => (v, 0)
  | n + 1 => if v % 10 == 0 then trimZeros (v / 10) n else (v, n + 1)

/-- An exact number in decimal: every finite value of a format has a finite expansion. The spelling of NaN, infinity and
-0 is the model's (log 88). -/
def showNum (v : Num) : String :=
  if v.isNan then (if v.sign then "-nan" else "nan")
  else if v.isInf then (if v.sign then "-inf" else "inf")
  else if v.isZero then (if v.sign then "-0" else "0")
  else match v with
    | .fin neg num den =>
      let k := Nat.log2 den
      let r := trimZeros (num * 5 ^ k * (2 ^ k / den) % 10 ^ k) k
      (if neg then "-" else "") ++ toString (num / den) ++ (if r.2 == 0 then "" else "." ++ decDigits r.1 r.2)
    | _ => ""

/-- A 32-bit word with its FP32 value. -/
def showWord (w : Nat) : String := hex32 w ++ " " ++ showNum (fp32Value w)

/-! ## Typed data (R29) -/

def typeBytes : DataType → Nat
  | .i8 | .fp8e4m3 | .fp8e5m2 | .bytes => 1
  | .i16 | .bf16 | .fp16 => 2
  | .i32 | .fp32 => 4
  | .i64 => 8

/-- A value of a data-line type; `i64` is printed in hexadecimal (R305). -/
def showTyped (t : DataType) (v : Nat) : String :=
  let int := fun w => toString (intValue w true v)
  let flt := fun f => showNum (fmtValue f v).1
  match t with
  | .i8 => int 8
  | .i16 => int 16
  | .i32 => int 32
  | .i64 => hex64 v
  | .bf16 => flt .bf16
  | .fp16 => flt .fp16
  | .fp32 => flt .fp32
  | .fp8e4m3 => flt .e4m3
  | .fp8e5m2 => flt .e5m2
  | .bytes => hex8 v

/-! ## Units and slots (R15 to R22, R41) -/

/-- A unit by its element address; the prefix of core 0 is left out. -/
def showUnit (a : Nat) : String :=
  let k := a % 128
  let n := if k < 64 then "e" ++ toString k
    else if k < 80 then "m" ++ toString (k - 64)
    else if k < 96 then "sw" ++ toString (k - 80)
    else if k < 99 then "mx" ++ toString (k - 96)
    else if 100 ≤ k && k < 104 then "cg" ++ toString (k - 100)
    else "tg" ++ toString (k - 120)
  (if a / 128 == 0 then "" else "c" ++ toString (a / 128) ++ ".") ++ n

/-- The names of the major opcodes (R47), by rows. -/
def opNames : List (List String) := [
  [],
  ["ADD", "SUB", "MUL", "MULHI", "MAD", "DIV", "REM", "AND", "OR", "XOR", "ANDN", "SHL", "SHR", "SAR", "ROT", "CLZ"],
  ["POPC", "MIN", "MAX", "ABS", "", "", "", "", "FADD", "FSUB", "FMUL", "FMA", "FMIN", "FMAX", "FSGN", "FRCP"],
  ["FRSQ", "FEXP2", "FLOG2", "FCVT", "FCLASS", "FDOT", "AMAX", "", "CMP", "FCMP", "SEL", "", "BCMP", "BFIND", "BPERM", "HASH64"],
  ["CRC32C", "DFASTEP", "", "", "STEER", "MERGE", "GATE", "FORK", "SINK", "CONST", "", "", "TAGGET", "TAGSET", "CTXALLOC", "CTXRET"],
  ["CTXFREE", "SEQSET", "", "", "LOOPGEN", "LOOPRET", "ACCUM", "", "COMPRESS", "TOPK", "MERGE2", "", "TOKOUT", "TRAP", "ETRIG", "DONE"],
  ["CHBIND", "SCLSET", "CNTWATCH", "CHAIN", "NOP"],
  [],
  ["LD", "ST", "AGSTREAM", "GATHER", "SCATTER", "ATOM", "RED", "FENCE", "APCVT", "APTEST", "FIB.OPEN", "FIB.ADV", "FIB.END",
   "FIB.CLOSE", "MLDT", "PREF"],
  [],
  ["MMA", "MMA.Z", "ACC.RD", "ACC.WR", "ACC.CVT", "ACC.CHK", "ACC.VFY", "ACC.FIX", "SCL.LD"],
  ["SHALLOC", "SHSEAL", "SHLD", "SHPEEK", "SHABANDON", "SHQUERY"]]

/-- The name of a major opcode; a reserved one is named by its number. -/
def opName (op : Nat) : String :=
  match (opNames[op / 16]?).bind fun r => r[op % 16]? with
  | some n => if n == "" then hex8 op else n
  | none => hex8 op

def portName (p : Nat) : String := (["a", "b", "c", "p"][p]?).getD ""
def tagopName (n : Nat) : String := (["keep", "itinc", "enter", "exit", "itpay", "seqinc"][n]?).getD (toString n)
def fireName (n : Nat) : String := (["all", "any", "gate", "latb"][n]?).getD (toString n)
def kindName (n : Nat) : String :=
  (["data", "bound", "request", "reply", "diverted", "spilled", "control", "poison"][n]?).getD (toString n)

/-- The source mode of a port as the verbose form writes it. -/
def modeName (w : Slot) (p : Nat) : String :=
  if w.arityN ≤ p then "none" else (["token", "const", "latch", "iter"][slotMode w p]?).getD ""

/-- A destination of the verbose form. -/
def showDest (d : Dest) : String :=
  if d.valid then
    "\x7b " ++ showUnit d.elem.toNat ++ ".s" ++ toString d.slot.toNat ++ " port " ++ portName d.port.toNat ++ ", net " ++
      (if d.net then "dynamic" else "static") ++ ", tag " ++ tagopName d.tagop.toNat ++ " \x7d"
  else "none"

/-- The verbose form of a slot (R21). -/
def showVerbose (pre : String) (a slot op : Nat) (w : Slot) : String :=
  "slot " ++ pre ++ showUnit a ++ ".s" ++ toString slot ++ " \x7b op " ++ opName op ++ "; fn " ++ toString w.fn.toNat ++
    "; fire " ++ fireName w.fire.toNat ++ "; a " ++ modeName w 0 ++ "; b " ++ modeName w 1 ++ "; c " ++ modeName w 2 ++
    "; arity " ++ toString w.arity.toNat ++ "; flags " ++ toString w.flags.toNat ++ "; round channel; out ch" ++
    toString w.out.toNat ++ "; const " ++ hex32 w.const.toNat ++ "; dest0 " ++ showDest w.d0 ++ "; dest1 " ++ showDest w.d1 ++ " \x7d"

/-- The named fields of an instruction's function and flags, in the canonical order of R22: whether the field lies in
flags, its low bit, its width and its names from value 0 on; an empty name is none (R42, R116, R119, R121, R124 to R126, R130,
R133, R134, R137, R154, R183, R184, R193, R207, R230). -/
def suffixFields (op : Nat) : List (Bool × Nat × Nat × List String) :=
  let sign := (false, 0, 1, ["z", "s"])
  let bit := fun (f : Bool) (n : Nat) (x : String) => (f, n, 1, ["", x])
  let scopes := ["", "co", "cl", "die", "pkg", "pod"]
  let fnScope := (false, 0, 3, scopes)
  let scope := (true, 0, 3, scopes)
  let size := (false, 0, 1, ["w", "d"])
  let order := ["", "acq", "rel", "ar"]
  let aper := (false, 0, 3, ["sp", "clu", "hbm", "com", "pod"])
  let preds := ["eq", "ne", "lt", "le", "gt", "ge"]
  let red := (true, 0, 2, ["", "redor", "redand"])
  if 0x10 ≤ op && op < 0x24 then [sign]
  else match op with
    | 0x2E => [(false, 0, 2, ["copy", "neg", "xor"])]
    | 0x33 => [(false, 0, 3, ["p0", "p1", "p2", "p3", "p4", "p5", "p6", "p7"]), bit false 3 "si", bit false 4 "so"]
    | 0x36 => [bit true 0 "inf"]
    | 0x38 => [sign, (false, 1, 3, preds), red]
    | 0x39 => [bit false 3 "tot", (false, 0, 3, preds ++ ["un", "ord"]), red]
    | 0x3D => [(false, 0, 2, ["eq", "ne", "rng"])]
    | 0x40 => [(false, 0, 3, ["n1", "n2", "n3", "n4", "n5", "n6", "n7", "n8"])]
    | 0x41 => [(false, 3, 2, ["w2", "w4", "w8"]), (false, 0, 3, ["mb0", "mb1", "mb2", "mb3", "mb4", "mb5", "mb6", "mb7"])]
    | 0x46 => [bit true 0 "inv"]
    | 0x49 => [sign, bit true 0 "bnd"]
    | 0x4D => [bit false 0 "seq"]
    | 0x56 => [sign]
    | 0x58 | 0x59 => [sign, bit true 0 "nz"]
    | 0x5A => [(false, 0, 1, ["isect", "union"])]
    | 0x5D => [bit false 0 "cont"]
    | 0x5E | 0x62 => [fnScope]
    | 0x5F => [bit false 0 "stop"]
    | 0x64 => [bit true 0 "bnd"]
    | 0x80 | 0x81 | 0x83 | 0x84 => [(false, 0, 2, ["b", "h", "w", "d"]), (false, 2, 2, order), bit false 4 "t", scope]
    | 0x85 => [(false, 1, 4, ["swap", "add", "and", "or", "xor", "mins", "maxs", "minz", "maxz", "cas"]), size, scope]
    | 0x86 => [(false, 1, 1, ["fadd", "add"]), size, scope]
    | 0x87 => [(false, 2, 2, order), scope]
    | 0x88 => [aper, bit true 0 "mb"]
    | 0x89 => [aper]
    | 0x8A => [bit false 0 "run"]
    | 0x8E => [bit false 0 "sw"]
    | 0xA1 => [bit true 0 "ck"]
    | 0xA2 => [(false, 0, 1, ["tok", "mem"]), bit true 0 "cl"]
    | 0xA3 => [(false, 0, 1, ["tile", "el"]), bit true 0 "ck"]
    | 0xA4 => [bit false 0 "ex", bit true 0 "cl"]
    | 0xA8 => [(false, 0, 2, ["data", "lay", "st"])]
    | 0xB2 | 0xB3 => [bit false 0 "its"]
    | 0xB5 => [(false, 0, 1, ["h", "p"])]
    | _ => []

/-- The suffixes of a function or flags value: none for 0, names where the instruction has them for every set field, else
the raw form (R22). -/
def suffixes (op : Nat) (flag : Bool) (v : Nat) : String :=
  let fs := (suffixFields op).filter fun q => q.1 == flag
  let part := fun (q : Bool × Nat × Nat × List String) => v / 2 ^ q.2.1 % 2 ^ q.2.2.1
  let rest := fs.foldl (fun r q => r - part q * 2 ^ q.2.1) v
  let names := (fs.filter fun q => part q != 0).map fun q => (q.2.2.2[part q]?).getD ""
  if v == 0 then ""
  else if rest != 0 || names.contains "" then (if flag then ".fl" else ".fn") ++ toString v
  else String.join (names.map fun n => "." ++ n)

/-- A destination of the compact form on a line of core `k`: the default core is that of the line (R15). -/
def showTarget (k : Nat) (d : Dest) : String :=
  let a := d.elem.toNat
  let unit := if a / 128 == k then showUnit (a % 128) else if a / 128 == 0 then "c0." ++ showUnit a else showUnit a
  unit ++ ".s" ++ toString d.slot.toNat ++ "." ++ portName d.port.toNat ++ (if d.net then ".dyn" else "") ++
    (if d.tagop == 0 then "" else "." ++ tagopName d.tagop.toNat)

/-- The compact form of a slot (R15 to R20, R22), with the `.const` line that it may need. An absent dest0 before a valid
dest1 prints as `none`, which the grammar of R15 has no form for (DESIGN CHOICE, log 97). -/
def showCompact (pre : String) (a slot op : Nat) (w : Slot) : List String :=
  let unit := pre ++ showUnit a ++ ".s" ++ toString slot
  let dflt := if op == 0x45 then 1 else if op == 0x46 then 2 else 0
  let mods := (List.range w.arityN).map fun p => slotMode w p
  let args := (List.range w.arityN).map fun p =>
    (([portName p, "#" ++ hex32 w.const.toNat, "lat", "itr"])[slotMode w p]?).getD ""
  let ds := if w.d1.valid then [if w.d0.valid then showTarget (a / 128) w.d0 else "none", showTarget (a / 128) w.d1]
    else if w.d0.valid then [showTarget (a / 128) w.d0] else []
  let body := (opName op).toLower ++ suffixes op false w.fn.toNat ++
    (if w.fire.toNat == dflt then "" else "." ++ fireName w.fire.toNat) ++
    suffixes op true w.flags.toNat ++ (if w.out == 0 then "" else ".ch" ++ toString w.out.toNat)
  let line := unit ++ ": " ++ body ++ " " ++ joinWith ", " args ++ (if ds.isEmpty then "" else " -> " ++ joinWith ", " ds)
  if w.const != 0 && !mods.contains 1 then [line, ".const " ++ unit ++ " " ++ hex32 w.const.toNat] else [line]

/-! ## Lines of state -/

/-- A token (R35). -/
def showTok (pre : String) (t : Token) : String :=
  pre ++ showUnit t.dest.toNat ++ ".s" ++ toString t.slot.toNat ++ "." ++ portName t.port.toNat ++ " tag " ++
    showTag (tokTag t) ++ " seq " ++ toString t.seq.toNat ++ " ch" ++ toString t.chan.toNat ++ " kind " ++
    kindName t.kind.toNat ++ " last " ++ bit01 t.last ++ " payload " ++ hex64 t.payload.toNat

/-- The state names of a task record (R59). -/
def taskName (n : Nat) : String :=
  (["EMPTY", "PENDING", "READY", "RUNNING", "TRIGGERED", "RETIRED", "FAULTED", "KILLED"][n]?).getD (toString n)

def tileName : TileState → String
  | .opened => "open"
  | .sealed => "sealed"
  | .drained => "drained"
  | .orphan => "orphan"

/-- The state line of an accumulator (R248). -/
def showAccState (n : Nat) (z : AccState) : String :=
  let v := match z.verify with
    | none => "none"
    | some v => "status " ++ toString (bitsOf v.toNat 7 0) ++ " row " ++ toString (bitsOf v.toNat 36 32) ++ " col " ++
        toString (bitsOf v.toNat 44 40)
  "acc" ++ toString n ++ " open " ++ bit01 z.opened ++ " tag " ++ showTag z.tag ++ " next " ++ toString z.next.toNat ++
    " held " ++ hex16 z.held.toNat ++ " ck " ++ bit01 z.ck ++ " bands " ++ bit01 z.bands ++ " verify " ++ v

/-- An event record by the fields of R65. -/
def showRecord (ev : BitVec 256) : String :=
  let v := ev.toNat
  "event " ++ codeName (bitsOf v 7 0) ++ " code " ++ hex8 (bitsOf v 7 0) ++ " rank " ++ toString (bitsOf v 15 8) ++ " elem " ++
    hex16 (bitsOf v 31 16) ++ " tag " ++ hexDigits (bitsOf v 55 32) 6 ++ " slot " ++ hex8 (bitsOf v 63 56) ++ " info " ++
    hex64 (bitsOf v 127 64)

end Sys2Proof.Machine
end

