-- ==== Sys2Proof/Machine/Debugger.lean ====
section
/-! DEFINITION. `ifepel` (R31 to R35, R246, R248, R305, R309, R340): breakpoints and stops, the commands, what they print;
and uncorrectable errors (R110, R179, R311). A stop is pending until a command reports it; `wait` of the debugger says that
a command has not met its stop yet. -/
namespace Sys2Proof.Machine

/-! ## Printing and reporting -/

/-- Print lines. -/
def State.print (s : State) (l : List String) : State := { s with dbg := { s.dbg with console := s.dbg.console ++ l } }

/-- The image that declares the region of a descriptor, of those loaded into a device. -/
def State.loadedDesc (s : State) (v : Nat) (desc : Word) : Option (Image × ImgRegion) :=
  s.dbg.images.reverse.findSome? fun im =>
    if im.1 == v then (im.2.regions.find? fun g => g.descAt == desc).map fun g => (im.2, g) else none

/-- The image that declares a region. -/
def State.loadedOf (s : State) (r : Nat) : Option (Image × ImgRegion) := s.loadedDesc (s.region r).vd (s.region r).desc

def State.regionName (s : State) (r : Nat) : String := ((s.loadedOf r).map fun p => p.2.name).getD (toString r)

/-- The prefix of a unit: it is needed where the image declares more than one region (R305). -/
def unitPre (x : Option (Image × ImgRegion)) : String :=
  match x with
  | some (im, g) => if 1 < im.regions.length then g.name ++ ":" else ""
  | none => ""
def State.regionPre (s : State) (r : Nat) : String := unitPre (s.loadedOf r)

/-- The location of a stop (R32, R35, R305). -/
def State.stopPlace (s : State) (x : Stop) : String :=
  match x.r, x.t with
  | some r, _ =>
    if x.a == noElem then s.regionName r
    else s.regionPre r ++ showUnit x.a ++ (if x.slot == noSlot then "" else ".s" ++ toString x.slot)
  | none, some t => "thread " ++ toString (t % 16)
  | none, none => "device"

/-- The line of a stop (R35). -/
def State.stopLine (s : State) (x : Stop) : String :=
  "stop: " ++ x.kind ++ " " ++ s.stopPlace x ++ " tag " ++ showTag x.tag ++ " cycle " ++ toString x.cycle

/-- Report the earliest pending stop, or wait for one. -/
def State.report (s : State) : State :=
  match s.dbg.stops with
  | [] => { s with dbg := { s.dbg with wait := true } }
  | x :: r => { s with dbg := { s.dbg with stops := r, wait := false, console := s.dbg.console ++ [s.stopLine x],
                                           latest := if x.ev.isSome then x.ev else s.dbg.latest } }

/-- A stop that occurs while a command waits is reported at once. -/
def State.settleStops (s : State) : State := if s.dbg.wait && !s.dbg.stops.isEmpty then s.report else s

/-! ## Breakpoints and stops (R32, R246, R305, R340) -/

/-- Whether a breakpoint stops a firing. -/
def brkFires (b : Brk) (desc : Word) (x : Site) : Bool :=
  match b with
  | .fire d a slot tag => d == desc && a == x.a && slot == x.slot && (match tag with
    | some g => g == x.tag
    | none => true)
  | .tag g => g == x.tag
  | _ => false

/-- The stop of a firing whose set is selected, before it is consumed: a breakpoint, or the end of `step`. The firing at
which the region stopped last passes. -/
def State.fireStop (s : State) (x : Site) : Option String :=
  let g := s.region x.r
  if s.dbg.vd != some g.vd || g.dbgSkip == some (x.a, x.slot, x.tag) then none
  else if s.dbg.breaks.any fun b => brkFires b.2 g.desc x then some "fire"
  else if s.dbg.steps == some (x.r, 0) then some "step"
  else none

/-- Stop a region at a firing. -/
def State.stopFiring (s : State) (x : Site) (kind : String) : State :=
  let p : Stop := { kind := kind, r := some x.r, t := none, a := x.a, slot := x.slot, tag := x.tag,
                    cycle := s.coreClock (s.coreOf x.r x.a), ev := none }
  let s := (s.addStop p).updRegion x.r fun g => { g with dbgStop := true, dbgSkip := some (x.a, x.slot, x.tag) }
  if s.dbg.steps.any fun q => q.1 == x.r then { s with dbg := { s.dbg with steps := none } } else s

/-- A firing passes: `step` counts it. -/
def State.passFiring (s : State) (x : Site) : State :=
  let s := if (s.region x.r).dbgSkip == some (x.a, x.slot, x.tag) then s.updRegion x.r fun g => { g with dbgSkip := none } else s
  match s.dbg.steps with
  | some (r, n + 1) => if r == x.r then { s with dbg := { s.dbg with steps := some (r, n) } } else s
  | _ => s

/-- The stop of the debug thread before it issues: `break pc`, or the end of `step thread`, which prints nothing. -/
def State.threadStop (s : State) (t : Nat) : Option State :=
  if s.dbgThread != some t then none
  else if s.dbg.tSteps == some 0 then some { s with dbg := { s.dbg with tStop := true, tSteps := none } }
  else
    let pc := (s.thread t).pc
    let hit := s.dbg.breaks.any fun b => b.2 == Brk.pc pc
    if hit && s.dbg.tSkip != some pc then
      let s := s.addStop { kind := "pc " ++ hex64 pc.toNat, r := none, t := some t, a := noElem, slot := noSlot, tag := 0,
                           cycle := s.clusterClock (clusterOfThread t), ev := none }
      some { s with dbg := { s.dbg with tStop := true, tSkip := some pc, tSteps := none } }
    else none

/-- Whether the debug thread is stopped. -/
def State.threadHeld (s : State) (t : Nat) : Bool := s.dbg.tStop && s.dbgThread == some t

/-- The register that a control-core word writes, by its op field (R51 to R55); g0 takes no write. -/
def wordWrites (w : BitVec 32) : Option Reg :=
  let op := bitsOf w.toNat 31 25
  let d := BitVec.ofNat 5 (bitsOf w.toNat 24 20)
  let writes := (1 ≤ op && op ≤ 32) || (38 ≤ op && op ≤ 40) || op == 48 || op == 49 || op == 51 || op == 52 || op == 54 ||
    op == 55 || (61 ≤ op && op ≤ 76) || op == 82 || op == 84 || op == 85 || op == 88 || op == 90 || op == 91 || op == 95
  if writes && d != 0 then some d else none

/-- Whether a step of thread `t` took a trap: its level rose or it halted. -/
def trapped (s s' : State) (t : Nat) : Bool :=
  decide ((s.thread t).level.toNat < (s'.thread t).level.toNat) || (s'.thread t).run == .halted

/-- The registers of a branch or jump word (R54, R55); none where the word is no branch. -/
def jumpUses (w : BitVec 32) : Option (List Reg) :=
  let a := BitVec.ofNat 5 (bitsOf w.toNat 24 20)
  let b := BitVec.ofNat 5 (bitsOf w.toNat 19 15)
  match bitsOf w.toNat 31 25 with
  | 36 | 38 | 39 => some [a]
  | 37 | 40 => some [a, b]
  | _ => none

/-- What `ifepel` notes of the debug thread's turn from `s` to `t`: an instruction that issued counts for `step thread`, and
its register is to be printed (R305); one that trapped writes none, WAITGE writes when its wait ends, and an interrupt that was
taken in its place is no instruction. A stalled one changes nothing; a jump to itself issues where none of its registers is busy. -/
def State.noteIssue (s t : State) (k : Nat) (w : BitVec 32) : State :=
  let x := s.thread k
  let y := t.thread k
  let jumped := (jumpUses w).any fun l => l.all fun r => !x.isBusy r
  if s.dbg.vd.isNone || s.dbgThread != some k || (y == x && !jumped) || (!x.inui && y.inui) then t
  else
    let d := { t.dbg with tSkip := none }
    let d := match d.tSteps, y.run with
      | some (n + 1), .waitge r _ _ _ => { d with tSteps := some n, tWait := if r == 0 then none else some (r, y.pc, y.level, y.inui) }
      | some (n + 1), _ => { d with tSteps := some n, tRegs := d.tRegs ++ ((wordWrites w).filter fun r => !trapped s t k && !d.tRegs.contains r).toList }
      | _, _ => d
    { t with dbg := d }

/-- A stepped WAITGE whose wait is over has written its register where its thread goes on behind it; an interrupt or a trap has ended
it without a write. -/
def State.settleWait (s : State) (x : ThreadState) : State :=
  match s.dbg.tWait, x.run with
  | none, _ | _, .waitge _ _ _ _ => s
  | some (r, pc, l, u), _ =>
    let done := x.pc == pc + 4 && x.level == l && x.inui == u && !s.dbg.tRegs.contains r
    { s with dbg := { s.dbg with tWait := none, tRegs := if done then s.dbg.tRegs ++ [r] else s.dbg.tRegs } }

/-- Print the registers of stepped instructions once they are written. -/
def State.settleRegs (s : State) : State :=
  match s.dbgThread with
  | none => s
  | some t =>
    let s := s.settleWait (s.thread t)
    let ready := s.dbg.tRegs.filter fun r => !(s.thread t).isBusy r
    if ready.isEmpty then s
    else
      let lines := ready.map fun r => "g" ++ toString r.toNat ++ " = " ++ hex64 ((s.thread t).reg r).toNat
      { s with dbg := { s.dbg with console := s.dbg.console ++ lines, tRegs := s.dbg.tRegs.filter fun r => !ready.contains r } }

/-- Regions of the attached device that stand on cores. -/
def State.dbgRegions (s : State) (v : Nat) : List Nat := s.regionsOf v

/-- The tag of the head of a stream. -/
def headTag (c : StreamCtx) : BitVec 24 := if c.itstep then mkTag (tagCtx c.tag) (tagIter c.tag + c.next) else c.tag

/-- The freeze of a region whose record is held (R340): element and tag of its earliest parked request or stream head. Requests that
parked behind a head of their stream have not issued. -/
def State.parkedSite (s : State) (r : Nat) : Option (Nat × BitVec 24) :=
  let ps := (s.elemsOf r).flatMap fun p =>
    ((p.2.queue.filter fun q => q.parked && q.first != 0).map fun q => (q.first, p.1, q.tag)) ++
      (p.2.ctxs.filter fun c => c.2.parked).map fun c => (c.2.first, p.1, headTag c.2)
  (ps.foldl (fun b q => match b with
    | none => some q
    | some x => if q.1 < x.1 then some q else some x) (none : Option (Nat × Nat × BitVec 24))).map (·.2)

/-- Report the freeze of a region once for a held record. -/
def State.noteFrozen (s : State) (h : Held) : State :=
  match h.r with
  | none => s
  | some r =>
    if s.dbg.hold.any (fun q => q.r == some r && q.frozen) || !s.frozen r then s
    else match s.parkedSite r with
      | none => s
      | some (a, g) =>
        let s := s.addStop { kind := "frozen", r := some r, t := none, a := a, slot := noSlot, tag := g,
                             cycle := s.stopClock (some r) none a, ev := none }
        { s with dbg := { s.dbg with hold := s.dbg.hold.map fun q => if q.r == some r then { q with frozen := true } else q } }

/-- BREAKPOINT_STOP: the condition of breakpoint `n` is met and the region or thread stops. The stops of accesses and events
come with the access and the event (R32); a freeze is reported while a record is held, whether its breakpoint stands or not. -/
def execBreakpointStop (n : Nat) (s : State) : Out :=
  match s.dbg.vd, Sparse.entry? s.dbg.breaks n with
  | some v, some b =>
    match b with
    | .fire .. | .tag _ =>
      let sites := (s.dbgRegions v).flatMap fun r => (if s.regionGoes r then s.elemsOf r else []).filterMap fun p => s.nextFiring r p.1
      (match sites.find? fun x => brkFires b (s.region x.r).desc x && s.fireStop x == some "fire" with
       | some x => .next (s.stopFiring x "fire")
       | none => .next s)
    | .pc _ =>
      (match s.dbgThread with
       | some t => if s.dbg.tStop || (s.thread t).run != .running then .next s else .next ((s.threadStop t).getD s)
       | none => .next s)
    | .event _ true => .next (s.dbg.hold.foldl State.noteFrozen s)
    | _ => .next s
  | some _, none => .next (s.dbg.hold.foldl State.noteFrozen s)
  | _, _ => .next s

/-! ## The frame of commands -/

/-- A command acts only on an attached device with debug permission. -/
def State.command (s : State) (k : Nat → State) : Out :=
  match s.dbg.vd with
  | some v => if (s.vd v).live && (s.vd v).debug then .next (k v) else .next (s.print ["refused"])
  | none => .next (s.print ["refused"])

/-- Resume a region, and the debug thread. -/
def State.goRegion (s : State) (r : Nat) : State := s.updRegion r fun g => { g with dbgStop := false }
def State.goThread (s : State) : State :=
  if s.dbg.tStop || s.dbg.tSteps == some 0 then
    let pc := s.dbgThread.map fun t => (s.thread t).pc
    { s with dbg := { s.dbg with tStop := false, tPc := none, tSkip := pc, tSteps := none } }
  else s
def State.goAll (s : State) (v : Nat) : State := ((s.dbgRegions v).foldl State.goRegion s).goThread

/-- Deliver every held record in order, and resume the regions they stopped (R340). -/
def State.release (s : State) (quiet : Bool) : State :=
  let hs := s.dbg.hold
  let s := { s with dbg := { s.dbg with hold := [] } }
  let s := hs.foldl (fun s h =>
    let s := s.sendTo h.vd h.cluster h.endpoint h.ev
    if quiet then s else s.print ["released " ++ codeName (h.ev.toNat % 256) ++ " to " ++ hex64 h.endpoint.toNat]) s
  hs.foldl (fun s h => match h.r with
    | some r => s.goRegion r
    | none => s) s

/-- Publish the tasks that `run` has still to publish, as far as the dependence table has room (R246, R261). -/
def State.publishTodo (s : State) : List Word → State
  | [] => { s with dbg := { s.dbg with todo := [] } }
  | a :: l =>
    match s.dbg.vd, s.dbgThread with
    | some v, some t =>
      (match (s.publish v (t / 16) a { thread := t, own := true, rel := [] }) with
       | (s', some _) => s'.publishTodo l
       | (_, none) => { s with dbg := { s.dbg with todo := a :: l } })
    | _, _ => { s with dbg := { s.dbg with todo := a :: l } }

/-- What a step does for `ifepel` beside its own effect: the tasks still to publish, the registers and stops to print. -/
def State.settleDebug (s : State) : State :=
  if s.dbg.vd.isNone then s
  else
    let s := if s.dbg.todo.isEmpty then s else s.publishTodo s.dbg.todo
    let s := if s.dbg.tRegs.isEmpty && s.dbg.tWait.isNone then s else s.settleRegs
    s.settleStops

/-! ## Running (R31, R246, R305, R307, R309) -/

/-- IFEPEL_LOAD: `ifepel` attaches to the device and loads an image without starting its regions. -/
def execIfepelLoad (v : Nat) (img : Image) (s : State) : Out :=
  if Config.vdCount ≤ v then .fault .noSuchUnit
  else if !(s.vd v).live || !(s.vd v).debug || (s.dbg.vd.isSome && s.dbg.vd != some v) then .next (s.print ["refused"])
  else
    let s := { s with dbg := { s.dbg with vd := some v } }
    match s.loadImage v img with
    | none => .next (s.print ["load refused"])
    | some s =>
      let cores := match img.regions with
        | [] => ""
        | [g] => ", " ++ toString g.cores ++ (if g.cores == 1 then " core" else " cores")
        | g :: _ => ", " ++ toString g.cores ++ (if g.cores == 1 then " core each" else " cores each")
      let head := "image " ++ img.name ++ ": " ++ (if img.regions.length == 1 then "region " else "regions ") ++
        joinWith ", " (img.regions.map (·.name)) ++ cores
      .next (s.print (head :: img.parts.map fun p => "partition " ++ p.1 ++ " number " ++ toString p.2.1 ++ " floor " ++
        toString p.2.2.1 ++ " ceil " ++ toString p.2.2.2))

/-- The image that `run` takes: the one loaded last into the device. -/
def State.lastImage (s : State) (v : Nat) : Option Image := (s.dbg.images.reverse.find? fun im => im.1 == v).map (·.2)

/-- IFEPEL_RUN: publishes the image's tasks in the order of R307, or one task, through the debug thread. -/
def execIfepelRun (task : Option Nat) (s : State) : Out :=
  s.command fun v => match s.lastImage v with
    | none => s.print ["no image loaded"]
    | some im =>
      let l := match task with
        | some i => [i]
        | none => runOrder im im.tasks.length (List.range im.tasks.length)
      (s.publishTodo (s.dbg.todo ++ l.filterMap fun i => (im.tasks[i]?).map (·.recAt))).report

/-- IFEPEL_START: the debug thread at user level, g1 to g31, UI mask and UI entry 0 (R305). -/
def execIfepelStart (pc : Word) (s : State) : Out :=
  s.command fun _ => match s.dbgThread with
    | none => s.print ["refused"]
    | some t =>
      let s := s.updThread t fun x => { x with regs := [], poison := 0, uimask := 0, uient := 0, level := 0, pc := pc, run := .running }
      let s := { s with dbg := { s.dbg with tStop := false, tPc := none, tSkip := none, tSteps := none } }
      s.report

/-- IFEPEL_CONT: a pending stop is reported and nothing resumes, else everything stopped resumes (R305). -/
def execIfepelCont (s : State) : Out :=
  s.command fun v => if s.dbg.stops.isEmpty then (s.goAll v).report else s.report

/-- IFEPEL_CONT_REGION: resumes only region `r` (R309). -/
def execIfepelContRegion (r : Nat) (s : State) : Out :=
  if 256 ≤ r then .fault .noSuchUnit
  else s.command fun v =>
    if !s.dbg.stops.isEmpty then s.report
    else if !(s.region r).live || (s.region r).vd != v then s.print ["refused"]
    else (s.goRegion r).report

/-- IFEPEL_STEP: the stopped region performs `n` more firings, then stops before the next one is consumed. -/
def execIfepelStep (n : Nat) (s : State) : Out :=
  s.command fun v => match (s.dbgRegions v).find? fun r => (s.region r).dbgStop with
    | none => s.print ["refused"]
    | some r => ({ s.goRegion r with dbg := { s.dbg with steps := some (r, n) } }).report

/-- IFEPEL_STEP_THREAD: the debug thread issues `n` more instructions (R305). -/
def execIfepelStepThread (n : Nat) (s : State) : Out :=
  s.command fun _ => { s.goThread with dbg := { s.goThread.dbg with tSteps := some n } }

/-- IFEPEL_WAIT: the next stop, with nothing resumed (R309). -/
def execIfepelWait (s : State) : Out := s.command fun _ => s.report

/-- IFEPEL_KILL: RGNKILL on the region's placement (R309). -/
def execIfepelKill (r : Nat) (s : State) : Out :=
  if 256 ≤ r then .fault .noSuchUnit
  else s.command fun v =>
    let x := s.region r
    if !x.live || x.vd != v then s.print ["refused"]
    else if s.killWaits r then s
    else
      let t := s.killRegion r
      let st := match x.task with
        | some a => (match t.taskWord (hwWho v (t.homeCluster v (r / 64) a)) a with
          | .ok wd => hex64 a.toNat ++ " " ++ taskName (wd % 16)
          | .error _ => hex64 a.toNat ++ " KILLED")
        | none => hex64 0 ++ " none"
      t.print ["region " ++ s.regionName r ++ " killed: task " ++ st]

/-- IFEPEL_RELEASE (R340). -/
def execIfepelRelease (s : State) : Out := s.command fun _ => s.release false

/-- IFEPEL_QUIT: detaches and leaves the device running. -/
def execIfepelQuit (s : State) : Out :=
  s.command fun v =>
    let s := (s.release true).goAll v
    { s with dbg := { s.dbg with vd := none, breaks := [], stops := [], wait := false, steps := none, tSteps := none,
                                 tSkip := none, tRegs := [], tWait := none } }

/-! ## Breakpoint commands -/

/-- Set a breakpoint under the next number, and print it. -/
def State.addBreak (s : State) (b : Brk) (text : String) : Out :=
  s.command fun _ =>
    { s with dbg := { s.dbg with breaks := Sparse.put s.dbg.breaks s.dbg.nextB b, nextB := s.dbg.nextB + 1,
                                 console := s.dbg.console ++ [toString s.dbg.nextB ++ ": " ++ text] } }

/-- A breakpoint as it is listed. -/
def State.showBrk (s : State) (b : Brk) : String :=
  match b with
  | .fire d a slot tag => "fire " ++ unitPre (s.loadedDesc (s.dbg.vd.getD noVd) d) ++ showUnit a ++ ".s" ++ toString slot ++ (match tag with
    | some g => " tag " ++ showTag g
    | none => "")
  | .tag g => "tag " ++ showTag g
  | .addr lo len rd wr => "addr " ++ hex64 lo ++ " " ++ toString len ++ (if rd then " read" else "") ++ (if wr then " write" else "")
  | .event c h => "event " ++ codeName c ++ (if h then " hold" else "")
  | .pc a => "pc " ++ hex64 a.toNat

def execIfepelBreakFire (desc : Word) (a slot : Nat) (tag : Option (BitVec 24)) (s : State) : Out :=
  s.addBreak (.fire desc a slot tag) (s.showBrk (.fire desc a slot tag))
def execIfepelBreakTag (tag : BitVec 24) (s : State) : Out := s.addBreak (.tag tag) (s.showBrk (.tag tag))
def execIfepelBreakAddr (lo len : Nat) (rd wr : Bool) (s : State) : Out := s.addBreak (.addr lo len rd wr) (s.showBrk (.addr lo len rd wr))
def execIfepelBreakEvent (code : Nat) (s : State) : Out := s.addBreak (.event code false) (s.showBrk (.event code false))
def execIfepelBreakEventHold (code : Nat) (s : State) : Out := s.addBreak (.event code true) (s.showBrk (.event code true))
def execIfepelBreakPc (pc : Word) (s : State) : Out := s.addBreak (.pc pc) (s.showBrk (.pc pc))

/-- IFEPEL_DELETE. -/
def execIfepelDelete (n : Nat) (s : State) : Out :=
  s.command fun _ => { s with dbg := { s.dbg with breaks := Sparse.del s.dbg.breaks n } }

/-- IFEPEL_LIST. -/
def execIfepelList (s : State) : Out :=
  s.command fun _ => if s.dbg.breaks.isEmpty then s.print ["no breakpoints"]
    else s.print (s.dbg.breaks.map fun b => toString b.1 ++ ": " ++ s.showBrk b.2)

/-! ## Registers and accumulators (R246, R248) -/

def sysName (n : Nat) : String :=
  match n with
  | 0x001 => "TAGWIN" | 0x002 => "HRANK" | 0x003 => "FEDGE" | 0x004 => "MSQUOTA" | 0x005 => "WDLIM" | 0x006 => "THLIM"
  | 0x010 => "TSTAT" | 0x020 => "BOOTSTAT" | 0x030 => "UIPEND" | 0x040 => "VDSTATE" | 0x050 => "XPRED" | 0x051 => "XPTAB"
  | _ => hex16 n

/-- A write of a system register with user privilege under the checks of SYSWR: the state, or the fault code. -/
def State.setSys (s : State) (t n : Nat) (v : Word) : Chk State :=
  match sysWriteLevel n with
  | none => .error fcIllegal
  | some l =>
    if 0 < l then .error fcPrivilege
    else if sysReserved n v then .error fcMalformed
    else match s.sysPut t n (v &&& sysRw n) (v &&& sysW1c n) with
      | none => .error fcMalformed
      | some u => .ok u

/-- IFEPEL_SET_SYS: prints the value read back, or the fault code. -/
def execIfepelSetSys (n : BitVec 15) (v : Word) (s : State) : Out :=
  s.command fun _ => match s.dbgThread with
    | none => s.print ["refused"]
    | some t => match s.setSys t n.toNat v with
      | .error c => s.print [sysName n.toNat ++ ": fault " ++ hex8 c ++ " " ++ codeName c]
      | .ok u =>
        let x := (u.sysRead t n.toNat).toNat
        let wide := n.toNat == 0x003 || n.toNat == 0x051
        u.draw.print [sysName n.toNat ++ " = " ++ (if wide then hex64 x else hex32 x)]

/-- The stopped region of the device that is active on a core. -/
def State.stoppedOn (s : State) (v core : Nat) : Bool :=
  (s.dbgRegions v).any fun r => (s.region r).dbgStop && (s.region r).activeNow && (s.region r).cores.contains core

/-- Whether an instruction delivered to an engine for an accumulator has not been performed; SCL.LD names none. -/
def State.accBusy (s : State) (core n : Nat) : Bool :=
  ((s.core core).issue ++ (s.core core).pool).any fun c => c.acc == n && (match c.op with
    | .sclLd _ => false
    | _ => true)

/-- IFEPEL_INJECT_ACC: it waits for the instructions delivered before; then one bit of a word flips, and the verify state
becomes none (R248). -/
def execIfepelInjectAcc (core n i j bit : Nat) (s : State) : Out :=
  if Config.coreCount ≤ core || 256 ≤ n || 32 ≤ i || 32 ≤ j || 32 ≤ bit then .fault .noSuchUnit
  else match s.dbg.vd with
    | none => .next (s.print ["refused"])
    | some v =>
      if !(s.vd v).live || !(s.vd v).debug || !s.stoppedOn v core then .next (s.print ["refused"])
      else if s.accBusy core n then .next s
      else
        let old := s.accWord core n (32 * i + j)
        let new := old ^^^ 2 ^ bit
        let u := (s.setWord core n (32 * i + j) new).updAcc core n fun z => { z with verify := none }
        .next (u.print ["acc" ++ toString n ++ "[" ++ toString i ++ "][" ++ toString j ++ "] " ++ hex32 old ++ " -> " ++ showWord new])

/-! ## The show forms (R35, R246, R248, R305, R309, R340) -/

/-- The line of a fault that a command met. -/
def faultLine (c : Nat) : String := "fault " ++ hex8 c ++ " " ++ codeName c

/-- Sort tokens by a key. -/
def sortEnts (before : MsEntry → MsEntry → Bool) : List MsEntry → List MsEntry
  | [] => []
  | x :: r =>
    let l := sortEnts before r
    l.takeWhile (fun y => before y x) ++ x :: l.dropWhile (fun y => before y x)

/-- A command on a unit of a region of the device. -/
def State.onUnit (s : State) (r : Nat) (k : State) : Out :=
  if 256 ≤ r then .fault .noSuchUnit
  else s.command fun v => if (s.region r).live && (s.region r).vd == v then k else s.print ["refused"]

/-- IFEPEL_SHOW_MS: entries by stamp and spill records in refill order, or `no entries` (R246). -/
def execIfepelShowMs (r a : Nat) (s : State) : Out :=
  s.onUnit r
    (let e := s.elem r a
     let pre := s.regionPre r
     let st := fun (m : MsEntry) => showTok pre m.tok ++ " stamp " ++ toString m.stamp
     let ms := (sortEnts (fun x y => decide (x.stamp < y.stamp)) e.store).map st
     let sp := (sortEnts (s.refillBefore r a) e.spill).map fun m => "spill " ++ st m
     let l := ms ++ sp
     s.print (if l.isEmpty then ["no entries"] else l))

/-- IFEPEL_SHOW_SLOT (R15 to R22). -/
def execIfepelShowSlot (r a slot : Nat) (verbose : Bool) (s : State) : Out :=
  s.onUnit r
    (let e := s.elem r a
     s.print (if verbose then [showVerbose (s.regionPre r) a slot (e.opcode slot) (e.slotW slot)]
       else showCompact (s.regionPre r) a slot (e.opcode slot) (e.slotW slot)))

/-- The party of the debugger's reads: the device at its first cluster, on core 0 of its stopped region where there is
one. -/
def State.dbgRegion (s : State) (v : Nat) : Option Nat :=
  match (s.dbgRegions v).find? fun r => (s.region r).dbgStop with
  | some r => some r
  | none => (s.dbgRegions v).head?
def State.dbgWho (s : State) (v : Nat) : Who :=
  match s.dbgRegion v with
  | some r => { hwWho v (r / 64) with core := (s.region r).cores.head? }
  | none => hwWho v (((s.vd v).clusters.head?).getD 0)

/-- IFEPEL_SHOW_TASK (R35). -/
def execIfepelShowTask (va : Word) (s : State) : Out :=
  s.command fun v =>
    let w := s.dbgWho v
    let rd : Chk (List Nat) := do
      let st ← s.taskWord w va
      let pred ← s.hwRead w (va.toNat + 4) 4
      let succ ← s.hwRead w (va.toNat + 8) 8
      let da ← s.hwRead w (va.toNat + 0x20) 8
      let dt ← s.hwRead w (va.toNat + 0x28) 8
      .ok [st, pred, succ, da, dt]
    match rd with
    | .ok [st, pred, succ, da, dt] => s.print ["task " ++ hex64 va.toNat ++ " state " ++ taskName (st % 16) ++ " pred " ++ toString pred ++
        " succ " ++ hex64 succ ++ " done " ++ hex64 da ++ ">=" ++ toString dt]
    | .ok _ => s
    | .error c => s.print [faultLine c]

/-- IFEPEL_SHOW_SHELF: of a handle, or of a partition (R35, R309). -/
def execIfepelShowShelf (handle : Bool) (x : BitVec 32) (s : State) : Out :=
  s.command fun v =>
    let cs := (s.vd v).clusters
    if handle then
      let h := x.toNat
      match cs.findSome? fun c => tileOf (s.cluster c) h with
      | some t =>
        s.print ["h " ++ hex32 h ++ " core " ++ toString (hCore h) ++ " gran " ++ toString (hGran h) ++ " size " ++ toString (hSize h) ++
            " gen " ++ toString (hGen h) ++ " reads " ++ toString t.count,
          "state " ++ tileName t.state ++ (if t.expert then " shares " ++ joinWith " " (t.shares.map toString) else "")]
      | none => s.print ["h " ++ hex32 h ++ " stale gen " ++ toString (granAt (s.cluster ((cs.head?).getD 0)) (hCore h) (hGran h)).gen]
    else
      let p := x.toNat
      let c := s.cluster ((cs.find? fun c => (Sparse.atD (s.cluster c).parts p {}).live && (Sparse.atD (s.cluster c).parts p {}).vd == v).getD 0)
      let y := Sparse.atD c.parts p {}
      let mine := y.live && y.vd == v
      let name := ((s.dbg.images.reverse.findSome? fun im => if im.1 == v then im.2.parts.find? fun q => q.2.1 == p else none).map
        fun q => q.1).getD (toString p)
      s.print ["partition " ++ name ++ " number " ++ toString p ++ " assigned " ++ toString (if mine then (partGrans c p).length else 0) ++
        " free " ++ toString (if mine then (partFree c p).length else 0) ++ " parked " ++ toString (if mine then y.queue.length else 0)]

/-- IFEPEL_SHOW_COUNTER (R35). -/
def execIfepelShowCounter (va : Word) (s : State) : Out :=
  s.command fun v => match s.hwRead (s.dbgWho v) va.toNat 8 with
    | .ok n => s.print [hex64 va.toNat ++ " = " ++ toString n]
    | .error c => s.print [faultLine c]

/-- IFEPEL_SHOW_ACC (R248). -/
def execIfepelShowAcc (core n : Nat) (words : List (Nat × Nat)) (rows cols : List Nat) (s : State) : Out :=
  if Config.coreCount ≤ core || 256 ≤ n then .fault .noSuchUnit
  else s.command fun v =>
    if !s.stoppedOn v core then s.print ["refused"]
    else
      let z := s.accOf core n
      let name := "acc" ++ toString n
      s.print (showAccState n z ::
        (words.map fun q => name ++ "[" ++ toString q.1 ++ "][" ++ toString q.2 ++ "] " ++ showWord (s.accWord core n (32 * q.1 + q.2))) ++
        (rows.map fun i => name ++ " rowck[" ++ toString i ++ "] " ++ showWord (z.row i)) ++
        (cols.map fun j => name ++ " colck[" ++ toString j ++ "] " ++ showWord (z.col j)))

/-- The values that SHOW_MEM reads: each of `w` bytes, `k` of them from index `i` on. -/
def State.memVals (s : State) (v : Nat) (va : Nat) (typed : Bool) (w i : Nat) : Nat → Chk (List Nat)
  | 0 => .ok []
  | k + 1 =>
    let a := va + w * i
    let one : Chk Nat :=
      if !typed then s.hwRead (s.dbgWho v) a w
      else match (s.dbgRegion v).bind fun r => (s.region r).cores.head? with
        | none => .error fcAccessFault
        | some own => match typedCore own a with
          | some c => if 2 ^ 32 ≤ a || typedLimit (bitsOf a 31 30) < bitsOf a 22 0 + w then .error fcAccessFault
            else .ok (s.readNat (pa (typedSpace (bitsOf a 31 30) c) (bitsOf a 22 0)) w)
          | none => .error fcAccessFault
    match one, s.memVals v va typed w (i + 1) k with
    | .ok x, .ok l => .ok (x :: l)
    | .error c, _ => .error c
    | _, .error c => .error c

/-- IFEPEL_SHOW_MEM: a typed address only while the region is stopped (R246, R248). -/
def execIfepelShowMem (va : Word) (typed : Bool) (n : Nat) (ty : DataType) (s : State) : Out :=
  s.command fun v =>
    if typed && !((s.dbgRegions v).any fun r => (s.region r).dbgStop) then s.print ["refused"]
    else match s.memVals v va.toNat typed (typeBytes ty) 0 n with
      | .error c => s.print [faultLine c]
      | .ok l => s.print [(if typed then hex32 va.toNat else hex64 va.toNat) ++ ": " ++ joinWith ", " (l.map (showTyped ty))]

/-- IFEPEL_SHOW_REG: the pc of a trap that stopped the thread is the trapping instruction's (R305). -/
def execIfepelShowReg (rs : List (Option Reg)) (s : State) : Out :=
  s.command fun _ => match s.dbgThread with
    | none => s.print ["refused"]
    | some t => s.print (rs.map fun r => match r with
      | none => "pc = " ++ hex64 (s.dbg.tPc.getD (s.thread t).pc).toNat
      | some r => "g" ++ toString r.toNat ++ " = " ++ hex64 ((s.thread t).reg r).toNat)

/-- IFEPEL_SHOW_EVENT: the latest record that a stop reported. -/
def execIfepelShowEvent (s : State) : Out :=
  s.command fun _ => match s.dbg.latest with
    | some ev => s.print [showRecord ev]
    | none => s.print ["no event"]

/-- The line of an open stream context (R340): a fibre counts from its first entry, and its head lies at the entry's coordinate. -/
def State.streamLine (s : State) (r a : Nat) (x : Nat) (c : StreamCtx) : String :=
  let left := if c.parked then c.stop - c.next else 0
  let fib := c.kind == .fibRun || c.kind == .fibDemand
  let lo := if fib then c.start else 0
  let off : Int := if fib then (c.coord + 4 * c.next : Nat) else streamOff c c.next
  let ea := ((s.mbOf r a c.base : Int) + off).toNat % 2 ^ 64
  let out := match c.kind with
    | .load => c.next - ((s.elem r a).replies.filter fun (y : MemReply) => y.stream == 32 + x).length
    | .store | .shelf => c.next
    | _ => c.emitted
  s.regionPre r ++ showUnit a ++ " stream " ++ toString x ++ " slot s" ++ toString c.slot ++ " tag " ++ showTag c.tag ++ " elems " ++
    toString (c.stop - lo) ++ " emitted " ++ toString out ++ " parked " ++ toString left ++
    (if left == 0 then "" else " head " ++ toString (c.next - lo) ++ " addr " ++ hex64 ea)

/-- IFEPEL_SHOW_STREAM. -/
def execIfepelShowStream (r a : Nat) (s : State) : Out :=
  s.onUnit r
    (let l := ((s.elem r a).ctxs.filter fun c => c.2.begun).map fun c => s.streamLine r a c.1 c.2
     s.print (if l.isEmpty then ["no streams"] else l))

/-- IFEPEL_SHOW_ACCUM. -/
def execIfepelShowAccum (r a : Nat) (s : State) : Out :=
  s.onUnit r
    (let l := (s.elem r a).accums.map fun z => s.regionPre r ++ showUnit a ++ ".s" ++ toString z.slot ++ " accum tag " ++
       showTag (mkTag z.ctx.toNat z.it0) ++ " next " ++ hexDigits (z.next % 65536) 4 ++ " payload " ++ hex64 z.value.toNat
     s.print (if l.isEmpty then ["no accumulations"] else l))

/-- IFEPEL_SHOW_PTE. -/
def execIfepelShowPte (va : Word) (s : State) : Out :=
  s.command fun v => match s.pteOf v va.toNat with
    | none => s.print [faultLine fcPageFault]
    | some (_, e, l) => s.print ["pte " ++ hex64 va.toNat ++ " level " ++ toString l ++ " entry " ++ hex64 e ++ " v " ++ bit01 (bitOf e 0) ++
        " leaf " ++ bit01 (bitOf e 1) ++ " r " ++ bit01 (bitOf e 2) ++ " w " ++ bit01 (bitOf e 3) ++ " x " ++ bit01 (bitOf e 4) ++
        " user " ++ bit01 (bitOf e 5)]

/-! ## Uncorrectable errors (R110, R179, R311) -/

/-- The payload of poison that arises in an element (R109). -/
def elemPoison (a : Nat) : Word := BitVec.ofNat 64 (2 ^ 63 + a)

/-- A token turned into a poison token of element origin (R110). -/
def poisonEnt (a : Nat) (m : MsEntry) : MsEntry := { m with tok := { m.tok with kind := 7, payload := elemPoison a } }

/-- UncorrectableMemory of an element's own storage. -/
def State.elemUnc (s : State) (r a slot : Nat) (tag : BitVec 24) : State :=
  s.raise r fcUncorrectable a slot tag.toNat (elemPoison a).toNat 0

/-- Whether a physical place is storage with ECC in lines: HBM, LPDDR6, scratchpad, W-buffer, A-buffer, scale memory. -/
def lineStorage (p : Nat) : Bool :=
  let o := paOff p
  let sp := paSpace p
  (sp < 2 && o < Config.hbmDie) || (sp == spCommons && o < Config.lpddr) ||
    (List.range Config.coreCount).any fun k => (sp == spScratch k && o < Config.sizeScratch) || (sp == spW k && o < Config.sizeW) ||
      (sp == spA k && o < Config.sizeA) || (sp == spScale k && o < Config.sizeScale)

/-- UNCORRECTABLE_ERROR. -/
def execUncorrectableError (u : Upset) (s : State) : Out :=
  match u with
  | .line p => if lineStorage p then .next (s.markPoison p) else .fault .noSuchUnit
  | .accWord core n i j =>
    if Config.coreCount ≤ core || 256 ≤ n || 32 ≤ i || 32 ≤ j then .fault .noSuchUnit
    else .next (s.markWord (accPa core n (32 * i + j)) true)
  | .entry r a k =>
    if 256 ≤ r then .fault .noSuchUnit
    else match (s.elem r a).store[k]? with
      | none => .next s
      | some m => .next ((s.updElem r a fun e => { e with store := modifyAt (poisonEnt a) e.store k }).elemUnc r a m.tok.slot.toNat (tokTag m.tok))
  | .spill r a k =>
    if 256 ≤ r then .fault .noSuchUnit
    else match (s.elem r a).spill[k]? with
      | none => .next s
      | some m => .next ((s.updElem r a fun e => { e with spill := modifyAt (poisonEnt a) e.spill k }).elemUnc r a m.tok.slot.toNat (tokTag m.tok))
  | .latch r a conf slot port =>
    if 256 ≤ r then .fault .noSuchUnit
    else
      let b := Sparse.atD (s.elem r a).confs conf {}
      let l := Sparse.atD b.latches (4 * slot + port) {}
      if !l.valid then .next s
      else
        let l' : Latch := { l with pay := elemPoison a, kind := 7 }
        .next ((s.updElem r a fun e => { e with confs := Sparse.put e.confs conf { b with latches := Sparse.put b.latches (4 * slot + port) l' } }
          ).elemUnc r a slot l.tag)
  | .planes r a conf slot =>
    if 256 ≤ r then .fault .noSuchUnit
    else if !(Sparse.entry? (s.elem r a).confs conf).isSome then .next s
    else .next (s.updElem r a fun e =>
      let b := Sparse.atD e.confs conf {}
      { e with confs := Sparse.put e.confs conf { b with badSlots := insertNat slot b.badSlots } })
  | .chan r a conf ch =>
    if 256 ≤ r then .fault .noSuchUnit
    else if !(Sparse.entry? (s.elem r a).confs conf).isSome then .next s
    else .next (s.updElem r a fun e =>
      let b := Sparse.atD e.confs conf {}
      { e with confs := Sparse.put e.confs conf { b with badChans := insertNat ch b.badChans } })

/-- The slots and channel entries that a firing reads, entry fn at CHBIND among them: whether one is bad (R110). -/
def State.badPlanes (s : State) (x : Site) : Bool :=
  let b := (s.elem x.r x.a).bank
  let w := (s.elem x.r x.a).slotW x.slot
  b.badSlots.contains x.slot || b.badChans.contains w.out.toNat ||
    (isComputeElem x.a && (s.elem x.r x.a).opcode x.slot == 0x60 && b.badChans.contains w.fnN) ||
    x.ents.any (fun m => b.badChans.contains m.2.tok.chan.toNat) || x.lats.any fun l => b.badChans.contains l.2.chan.toNat

end Sys2Proof.Machine
end

