-- ==== Sys2Proof/Machine/ElemCompute.lean ====
section
/-! DEFINITION. The compute-element instructions of "Element instructions: arithmetic, comparison, bytes and hashing"
(R113 to R136): each firing computes its function on one operand set (R115 names the control ports). -/
namespace Sys2Proof.Machine

/-- ELEM_ADD (R116). -/
def execElemAdd (w : Slot) (s : State) : Out := s.fireCompute w [] cAdd
/-- ELEM_SUB (R116). -/
def execElemSub (w : Slot) (s : State) : Out := s.fireCompute w [] cSub
/-- ELEM_MUL (R116). -/
def execElemMul (w : Slot) (s : State) : Out := s.fireCompute w [] cMul
/-- MULHI (R116). -/
def execMulhi (w : Slot) (s : State) : Out := s.fireCompute w [] cMulhi
/-- MAD (R116). -/
def execMad (w : Slot) (s : State) : Out := s.fireCompute w [] cMad
/-- ELEM_DIV (R117). -/
def execElemDiv (w : Slot) (s : State) : Out := s.fireCompute w [] cDiv
/-- ELEM_REM (R117). -/
def execElemRem (w : Slot) (s : State) : Out := s.fireCompute w [] cRem
/-- ELEM_AND (R116). -/
def execElemAnd (w : Slot) (s : State) : Out := s.fireCompute w [] cAnd
/-- ELEM_OR (R116). -/
def execElemOr (w : Slot) (s : State) : Out := s.fireCompute w [] cOr
/-- ELEM_XOR (R116). -/
def execElemXor (w : Slot) (s : State) : Out := s.fireCompute w [] cXor
/-- ANDN (R116). -/
def execAndn (w : Slot) (s : State) : Out := s.fireCompute w [] cAndn
/-- SHL (R116). -/
def execShl (w : Slot) (s : State) : Out := s.fireCompute w [] cShl
/-- SHR (R116). -/
def execShr (w : Slot) (s : State) : Out := s.fireCompute w [] cShr
/-- SAR (R116). -/
def execSar (w : Slot) (s : State) : Out := s.fireCompute w [] cSar
/-- ROT (R116). -/
def execRot (w : Slot) (s : State) : Out := s.fireCompute w [] cRot
/-- ELEM_CLZ (R116). -/
def execElemClz (w : Slot) (s : State) : Out := s.fireCompute w [] cClz
/-- ELEM_POPC (R116). -/
def execElemPopc (w : Slot) (s : State) : Out := s.fireCompute w [] cPopc
/-- ELEM_MIN (R116). -/
def execElemMin (w : Slot) (s : State) : Out := s.fireCompute w [] cMin
/-- ELEM_MAX (R116). -/
def execElemMax (w : Slot) (s : State) : Out := s.fireCompute w [] cMax
/-- ABS (R116). -/
def execAbs (w : Slot) (s : State) : Out := s.fireCompute w [] cAbs
/-- FADD (R118). -/
def execFadd (w : Slot) (s : State) : Out := s.fireCompute w [] cFadd
/-- FSUB (R118). -/
def execFsub (w : Slot) (s : State) : Out := s.fireCompute w [] cFsub
/-- FMUL (R118). -/
def execFmul (w : Slot) (s : State) : Out := s.fireCompute w [] cFmul
/-- FMA (R118). -/
def execFma (w : Slot) (s : State) : Out := s.fireCompute w [] cFma
/-- FMIN (R119). -/
def execFmin (w : Slot) (s : State) : Out := s.fireCompute w [] cFmin
/-- FMAX (R119). -/
def execFmax (w : Slot) (s : State) : Out := s.fireCompute w [] cFmax
/-- FSGN (R119). -/
def execFsgn (w : Slot) (s : State) : Out := s.fireCompute w [] cFsgn
/-- FRCP (R120). -/
def execFrcp (w : Slot) (s : State) : Out := s.fireCompute w [] cFrcp
/-- FRSQ (R120). -/
def execFrsq (w : Slot) (s : State) : Out := s.fireCompute w [] cFrsq
/-- FEXP2 (R120). -/
def execFexp2 (w : Slot) (s : State) : Out := s.fireCompute w [] cFexp2
/-- FLOG2 (R120). -/
def execFlog2 (w : Slot) (s : State) : Out := s.fireCompute w [] cFlog2
/-- FCVT (R121). -/
def execFcvt (w : Slot) (s : State) : Out := s.fireCompute w [] cFcvt
/-- FCLASS (R122). -/
def execFclass (w : Slot) (s : State) : Out := s.fireCompute w [] cFclass
/-- FDOT (R123). -/
def execFdot (w : Slot) (s : State) : Out := s.fireCompute w [] cFdot
/-- AMAX (R124). -/
def execAmax (w : Slot) (s : State) : Out := s.fireCompute w [] cAmax
/-- CMP (R125). -/
def execCmp (w : Slot) (s : State) : Out := s.fireCompute w [] cCmp
/-- FCMP (R125). -/
def execFcmp (w : Slot) (s : State) : Out := s.fireCompute w [] cFcmp
/-- SEL (R127). -/
def execSel (w : Slot) (s : State) : Out := s.fireCompute w [2] cSel
/-- BCMP (R129). -/
def execBcmp (w : Slot) (s : State) : Out := s.fireCompute w [2] cBcmp
/-- BFIND (R130). -/
def execBfind (w : Slot) (s : State) : Out := s.fireCompute w [] cBfind
/-- BPERM (R131). -/
def execBperm (w : Slot) (s : State) : Out := s.fireCompute w [1] cBperm
/-- HASH64 (R132). -/
def execHash64 (w : Slot) (s : State) : Out := s.fireCompute w [] cHash64
/-- CRC32C (R133). -/
def execCrc32c (w : Slot) (s : State) : Out := s.fireCompute w [] cCrc32c

/-- The result of a DFASTEP firing: a kind-2 request to dest0, under the firing's tag and sequence (R134). -/
def State.emitRequest (s : State) (w : Slot) (p : Nat) : Out :=
  .next ((s.consume w).emit w .d0 { (s.out w (BitVec.ofNat 64 p)) with kind := 2 })

/-- DFASTEP (R134): a and b form an address and are control ports (R115). -/
def execDfastep (w : Slot) (s : State) : Out :=
  let res := cDfastep (s.fin w)
  s.gated w (isComputeElem s.site.a && res != .illegal) false fun s => s.poisonRule w [0, 1] fun s =>
    match res with
    | .illegal => s.slotIllegal
    | .malformed => .next (s.siteMalformed w)
    | .val p _ _ => s.emitRequest w p

end Sys2Proof.Machine
end

