-- ==== Sys2Proof/Machine/Placement.lean ====
section
/-! DEFINITION. The task machine's and the schedulers' steps (R258, R259, R263 to R265, R270, R324, R333, R336, R343):
decrements, placement, loads, retirement, restart, pre-emption, slices, launch queues, watchdog and throttle. -/
namespace Sys2Proof.Machine

/-! ## Decrements -/

/-- TASK_DECREMENT: decrement `k` reaches its task machine. -/
def execTaskDecrement (k : Nat) (s : State) : Out :=
  match s.decrs[k]? with
  | none => .next s
  | some d => .next ({ s with decrs := removeAt s.decrs k }.decrement d.vd (((s.vd d.vd).clusters.head?).getD 0) d.task d.rel)

/-! ## Placement (R256, R263) -/

/-- Whether a device takes launches and runs (R344, R348). -/
def State.vdRuns (s : State) (v : Nat) : Bool :=
  let d := s.vd v
  d.live && !d.dying && d.mode == .active && !d.parked

/-- Whether the slice of a device is over (R343). -/
def State.sliceOver (s : State) (v : Nat) : Bool :=
  let d := s.vd v
  d.live && !d.pinned && !d.parked && d.mode == .active && (d.sliceEnd || decide (d.slice * Config.cyclesPerMs ≤ s.clock - d.sliceAt))

/-- The head of the highest non-empty priority of a cluster's ready queue, for the device that holds the cluster. -/
def State.headTask (s : State) (c : Nat) : Option ReadyTask :=
  ((s.cluster c).ready.filter fun q => q.vd == s.vdOfCluster c).foldl (fun b q => match b with
    | none => some q
    | some x => if x.prio < q.prio then some q else some x) none

/-- A task leaves the ready queue. -/
def State.unready (s : State) (c : Nat) (q : ReadyTask) : State :=
  s.updCluster c fun x => { x with ready := x.ready.filter fun y => !(y.vd == q.vd && y.task == q.task) }

/-- The region of a task stands on cores, and its load begins; a rank above HRANK is Privilege, a broken chain of the
fault edge RankCycle (R256, R327). -/
def State.placeAt (s : State) (c : Nat) (q : ReadyTask) (x : RegionState) (p : Nat) (cores : List Nat) : State :=
  let r := 64 * c + p
  let t := ((s.homeOf q.vd q.task).map (·.thread)).getD (16 * c)
  let s := s.unready c q
  if (s.thread t).hrank.toNat % 8 < x.rank then s.faultTask q.vd c q.task fcPrivilege
  else
    let s := s.standRegion r { takeRegs x t (s.thread t) with task := some q.task } cores
    match s.rankCheck r with
    | (s, true) => s
    | (s, false) => s.failPlacement r fcRankCycle

/-- The cores that a stage's new replica has been given for a placement of `n` cores (R268), and the state in which they are taken. -/
def State.keptFor (s : State) (c vd n : Nat) (desc : Word) : Option (List Nat) :=
  ((s.cluster c).pipes.filter fun l => l.vd == vd).findSome? fun l =>
    (l.kept.find? fun q => (l.stages[q.1]?).any (fun x => x.1 == desc) && n ≤ q.2.length && q.2.all fun k => !s.coreHeld k).map fun q => q.2.take n
def State.takeKept (s : State) (c : Nat) (cores : List Nat) : State :=
  s.updCluster c fun x => { x with pipes := x.pipes.map fun (l : Pipeline) =>
    { l with kept := l.kept.filter fun q => !(q.2.any cores.contains) } }

/-- TASK_PLACEMENT: the head waits for cores and a place; what its descriptor breaks makes it FAULTED (R58). -/
def execTaskPlacement (c : Nat) (s : State) : Out :=
  if 4 ≤ c then .fault .noSuchUnit
  else match s.headTask c with
    | none => .next s
    | some q =>
      let w := hwWho q.vd c
      if !s.vdRuns q.vd || s.sliceOver q.vd then .next s
      else
        let d : Chk (Option (Word × RegionState × Nat)) := do
          let wd ← s.taskWord w q.task
          let d ← s.hwRead w (q.task.toNat + 0x10) 8
          if !wordOk wd || wd % 16 != tsReady then .ok none else
          let x ← s.readDesc w (BitVec.ofNat 64 d)
          let n ← s.descCores w (BitVec.ofNat 64 d)
          .ok (some (BitVec.ofNat 64 d, x, n))
        match d with
        | .error e => .next ((s.unready c q).faultTask q.vd c q.task e)
        | .ok none => .next ((s.unready c q).refuse q.vd q.task)
        | .ok (some (d, x, n)) =>
          match ((s.keptFor c q.vd n d).orElse fun _ => s.coresFor c q.vd n).orElse (fun _ => s.spanCores q.vd n), s.freePlace c with
          | some cores, some p => if s.stageRoom c q.vd d then .next ((s.placeAt c q x p cores).takeKept c cores) else .next s
          | _, _ => .next s

/-! ## Loads (R323, R324) -/

/-- CONFIG_LOAD_RECORD: the next record of the load of region `r` goes into the shadow bank. -/
def execConfigLoadRecord (r : Nat) (s : State) : Out :=
  if 256 ≤ r then .fault .noSuchUnit
  else
    let x := s.region r
    match x.load with
    | none => .next s
    | some l =>
      if !x.live || x.status != .loading || x.confs.length ≤ l.conf then .next s
      else match s.nextRecord x (r / 64) l with
        | .inl (c, i) => .next (s.failLoad r c i)
        | .inr (l', depth) => .next (s.updRegion r fun y =>
            { y with load := some l', confs := modifyAt (fun (e : ConfEntry) => { e with depth := depth }) y.confs l.conf })

/-- CONFIG_LOAD_COMPLETE: the image is active in every element at once; a placed task starts, unless a block of its
descriptor would touch a granule of a shelf partition (R247). -/
def execConfigLoadComplete (r : Nat) (s : State) : Out :=
  if 256 ≤ r then .fault .noSuchUnit
  else
    let x := s.region r
    match x.load with
    | none => .next s
    | some l =>
      if !x.live || x.status != .loading || l.conf < x.confs.length then .next s
      else
        let t := s.activate r l
        match x.task with
        | none => .next (if x.rerun then (t.updRegion r fun y => { y with placed := false }).launch r 0 0 [] else t)
        | some a =>
          if t.blockClash x.vd x.desc ((x.cores.head?).getD 0) then .next (t.failPlacement r fcAccessFault)
          else .next (t.launchTask r a)

/-! ## Retirement (R258, R259) -/

/-- Whether the completion counter of a task meets its target (R258). -/
def State.counterMet (s : State) (w : Who) (a : Nat) : Chk Bool := do
  let d ← s.hwRead w (a + 0x20) 8
  if d == 0 then .ok true
  else if d % 8 != 0 then .error fcMisaligned
  else
    let g ← s.hwRead w (a + 0x28) 8
    let v ← s.hwRead w d 8
    .ok (decide (g ≤ v))

/-- TASK_RETIREMENT: the last step of the region's task is complete. -/
def execTaskRetirement (r : Nat) (s : State) : Out :=
  if 256 ≤ r then .fault .noSuchUnit
  else
    let x := s.region r
    match x.task with
    | none => .next s
    | some a =>
      if !x.live || !x.awaiting then .next s
      else
        let hc := s.homeCluster x.vd (r / 64) a
        match s.counterMet (hwWho x.vd hc) a.toNat with
        | .error e => .next (s.failPlacement r e)
        | .ok true => .next (s.retireRegion r a)
        | .ok false => .next s

/-! ## Restarts, pre-emption and slices (R324, R336, R337, R343) -/

/-- Whether a region may be restarted: it is idem, runs a task that is not TRIGGERED (R258, R336), and `ifepel` has not stopped
it (R33). -/
def restartable (x : RegionState) : Bool :=
  x.live && !x.dbgStop && x.idem && x.status == .running && x.task.isSome && !x.triggered

/-- IDEMPOTENT_RESTART: at the end of a slice, or where a pre-emption request has stopped an idem region (R338). -/
def execIdempotentRestart (r : Nat) (s : State) : Out :=
  if 256 ≤ r then .fault .noSuchUnit
  else
    let x := s.region r
    if restartable x && (s.sliceOver x.vd || x.draining || x.drained || x.frozenEnd) then .next (s.restartRegion r) else .next s

/-- The loads into the shadow bank of a region's cores that are under way, its own among them: a request of the region aborts
them, and the shadow bank serves the swap (R324, R337). -/
def State.shadowLoads (s : State) (r : Nat) : List Nat :=
  (s.regions.filter fun q => q.2.live && q.2.status == .loading && q.2.load.isSome &&
    (q.1 == r || q.2.cores.any fun k => (s.region r).cores.contains k)).map (·.1)

/-- PREEMPTION_REQUEST: loads on the region's cores are aborted, a stopped region is swapped out, and a running one begins to
drain. -/
def execPreemptionRequest (r : Nat) (s : State) : Out :=
  if 256 ≤ r then .fault .noSuchUnit
  else
    let x := s.region r
    if !x.live then .next s
    else
      let t := (s.shadowLoads r).foldl State.abortLoad s
      if !x.activeNow || x.load.isSome then .next t
      else if x.dbgStop then .next (t.preemptStopped r)
      else if x.status == .running && !x.drained && !x.frozenEnd then .next (t.beginDrain r)
      else .next t

/-- BANK_SPILL: the bank of a swapped-out region is in its save area (R333). -/
def execBankSpill (r : Nat) (s : State) : Out :=
  if 256 ≤ r then .fault .noSuchUnit
  else
    let x := s.region r
    if x.live && !x.activeNow && !x.saved then .next (s.updRegion r fun y => { y with saved := true }) else .next s

/-- The end of a slice: regions that are still idem restart, every other one drains or, where `ifepel` has stopped it, is swapped
out as it stands (R33); the launch slots are unmapped. -/
def State.endSlice (s : State) (v : Nat) : State :=
  let s := (s.regionsOf v).foldl (fun s r => if restartable (s.region r) then s.restartRegion r else s.yield r) s
  s.unmapSlots v true

/-- TIME_SLICE_EXPIRY: the slice ends; once every region can be saved the device leaves its clusters; a parked device takes
clusters again once they are free. -/
def execTimeSliceExpiry (v : Nat) (s : State) : Out :=
  if Config.vdCount ≤ v then .fault .noSuchUnit
  else
    let d := s.vd v
    if d.live && !d.dying && d.mode == .active && d.parked then
      match (s.wakeGroups v).bind fun s => s.wakeClusters v with
      | none => .next s
      | some (cs, s) => .next ((s.updVd v fun d => { d with sliceAt := s.clock, sliceEnd := false }).unparkVd v cs)
    else if !s.sliceOver v || d.dying then .next s
    else if s.collapseReady v then .next ((s.unmapSlots v true |>.parkVd v).yieldGroups v)
    else .next (s.endSlice v)

/-! ## Launch queues (R264, R265) -/

/-- QUEUE_NOTIFY: a store by device `v` to the notify word of cluster `c`. -/
def execQueueNotify (c v : Nat) (q : Word) (s : State) : Out :=
  if 4 ≤ c || Config.vdCount ≤ v then .fault .noSuchUnit
  else if !(s.vd v).live || (s.vd v).dying then .next s
  else .next (s.notifyQueue c v q)

/-- The next entry of a launch queue: its record, head and place, or none where head = tail. -/
def State.nextEntry (s : State) (w : Who) (q : Nat) : Chk (Option (Nat × Nat)) := do
  let ring ← s.hwRead w q 8
  let n ← s.hwRead w (q + 8) 1
  let h ← s.hwRead w (q + 0x10) 8
  let t ← s.hwRead w (q + 0x18) 8
  if h == t then .ok none
  else
    let a ← s.hwRead w (ring + 8 * (h % 2 ^ n)) 8
    .ok (some (a, h))

/-- What a slot acquires with a queue's tail: the releases that its value carries (DEDUCED, log 117). -/
def State.tailRel (s : State) (c : Nat) (l : LaunchQ) : List Release :=
  match s.resolve (hwWho l.vd c) (l.qaddr + 0x18) .rd with
  | .ok p _ => s.carried p 8
  | .fault _ => []

/-- Publish an entry under the queue's thread: prio goes into the record's state word first. None where the dependence
table has too few free entries (R261). -/
def State.publishEntry (s : State) (c : Nat) (l : LaunchQ) (a : Nat) : Option State :=
  let w := hwWho l.vd c
  let ad := BitVec.ofNat 64 a
  if a % 64 != 0 then some (s.raiseSuper l.vd fcMisaligned a)
  else
    let t := match s.taskWord w ad with
      | .ok wd => (match s.hwWrite w a 4 (wd / 64 * 64 + l.prio * 16 + wd % 16) with
        | .ok t => t
        | .error _ => s)
      | .error _ => s
    match t.publish l.vd c ad { thread := l.thread, own := false, rel := s.tailRel c l } with
    | (_, none) => none
    | (t, some _) => some t

/-- LAUNCH_SLOT_CONSUME: slot `k` of cluster `c`. An empty pre-emptible queue gives its slot to one that waits (R265); a queue that
cannot be read leaves its slot. -/
def execLaunchSlotConsume (c k : Nat) (s : State) : Out :=
  if 4 ≤ c || 64 ≤ k then .fault .noSuchUnit
  else match (s.cluster c).slots[k]? with
    | none => .next s
    | some l =>
      let w := hwWho l.vd c
      if !s.vdRuns l.vd then .next s
      else match s.nextEntry w l.qaddr.toNat with
        | .error e => .next ((s.freeSlot c l).raiseSuper l.vd e l.qaddr.toNat)
        | .ok none => .next (if (s.cluster c).deferred.isEmpty || l.nonPre then s else s.freeSlot c l)
        | .ok (some (a, h)) => match s.publishEntry c l a with
          | none => .next s
          | some t => match t.hwWrite w (l.qaddr.toNat + 0x10) 8 (h + 1) with
            | .ok u => .next u
            | .error e => .next ((t.freeSlot c l).raiseSuper l.vd e l.qaddr.toNat)

/-! ## Watchdog and throttle (R270, R357) -/

/-- WATCHDOG. -/
def execWatchdog (r : Nat) (s : State) : Out :=
  if 256 ≤ r then .fault .noSuchUnit
  else
    let x := s.region r
    if !x.live || x.wdlim == 0 || x.eligible < 1024 * x.wdlim then .next s
    else .next ((s.updRegion r fun y => { y with eligible := 0 }).raise r fcWatchdog noElem noSlot 0 0 0)

/-- THROTTLE_STARVE. -/
def execThrottleStarve (r : Nat) (s : State) : Out :=
  if 256 ≤ r then .fault .noSuchUnit
  else
    let x := s.region r
    if !x.live || x.thlim == 0 || x.throttledC < 1024 * x.thlim then .next s
    else .next ((s.updRegion r fun y => { y with throttledC := 0 }).raise r fcThrottleStarve noElem noSlot 0 0 0)

end Sys2Proof.Machine
end

