-- ==== Sys2Proof/Machine/Home.lean ====
section
/-! DEFINITION. Reductions in windows (R370 to R375): nodes in switches, the home port's reorder buffer, the final write,
the repair queue and acknowledgements. -/
namespace Sys2Proof.Machine

/-! ## Nodes of the tree (R84, R372) -/

/-- Whether two runs of indices, each a start and a length, are the two children of one node of Tree(lo, n); `fuel`
bounds the depth. -/
def siblings : Nat → Nat → Nat → Nat × Nat → Nat × Nat → Bool
  | 0, _, _, _, _ => false
  | fuel + 1, lo, n, x, y =>
    if n ≤ 1 then false
    else
      let h := largestPowBelow n
      if x == (lo, h) && y == (lo + h, n - h) then true
      else if y.1 + y.2 ≤ lo + h then siblings fuel lo h x y
      else siblings fuel (lo + h) (n - h) x y

/-- The run of a node. -/
def nodeRun (x : RedNode) : Nat × Nat := (x.lo, x.m)

/-- Whether two nodes of one location are the children of one node of Tree(0, n), in either order. -/
def joinable (n : Nat) (x y : RedNode) : Bool :=
  siblings 17 0 n (nodeRun x) (nodeRun y) || siblings 17 0 n (nodeRun y) (nodeRun x)

/-- The value of a node whose children have values `a` (lower indices) and `b`, lane by lane: their exact sum rounded once,
or the wrapped sum. -/
def joinValue (w : Window) (a b : Nat) : Word :=
  let f := (Fmt.ofCode w.fmt).getD .i64
  let size := if w.dbl then 8 else 4
  BitVec.ofNat 64 (ofLanes f ((List.range (8 * size / f.width)).map fun l =>
    if w.intAdd then (laneOf f a l + laneOf f b l) % 2 ^ f.width else treeNode f (laneOf f a l) (laneOf f b l)))

/-- Whether two nodes carry the same fields of R194. -/
def sameFields (x y : RedNode) : Bool :=
  x.terms == y.terms && x.fmt == y.fmt && x.size == y.size && x.fadd == y.fadd

/-- Two joinable nodes as one. -/
def joinNodes (w : Window) (x y : RedNode) : RedNode :=
  let lo := if x.lo ≤ y.lo then x else y
  let hi := if x.lo ≤ y.lo then y else x
  { lo with m := lo.m + hi.m, val := joinValue w lo.val.toNat hi.val.toNat, srcs := lo.srcs ++ hi.srcs, retx := false }

/-! ## Switches (R372) -/

/-- SWITCH_NODE: switch `sw` forwards node `i`, or combines it with a sibling that it holds. Whether and when is the
switch's choice; a retransmitted node is never combined, and a full store combines nothing. -/
def execSwitchNode (sw i : Nat) (fwd : Bool) (s : State) : Out :=
  if 128 ≤ sw then .fault .noSuchUnit
  else match s.nodes[i]? with
    | none => .next s
    | some d =>
      if d.sw != sw || d.home then .next s
      else if fwd then .next { s with nodes := modifyAt (fun (y : SwNode) => { y with home := true }) s.nodes i }
      else match s.windowOf d.node.win with
        | none => .next s
        | some w =>
          let fits := fun (y : SwNode) => y.sw == sw && !y.home && y.node.win == d.node.win && y.node.addr == d.node.addr &&
            !y.node.retx && sameFields d.node y.node && joinable w.terms d.node y.node
          if d.node.retx || 65536 < (s.nodes.countP fun y => y.sw == sw && !y.home) then .next s
          else match (List.range s.nodes.length).find? fun j => (s.nodes[j]?).any fits with
            | none => .next s
            | some j => match s.nodes[j]? with
              | none => .next s
              | some y =>
                let l := removeAt (removeAt s.nodes (max i j)) (min i j)
                .next { s with nodes := l ++ [{ d with node := joinNodes w d.node y.node }] }

/-! ## The home port (R373, R375) -/

/-- The retained contribution of this package that is a source. -/
def isSrc (q : RedSrc) (c : Retained) : Bool := q.pkg == here && q.id == c.id

/-- The home acknowledges the sources of a reduction (R373): payload 1 for index n − 1, and what the final write released. They are
complete: what is still on its way of them is discarded when it arrives (R374, R381). -/
def State.ackSources (s : State) (w : Window) (srcs : List RedSrc) (rel : List Release) : State :=
  let acked := fun (c : Retained) =>
    if srcs.any fun q => isSrc q c then { c with acked := some (if c.x + 1 == w.terms then 1 else 0), sync := rel } else c
  { s with retained := s.retained.map acked, finished := s.finished ++ srcs.map fun q => (q.pkg, q.id) }

/-- ReductionDiverted to the handler of a window, or to the home device's Bextex endpoint. -/
def State.divertEvent (s : State) (w : Window) (addr : Nat) : State :=
  let ev := mkRecord fcReductionDiverted 0 noElem 0 noSlot addr 0
  let n := s.noteEvent w.vd none none ev
  if w.handler == 0 then n.1.notify (some w.vd) ev
  else if n.2 then n.1.holdRecord (((s.vd w.vd).clusters.head?).getD 0) w.handler ev w.vd none
  else n.1.sendTo w.vd (((s.vd w.vd).clusters.head?).getD 0) w.handler ev

/-- Bytes of a window's values. -/
def Window.size (w : Window) : Nat := if w.dbl then 8 else 4

/-- The kind-4 token in which a diverted value is kept. -/
def divertTok (val : Word) (tag : BitVec 24) : Token :=
  { rsv := 0, net := false, last := false, kind := 4, dest := 0, port := 0, slot := 0, chan := 0, seq := 0,
    ctx := BitVec.ofNat 8 (tagCtx tag), iter := BitVec.ofNat 16 (tagIter tag), payload := val }

/-- The tag under which a source of this package contributed, 0 for another's. -/
def State.srcTag (s : State) (srcs : List RedSrc) : BitVec 24 :=
  ((s.retained.find? fun c => srcs.any fun q => isSrc q c).map (·.msg.tag)).getD 0

/-- The releases that the contributions of a reduction carry (R194). -/
def State.srcRels (s : State) (srcs : List RedSrc) : List Release :=
  (s.retained.filter fun c => srcs.any fun q => isSrc q c).flatMap (·.msg.rel)

/-- The final write of a reduction, performed at pod scope by the home port (R373, R382, R393): the port has acquired what the
contributions released, and releases it to their acknowledgements. -/
def State.homeWrite (s : State) (w : Window) (p : Nat) (v : Word) (srcs : List RedSrc) : State :=
  let s := s.acquireFrom .port 5 (s.srcRels srcs)
  let rel := [s.releaseOf .port [] 5]
  (((s.storeBy .port 5 p w.size v.toNat rel).releaseAt .port [] 5).ackSources w srcs rel).draw

/-- The final write of a finished reduction, with its acknowledgements; where it faults the value is diverted, and where
the repair queue is full it waits (none). -/
def State.finalWrite (s : State) (w : Window) (h : HomeRed) (d : RedNode) : Option State :=
  let addr := h.addr.toNat
  match s.homePlace w addr with
  | some p => some (s.homeWrite w p d.val d.srcs)
  | none =>
    if 256 ≤ s.repair.length then none
    else
      let v : Diverted := { win := h.win, addr := h.addr, tok := divertTok d.val (s.srcTag d.srcs), val := d.val,
                            srcs := d.srcs }
      some ({ s with repair := s.repair ++ [v] }.divertEvent w addr)

/-- Join the nodes of a reduction until no two are siblings; `fuel` bounds the joins. -/
def joinAll (w : Window) : Nat → List RedNode → List RedNode
  | 0, l => l
  | fuel + 1, l =>
    let pair := (List.range l.length).findSome? fun i => (List.range l.length).findSome? fun j =>
      match l[i]?, l[j]? with
      | some x, some y => if siblings 17 0 w.terms (nodeRun x) (nodeRun y) then some (i, j, joinNodes w x y) else none
      | _, _ => none
    match pair with
    | none => l
    | some (i, j, z) => joinAll w fuel (removeAt (removeAt l (max i j)) (min i j) ++ [z])

/-- A contribution of this package that its home refuses with a fault: the fault goes to its region and the copy is
dropped. -/
def State.refuseSource (s : State) (q : RedSrc) (addr code : Nat) : State :=
  match s.retained.find? (isSrc q) with
  | none => s
  | some c =>
    let s := { s with retained := s.retained.filter fun y => !isSrc q y }
    if code == fcMalformed then s.rejectRed c.msg
    else if 256 ≤ c.msg.r then s
    else (s.updElem c.msg.r c.msg.elem fun e => { e with queue := e.queue.filter fun q => q.id != c.msg.id }).raise c.msg.r
      code c.msg.elem c.msg.slot c.msg.tag.toNat addr 0

/-- The checks of R194 against a window. -/
def State.fitsWindow (_ : State) (w : Window) (d : RedNode) : Bool :=
  d.lo + d.m ≤ w.terms && 1 ≤ d.m && d.terms == w.terms && d.fmt == w.fmt && d.size == w.size && d.fadd == !w.intAdd

/-- Whether two nodes stand for a contribution in common: one of them was sent again (R373, R381). -/
def sharesSource (x y : RedNode) : Bool := x.srcs.any fun q => y.srcs.any fun z => z.pkg == q.pkg && z.id == q.id

/-- Whether the home port takes a node now: its queue of diverted values has room, and so has the reorder buffer where the node
opens a reduction; else the node waits, with stop on lane 2 (R373, R375). -/
def State.homeTakes (s : State) (d : RedNode) : Bool :=
  decide (s.repair.length < 256) &&
    (decide (s.homeReds.length < 4096) || s.homeReds.any fun h => h.win == d.win && h.addr.toNat == d.addr)

/-- A node joins its reduction: the state with it kept, or with the final write where the tree is complete; none where that write
waits. -/
def State.joinHome (s : State) (w : Window) (h : HomeRed) (d : RedNode) : Option State :=
  let l := joinAll w (h.nodes.length + 1) (h.nodes ++ [{ d with retx := false }])
  let h := { h with nodes := l }
  let rest := s.homeReds.filter fun x => !(x.win == d.win && x.addr.toNat == d.addr)
  match l.find? fun x => x.lo == 0 && x.m == w.terms with
  | none => some { s with homeReds := rest ++ [h] }
  | some x => { s with homeReds := rest }.finalWrite w h x

/-- Whether the home's device lists the devices that contributed to a node (R347, R381): those of this package by their regions,
others by the members of the window's span there. -/
def State.nodeListed (s : State) (w : Window) (d : RedNode) : Bool :=
  d.srcs.all fun q =>
    if q.pkg == here then (s.retained.find? (isSrc q)).any fun c => s.mayWake w.vd (.vd Config.package c.vd)
    else (s.spans.find? fun p => p.num == w.span).any fun p => p.members.any fun m =>
      m.pod == Config.pod && 256 * m.pod + m.pkg == q.pkg && s.mayWake w.vd (.vd m.pkg m.vd)

/-- Refuse a node: the fault goes to each of its sources. -/
def State.refuseNode (s : State) (d : RedNode) (code : Nat) : State := d.srcs.foldl (fun t q => t.refuseSource q d.addr code) s

/-- A node for a device that sleeps is held for the wake that it causes, or refused (R347, R350, R381). -/
def State.holdNode (s : State) (w : Window) (d : RedNode) : State :=
  if ((s.vd w.vd).mode == .active || s.nodeListed w d) && s.holdRoom w.vd then { s with wakeBuf := s.wakeBuf ++ [(w.vd, WakeEntry.node d)] }.wake w.vd
  else s.refuseNode d fcVdDormant

/-- The home port takes a node of a window, in the state without it: none where the node waits. A retransmitted node whose index a
held node covers is discarded, and so is one that was sent again meanwhile; another that overlaps a held node is Malformed (R373,
R381). A window that closes takes no new reduction. -/
def State.homeTake (s : State) (w : Window) (d : RedNode) : Option State :=
  if s.divertWait w.vd d.addr || !s.homeTakes d then none
  else if !s.fitsWindow w d then some (s.refuseNode d fcMalformed)
  else
    let held := s.homeReds.find? fun h => h.win == d.win && h.addr.toNat == d.addr
    let h := held.getD { win := d.win, addr := BitVec.ofNat 64 d.addr, nodes := [] }
    if h.nodes.any fun x => overlap (nodeRun x) (nodeRun d) then
      some (if d.retx || h.nodes.any (sharesSource d) then s else s.refuseNode d fcMalformed)
    else if held.isNone && (w.closing || (s.vd w.vd).dying) then some (s.refuseNode d fcAccessFault)
    else s.joinHome w h d

/-- HOME_NODE (R373): the home port takes node `k`; one of a complete reduction is discarded, and one for a device that sleeps or
falls asleep is held (R350). -/
def execHomeNode (k : Nat) (s : State) : Out :=
  match s.nodes[k]? with
  | none => .next s
  | some y =>
    if !y.home then .next s
    else
      let d := y.node
      let t := { s with nodes := removeAt s.nodes k }
      match s.windowOf d.win with
      | none => .next (t.refuseNode d fcAccessFault)
      | some w =>
        if d.srcs.any fun q => s.finished.contains (q.pkg, q.id) then .next t
        else if !(s.vd w.vd).dying && (s.holds w.vd || ((s.vd w.vd).mode == .collapsing && s.nodeListed w d)) then .next (t.holdNode w d)
        else .next ((t.homeTake w d).getD s)

/-- The repair queue retries its entries of a device in order (R375). -/
def State.retryRepairs (s : State) (vd : Nat) : State :=
  let l := s.repair
  l.foldl (fun s d => match s.windowOf d.win with
    | none => { s with repair := s.repair ++ [d] }
    | some w =>
      if w.vd != vd then { s with repair := s.repair ++ [d] }
      else match s.homePlace w d.addr.toNat with
        | some p => s.homeWrite w p d.val d.srcs
        | none => { s with repair := s.repair ++ [d] }.divertEvent w d.addr.toNat) { s with repair := [] }

/-! ## Acknowledgements and route rewrites (R373, R374) -/

/-- The final value of a window on another package, from the contributions of this package to the location: Tree(0, n) where they
are all here (R393), else what only the home knows. -/
def State.farValue (s : State) (c : Retained) (l : List Retained) : Nat :=
  let terms := l.foldl (fun m y => Sparse.put m y.x y.val) []
  if terms.length == c.msg.n then
    redValue { pa := c.msg.pa, size := c.msg.size, n := c.msg.n, fadd := c.msg.fadd, fmt := c.msg.fmt, terms := terms }
  else (Config.freeWord s.free).toNat

/-- The final write of a window on another package is performed there, by its port and at pod scope, before it acknowledges a
contribution (R373, R393); every contribution of this package to the location is acknowledged with it. -/
def State.farFinal (s : State) (c : Retained) : State :=
  let same := fun (y : Retained) => y.win == c.win && y.addr == c.addr && y.acked.isNone && y.x < y.msg.n && y.msg.n == c.msg.n &&
    y.msg.fadd == c.msg.fadd && y.msg.fmt == c.msg.fmt && y.msg.size == c.msg.size
  let l := s.retained.filter same
  let pay := fun (y : Retained) => (if y.x + 1 == y.msg.n then 1 else 0 : Word)
  let v := s.farValue c l
  let x := Agent.far (pkgOf c.msg.pa / 256) (pkgOf c.msg.pa % 256)
  let s := s.acquireFrom x 5 (l.flatMap (·.msg.rel))
  let rel := [s.releaseOf x [] 5]
  let s := (s.storeBy x 5 c.msg.pa c.msg.size v rel).releaseAt x [] 5
  { s with retained := s.retained.map fun y => if same y then { y with acked := some (pay y), sync := rel } else y }.draw

/-- CONTRIBUTION_ACK: the answer to retained contribution `k` reaches its source, and acquires the final write: at the contribution's
scope, or from a home in another pod at pod scope (R9, R373, R393). The home is this package, which has acknowledged it, or another,
which may answer at any time: with an acknowledgement, or with a fault of R194 or of the window (R373). -/
def execContributionAck (k : Nat) (s : State) : Out :=
  match s.retained[k]? with
  | none => .next s
  | some c =>
    let src : RedSrc := { pkg := here, x := c.x, id := c.id }
    match c.acked with
    | some v =>
      let t := { s with retained := removeAt s.retained k }
      if pkgOf c.msg.pa / 256 == Config.pod then .next (t.ackRed c.msg v.toNat c.msg.scope c.sync)
      else .next ((c.sync.foldl (fun t y => t.learn (s.elemAgent c.msg.r c.msg.elem) y.past) t).ackRed c.msg v.toNat 5 [])
    | none =>
      if c.win < 2 ^ 40 then .next s
      else match Config.farAnswer s.free with
        | 0 => .next (s.farFinal c)
        | 1 => .next (s.draw.refuseSource src c.addr.toNat fcAccessFault)
        | _ => .next (s.draw.refuseSource src c.addr.toNat fcMalformed)

/-- ROUTE_REWRITE (R374, R379), after a switch or a link of this package has failed: the nodes that a failed switch holds are lost.
Of every window of which a contribution moves, each unacknowledged contribution of this package is sent again, marked, on the path
as it is now. What a spine switch carries between pods is the second tier's choice. -/
def execRouteRewrite (sw : Nat) (s : State) : Out :=
  if 128 ≤ sw then .fault .noSuchUnit
  else
    let link := Config.linkOnly s.free
    let u := if link then s else { s with downSw := insertNat sw s.downSw }
    let took := fun (c : Retained) => c.sw == sw ||
      (decide (96 ≤ sw) && pkgOf c.msg.pa / 256 != Config.pod && (Config.choice s.free).testBit (c.id % 256))
    let wins := (s.retained.filter fun c => took c && c.acked.isNone).map (·.win)
    let moved := fun (c : Retained) => wins.contains c.win && c.acked.isNone
    let path := fun (c : Retained) => (match u.pathPort c.vd (pkgOf c.msg.pa / 256) (paOff c.msg.pa) with
      | some p => portSwitch p
      | none => c.sw)
    let again := (s.retained.filter fun c => moved c && c.win < 2 ^ 40).map fun c =>
      ({ sw := path c, node := nodeOf c true, home := false } : SwNode)
    .next { u.draw with
      nodes := (s.nodes.filter fun y => link || y.sw != sw || y.home) ++ again
      retained := s.retained.map fun c => if moved c then { c with retx := true, sw := path c } else c }

end Sys2Proof.Machine
end

