-- ==== Sys2Proof/Machine/ThreadTile.lean ====
section
/-! DEFINITION. The tile operations of the control core (R289, R292, R296, R299): what each checks at issue, and
THREAD_OPERATION_COMPLETE, which performs an outstanding operation. -/
namespace Sys2Proof.Machine

/-! ## Loads and resumptions of regions (R324, R327, R330) -/

/-- The cores of a mask of a cluster. -/
def maskCores (cl m : Nat) : List Nat := ((List.range 24).filter fun k => bitOf m k).map fun k => 24 * cl + k

/-- A region stands at a place, its load under way; a broken chain of its fault edge fails the load (R327). -/
def State.beginLoad (s : State) (r t : Nat) (x : RegionState) (cores : List Nat) : State :=
  let edge := if x.declEdge == 0 then (s.thread t).fedge else x.declEdge
  let s := s.standRegion r { x with fedge := edge, thread := t } cores
  match s.rankCheck r with
  | (s, true) => s
  | (s, false) => s.updRegion r fun y =>
      { y with status := .loaded, load := none, shadowValid := false, loadFault := fcRankCycle }

/-- Parked requests and streams go on from their heads (R330). -/
def State.replayParked (s : State) (r : Nat) : State :=
  s.mapElems r fun e =>
    { e with
      queue := e.queue.map fun q => { q with parked := false }
      ctxs := e.ctxs.map fun c => (c.1, { c.2 with parked := false }) }

/-- RGNSTART of a region that is already started (R330): parked heads are tried again, a drained or frozen region goes on; a running
one is unchanged, its drain under way too. -/
def State.restartStarted (s : State) (r : Nat) : State :=
  let x := s.region r
  let s := s.replayParked r
  if x.drained || x.frozenEnd then s.undrain r else s

/-! ## Issue -/

/-- The frame of a tile operation of a supervisor (R56, R273, R292): `bad` is a misaligned operand `addr`, `pre` the translation or
aperture fault of an operand; both come before Poison. -/
def State.tileOp (s : State) (used clean : List Reg) (k : Unit → Out) (bad : Bool := false) (addr : Word := 0)
    (pre : Option (Nat × Word) := none) : Out :=
  s.supervisor fun _ => match pre with
    | some q => s.withAligned used [] bad addr fun _ => s.trap q.1 q.2
    | none => s.withAligned used clean bad addr fun _ => s.room s.me.tiles k

/-- Issue a tile operation with its destination. -/
def State.issueTile (s : State) (d : Reg) (op : TileOp) : Out :=
  .next (s.pushOp { kind := .tile op, dest := d, ord := 0, scope := 0 }).advance

/-- The party of the issuing thread's region operations. -/
def State.regionWho (s : State) : Who := hwWho s.myVd s.myCluster

/-- RGNLOAD: descriptor and core mask are checked; where a place is free the load begins, and gd receives the RID at
issue; else the operation waits for one (R295). -/
def execRgnload (d a b : Reg) (s : State) : Out :=
  s.tileOp (bad := (s.g a).toNat % 64 != 0) (addr := s.g a) (pre := s.descFault s.regionWho (s.g a)) [d, a, b] [a, b] fun _ =>
    let m := (s.g b).toNat
    if 2 ^ 24 ≤ m then s.trap fcMalformed 0
    else match s.readDesc s.regionWho (s.g a), s.descCores s.regionWho (s.g a) with
      | .error c, _ => s.trap c (s.g a)
      | _, .error c => s.trap c (s.g a)
      | .ok x, .ok n =>
        if 24 < n || popcount 24 m != n then s.trap fcMalformed 0
        else match s.freePlace s.myCluster with
          | none => s.issueTile d (.rgnload (s.g a) (BitVec.ofNat 24 m) noRid)
          | some p =>
            let r := 64 * s.myCluster + p
            let t := s.beginLoad r s.cur.t { x with keep := true } (maskCores s.myCluster m)
            let t := t.updMe fun y => y.setReg d (BitVec.ofNat 64 (t.rid r)) false
            t.issueTile 0 (.rgnload (s.g a) (BitVec.ofNat 24 m) (t.rid r))

/-- Whether a task record is READY and of region descriptor `desc`: none, or the fault of the operand. -/
def State.taskOperand (s : State) (w : Who) (a desc : Word) : Option Nat :=
  if a.toNat % 64 != 0 then some fcMisaligned
  else match s.taskWord w a, s.hwRead w (a.toNat + 0x10) 8 with
    | .error c, _ => some c
    | _, .error c => some c
    | .ok wd, .ok dr => if wordOk wd && wd % 16 == tsReady && dr == desc.toNat then none else some fcMalformed

/-- Whether RGNSTART accesses its record: it has one, and its region has not started (R330). -/
def State.usesRecord (s : State) (a b : Word) : Bool :=
  b != 0 && (match s.ridCheck s.myVd a with
    | .ok r => (s.region r).status != .running
    | .error _ => true)

/-- RGNSTART: RID, and a READY task record of the region or 0; without a record a rank above HRANK is Privilege
(R256). A record is taken from its ready queue: this is its placement. -/
def execRgnstart (d a b : Reg) (s : State) : Out :=
  let acc := s.usesRecord (s.g a) (s.g b)
  s.tileOp (bad := acc && (s.g b).toNat % 64 != 0) (addr := s.g b)
      (pre := if acc then s.accessFault s.regionWho (s.g b).toNat 8 else none) [d, a, b] [a, b] fun _ =>
    match s.ridCheck s.myVd (s.g a) with
    | .error c => s.trap c (s.g a)
    | .ok r =>
      let x := s.region r
      if x.status == .running then s.issueTile d (.rgnstart (s.g a).toNat (s.g b))
      else if s.g b == 0 then
        if x.loadFault == 0 && s.me.hrank.toNat % 8 < x.rank then s.trap fcPrivilege 0
        else s.issueTile d (.rgnstart (s.g a).toNat 0)
      else match s.taskOperand s.regionWho (s.g b) x.desc with
        | some c => s.trap c (s.g b)
        | none =>
          let t := s.updCluster (s.homeCluster s.myVd s.myCluster (s.g b)) fun c =>
            { c with ready := c.ready.filter fun q => !(q.vd == s.myVd && q.task == s.g b) }
          t.issueTile d (.rgnstart (s.g a).toNat (s.g b))

/-- RGNSWAP: X active, Y loaded or swapped out on the same cores. -/
def execRgnswap (d a b : Reg) (s : State) : Out :=
  s.tileOp [d, a, b] [a, b] fun _ =>
    match s.ridCheck s.myVd (s.g a), s.ridCheck s.myVd (s.g b) with
    | .error c, _ => s.trap c (s.g a)
    | _, .error c => s.trap c (s.g b)
    | .ok x, .ok y =>
      if !(s.region x).activeNow || (s.region y).activeNow || (s.region y).status == .loading ||
        !sameCores (s.region x) (s.region y) then s.trap fcMalformed 0
      else s.issueTile d (.rgnswap (s.g a).toNat (s.g b).toNat)

/-- RGNDRAIN: a running region takes no new work (R331). -/
def execRgndrain (d a : Reg) (s : State) : Out :=
  s.tileOp [d, a] [a] fun _ =>
    match s.ridCheck s.myVd (s.g a) with
    | .error c => s.trap c (s.g a)
    | .ok r =>
      let t := if (s.region r).status == .running then s.beginDrain r else s
      t.issueTile d (.rgndrain (s.g a).toNat)

/-- Whether RGNSAVE takes a region: drained, frozen or swapped out. -/
def saveable (x : RegionState) : Bool := savable x || !x.activeNow

/-- The fault of a save area for the region of a RID: every byte of the image must be writable. -/
def State.saveFault (s : State) (a b : Word) : Option (Nat × Word) :=
  match s.ridCheck s.myVd a with
  | .error _ => none
  | .ok r =>
    if !saveable (s.region r) then none
    else (s.areaFault s.regionWho b.toNat .wr (s.imageSize r)).map fun q => (q.2, BitVec.ofNat 64 q.1)

/-- RGNSAVE: the save area is 4 KiB aligned, and every byte of the image must be writable. -/
def execRgnsave (d a b : Reg) (s : State) : Out :=
  s.tileOp (bad := (s.g b).toNat % 4096 != 0) (addr := s.g b) (pre := s.saveFault (s.g a) (s.g b)) [d, a, b] [a, b] fun _ =>
    match s.ridCheck s.myVd (s.g a) with
    | .error c => s.trap c (s.g a)
    | .ok r =>
      if !saveable (s.region r) then s.trap fcMalformed 0 else s.issueTile d (.rgnsave (s.g a).toNat (s.g b))

/-- RGNREST: the area holds an image of the device whose digest checks (R334), and the mask names its cores. -/
def execRgnrest (d a b : Reg) (s : State) : Out :=
  s.tileOp (bad := (s.g a).toNat % 4096 != 0) (addr := s.g a) (pre := s.accessFault s.regionWho (s.g a).toNat 8) [d, a, b] [a, b] fun _ =>
    let m := (s.g b).toNat
    if 2 ^ 24 ≤ m then s.trap fcMalformed 0
    else match s.imageAt s.regionWho (s.g a) with
      | none => s.trap fcMalformed 0
      | some im =>
        if im.vd != s.myVd then s.trap fcAccessFault (s.g a)
        else if popcount 24 m != im.region.cores.length then s.trap fcMalformed 0
        else s.issueTile d (.rgnrest (s.g a) (BitVec.ofNat 24 m))

/-- RGNKILL. -/
def execRgnkill (d a : Reg) (s : State) : Out :=
  s.tileOp [d, a] [a] fun _ =>
    match s.ridCheck s.myVd (s.g a) with
    | .error c => s.trap c (s.g a)
    | .ok _ => s.issueTile d (.rgnkill (s.g a).toNat)

/-- VDSLEEP (R299, R346, R351): of a DORMANT device gd := 0 at once; of an ACTIVE one the collapse begins. -/
def execVdsleep (d a : Reg) (s : State) : Out :=
  s.tileOp [d, a] [] fun _ =>
    let v := (s.g a).toNat
    if 2 ^ 10 ≤ v then s.trap fcMalformed 0
    else if !s.mayName s.myVd v false then s.trap fcAccessFault (s.g a)
    else if (s.vd v).mode == .dormant then s.result d 0
    else
      let t := (s.pushOp { kind := .tile (.vdsleep v), dest := d, ord := 0, scope := 0 }).advance
      .next (if (s.vd v).mode == .active then t.beginCollapse v else t)

/-- TLBINV: one page, or every translation of the thread's device, for which ga is no operand. -/
def execTlbinv (d a b : Reg) (s : State) : Out :=
  s.tileOp [d, a, b] (if s.g b == 1 then [] else [a]) fun _ =>
    if 2 ≤ (s.g b).toNat then s.trap fcMalformed 0 else s.issueTile d (.tlbinv (s.g b == 1) (s.g a))

/-- CFLUSH and CINV: limits, registers, and a length of at most 2^32; 0 bytes are no operation (R289). -/
def State.cacheOp (s : State) (inv : Bool) (a b : Reg) (scope : BitVec 3) : Out :=
  s.wellFormed (okScope scope) fun _ => s.withRegs [a, b] [a] fun _ =>
    if 2 ^ 32 < (s.g b).toNat then s.trap fcMalformed 0
    else if s.g b == 0 then .next s.advance
    else s.room s.me.tiles fun _ => s.issueTile 0 (.cflush inv (s.g a) (s.g b) scope.toNat)

def execCflush (a b : Reg) (scope : BitVec 3) (s : State) : Out := s.cacheOp false a b scope
def execCinv (a b : Reg) (scope : BitVec 3) (s : State) : Out := s.cacheOp true a b scope

/-! ## Completion -/

/-- Whether a RID still names its region. -/
def State.ridLive (s : State) (v : Nat) : Bool := (s.region (v % 256)).live && s.rid (v % 256) == v

/-- RGNLOAD goes on: it takes a place once one is free, and ends with its load. -/
def State.goLoad (s : State) (t k : Nat) (desc : Word) (mask : BitVec 24) (rid : Nat) : Option State :=
  let cl := clusterOfThread t
  let vd := s.vdOfThread t
  if rid == noRid then
    match s.freePlace cl, s.readDesc (hwWho vd cl) desc with
    | none, _ => none
    | some _, .error c => some ((s.raiseSuper vd c desc.toNat).endOp t k (Config.freeWord s.free) false).draw
    | some p, .ok x =>
      let r := 64 * cl + p
      let u := s.beginLoad r t { x with keep := true } (maskCores cl mask.toNat)
      let id := u.rid r
      some (u.updThread t fun y => match y.ops[k]? with
        | none => y
        | some o => { (y.setReg o.dest (BitVec.ofNat 64 id) false).setBusy o.dest false with
            ops := modifyAt (fun (q : ThreadOp) => { q with kind := .tile (.rgnload desc mask id), dest := 0 }) y.ops k })
  else if s.ridLive rid && (s.region (rid % 256)).status == .loading then none
  else some (s.endOp t k 0 false)

/-- RGNSTART goes on once its region is loaded and active: an aborted load starts again (R324); a started region by R330, else its
first start; a task record that is READY no more is not started. Where its region has ended, a record that is still READY goes back
to its queue (R258). -/
def State.goStart (s : State) (t k rid : Nat) (task : Word) : Option State :=
  let r := rid % 256
  let x := s.region r
  let vd := s.vdOfThread t
  let hc := s.homeCluster vd (clusterOfThread t) task
  if !s.ridLive rid then
    some ((match task != 0, s.taskWord (hwWho vd hc) task with
      | true, .ok wd => if wd % 16 == tsReady then s.makeReady vd hc task else s
      | _, _ => s).endOp t k 1 false)
  else if x.status == .running then some ((s.restartStarted r).endOp t k 0 false)
  else if x.status == .loaded && x.load.isSome then some (s.updRegion r fun y => { y with status := .loading })
  else if x.status == .loading || (!x.activeNow && x.loadFault == 0) then none
  else
    let stale := task != 0 && (match s.taskWord (hwWho x.vd (s.homeCluster x.vd (r / 64) task)) task with
      | .ok wd => wd % 16 != tsReady
      | .error _ => false)
    if stale then some (s.endOp t k 1 false)
    else
      let q := s.startRegion r t task
      some (q.1.endOp t k (BitVec.ofNat 64 q.2) false)

/-- RGNDRAIN ends with its drain. -/
def State.goDrain (s : State) (t k rid : Nat) : Option State :=
  let x := s.region (rid % 256)
  if !s.ridLive rid || x.status != .running || x.drained then some (s.endOp t k 0 false)
  else if x.frozenEnd then some (s.endOp t k 1 false)
  else if x.draining then none
  else some (s.endOp t k 0 false)

/-- The cluster on which a shelf that migrates with a region is put: the region's cluster on `cl`, every other one on its own. -/
def shelfHome (im : SavedImage) (cl c : Nat) : Nat := if c == im.rid % 256 / 64 then cl else c

/-- Whether the clusters of a partition that migrates can be put back: the device holds them, and their shelves are empty (R378). -/
def State.shelfFree (s : State) (vd cl : Nat) (im : SavedImage) : Bool :=
  im.shelf.all fun h => let c := shelfHome im cl h.cluster
    s.vdOfCluster c == vd && (s.cluster c).tiles.isEmpty && (s.cluster c).parts.isEmpty

/-- RGNREST: the image goes back once a place is free and its journal entries fit (R236, R295); with a region that names a shelf
partition come the clusters of the partition (R378). -/
def State.goRest (s : State) (t k : Nat) (area : Word) (mask : BitVec 24) : Option State :=
  let cl := clusterOfThread t
  match s.imageAt (hwWho (s.vdOfThread t) cl) area with
  | none => some ((s.raiseSuper (s.vdOfThread t) fcMalformed area.toNat).endOp t k (Config.freeWord s.free) false).draw
  | some im =>
    match s.freePlace cl with
    | none => none
    | some p =>
      if !s.journalFits im || !s.shelfFree (s.vdOfThread t) cl im then none
      else
        let r := 64 * cl + p
        let s := im.shelf.foldl (fun s h => s.putShelf (shelfHome im cl h.cluster) h) s
        let dst := if im.shelf.isEmpty then id else shelfHome im cl
        let u := (s.restoreImage im r (maskCores cl mask.toNat) dst).updRegion r fun y => { y with keep := true }
        some (u.endOp t k (BitVec.ofNat 64 (u.rid r)) false)

/-- Remove translations of a device from every cache of the package (R299, R315). -/
def State.dropTlb (s : State) (vd : Nat) (all : Bool) (va : Word) : State :=
  let off := bitsOf va.toNat 55 0
  let hit := fun (x : Nat × Nat × Word × Nat × Nat) => x.2.1 == vd &&
    (all || x.2.2.1.toNat == off / leafBytes x.2.2.2.1 x.2.2.2.2 * leafBytes x.2.2.2.1 x.2.2.2.2)
  { s with tlb := s.tlb.filter fun x => !hit x }

/-- Perform tile operation `k` of a thread: none where it must wait. -/
def State.performTile (s : State) (t k : Nat) (op : TileOp) : Option State :=
  match op with
  | .rgnload desc mask rid => s.goLoad t k desc mask rid
  | .rgnstart rid task => s.goStart t k rid task
  | .rgnswap x y =>
    some ((if s.ridLive x && s.ridLive y then s.swapRegions (x % 256) (y % 256) else s).endOp t k 0 false)
  | .rgndrain rid => s.goDrain t k rid
  | .rgnsave rid area =>
    if s.ridLive rid && (s.elemsOf (rid % 256)).any fun p => p.2.queue.any (·.sent) then none
    else if s.ridLive rid then
      let len := s.imageSize (rid % 256)
      let w := hwWho (s.vdOfThread t) (clusterOfThread t)
      some (((s.writeImage w area.toNat (s.imageOf (rid % 256) area) 0 len).saveRegion (rid % 256) area).endOp t k (BitVec.ofNat 64 len) false)
    else some (s.endOp t k 0 false)
  | .rgnrest area mask => s.goRest t k area mask
  | .rgnkill rid =>
    if s.ridLive rid && s.killWaits (rid % 256) then none
    else some ((if s.ridLive rid then s.killRegion (rid % 256) else s).endOp t k 0 false)
  | .vdsleep v =>
    if !(s.vd v).live || (s.vd v).mode == .dormant then some (s.endOp t k 0 false)
    else if (s.vd v).mode == .active then some (s.beginCollapse v)
    else none
  | .tlbinv all va =>
    if ((s.thread t).ops.take k).any fun o => o.isStore || o.isFrame || (o.isLoad && !(match o.kind with
      | .load _ _ _ => true
      | _ => false)) then none
    else
      let vd := s.vdOfThread t
      some (((s.dropTlb vd all va).retryRepairs vd).endOp t k 0 false)
  | .cflush _ _ _ _ => some (s.endOp t k 0 false)

/-- THREAD_OPERATION_COMPLETE: operation `k` of a thread is performed. Copies end with their record (R292). -/
def execThreadOperationComplete (t k : Nat) (s : State) : Out :=
  if 64 ≤ t then .fault .noSuchUnit
  else match (s.thread t).ops[k]? with
    | none => .next s
    | some o => match o.kind with
      | .tile op => .next ((s.performTile t k op).getD s)
      | .copy _ _ => .next s
      | _ => .next ((s.performOp t k).getD s)

end Sys2Proof.Machine
end

