-- ==== Sys2Proof/Machine/Gangs.lean ====
section
/-! DEFINITION. Gang launches under way (R376, R377, R379): acknowledgements, the bound, and the relaunch after a package
fails. -/
namespace Sys2Proof.Machine

/-- Change a member of a gang. -/
def State.updMember (s : State) (k m : Nat) (f : GangMember → GangMember) : State :=
  { s with gangs := modifyAt (fun (g : Gang) => { g with members := modifyAt f g.members m }) s.gangs k }

/-- Whether a member is on this package. -/
def GangMember.here (m : GangMember) : Bool := m.pkg == Config.package && m.pod == Config.pod

/-- The bound of a gang in cycles. -/
def Gang.cycles (g : Gang) : Nat := g.bound * 3600

/-- Whether the bound of a gang's phase has passed. -/
def State.gangLate (s : State) (g : Gang) : Bool := decide (g.cycles ≤ s.clock - g.since)

/-- Whether a member's prepare has ended, and how: on this package with its load, on another as the acknowledgement says. -/
def State.prepared (s : State) (m : GangMember) (ok : Bool) : Option Bool :=
  if !m.here then some ok
  else match m.region with
    | none => some false
    | some r =>
      let x := s.region r
      if x.status == .loading then none else some (x.loadFault == 0 && x.load.isNone)

/-- Commit a launch once every prepare has been acknowledged: the bound runs from here. -/
def State.commitGang (s : State) (k : Nat) : State :=
  match s.gangs[k]? with
  | none => s
  | some g =>
    if g.members.all fun m => m.prep == some true then
      { s with gangs := modifyAt (fun (g : Gang) => { g with phase := .go, since := s.clock }) s.gangs k }
    else s

/-- GANG_PREPARE_ACK: a failed prepare discards the launch; an acknowledgement after the bound counts for nothing (R377). -/
def execGangPrepareAck (g m : Nat) (ok : Bool) (s : State) : Out :=
  match s.gangs[g]? with
  | none => .next s
  | some x => match x.members[m]? with
    | none => .next s
    | some y =>
      if x.phase != .prepare || y.prep.isSome || s.gangLate x then .next s
      else match s.prepared y ok with
        | none => .next s
        | some false => .next (s.gangDiscard g)
        | some true => .next ((s.updMember g m fun y => { y with prep := some true }).commitGang g)

/-- The region of a member on this package starts: RGNSTART with its task record. -/
def State.startOf (s : State) (t : Nat) (region : Option Nat) (task : Word) : State × Bool :=
  match region with
  | none => (s, false)
  | some r =>
    if (s.region r).status == .running then (s.restartStarted r, true)
    else
      let q := s.startRegion r t task
      (q.1, q.2 == 0)

/-- GANG_GO_ACK: once every member has acknowledged, the launch is done. -/
def execGangGoAck (g m : Nat) (s : State) : Out :=
  match s.gangs[g]? with
  | none => .next s
  | some x => match x.members[m]? with
    | none => .next s
    | some y =>
      if x.phase != .go || y.go || s.gangLate x then .next s
      else
        let q := if y.here then s.startOf ((x.thread).getD 0) y.region y.task else (s, true)
        if !q.2 then .next q.1
        else
          let s := q.1.updMember g m fun y => { y with go := true, status := 0 }
          match s.gangs[g]? with
          | none => .next s
          | some x =>
            if x.members.all (·.go) then
              let s := s.gangStatuses x ((List.range x.members.length).map fun i => (i, 0))
              .next (s.gangReturn g .done 0 x.members.length)
            else .next s

/-- A member that has started is restarted or killed where the launch fails (R336, R377): one without a task record runs again. -/
def State.failStarted (s : State) (r : Nat) : State × Nat :=
  let x := s.region r
  if restartable x then (s.restartRegion r, 2)
  else if x.task.isNone && restartable { x with task := some 0 } then (s.rerunRegion r, 2)
  else (s.killRegion r, 3)

/-- What becomes of a member where the launch fails after the commit: failed, restarted or killed; on another package by the idem of
its region there. -/
def State.failMember (s : State) (m : GangMember) : State × Nat :=
  if !m.go then (match m.region with
    | some r => (s.freeRegion r, 1)
    | none => (s, 1))
  else match m.region with
    | none => (s.draw, if Config.farIdem s.free then 2 else 3)
    | some r => s.failStarted r

/-- GANG_BOUND_EXPIRY. -/
def execGangBoundExpiry (g : Nat) (s : State) : Out :=
  match s.gangs[g]? with
  | none => .next s
  | some x =>
    if !s.gangLate x then .next s
    else match x.phase with
      | .prepare => .next (s.gangDiscard g)
      | .go =>
        let q := (List.range x.members.length).foldl (fun (q : State × List (Nat × Nat)) i => match x.members[i]? with
          | none => q
          | some m => let u := q.1.failMember m
                      (u.1, q.2 ++ [(i, u.2)])) (s, [])
        .next (((q.1.gangStatuses x q.2).gangAbortEvent x).gangReturn g .aborted 5 0)
      | _ => .next s

/-- Restore a member of this package from its image, on the lowest free cores of its cluster. -/
def State.restoreMember (s : State) (k v i : Nat) (m : GangMember) : State :=
  let c := m.cluster
  if !m.here then s
  else match s.imageAt (hwWho v c) m.image, s.freePlace c with
    | some im, some p =>
      let f := s.freeCores c v
      if f.length < im.region.cores.length then s
      else
        let r := 64 * c + p
        (s.restoreImage im r (f.take im.region.cores.length)).updRegion r (fun y => { y with keep := true }) |>.updMember k i
          fun y => { y with region := some r }
    | _, _ => s

/-- The surviving members of this package are killed. -/
def State.killMembers (s : State) (x : Gang) : State :=
  x.members.foldl (fun s m => match m.region with
    | some r => if m.here then s.killRegion r else s
    | none => s) s

/-- A member of a gang that is launched again: the failed one stands on its spare. -/
def spareMember (lost : GangMember → Bool) (m : GangMember) : GangMember :=
  let m' := { m with prep := none, go := false, status := 4, region := none }
  match m.spare with
  | some (pod, pkg) => if lost m then { m' with pod := pod, pkg := pkg, spare := none } else m'
  | none => m'

/-- GANG_RELAUNCH (R379): after a package has failed, a gang with an image for every member and a spare for the failed one
starts again from its images; without them it is not relaunched: GangAbort, with the failed member's status 1. A gang that a member
has left is neither (R365). -/
def execGangRelaunch (g : Nat) (s : State) : Out :=
  match s.gangs[g]? with
  | none => .next s
  | some x =>
    let lost := fun (m : GangMember) => s.failed.contains (256 * m.pod + m.pkg)
    if !(x.members.any lost) || x.phase == .aborted || x.loose then .next s
    else if !(x.members.all fun m => m.image != 0 && (!lost m || m.spare.isSome)) then
      let s := s.gangStatuses x (((List.range x.members.length).filter fun i => (x.members[i]?).any lost).map fun i => (i, 1))
      .next ((s.gangAbortEvent x).gangReturn g .aborted 5 0)
    else
      let moved := x.members.map (spareMember lost)
      let devs := x.vd :: (x.members.filter (·.here)).map fun m => s.vdOfCluster m.cluster
      let wins := (s.windows.filter fun w => devs.contains w.vd).map fun w => 256 * w.span + w.num
      let old := fun (c : Retained) => wins.contains c.win || x.members.any fun m => m.here && m.region == some c.msg.r
      let lostIds := (s.retained.filter old).map fun c => (here, c.id)
      let s := { s with retained := s.retained.filter fun c => !old c, finished := s.finished ++ lostIds }
      let s := s.killMembers x
      let s := { s with
        homeReds := s.homeReds.filter fun h => !wins.contains h.win
        nodes := s.nodes.filter fun y => !wins.contains y.node.win
        repair := s.repair.filter fun d => !wins.contains d.win
        gangs := modifyAt (fun (y : Gang) => { y with members := moved, phase := .prepare, since := s.clock }) s.gangs g }
      .next ((List.range moved.length).foldl (fun s i => match moved[i]? with
        | some m => s.restoreMember g x.vd i m
        | none => s) s)

end Sys2Proof.Machine
end

