-- ==== Sys2Proof/Machine/Links.lean ====
section
/-! DEFINITION. Links, lanes and remote traffic (R350, R358 to R361, R364, R366, R367, R369): flits that arrive, stop and go,
links that fail and train, remote accesses at this package, and the delivery of Serdex stream ports. -/
namespace Sys2Proof.Machine

/-! ## Accesses of other packages (R347, R350, R366) -/

/-- The device of this package whose commons share holds a place of the map of R341. -/
def State.shareOwner (s : State) (off n : Nat) : Option Nat :=
  (s.vds.find? fun q => q.2.live && q.2.commonsLo ≤ off && off + n ≤ q.2.commonsLo + q.2.commonsLen).map (·.1)

/-- Whether a span joins a device of another package of the pod and a device of this package (R364). -/
def State.spanJoins (s : State) (pkg vd v : Nat) : Bool :=
  match s.spanOf v with
  | none => false
  | some p => (p.indexOf Config.pod pkg vd).isSome

/-- The span that joins a device of another package of the pod to this package: the switches hold a route entry for them (R364). -/
def State.spanOfFar (s : State) (pod pkg vd : Nat) : Option Span :=
  if pod != Config.pod then none
  else s.spans.find? fun p => p.active && (p.indexOf pod pkg vd).isSome && p.onPackage Config.pod Config.package

/-- The port through whose switch an access of another package came, and its reply goes (R366): the line's among the live ports of
the requester, the next one upward where that is not live. -/
def State.replyPort (s : State) (q : RemoteReq) : Option Nat :=
  let owned := fun (p : Nat) => (s.spanOfFar q.pod q.pkg q.vd).any fun sp =>
    sp.members.any fun m => m.pod == q.pod && m.pkg == q.pkg && m.vd == q.vd && m.ports.getLsbD p
  ((List.range 32).map fun i => (q.pa / 64 + i) % 32).find? fun p => owned p && (s.serdexPort p).up && !s.downSw.contains p

/-- Whether the reply to an access must wait: the far end has stopped lane 1 of its port (R360). -/
def State.replyWait (s : State) (q : RemoteReq) : Bool := (s.replyPort q).any fun p => s.laneStopped p 1

/-- An access of another package is performed at its home arbiter, by an agent of that package, and answered; a marked place gives
poison (R179). -/
def State.remoteDo (s : State) (q : RemoteReq) : State :=
  let p := pa spCommons q.pa
  let x := Agent.far q.pod q.pkg
  let put := fun (v : Nat) (rel : List Release) => (s.storeBy x 0 p q.size (v % 256 ^ q.size) rel).draw
  match q.kind with
  | .load =>
    if s.poisoned p then s.reply q 0 (poisonPayload p) true else s.draw.reply q 0 (BitVec.ofNat 64 (s.seenNat x p q.size)) false
  | .store v => (put v.toNat []).reply q 0 0 false
  | .bytes v => (put v []).reply q 0 0 false
  | .atomic op b c =>
    if s.poisoned p then s.reply q 0 (poisonPayload p) true
    else
      let old := s.readNat p q.size
      let v := if op == 9 then (if old == c.toNat % 256 ^ q.size then b.toNat else old) else amoValue op q.size old b.toNat
      (put v (s.carried p q.size)).reply q 0 (BitVec.ofNat 64 old) false

/-! ## Held arrivals (R350) -/

/-- Whether an on-die port of a device takes `n` tokens. -/
def State.portRoom (s : State) (p n : Nat) : Bool := decide ((s.port p).fifo.length + n ≤ 256)

/-- Put tokens into an on-die port. -/
def State.intoPort (s : State) (p v : Nat) (l : List Token) (past : Past := []) : State :=
  s.updPort p fun x => { x with fifo := x.fifo ++ l.map fun t => { vd := v, r := none, tok := t, past := past } }

/-- Deliver one entry that was held for a device: none where its port is full, or its reply's lane stopped. -/
def State.deliverEntry (s : State) (v : Nat) (e : WakeEntry) : Option State :=
  match e with
  | .token r t none past => some (s.send (2 ^ 42) r t past)
  | .token _ t (some p) past => if s.portRoom p 1 then some (s.intoPort p v [t] past) else none
  | .flit q f => if s.portRoom q f.tokens.length then some (s.intoPort q v f.tokens) else none
  | .remote q => if s.replyWait q then none else some (s.remoteDo q)
  | .node d => some { s with nodes := s.nodes ++ [{ sw := 0, node := d, home := true }] }

/-- Deliver the entries held for a device in order, as far as its ports take them; `n` bounds the entries. -/
def State.deliverHeld (s : State) (v : Nat) : Nat → State
  | 0 => s
  | n + 1 =>
    if (s.vd v).mode != .active then s
    else match s.wakeBuf.find? fun q => q.1 == v with
      | none => s
      | some q => match s.deliverEntry v q.2 with
        | none => s
        | some t => { t with wakeBuf := removeFirst (fun y => y == q) t.wakeBuf }.deliverHeld v n

/-! ## Flits (R359 to R361, R364) -/

/-- Whether a flit of a lane stops the flits behind it in its lane, and those that are forwarded. -/
def lanePlaces (x : SerdexState) (l : Nat) : Nat := 512 - x.rx.countP fun f => f.lane == l

/-- Stop and go of a receiver (R360): stop at 256 free places, go at 384. -/
def settleLane (x : SerdexState) (l : Nat) : SerdexState :=
  let n := lanePlaces x l
  { x with stopRx := (List.range 4).map fun k =>
      let b := (x.stopRx[k]?).getD false
      if k != l then b else if n ≤ 256 then true else if 384 ≤ n then false else b }

/-- The state after lane 3 has taken a flit of stream traffic for port `port` of device `v`. What no live device owns is
discarded at its source; none where it must wait. -/
def State.takeStream (s : State) (f : Flit) (v port : Nat) : Option State :=
  let d := s.vd v
  if !d.live || d.dying || !d.ports.contains port then some s
  else
    let s := s.deliverHeld v 4096
    if s.holds v then
      some (if s.holdRoom v then { s with wakeBuf := s.wakeBuf ++ [(v, .flit port f)] } else s)
    else if s.portRoom port f.tokens.length then some (s.intoPort port v f.tokens) else none

/-- LANE_STOP: the far end's receiver stops a lane. -/
def execLaneStop (p l : Nat) (s : State) : Out :=
  if Config.serdexCount ≤ p || 4 ≤ l then .fault .noSuchUnit
  else .next (s.updSerdex p fun x => { x with stopTx := x.stopTx.set l true })

/-- LANE_GO: it lets the lane go on. -/
def execLaneGo (p l : Nat) (s : State) : Out :=
  if Config.serdexCount ≤ p || 4 ≤ l then .fault .noSuchUnit
  else .next (s.updSerdex p fun x => { x with stopTx := x.stopTx.set l false })

/-- LINK_DOWN (R361). -/
def execLinkDown (p : Nat) (s : State) : Out :=
  if Config.serdexCount ≤ p then .fault .noSuchUnit else .next (s.updSerdex p fun x => { x with up := false })

/-- LINK_TRAINED (R358, R361): an edge port reads its neighbour's package index. -/
def execLinkTrained (p nbr : Nat) (s : State) : Out :=
  if Config.serdexCount ≤ p then .fault .noSuchUnit
  else .next (s.updSerdex p fun x =>
    { x with up := true, retries := 0, nbr := if 32 ≤ p && !isTier p then nbr % 256 else x.nbr,
             stopTx := [false, false, false, false] })

/-- TARGET_FAILURE_DETECTED (R367): accesses to package `pkg`, as 256 × pod + package, complete with poison or AccessFault from
then on. -/
def execTargetFailureDetected (pkg : Nat) (s : State) : Out :=
  if 4096 ≤ pkg then .fault .noSuchUnit else .next { s with failed := insertNat pkg s.failed }

/-! ## Remote accesses (R347, R350, R366) -/

/-- An access of another package to a row of the management aperture (R341, R346), as from a device of this package that owns
neither thread nor queue here: the blocks of devices that list it, and the create and destroy words; else AccessFault. -/
def State.remoteMgmt (s : State) (q : RemoteReq) : State :=
  let o := q.pa - Config.mgmtBase
  let no := s.reply q fcAccessFault 0 false
  let opens := if o < 0x10000 then !(s.vd (o / 64)).live || s.mayWake (o / 64) (.vd q.pkg q.vd) else decide (0x30000 ≤ o)
  if !opens || !commonsOk q.pa then no
  else match q.kind with
    | .load => s.reply q 0 (BitVec.ofNat 64 (s.readNat (pa spCommons q.pa) q.size)) false
    | .store v => match s.mgmtStore q.vd (pa spCommons q.pa) q.size v.toNat q.pkg with
      | .ok t => t.reply q 0 0 false
      | .error k => s.reply q k 0 false
    | .atomic _ _ _ | .bytes _ => no

/-- Whether an access has a size of its kind at an aligned place: 1 to 8 bytes, or copy data within one line. -/
def requestOk (q : RemoteReq) : Bool :=
  match q.kind with
  | .bytes _ => decide (1 ≤ q.size) && decide (q.pa % 64 + q.size ≤ 64)
  | _ => decide (1 ≤ q.size) && decide (q.size ≤ 8) && q.pa % q.size == 0

/-- The host stores to the host-access share of a device's commons through BAR2 (R341, log 122): bytes of one line, while the
device does not sleep. What the host writes and when is free. -/
def State.hostStore (s : State) : State :=
  match Config.hostStore s.free with
  | none => s
  | some (off, n, v) =>
    let p := pa spCommons off
    let opens := (s.shareOwner off n).any fun d => (s.vd d).hostAccess && !s.holds d
    if opens && !s.placeDiverted p && off % 64 + n ≤ 64 then (s.memWrite p n v).draw else s

/-- REMOTE_ACCESS: access `k` of another package is performed at its home arbiter, held for a device that sleeps or falls
asleep, or refused at its requester. Those of one requester to one line are performed in order, and behind what is held; one whose
reply must wait waits. A number beyond them is an access of the host (log 122). -/
def execRemoteAccess (k : Nat) (s : State) : Out :=
  match s.remote[k]? with
  | none => .next s.hostStore
  | some q =>
    if s.replyWait q || (s.remote.take k).any fun y => y.pod == q.pod && y.pkg == q.pkg && y.vd == q.vd && y.pa / 64 == q.pa / 64 then .next s
    else
      let t := { s with remote := removeAt s.remote k }
      if !requestOk q then .next (t.reply q fcMisaligned 0 false)
      else if (s.spanOfFar q.pod q.pkg q.vd).isNone then .next (t.reply q fcAccessFault 0 false)
      else if isMgmt (pa spCommons q.pa) then .next (t.remoteMgmt q)
      else match s.shareOwner q.pa q.size with
        | none => .next (if (s.sharedBy q.pa).isNone && commonsOk q.pa then t.remoteDo q else t.reply q fcAccessFault 0 false)
        | some v =>
          if (s.vd v).dying || !s.spanJoins q.pkg q.vd v then .next (t.reply q fcAccessFault 0 false)
          else
            let listed := s.mayWake v (.vd q.pkg q.vd)
            let hold := fun (_ : Unit) => if s.holdRoom v then Host.Outcome.next ({ t with wakeBuf := t.wakeBuf ++ [(v, WakeEntry.remote q)] }.wake v)
              else .next (t.reply q fcVdDormant 0 false)
            match (s.vd v).mode with
            | .dormant | .waking => if listed then hold () else .next (t.reply q fcVdDormant 0 false)
            | .collapsing => if listed then hold () else .next (t.remoteDo q)
            | .active =>
              if s.holds v then hold ()
              else if s.placeDiverted (pa spCommons q.pa) then .next s
              else .next (t.remoteDo q)

/-! ## Serdex stream ports (R364, R369) -/

/-- A token whose path has no route entry, or whose destination does not take it: the fault is its sender's. -/
def State.refusePort (s : State) (x : PortTok) (code : Nat) : State :=
  match x.r with
  | some r => s.raiseTok r code noElem noSlot x.tok
  | none => s.raiseSuper x.vd code 0

/-- A token of a bound port for this package itself: none where it must wait. -/
def State.portHere (s : State) (p : Nat) (x : PortTok) (v die port : Nat) : Option State :=
  let d := s.vd v
  let q := 256 * die + port
  if !d.live || d.dying || !d.ports.contains q then some (s.refusePort x fcAccessFault)
  else
    let s := s.deliverHeld v 4096
    if s.holds v then
      some (if s.holdRoom v then { s with wakeBuf := s.wakeBuf ++ [(v, .token ((x.r).getD 256) x.tok (some q) x.past)] }
        else s.refusePort x fcVdDormant)
    else if s.portRoom q 1 then some (s.intoPort q v [x.tok] x.past) else none

/-- The link over which port `p` delivers to another package (R366, R369): its own within the pod, a live tier port of its owner to
another pod; none where it is down or lane 3 is stopped. -/
def State.streamLink (s : State) (vd p pod : Nat) : Option Nat :=
  let l := if pod == Config.pod then [p] else if Config.pods then [38 + Config.choice s.free % 2, 39 - Config.choice s.free % 2] else []
  l.find? fun q => s.livePort vd q && !s.laneStopped q 3

/-- SERDEX_PORT_DELIVERY: port `p` delivers its first token to the on-die port it is bound to; another package's port is
reached over a link while its lane 3 is not stopped. -/
def execSerdexPortDelivery (p : Nat) (s : State) : Out :=
  if Config.serdexCount ≤ p then .fault .noSuchUnit
  else
    let x := s.serdexPort p
    match x.bind, x.fifo with
    | some b, t :: l =>
      let w := b.toNat
      let pkg := bitsOf w 26 19
      let pod := bitsOf w 30 27
      let u := s.updSerdex p fun y => { y with fifo := l }
      if pkg == Config.package && pod == Config.pod then
        .next ((u.portHere p t (bitsOf w 40 31) (bitsOf w 41 41) (bitsOf w 49 42)).getD s)
      else if !s.routed t.vd pod pkg then .next (u.refusePort t fcAccessFault)
      else if (s.streamLink t.vd p pod).isNone then .next s
      else .next u
    | _, _ => .next s

end Sys2Proof.Machine
end

