-- ==== Sys2Proof/Machine/Messages.lean ====
section
/-! DEFINITION. What arrives over a link (R359 to R361): flits, their lanes, and the messages of other packages' firmware: spans
(R363, R365), members of gangs that another package leads (R377), and the parts of regions over several packages (R368). The spec
gives requests, nodes and messages no form of tokens: a flit carries what it stands for (log 79). -/
namespace Sys2Proof.Machine

/-! ## Spans of other packages (R363, R365) -/

/-- A member of another package submits its record. -/
def State.farSubmit (s : State) (pod pkg vd : Nat) (id : Word) (edge : Bool) (ms : List SpanMember) : State :=
  let p : Span := { num := 0, id := id, edge := edge, members := ms, submitted := [], active := false, left := [] }
  match p.indexOf pod pkg vd with
  | none => s
  | some i => (s.submitSpan p i).1

/-- A member of another package leaves its span: gangs, bindings to it, its route entries. -/
def State.farLeave (s : State) (pod pkg vd : Nat) : State :=
  match s.spans.find? fun p => p.active && (p.indexOf pod pkg vd).isSome with
  | none => s
  | some p =>
    let alone := decide ((p.members.countP fun m => m.pod == pod && m.pkg == pkg) == 1)
    let s := s.looseGangs fun g m => (p.indexOf Config.pod Config.package g.vd).isSome && m.pkg == pkg && m.pod == pod &&
      (alone || Config.farOwner (256 * pod + pkg) m.cluster == vd)
    let s := s.unbindSerdex fun _ w => bindsTo w pod pkg vd
    s.leaveIndex p.num (p.indexOf pod pkg vd)

/-! ## Members of another package's gang (R377) -/

/-- Whether a hosted member belongs to a gang. -/
def Hosted.isOf (h : Hosted) (pod pkg vd gang : Nat) : Bool := h.pod == pod && h.pkg == pkg && h.lead == vd && h.gang == gang

/-- The device of this package that shares a span with a device of another, for a cluster. -/
def State.sharedWith (s : State) (pod pkg vd c : Nat) : Option Nat :=
  (s.spans.find? fun p => p.active && (p.indexOf pod pkg vd).isSome).bind fun p => s.spanHere p c

/-- Prepare: RGNLOAD of the named region on the named cluster. A prepare that has no room is not acknowledged. -/
def State.farPrepare (s : State) (pod pkg vd gang cluster : Nat) (desc task : Word) : State :=
  match s.sharedWith pod pkg vd cluster with
  | none => s
  | some v =>
    let put := fun (s : State) (r : Option Nat) => { s with hosted := s.hosted ++
      [{ pod := pod, pkg := pkg, lead := vd, gang := gang, vd := v, region := r, task := task }] }
    match s.loadMember (16 * cluster) v cluster desc with
    | some (u, r) => put u (some r)
    | none => put s none

/-- What happens to every hosted member of a gang; the members stay listed where the launch goes on. -/
def State.hostedEach (s : State) (pod pkg vd gang : Nat) (keep : Bool) (f : State → Hosted → State) : State :=
  let l := s.hosted.filter fun h => h.isOf pod pkg vd gang
  let s := l.foldl f s
  if keep then s else { s with hosted := s.hosted.filter fun h => !h.isOf pod pkg vd gang }

/-! ## Parts of regions (R368) -/

/-- Cores for a part: the list by core index, this package's taken from the free clusters of the device in rising order. -/
def partCores (free : List Nat) (pkgs : List Nat) : List Nat :=
  (List.range pkgs.length).map fun i =>
    let p := (pkgs[i]?).getD 0
    let n := (pkgs.take i).countP fun q => q == p
    if p == Config.package then (free[n]?).getD 0 else farCore p n

/-- A region that package `pkg` schedules takes cores here: the part stands and loads. -/
def State.takePart (s : State) (pkg vd own : Nat) (desc : Word) (pkgs : List Nat) : State :=
  let free := s.wholeClusters own Config.package
  let need := pkgs.countP fun q => q == Config.package
  let c := clusterOfCore ((free.head?).getD 0)
  let joined := (s.spanOf own).any fun p => p.edge && (p.indexOf Config.pod pkg vd).isSome
  match s.readDesc (hwWho own c) desc, s.freePlace c with
  | .ok x, some p =>
    let ks := partCores free pkgs
    let k := (ks.head?).getD 0
    if !joined || need == 0 || free.length < need || (s.edgePort own pkg).isNone || (!isFar k && s.blockClash own desc k) then s
    else s.standRegion (64 * c + p) { x with lead := some pkg, keep := true, placed := true } ks
  | _, _ => s

/-- A part of a region that another package steps. -/
def State.isPart (s : State) (r : Nat) : Bool := (s.region r).live && (s.region r).lead.isSome

/-- The blocks of a part that holds core 0 are written before its first step (R247). -/
def State.partBlocks (s : State) (r : Nat) : Chk State :=
  let x := s.region r
  if x.status == .running then .ok s else s.writeBlocks (hwWho x.vd (r / 64)) x.desc ((x.cores.head?).getD 0)

/-- The sequencer orders configuration `c`: the part runs, and its elements switch. -/
def State.partConf (s : State) (r c : Nat) : State :=
  if !s.isPart r || (s.region r).status == .loading || (s.region r).loadFault != 0 then s
  else match s.partBlocks r with
    | .error _ => s
    | .ok t => (t.updRegion r fun x => { x with status := .running, conf := c }).startStep r

/-- The step begins: the start token, where core 0 is here. -/
def State.partStart (s : State) (r : Nat) : State :=
  if s.isPart r && (s.region r).status == .running && !(s.region r).switching then s.beginStep r else s

/-- The part ends: its region has retired, or is killed. -/
def State.partEnd (s : State) (r : Nat) (kill : Bool) : State :=
  if !s.isPart r then s
  else if kill then s.killRegion r
  else ((s.flushStores r).commitJournal (s.rid r)).freeRegion r

/-- DONE from a part on another package. -/
def State.farDone (s : State) (r : Nat) (stop : Bool) : State :=
  let x := s.region r
  if x.live && x.lead.isNone && hasFar x && x.inStep then s.takeDone r stop 0 0 [] else s

/-! ## Firmware messages -/

/-- A message of another package's firmware. -/
def State.message (s : State) (m : FarMsg) : State :=
  match m with
  | .spanSubmit pod pkg vd id edge ms => s.farSubmit pod pkg vd id edge ms
  | .spanLeave pod pkg vd => s.farLeave pod pkg vd
  | .prepare pod pkg vd gang _ cluster desc task => s.farPrepare pod pkg vd gang (cluster % 4) desc task
  | .go pod pkg vd gang => s.hostedEach pod pkg vd gang true fun s h => (s.startOf (16 * ((h.region.getD 0) / 64)) h.region h.task).1
  | .discard pod pkg vd gang => s.hostedEach pod pkg vd gang false fun s h => match h.region with
    | some r => s.freeRegion r
    | none => s
  | .fail pod pkg vd gang => s.hostedEach pod pkg vd gang false fun s h => match h.region with
    | some r => if (s.region r).status == .running then (s.failStarted r).1 else s.freeRegion r
    | none => s
  | .part pkg vd own desc pkgs => s.takePart pkg vd own desc pkgs
  | .partConf r c => s.partConf r c
  | .partStart r => s.partStart r
  | .partEnd r kill => s.partEnd r kill
  | .done r stop => s.farDone r stop

/-! ## Lanes (R359, R360) -/

/-- What lane 0 does with a request, lane 2 with a node, and lane 3 with streams, element tokens, copy data and messages: none
where it must wait. Lane 1 carries the replies of accesses that this package performs whole (log 5). -/
def State.takeFlit (s : State) (p : Nat) (f : Flit) : Option State :=
  match f.lane, f.msg with
  | 0, .request q => some { s with remote := s.remote ++ [q] }
  | 2, .node d => if s.homeTakes d then some { s with nodes := s.nodes ++ [{ sw := portSwitch p, node := d, home := true }] } else none
  | 3, .stream v port => s.takeStream f v port
  | 3, .request q => some { s with remote := s.remote ++ [q] }
  | 3, .element r => some (if hasFar (s.region r) then f.tokens.foldl (fun s t => s.send (2 ^ 43 + p) r t) s else s)
  | 3, .firmware m => some (s.message m)
  | _, _ => some s

/-- Forward the first flit of a lane, with its data line where it has one: none where it must wait. What is for another package
passes on. -/
def State.forward (s : State) (p l : Nat) : Option State :=
  match (s.serdexPort p).rx.filter fun f => f.lane == l with
  | [] => none
  | f :: more =>
    let n := if f.line && f.ftype == 0 then 2 else 1
    let pop := fun (s : State) => s.updSerdex p fun x =>
      settleLane { x with rx := (List.range n).foldl (fun r _ => removeFirst (fun g => g.lane == l) r) x.rx } l
    if n == 2 && !(more.head?).any (fun d => d.ftype == 1) then none
    else if f.pkg != Config.package || f.pod != Config.pod || f.ftype == 1 then some (pop s)
    else (s.takeFlit p f).map pop

/-- FLIT_RECEIVE: a flit with a bad CRC is retried, and after the eighth failed retry the link retrains; a good one that keeps the
form of R359 joins its lane's buffer, and the first flit of each lane is forwarded where it can be. -/
def execFlitReceive (p : Nat) (f : Flit) (s : State) : Out :=
  if Config.serdexCount ≤ p || 4 ≤ f.lane then .fault .noSuchUnit
  else
    let x := s.serdexPort p
    if !x.up then .next s
    else if !f.good then
      .next (s.updSerdex p fun x => if 8 ≤ x.retries then { x with up := false, retries := 0 } else { x with retries := x.retries + 1 })
    else
      let takes := f.formOk && f.ftype != 2 && decide (0 < lanePlaces x f.lane)
      let s := s.updSerdex p fun x =>
        let x := { x with retries := 0 }
        if takes then settleLane { x with rx := x.rx ++ [f] } f.lane else x
      .next ((List.range 4).foldl (fun s l => (s.forward p l).getD s) s)

end Sys2Proof.Machine
end

