-- ==== Sys2Proof/Machine/Package.lean ====
section
/-! DEFINITION. The package's own steps (R342 to R357): devices created and destroyed, collapse and wake, the predictor, boot,
attestation, and the power throttle. -/
namespace Sys2Proof.Machine

/-! ## Creation and destruction (R342, R344) -/

/-- CREATE_VD: a store of a record's address to the create word. -/
def execCreateVd (pa : Word) (s : State) : Out := .next (s.createVd pa.toNat)

/-- DESTROY_VD. -/
def execDestroyVd (size : Nat) (v : Word) (s : State) : Out := .next (s.destroyVd size v)

/-! ## Collapse and wake (R345 to R351) -/

/-- WAKE_WRITE: the host or a device, of this package or another; a writer that is not permitted changes nothing here. -/
def execWakeWrite (v : Nat) (who : Waker) (size : Nat) (s : State) : Out :=
  if Config.vdCount ≤ v then .fault .noSuchUnit
  else match s.wakeWrite v who size with
    | .ok t => .next t
    | .error _ => .next s

/-- AUTOMATIC_COLLAPSE (R345): the device has been idle for its configured time. -/
def execAutomaticCollapse (v : Nat) (s : State) : Out :=
  if Config.vdCount ≤ v then .fault .noSuchUnit
  else
    let d := s.vd v
    if d.live && !d.dying && d.mode == .active && !d.parked && d.idle != 0 && d.idle * Config.cyclesPerMs ≤ d.idleC && s.idleVd v then
      .next (s.beginCollapse v)
    else .next s

/-- COLLAPSE_COMPLETE (R348). -/
def execCollapseComplete (v : Nat) (s : State) : Out :=
  if Config.vdCount ≤ v then .fault .noSuchUnit
  else if (s.vd v).live && (s.vd v).mode == .collapsing && s.collapseReady v then .next (s.endCollapse v)
  else .next s

/-- Whether a non-pinned device holds what a waking device `v` lacks: clusters, or HBM groups that it can take back. -/
def State.inWay (s : State) (v : Nat) (d : VdState) : Bool :=
  d.live && !d.pinned && d.mode == .active &&
    (((s.vd v).clusters.length != (s.vd v).nclusters && !d.clusters.isEmpty) ||
      (s.lacksGroups v && d.wclass != 1 && !d.groups.isEmpty))

/-- The slices of non-pinned devices that hold what a wake needs end at once (R349). -/
def State.endSlices (s : State) (v : Nat) : State :=
  let s := { s with vds := s.vds.map fun q => (q.1, if s.inWay v q.2 && !q.2.parked then { q.2 with sliceEnd := true } else q.2) }
  (List.range Config.vdCount).foldl State.yieldGroups s

/-- Whether the bound of R349 has passed after `n` cycles, for a class and the resident bytes. -/
def boundPassed (cls resident n : Nat) : Bool :=
  match cls with
  | 1 => 2 * Config.cyclesPerMs < n
  | 2 => 2500 * 3 * Config.cyclesPerMs + 9 * resident < 2500 * n
  | _ => 100 * 5 * Config.cyclesPerMs + 3 * resident < 100 * n

/-- A wake past its bound raises WakeMiss (R349): once, to the creator's endpoint, at physical addresses (R346). -/
def State.missWake (s : State) (v : Nat) : State :=
  let d := s.vd v
  if d.live && !d.dying && d.mode == .waking && !d.missed && boundPassed d.wclass d.resident.toNat (s.clock - d.wakeAt) then
    (s.updVd v fun d => { d with missed := true }).deliver (hwWho v 0) true (mkRecord fcWakeMiss 0 noElem 0 noSlot v 0) 9 d.creator.toNat
  else s

/-- WAKE_MISS (R349). -/
def execWakeMiss (v : Nat) (s : State) : Out := if Config.vdCount ≤ v then .fault .noSuchUnit else .next (s.missWake v)

/-- WAKE_COMPLETE (R349, R350): the wake ends where the resources are free, and what was held is delivered. -/
def execWakeComplete (v : Nat) (s : State) : Out :=
  if Config.vdCount ≤ v then .fault .noSuchUnit
  else
    let d := s.vd v
    if d.live && !d.dying && d.mode == .waking then
      let s := s.missWake v
      match s.endWake v with
      | some t => .next (t.deliverHeld v 4096)
      | none => .next (s.endSlices v)
    else .next (s.deliverHeld v 4096)

/-! ## The predictor (R352) -/

/-- The party of the predictor's accesses. -/
def predWho (v cluster : Nat) : Who := { vd := v, user := true, core := none, cluster := cluster, machine := false }

/-- Copy `n` bytes of an expert; what faults is dropped. A line that has been written whole loses its mark (R179). -/
def State.prefetch (s : State) (w : Who) (src : Nat) (dst : Nat → AccRes) (i : Nat) : Nat → State
  | 0 => s
  | n + 1 =>
    match s.resolve w (BitVec.ofNat 64 (src + i)) .rd, dst i with
    | .ok p 1, .ok q _ =>
      if s.poisoned p then s
      else
        let u := s.writeNat q 1 (s.readNat p 1)
        let whole := q % 64 == 63 && decide (63 ≤ i)
        { u with poison := if whole then u.poison.filter (· != q / 64) else u.poison }.prefetch w src dst (i + 1) n
    | _, _ => s

/-- A W-buffer destination of the table: byte `i` of it. -/
def State.wPlace (s : State) (v cluster t i : Nat) : AccRes :=
  match typedCore (24 * cluster) t with
  | none => .fault fcAccessFault
  | some core =>
    let o := bitsOf t 22 0 + i
    if bitsOf t 31 30 != 0 || bitsOf t 29 25 == 31 || bitsOf t 24 23 != 0 || Config.sizeW ≤ o || s.vdOfCore core != v then .fault fcAccessFault
    else .ok (pa (spW core) o) 4

/-- An HBM destination of the table: byte `i` of it. -/
def State.hbmPlace (s : State) (w : Who) (d i : Nat) : AccRes :=
  match s.resolve w (BitVec.ofNat 64 (d + i)) .wr with
  | .ok p 0 => .ok p 0
  | _ => .fault fcAccessFault

/-- Copy expert `e` of layer `l` by the device's table. -/
def State.copyExpert (s : State) (v cluster l e : Nat) : State :=
  let w := predWho v cluster
  let a := (s.vd v).xptab.toNat + 32 * (256 * l + e)
  if 64 ≤ l then s
  else match s.hwRead w a 8, s.hwRead w (a + 8) 8, s.hwRead w (a + 16) 8, s.hwRead w (a + 24) 8 with
    | .ok src, .ok dst, .ok t, .ok n =>
      if 2 ^ 32 ≤ t || (t != 0 && Config.sizeW < n) then s
      else
        let s := s.prefetch w src (s.hbmPlace w dst) 0 n
        if t == 0 then s else s.prefetch w src (s.wPlace v cluster t) 0 n
    | _, _, _, _ => s

/-- Whether the scoreboard of the core of an expert's W-buffer destination has room for the copy's entry, and what has issued to it
before is performed (R170, R171); the entry is freed in the same step. -/
def State.expertRoom (s : State) (v cluster l e : Nat) : Bool :=
  let w := predWho v cluster
  let a := (s.vd v).xptab.toNat + 32 * (256 * l + e)
  match s.hwRead w (a + 16) 8, s.hwRead w (a + 24) 8 with
  | .ok t, .ok n =>
    64 ≤ l || t == 0 || (match s.wPlace v cluster t 0 with
      | .ok p _ => decide ((s.core (paSpace p % 128)).scoreboard.length < 32) && !s.issuedBefore p n
      | .fault _ => true)
  | _, _ => true

/-- Raise a learned count, saturating at 255. -/
def bump (l i j : Nat) : List Learned → List Learned
  | [] => [{ layer := l, i := i, j := j, n := 1 }]
  | x :: r => if x.layer == l && x.i == i && x.j == j then { x with n := min 255 (x.n + 1) } :: r else x :: bump l i j r

/-- The learned count of (l, i, j). -/
def learnedAt (t : List Learned) (l i j : Nat) : Nat := ((t.find? fun x => x.layer == l && x.i == i && x.j == j).map (·.n)).getD 0

/-- The best of `js` for (l, i): the highest count, the lower number on ties. -/
def bestNext (t : List Learned) (l i : Nat) (js : List Nat) : Option Nat :=
  js.foldl (fun b j => match b with
    | none => some j
    | some k => if learnedAt t l i k < learnedAt t l i j then some j else some k) none

/-- The `n` experts with the highest counts for the layer after (l, i). -/
def topNext (t : List Learned) (l i : Nat) : Nat → List Nat → List Nat
  | 0, _ => []
  | n + 1, js => match bestNext t l i js with
    | none => []
    | some j => j :: topNext t l i n (js.filter fun k => k != j)

/-- What an observation teaches: each pair of the batch once, whichever of its two was seen first. -/
def learn (d : VdState) (batch l e : Nat) : VdState :=
  let up := d.observed.foldl (fun t o => if o.1 == batch && o.2.1 == l + 1 then bump l e o.2.2 t else t) d.learned
  let t := d.observed.foldl (fun t o => if o.1 == batch && o.2.1 + 1 == l then bump o.2.1 o.2.2 e t else t) up
  { d with learned := t, observed := d.observed ++ [(batch, l, e)] }

/-- The token at the head of a die's predictor port: its device, the cluster it came from and its payload. -/
def State.routerHead (s : State) (die : Nat) : Option (Nat × Nat × Nat) :=
  ((s.port (256 * die + 255)).fifo.head?).map fun t => (t.vd, ((t.r).map (· / 64)).getD (2 * die), t.tok.payload.toNat)

/-- Take the head of a predictor port. -/
def State.popRouter (s : State) (die : Nat) : State := s.updPort (256 * die + 255) fun x => { x with fifo := x.fifo.tail }

/-- PREDICTOR_OBSERVATION: learned under the basic control, ignored under the expert control. -/
def execPredictorObservation (die : Nat) (s : State) : Out :=
  if 2 ≤ die then .fault .noSuchUnit
  else match s.routerHead die with
    | none => .next s
    | some (v, c, p) =>
      if bitsOf p 15 14 != 0 then .next s
      else
        let t := s.popRouter die
        let x := (s.vd v).xpred.toNat
        let l := bitsOf p 13 8
        let e := bitsOf p 7 0
        if x % 4 != 1 || !(s.vd v).live then .next t
        else
          let t := t.updVd v fun d => learn d (bitsOf p 47 16) l e
          let js := topNext (t.vd v).learned l e 4 (List.range 256)
          .next (if js.all (s.expertRoom v c (l + 1)) then js.foldl (fun s j => s.copyExpert v c (l + 1) j) t else s)

/-- PREDICTOR_HINT: one expert at once under the expert control. -/
def execPredictorHint (die : Nat) (s : State) : Out :=
  if 2 ≤ die then .fault .noSuchUnit
  else match s.routerHead die with
    | none => .next s
    | some (v, c, p) =>
      if bitsOf p 15 14 != 1 then .next s
      else
        let t := s.popRouter die
        if (s.vd v).xpred.toNat % 4 != 3 || !(s.vd v).live then .next t
        else .next (if s.expertRoom v c (bitsOf p 13 8) (bitsOf p 7 0) then t.copyExpert v c (bitsOf p 13 8) (bitsOf p 7 0) else s)

/-! ## Boot (R354, R355) -/

/-- COLD_RESET: the boot chain starts from the boot ROM. -/
def execColdReset (s : State) : Out := .next { State.reset with turn := s.turn, clock := s.clock, free := s.free }

/-- A failed start: its cause is recorded, and the third in a row ends in minimal mode. -/
def State.failStart (s : State) (cause : BitVec 8) : State :=
  { s with fails := s.fails + 1, causes := s.causes.set s.fails cause, bootLog := [],
           boot := if s.fails + 1 < 3 then .rom else .minimal }

/-- The checks of a stage's image: the cause of the first that fails, if any. -/
def imageCause (i : BootImage) : Option (BitVec 8) :=
  if i.poisoned then some 6
  else if !i.wellFormed then some 4
  else if i.claimed != i.digest then some 2
  else if !Config.mldsaVerify Config.keyDigest i.digest i.signature then some 1
  else if i.version < Config.fusedVersion then some 3
  else (i.reported).map fun n => 0xF0#8 ||| n.setWidth 8

/-- The stage after one that has started. -/
def BootStage.succ : BootStage → BootStage
  | .rom => .mgmt
  | .mgmt => .pkg
  | .pkg => .bextex
  | .bextex => .running
  | .running => .running
  | .minimal => .minimal

/-- Whether a stage of the boot chain is still to start. -/
def BootStage.booting (b : BootStage) : Bool := b != .running && b != .minimal

/-- BOOT_STAGE: the image of the stage that starts next; a start that reaches Bextex clears the count. In minimal mode it is a
signed firmware update, and is loaded where every check passes (R354). -/
def execBootStage (img : BootImage) (s : State) : Out :=
  if s.boot == .minimal then (if (imageCause img).isNone then .next { s with update := some img.digest } else .next s)
  else if !s.boot.booting then .next s
  else match imageCause img with
    | some c => .next (s.failStart c)
    | none => .next { s with boot := s.boot.succ, bootLog := s.bootLog ++ [img.digest],
                             fails := if s.boot == .bextex then 0 else s.fails }

/-- BOOT_STAGE_TIMEOUT: a stage does not report within 2 s. -/
def execBootStageTimeout (s : State) : Out := if s.boot.booting then .next (s.failStart 5) else .next s

/-! ## Attestation (R356) -/

/-- The digest of a device's record. -/
def State.recordDigest (s : State) (v : Nat) : BitVec 256 :=
  match placeOf 1 Config.pod Config.package 0 (s.vd v).record.toNat with
  | .ok p _ => Config.shake256 ((List.range 128).map fun i => s.readByte (p + i))
  | .fault _ => 0

/-- ATTESTATION_REQUEST. -/
def execAttestationRequest (nonce : BitVec 256) (s : State) : Out :=
  let ds := (s.vds.filter fun q => q.2.live).map fun q => s.recordDigest q.1
  let body := nonce :: s.bootLog ++ [BitVec.ofNat 256 Config.fusedVersion] ++ ds
  .next { s with reports := s.reports ++
    [{ nonce := nonce, stages := s.bootLog, version := Config.fusedVersion, vds := ds, sig := Config.mldsaSign body }] }

/-! ## Power (R357) -/

/-- POWER_THROTTLE: regions of non-pinned devices first. -/
def execPowerThrottle (r : Nat) (s : State) : Out :=
  if 256 ≤ r then .fault .noSuchUnit
  else
    let x := s.region r
    let left := s.regions.any fun q => q.2.live && !q.2.throttled && !(s.vd q.2.vd).pinned
    if !x.live || x.throttled || ((s.vd x.vd).pinned && left) then .next s
    else .next { s.updRegion r fun y => { y with throttled := true } with throttle := true }

/-- THROTTLE_LIFTED. -/
def execThrottleLifted (r : Nat) (s : State) : Out :=
  if 256 ≤ r then .fault .noSuchUnit
  else
    let t := s.updRegion r fun y => if y.live then { y with throttled := false } else y
    .next { t with throttle := t.regions.any fun q => q.2.live && q.2.throttled }

end Sys2Proof.Machine
end

