-- ==== Sys2Proof/Machine/Dispatch.lean ====
section
/-! DEFINITION. One arm for each constructor of `Instr`: a direct call of its meaning. -/
namespace Sys2Proof.Machine

/-- The meaning of an instruction, a step or an event. -/
def exec (i : Instr) (s : State) : Host.Outcome State Fault Refusal :=
  match i with
  | .elemAdd w => Sys2Proof.Machine.execElemAdd w s
  | .elemSub w => Sys2Proof.Machine.execElemSub w s
  | .elemMul w => Sys2Proof.Machine.execElemMul w s
  | .mulhi w => Sys2Proof.Machine.execMulhi w s
  | .mad w => Sys2Proof.Machine.execMad w s
  | .elemDiv w => Sys2Proof.Machine.execElemDiv w s
  | .elemRem w => Sys2Proof.Machine.execElemRem w s
  | .elemAnd w => Sys2Proof.Machine.execElemAnd w s
  | .elemOr w => Sys2Proof.Machine.execElemOr w s
  | .elemXor w => Sys2Proof.Machine.execElemXor w s
  | .andn w => Sys2Proof.Machine.execAndn w s
  | .shl w => Sys2Proof.Machine.execShl w s
  | .shr w => Sys2Proof.Machine.execShr w s
  | .sar w => Sys2Proof.Machine.execSar w s
  | .rot w => Sys2Proof.Machine.execRot w s
  | .elemClz w => Sys2Proof.Machine.execElemClz w s
  | .elemPopc w => Sys2Proof.Machine.execElemPopc w s
  | .elemMin w => Sys2Proof.Machine.execElemMin w s
  | .elemMax w => Sys2Proof.Machine.execElemMax w s
  | .abs w => Sys2Proof.Machine.execAbs w s
  | .fadd w => Sys2Proof.Machine.execFadd w s
  | .fsub w => Sys2Proof.Machine.execFsub w s
  | .fmul w => Sys2Proof.Machine.execFmul w s
  | .fma w => Sys2Proof.Machine.execFma w s
  | .fmin w => Sys2Proof.Machine.execFmin w s
  | .fmax w => Sys2Proof.Machine.execFmax w s
  | .fsgn w => Sys2Proof.Machine.execFsgn w s
  | .frcp w => Sys2Proof.Machine.execFrcp w s
  | .frsq w => Sys2Proof.Machine.execFrsq w s
  | .fexp2 w => Sys2Proof.Machine.execFexp2 w s
  | .flog2 w => Sys2Proof.Machine.execFlog2 w s
  | .fcvt w => Sys2Proof.Machine.execFcvt w s
  | .fclass w => Sys2Proof.Machine.execFclass w s
  | .fdot w => Sys2Proof.Machine.execFdot w s
  | .amax w => Sys2Proof.Machine.execAmax w s
  | .cmp w => Sys2Proof.Machine.execCmp w s
  | .fcmp w => Sys2Proof.Machine.execFcmp w s
  | .sel w => Sys2Proof.Machine.execSel w s
  | .bcmp w => Sys2Proof.Machine.execBcmp w s
  | .bfind w => Sys2Proof.Machine.execBfind w s
  | .bperm w => Sys2Proof.Machine.execBperm w s
  | .hash64 w => Sys2Proof.Machine.execHash64 w s
  | .crc32c w => Sys2Proof.Machine.execCrc32c w s
  | .dfastep w => Sys2Proof.Machine.execDfastep w s
  | .steer w => Sys2Proof.Machine.execSteer w s
  | .merge w => Sys2Proof.Machine.execMerge w s
  | .gate w => Sys2Proof.Machine.execGate w s
  | .fork w => Sys2Proof.Machine.execFork w s
  | .sink w => Sys2Proof.Machine.execSink w s
  | .const w => Sys2Proof.Machine.execConst w s
  | .tagget w => Sys2Proof.Machine.execTagget w s
  | .tagset w => Sys2Proof.Machine.execTagset w s
  | .ctxalloc w => Sys2Proof.Machine.execCtxalloc w s
  | .ctxret w => Sys2Proof.Machine.execCtxret w s
  | .ctxfree w => Sys2Proof.Machine.execCtxfree w s
  | .seqset w => Sys2Proof.Machine.execSeqset w s
  | .loopgen w => Sys2Proof.Machine.execLoopgen w s
  | .loopret w => Sys2Proof.Machine.execLoopret w s
  | .accum w => Sys2Proof.Machine.execAccum w s
  | .compress w => Sys2Proof.Machine.execCompress w s
  | .topk w => Sys2Proof.Machine.execTopk w s
  | .merge2 w => Sys2Proof.Machine.execMerge2 w s
  | .tokout w => Sys2Proof.Machine.execTokout w s
  | .elemTrap w => Sys2Proof.Machine.execElemTrap w s
  | .elemEtrig w => Sys2Proof.Machine.execElemEtrig w s
  | .done w => Sys2Proof.Machine.execDone w s
  | .chbind w => Sys2Proof.Machine.execChbind w s
  | .sclset w => Sys2Proof.Machine.execSclset w s
  | .cntwatch w => Sys2Proof.Machine.execCntwatch w s
  | .elemChain w => Sys2Proof.Machine.execElemChain w s
  | .nop w => Sys2Proof.Machine.execNop w s
  | .elemLd w => Sys2Proof.Machine.execElemLd w s
  | .elemSt w => Sys2Proof.Machine.execElemSt w s
  | .agstream w => Sys2Proof.Machine.execAgstream w s
  | .gather w => Sys2Proof.Machine.execGather w s
  | .scatter w => Sys2Proof.Machine.execScatter w s
  | .atom w => Sys2Proof.Machine.execAtom w s
  | .red w => Sys2Proof.Machine.execRed w s
  | .elemFence w => Sys2Proof.Machine.execElemFence w s
  | .elemApcvt w => Sys2Proof.Machine.execElemApcvt w s
  | .elemAptest w => Sys2Proof.Machine.execElemAptest w s
  | .fibOpen w => Sys2Proof.Machine.execFibOpen w s
  | .fibAdv w => Sys2Proof.Machine.execFibAdv w s
  | .fibEnd w => Sys2Proof.Machine.execFibEnd w s
  | .fibClose w => Sys2Proof.Machine.execFibClose w s
  | .mldt w => Sys2Proof.Machine.execMldt w s
  | .pref w => Sys2Proof.Machine.execPref w s
  | .mma w => Sys2Proof.Machine.execMma w s
  | .mmaZ w => Sys2Proof.Machine.execMmaZ w s
  | .accRd w => Sys2Proof.Machine.execAccRd w s
  | .accWr w => Sys2Proof.Machine.execAccWr w s
  | .accCvt w => Sys2Proof.Machine.execAccCvt w s
  | .accChk w => Sys2Proof.Machine.execAccChk w s
  | .accVfy w => Sys2Proof.Machine.execAccVfy w s
  | .accFix w => Sys2Proof.Machine.execAccFix w s
  | .sclLd w => Sys2Proof.Machine.execSclLd w s
  | .shalloc w => Sys2Proof.Machine.execShalloc w s
  | .shseal w => Sys2Proof.Machine.execShseal w s
  | .shld w => Sys2Proof.Machine.execShld w s
  | .shpeek w => Sys2Proof.Machine.execShpeek w s
  | .shabandon w => Sys2Proof.Machine.execShabandon w s
  | .shquery w => Sys2Proof.Machine.execShquery w s
  | .add d a b => Sys2Proof.Machine.execAdd d a b s
  | .sub d a b => Sys2Proof.Machine.execSub d a b s
  | .mul d a b => Sys2Proof.Machine.execMul d a b s
  | .mulh d a b => Sys2Proof.Machine.execMulh d a b s
  | .div d a b => Sys2Proof.Machine.execDiv d a b s
  | .divu d a b => Sys2Proof.Machine.execDivu d a b s
  | .rem d a b => Sys2Proof.Machine.execRem d a b s
  | .remu d a b => Sys2Proof.Machine.execRemu d a b s
  | .and d a b => Sys2Proof.Machine.execAnd d a b s
  | .or d a b => Sys2Proof.Machine.execOr d a b s
  | .xor d a b => Sys2Proof.Machine.execXor d a b s
  | .sll d a b => Sys2Proof.Machine.execSll d a b s
  | .srl d a b => Sys2Proof.Machine.execSrl d a b s
  | .sra d a b => Sys2Proof.Machine.execSra d a b s
  | .slt d a b => Sys2Proof.Machine.execSlt d a b s
  | .sltu d a b => Sys2Proof.Machine.execSltu d a b s
  | .min d a b => Sys2Proof.Machine.execMin d a b s
  | .max d a b => Sys2Proof.Machine.execMax d a b s
  | .clz d a => Sys2Proof.Machine.execClz d a s
  | .popc d a => Sys2Proof.Machine.execPopc d a s
  | .addi d a imm => Sys2Proof.Machine.execAddi d a imm s
  | .andi d a imm => Sys2Proof.Machine.execAndi d a imm s
  | .ori d a imm => Sys2Proof.Machine.execOri d a imm s
  | .xori d a imm => Sys2Proof.Machine.execXori d a imm s
  | .slli d a imm => Sys2Proof.Machine.execSlli d a imm s
  | .srli d a imm => Sys2Proof.Machine.execSrli d a imm s
  | .srai d a imm => Sys2Proof.Machine.execSrai d a imm s
  | .slti d a imm => Sys2Proof.Machine.execSlti d a imm s
  | .ldhi d imm => Sys2Proof.Machine.execLdhi d imm s
  | .bt a c off => Sys2Proof.Machine.execBt a c off s
  | .bc a b c off => Sys2Proof.Machine.execBc a b c off s
  | .bdec a off => Sys2Proof.Machine.execBdec a off s
  | .jrel d off => Sys2Proof.Machine.execJrel d off s
  | .jind d a imm => Sys2Proof.Machine.execJind d a imm s
  | .ld d b ord scope size off => Sys2Proof.Machine.execLd d b ord scope size off s
  | .ldu d b ord scope size off => Sys2Proof.Machine.execLdu d b ord scope size off s
  | .st d b ord scope size off => Sys2Proof.Machine.execSt d b ord scope size off s
  | .amo d a b op ord scope size => Sys2Proof.Machine.execAmo d a b op ord scope size s
  | .cas d a b ord scope size => Sys2Proof.Machine.execCas d a b ord scope size s
  | .fence ord scope => Sys2Proof.Machine.execFence ord scope s
  | .apcvt d a ap => Sys2Proof.Machine.execApcvt d a ap s
  | .aptest d a ap => Sys2Proof.Machine.execAptest d a ap s
  | .waitc l st c tl => Sys2Proof.Machine.execWaitc l st c tl s
  | .waitge d a b => Sys2Proof.Machine.execWaitge d a b s
  | .taskpub d a => Sys2Proof.Machine.execTaskpub d a s
  | .taskjoin d a b => Sys2Proof.Machine.execTaskjoin d a b s
  | .taskres d a b => Sys2Proof.Machine.execTaskres d a b s
  | .etrig d a => Sys2Proof.Machine.execEtrig d a s
  | .rgnload d a b => Sys2Proof.Machine.execRgnload d a b s
  | .rgnstart d a b => Sys2Proof.Machine.execRgnstart d a b s
  | .rgnswap d a b => Sys2Proof.Machine.execRgnswap d a b s
  | .rgndrain d a => Sys2Proof.Machine.execRgndrain d a s
  | .rgnsave d a b => Sys2Proof.Machine.execRgnsave d a b s
  | .rgnrest d a b => Sys2Proof.Machine.execRgnrest d a b s
  | .rgnkill d a => Sys2Proof.Machine.execRgnkill d a s
  | .rgnconst d a b => Sys2Proof.Machine.execRgnconst d a b s
  | .chain d a b => Sys2Proof.Machine.execChain d a b s
  | .uisend a => Sys2Proof.Machine.execUisend a s
  | .uiret => Sys2Proof.Machine.execUiret s
  | .uimask d a v => Sys2Proof.Machine.execUimask d a v s
  | .uimaskEnt d a => Sys2Proof.Machine.execUimaskEnt d a s
  | .vdsleep d a => Sys2Proof.Machine.execVdsleep d a s
  | .vdquery d a b => Sys2Proof.Machine.execVdquery d a b s
  | .sysrd d n => Sys2Proof.Machine.execSysrd d n s
  | .syswr a n => Sys2Proof.Machine.execSyswr a n s
  | .sysset d a n => Sys2Proof.Machine.execSysset d a n s
  | .sysclr d a n => Sys2Proof.Machine.execSysclr d a n s
  | .trap v => Sys2Proof.Machine.execTrap v s
  | .eret => Sys2Proof.Machine.execEret s
  | .wfi => Sys2Proof.Machine.execWfi s
  | .tlbinv d a b => Sys2Proof.Machine.execTlbinv d a b s
  | .cflush a b scope => Sys2Proof.Machine.execCflush a b scope s
  | .cinv a b scope => Sys2Proof.Machine.execCinv a b scope s
  | .chainKindStop q => Sys2Proof.Machine.execChainKindStop q s
  | .copy q => Sys2Proof.Machine.execCopy q s
  | .stream q => Sys2Proof.Machine.execStream q s
  | .fill q => Sys2Proof.Machine.execFill q s
  | .scaleput q => Sys2Proof.Machine.execScaleput q s
  | .gathercopy q => Sys2Proof.Machine.execGathercopy q s
  | .reduce q => Sys2Proof.Machine.execReduce q s
  | .bcast q => Sys2Proof.Machine.execBcast q s
  | .count q => Sys2Proof.Machine.execCount q s
  | .countSatisfy q => Sys2Proof.Machine.execCountSatisfy q s
  | .link q => Sys2Proof.Machine.execLink q s
  | .nopRecord q => Sys2Proof.Machine.execNopRecord q s
  | .illegalInstruction => Sys2Proof.Machine.execIllegalInstruction s
  | .instructionFetchFault => Sys2Proof.Machine.execInstructionFetchFault s
  | .userInterruptTake t => Sys2Proof.Machine.execUserInterruptTake t s
  | .tokenArrival k => Sys2Proof.Machine.execTokenArrival k s
  | .refill r a => Sys2Proof.Machine.execRefill r a s
  | .retireToken k => Sys2Proof.Machine.execRetireToken k s
  | .windowBaseToken k => Sys2Proof.Machine.execWindowBaseToken k s
  | .loopgenEmit r a slot => Sys2Proof.Machine.execLoopgenEmit r a slot s
  | .configSwitch r a => Sys2Proof.Machine.execConfigSwitch r a s
  | .stepComplete r => Sys2Proof.Machine.execStepComplete r s
  | .memoryRequestIssue r a k => Sys2Proof.Machine.execMemoryRequestIssue r a k s
  | .memoryReply r a k => Sys2Proof.Machine.execMemoryReply r a k s
  | .storeStreamData r a x => Sys2Proof.Machine.execStoreStreamData r a x s
  | .redContribution c k => Sys2Proof.Machine.execRedContribution c k s
  | .counterWatchComplete core k => Sys2Proof.Machine.execCounterWatchComplete core k s
  | .kstepTriggerArrival core mx => Sys2Proof.Machine.execKstepTriggerArrival core mx s
  | .kstepApply core n => Sys2Proof.Machine.execKstepApply core n s
  | .accPerform core mx => Sys2Proof.Machine.execAccPerform core mx s
  | .shallocServe c p => Sys2Proof.Machine.execShallocServe c p s
  | .shldRead r a x => Sys2Proof.Machine.execShldRead r a x s
  | .shelfStarved c p => Sys2Proof.Machine.execShelfStarved c p s
  | .stageBalancer c p => Sys2Proof.Machine.execStageBalancer c p s
  | .gatewayPost k => Sys2Proof.Machine.execGatewayPost k s
  | .wfiWake t => Sys2Proof.Machine.execWfiWake t s
  | .waitgeSatisfy t => Sys2Proof.Machine.execWaitgeSatisfy t s
  | .waitcSatisfy t => Sys2Proof.Machine.execWaitcSatisfy t s
  | .taskDecrement k => Sys2Proof.Machine.execTaskDecrement k s
  | .taskPlacement c => Sys2Proof.Machine.execTaskPlacement c s
  | .taskRetirement r => Sys2Proof.Machine.execTaskRetirement r s
  | .idempotentRestart r => Sys2Proof.Machine.execIdempotentRestart r s
  | .timeSliceExpiry v => Sys2Proof.Machine.execTimeSliceExpiry v s
  | .queueNotify c v q => Sys2Proof.Machine.execQueueNotify c v q s
  | .launchSlotConsume c k => Sys2Proof.Machine.execLaunchSlotConsume c k s
  | .watchdog r => Sys2Proof.Machine.execWatchdog r s
  | .throttleStarve r => Sys2Proof.Machine.execThrottleStarve r s
  | .tstatWrite a => Sys2Proof.Machine.execTstatWrite a s
  | .uipendWrite a => Sys2Proof.Machine.execUipendWrite a s
  | .xpredWrite a => Sys2Proof.Machine.execXpredWrite a s
  | .qchanWrite q v => Sys2Proof.Machine.execQchanWrite q v s
  | .qstatWrite q v => Sys2Proof.Machine.execQstatWrite q v s
  | .streamPortDelivery p => Sys2Proof.Machine.execStreamPortDelivery p s
  | .configLoadRecord r => Sys2Proof.Machine.execConfigLoadRecord r s
  | .configLoadComplete r => Sys2Proof.Machine.execConfigLoadComplete r s
  | .preemptionRequest r => Sys2Proof.Machine.execPreemptionRequest r s
  | .drainEnd r => Sys2Proof.Machine.execDrainEnd r s
  | .bankSpill r => Sys2Proof.Machine.execBankSpill r s
  | .createVd pa => Sys2Proof.Machine.execCreateVd pa s
  | .destroyVd size v => Sys2Proof.Machine.execDestroyVd size v s
  | .wakeWrite v who size => Sys2Proof.Machine.execWakeWrite v who size s
  | .automaticCollapse v => Sys2Proof.Machine.execAutomaticCollapse v s
  | .wakeComplete v => Sys2Proof.Machine.execWakeComplete v s
  | .wakeMiss v => Sys2Proof.Machine.execWakeMiss v s
  | .predictorObservation die => Sys2Proof.Machine.execPredictorObservation die s
  | .predictorHint die => Sys2Proof.Machine.execPredictorHint die s
  | .coldReset => Sys2Proof.Machine.execColdReset s
  | .bootStage img => Sys2Proof.Machine.execBootStage img s
  | .bootStageTimeout => Sys2Proof.Machine.execBootStageTimeout s
  | .attestationRequest nonce => Sys2Proof.Machine.execAttestationRequest nonce s
  | .powerThrottle r => Sys2Proof.Machine.execPowerThrottle r s
  | .flitReceive p f => Sys2Proof.Machine.execFlitReceive p f s
  | .laneStop p l => Sys2Proof.Machine.execLaneStop p l s
  | .laneGo p l => Sys2Proof.Machine.execLaneGo p l s
  | .linkDown p => Sys2Proof.Machine.execLinkDown p s
  | .routeRewrite sw => Sys2Proof.Machine.execRouteRewrite sw s
  | .remoteAccess k => Sys2Proof.Machine.execRemoteAccess k s
  | .targetFailureDetected pkg => Sys2Proof.Machine.execTargetFailureDetected pkg s
  | .switchNode sw k fwd => Sys2Proof.Machine.execSwitchNode sw k fwd s
  | .homeNode k => Sys2Proof.Machine.execHomeNode k s
  | .contributionAck k => Sys2Proof.Machine.execContributionAck k s
  | .serdexPortDelivery p => Sys2Proof.Machine.execSerdexPortDelivery p s
  | .gangPrepareAck g m ok => Sys2Proof.Machine.execGangPrepareAck g m ok s
  | .gangGoAck g m => Sys2Proof.Machine.execGangGoAck g m s
  | .gangBoundExpiry g => Sys2Proof.Machine.execGangBoundExpiry g s
  | .gangRelaunch g => Sys2Proof.Machine.execGangRelaunch g s
  | .span t => Sys2Proof.Machine.execSpan t s
  | .winopen t => Sys2Proof.Machine.execWinopen t s
  | .winclose t => Sys2Proof.Machine.execWinclose t s
  | .gang t => Sys2Proof.Machine.execGang t s
  | .sbind t => Sys2Proof.Machine.execSbind t s
  | .qbind t => Sys2Proof.Machine.execQbind t s
  | .pbind t => Sys2Proof.Machine.execPbind t s
  | .part t => Sys2Proof.Machine.execPart t s
  | .rlist t => Sys2Proof.Machine.execRlist t s
  | .spanleave t => Sys2Proof.Machine.execSpanleave t s
  | .firmwareServiceUnknown t => Sys2Proof.Machine.execFirmwareServiceUnknown t s
  | .breakpointStop n => Sys2Proof.Machine.execBreakpointStop n s
  | .ifepelLoad v img => Sys2Proof.Machine.execIfepelLoad v img s
  | .ifepelRun task => Sys2Proof.Machine.execIfepelRun task s
  | .ifepelCont => Sys2Proof.Machine.execIfepelCont s
  | .ifepelContRegion r => Sys2Proof.Machine.execIfepelContRegion r s
  | .ifepelStep n => Sys2Proof.Machine.execIfepelStep n s
  | .ifepelBreakFire desc a slot tag => Sys2Proof.Machine.execIfepelBreakFire desc a slot tag s
  | .ifepelBreakTag tag => Sys2Proof.Machine.execIfepelBreakTag tag s
  | .ifepelBreakAddr lo len rd wr => Sys2Proof.Machine.execIfepelBreakAddr lo len rd wr s
  | .ifepelBreakEvent code => Sys2Proof.Machine.execIfepelBreakEvent code s
  | .ifepelBreakEventHold code => Sys2Proof.Machine.execIfepelBreakEventHold code s
  | .ifepelBreakPc pc => Sys2Proof.Machine.execIfepelBreakPc pc s
  | .ifepelDelete n => Sys2Proof.Machine.execIfepelDelete n s
  | .ifepelList => Sys2Proof.Machine.execIfepelList s
  | .ifepelShowMs r a => Sys2Proof.Machine.execIfepelShowMs r a s
  | .ifepelShowSlot r a slot verbose => Sys2Proof.Machine.execIfepelShowSlot r a slot verbose s
  | .ifepelShowTask va => Sys2Proof.Machine.execIfepelShowTask va s
  | .ifepelShowShelf handle x => Sys2Proof.Machine.execIfepelShowShelf handle x s
  | .ifepelShowCounter va => Sys2Proof.Machine.execIfepelShowCounter va s
  | .ifepelShowAcc core n words rows cols => Sys2Proof.Machine.execIfepelShowAcc core n words rows cols s
  | .ifepelShowMem va typed n ty => Sys2Proof.Machine.execIfepelShowMem va typed n ty s
  | .ifepelQuit => Sys2Proof.Machine.execIfepelQuit s
  | .ifepelSetSys n v => Sys2Proof.Machine.execIfepelSetSys n v s
  | .ifepelInjectAcc core n row col bit => Sys2Proof.Machine.execIfepelInjectAcc core n row col bit s
  | .ifepelStart pc => Sys2Proof.Machine.execIfepelStart pc s
  | .ifepelStepThread n => Sys2Proof.Machine.execIfepelStepThread n s
  | .ifepelShowReg rs => Sys2Proof.Machine.execIfepelShowReg rs s
  | .ifepelShowEvent => Sys2Proof.Machine.execIfepelShowEvent s
  | .ifepelWait => Sys2Proof.Machine.execIfepelWait s
  | .ifepelKill r => Sys2Proof.Machine.execIfepelKill r s
  | .ifepelRelease => Sys2Proof.Machine.execIfepelRelease s
  | .ifepelShowStream r a => Sys2Proof.Machine.execIfepelShowStream r a s
  | .ifepelShowAccum r a => Sys2Proof.Machine.execIfepelShowAccum r a s
  | .ifepelShowPte va => Sys2Proof.Machine.execIfepelShowPte va s
  | .collapseComplete v => Sys2Proof.Machine.execCollapseComplete v s
  | .threadOperationComplete t k => Sys2Proof.Machine.execThreadOperationComplete t k s
  | .uncorrectableError u => Sys2Proof.Machine.execUncorrectableError u s
  | .linkTrained p nbr => Sys2Proof.Machine.execLinkTrained p nbr s
  | .throttleLifted r => Sys2Proof.Machine.execThrottleLifted r s

end Sys2Proof.Machine
end

