-- ==== Sys2Proof/Machine/Sched.lean ====
section
/-! DEFINITION. Who moves: a thread fetches, decodes and issues (R272 to R274, R300); an element performs the firing that R101
chooses (R96, R103); a copy engine executes the record at which a queue stands (R317); or another step of the table happens,
where it is enabled. After a step the next turn is a free value (R13, log 1) and time passes by a free number of cycles
(R396, log 4). -/
namespace Sys2Proof.Machine

/-! ## Threads -/


/-- The four bytes of an instruction at a physical place. -/
def State.fetchBytes (s : State) (p : Nat) : List Byte := [s.readByte p, s.readByte (p + 1), s.readByte (p + 2), s.readByte (p + 3)]

/-- The instruction at a thread's pc, with its word: a decoded word, ILLEGAL_INSTRUCTION where the word is none
(R53, R56), or INSTRUCTION_FETCH_FAULT where the fetch faults (R273). -/
def State.fetch (s : State) (t : Nat) : Instr × BitVec 32 :=
  match s.fetchPlace t with
  | .fault _ => (.instructionFetchFault, 0)
  | .ok p _ =>
    if s.fetchMarked (s.vdOfThread t) p then (.instructionFetchFault, 0)
    else
      let word := BitVec.ofNat 32 (s.readNat p 4)
      match decodeBytes (s.fetchBytes p) with
      | .ok (i, _) => (i, word)
      | .error _ => (.illegalInstruction, word)

/-- A thread issues the instruction at its pc, or takes an open interrupt where that instruction raises no trap (R300). -/
def issueThread (s : State) (t : Nat) : Out :=
  let f := s.fetch t
  let s1 := { s with cur := { t := t, word := f.2 } }
  let o := exec f.1 s1
  if (s.thread t).interruptOpen then
    match o with
    | .next s' => if trapped s s' t then o else exec (.userInterruptTake t) s1
    | _ => o
  else o

/-- A thread's turn: a thread that waits, that `ifepel` holds (R305), or that waits for a firmware service (R362) does not issue. -/
def stepThread (s : State) (t : Nat) : Out :=
  if 64 ≤ t then .fault .noSuchUnit
  else if (s.thread t).run != .running || s.threadHeld t || s.inService t then .next s
  else match s.threadStop t with
    | some s' => .next s'
    | none => match issueThread s t with
      | .next s' => .next (s.noteIssue s' t (s.fetch t).2)
      | o => o

/-! ## Elements -/

/-- A firing is performed: its slot's planes decode to the instruction, a reserved opcode is an illegal instruction (R49), and
an uncorrectable plane or channel entry stops the slot (R110). -/
def fireSite (s : State) (x : Site) : Out :=
  let s := { s with site := x }
  let p := (s.elem x.r x.a).planes x.slot
  if s.badPlanes x then .next ((s.siteFault fcUncorrectable (elemPoison x.a).toNat 0).stopSlotAt x.r x.a x.slot)
  else match decodeSlot p.op p.route p.const with
    | .ok i => exec i s
    | .error _ => exec .illegalInstruction s

/-- An element's turn: it performs the firing that R101 chooses, unless `ifepel` stops the region before the set is
consumed. -/
def stepElement (s : State) (r a : Nat) : Out :=
  if 256 ≤ r || 65536 ≤ a then .fault .noSuchUnit
  else if !s.regionGoes r then .next s
  else match s.nextFiring r a with
    | none => .next s
    | some x => match s.fireStop x with
      | some k => .next (s.stopFiring x k)
      | none => match fireSite s x with
        | .next s' => .next (s'.passFiring x)
        | o => o

/-! ## Copy engines -/

/-- The instruction of a queue at the record where it stands. -/
def State.recordInstr (s : State) (q : Nat) : Instr :=
  match s.fetchRec q with
  | .inr _ => .chainKindStop q
  | .inl d => match byteAt d 0 with
    | 1 => .copy q
    | 2 => .stream q
    | 3 => .fill q
    | 4 => .scaleput q
    | 5 => .gathercopy q
    | 6 => .reduce q
    | 7 => .bcast q
    | 8 => if (s.queue q).begun then .countSatisfy q else .count q
    | 9 => .link q
    | 10 => .nopRecord q
    | _ => .chainKindStop q

/-- A queue's turn. -/
def stepEngine (s : State) (q : Nat) : Out :=
  if 2048 ≤ q then .fault .noSuchUnit
  else if !s.queueRuns q then .next s
  else if s.recAsleep q then .next (s.rouseRec q)
  else exec (s.recordInstr q) s

/-! ## The other steps of the table -/

/-- The rows that happen by themselves: not a control-core word, not a slot, not a record kind, and not what a fetch or a
firing makes of bad bits. -/
def isStep (i : Instr) : Bool :=
  (encodeWord i).isNone && (encodeSlot i).isNone && (match i with
    | .illegalInstruction | .instructionFetchFault | .copy _ | .stream _ | .fill _ | .scaleput _ | .gathercopy _ | .reduce _
    | .bcast _ | .count _ | .countSatisfy _ | .link _ | .nopRecord _ | .chainKindStop _ => false
    | _ => true)

/-- A step of the table, where it is enabled. A running thread takes its interrupts at its own turn (R300). -/
def stepEvent (s : State) (i : Instr) : Out :=
  if !isStep i then .next s
  else match i with
    | .userInterruptTake t => if (s.thread t).run == .running then .next s else exec i s
    | _ => exec i s

/-! ## Minimal mode (R354) -/

/-- The steps of the table that cluster 0, the management core and the host port take in minimal mode. -/
def minimalEvent (i : Instr) : Bool :=
  match i with
  | .coldReset | .bootStage _ => true
  | .waitcSatisfy t | .waitgeSatisfy t | .wfiWake t | .userInterruptTake t | .threadOperationComplete t _ => decide (t < 16)
  | .uncorrectableError _ | .powerThrottle _ | .throttleLifted _ | .attestationRequest _ => true
  | _ => false

/-- Whether a turn may be taken: in minimal mode only cluster 0 runs, with no region, no engine and no link. -/
def State.mayTurn (s : State) (t : Turn) : Bool :=
  s.boot != .minimal || (match t with
    | .thread t => decide (t < 16)
    | .event i => minimalEvent i
    | _ => false)

/-! ## Time (R239, R268, R270, R345) -/

/-- Whether the cycles of a region are eligible (R270): placed and running, not stopped, not swapped out, not throttled, and
with no record held (R340). -/
def State.eligible (s : State) (r : Nat) (x : RegionState) : Bool :=
  x.live && x.status == .running && !x.dbgStop && x.activeNow && !x.throttled && !(s.dbg.hold.any fun h => h.r == some r)

/-- The counters of a region after `n` cycles; progress zeroes both. -/
def State.tickRegion (s : State) (n r : Nat) (x : RegionState) : RegionState :=
  if x.progress then { x with progress := false, eligible := 0, throttledC := 0 }
  else if s.eligible r x then { x with eligible := x.eligible + n }
  else if x.live && x.status == .running && x.throttled then { x with throttledC := x.throttledC + n }
  else x

/-- The counters of a partition of cluster `c` after `n` cycles. -/
def State.tickPart (s : State) (n c p : Nat) (x : Partition) : Partition :=
  let l := s.naming c p
  let parked := fun (r : Nat) => x.queue.any fun q => q.r == r && q.elem != noElem
  if !(l.any fun r => s.eligible r (s.region r)) then x
  else
    { x with
      period := x.period + n
      parkedC := if x.queue.isEmpty then x.parkedC else x.parkedC + n
      starve := if x.queue.isEmpty || l.any fun r => !parked r && (s.region r).progress then 0 else x.starve + n }

/-- The passing of `n` cycles. -/
def State.tick (s : State) (n : Nat) : State :=
  { s with
    clusters := s.clusters.map fun c =>
      (c.1, { c.2 with parts := c.2.parts.map fun p => (p.1, if p.2.live then s.tickPart n c.1 p.1 p.2 else p.2) })
    regions := s.regions.map fun q => (q.1, s.tickRegion n q.1 q.2)
    vds := s.vds.map fun v => (v.1, if v.2.live then { v.2 with idleC := if s.idleVd v.1 then v.2.idleC + n else 0 } else v.2)
    clock := s.clock + n }

/-- The end of a step: what `ifepel` prints, the passing of time (R396), the next turn (R13). -/
def finish (s : State) : State :=
  let s := s.settleDebug.tick (Config.elapsed s.free)
  { s with turn := Config.schedule s.free, free := s.free + 1 }

/-- One step of the machine. -/
def stepTurn (s : State) : Out :=
  let o := if !s.mayTurn s.turn then .next s else match s.turn with
    | .thread t => stepThread s t
    | .element r a => stepElement s r a
    | .engine q => stepEngine s q
    | .event i => stepEvent s i
  match o with
  | .next s' => .next (finish s')
  | .fault f => .fault f
  | .refused r => .refused r

/-- The state with an instruction stored where thread 0 fetches next, and thread 0's turn: the bytes of the word go
to the place its pc resolves to. -/
def placeWord (s : State) (w : Nat) : State :=
  match s.fetchPlace 0 with
  | .ok p _ => { s.writeNat p 4 w with turn := .thread 0 }
  | .fault _ => { s with turn := .thread 0 }

end Sys2Proof.Machine
end

