-- ==== Sys2Proof/Safety.lean ====
section
/-! DEFINITION. What counts as a safe run, and the words in which the claims are stated: what a thread's instruction
leaves unchanged, and the results that the rules give, written from the rules and not from the model's meanings. -/
namespace Sys2Proof

/-- A state whose memory is in canonical form. -/
def Safe (s : Machine.State) : Prop := Machine.Memory.wf s.mem = true

/-- A run of `k` steps that ends in a next state. -/
def Runs (k : Nat) (s s' : Machine.State) : Prop := Host.Core.run core k s = .next s'

namespace Claims
open Sys2Proof.Machine

/-! ## What an instruction of a thread leaves unchanged -/

/-- The registers are not busy (R274). -/
def Idle (s : State) (rs : List Reg) : Prop := ∀ r ∈ rs, s.me.isBusy r = false

/-- The registers hold no poison (R275). -/
def Clean (s : State) (rs : List Reg) : Prop := ∀ r ∈ rs, s.me.poisoned r = false

/-- `u` differs from `s` in the issuing thread alone: every byte of memory, every device, core, region and queue, and
every other thread is as before. -/
structure OnlyMe (s u : State) : Prop where
  rest : u = { s with threads := u.threads }
  bytes : ∀ a, u.readByte a = s.readByte a
  others : ∀ k, k ≠ s.cur.t → u.thread k = s.thread k

/-- The issuing thread wrote `v` to `d` (g0 ignores writes), with poison `p`, and stands at `pc`; its other registers and
everything else it holds are as before. -/
structure Wrote (s u : State) (d : Reg) (v : Word) (p : Bool) (pc : Word) : Prop where
  only : OnlyMe s u
  pc : u.me.pc = pc
  dest : u.me.reg d = if d = 0 then 0 else v
  poison : u.me.poisoned d = (d != 0 && p)
  regs : ∀ q, q ≠ d → u.me.reg q = s.me.reg q
  poisons : ∀ q, q ≠ d → u.me.poisoned q = s.me.poisoned q
  thread : u.me = { s.me with regs := u.me.regs, poison := u.me.poison, pc := u.me.pc }

/-- The issuing thread stands at `pc` and nothing else changed. -/
structure Went (s u : State) (pc : Word) : Prop where
  only : OnlyMe s u
  thread : u.me = { s.me with pc := pc }

/-- The instruction completes: the issuing thread writes `v` to `d` and goes on behind it. -/
def Completes (i : Instr) (s : State) (d : Reg) (v : Word) (p : Bool) : Prop :=
  ∃ u, exec i s = .next u ∧ Wrote s u d v p (s.me.pc + 4)

/-- The instruction traps with a code and info, epc at the instruction, and does nothing else (R56, R277). -/
def Traps (i : Instr) (s : State) (code : Nat) (info : Word) : Prop :=
  exec i s = .next (s.takeTrap s.cur.t code info s.me.pc s.cur.word)

/-- The instruction waits: the state is as before, and the thread issues it again. -/
def Stalls (i : Instr) (s : State) : Prop := exec i s = .next s

/-! ## Register, immediate and divide results (R278 to R281) -/

/-- Leading zeros of a 64-bit value. -/
def leadingZeros (v : Word) : Nat := if v = 0 then 64 else 63 - Nat.log2 v.toNat

/-- Destination, sources and result of the register forms that have no side effect (R278). -/
def aluResult (s : State) : Instr → Option (Reg × List Reg × Word)
  | .add d a b => some (d, [a, b], BitVec.ofNat 64 ((s.g a).toNat + (s.g b).toNat))
  | .sub d a b => some (d, [a, b], BitVec.ofInt 64 ((s.g a).toInt - (s.g b).toInt))
  | .mul d a b => some (d, [a, b], BitVec.ofNat 64 ((s.g a).toNat * (s.g b).toNat))
  | .mulh d a b => some (d, [a, b], (BitVec.ofInt 128 ((s.g a).toInt * (s.g b).toInt)).extractLsb' 64 64)
  | .and d a b => some (d, [a, b], s.g a &&& s.g b)
  | .or d a b => some (d, [a, b], s.g a ||| s.g b)
  | .xor d a b => some (d, [a, b], s.g a ^^^ s.g b)
  | .sll d a b => some (d, [a, b], BitVec.ofNat 64 ((s.g a).toNat * 2 ^ ((s.g b).toNat % 64)))
  | .srl d a b => some (d, [a, b], BitVec.ofNat 64 ((s.g a).toNat / 2 ^ ((s.g b).toNat % 64)))
  | .sra d a b => some (d, [a, b], BitVec.ofInt 64 ((s.g a).toInt / 2 ^ ((s.g b).toNat % 64)))
  | .slt d a b => some (d, [a, b], if (s.g a).toInt < (s.g b).toInt then 1 else 0)
  | .sltu d a b => some (d, [a, b], if (s.g a).toNat < (s.g b).toNat then 1 else 0)
  | .min d a b => some (d, [a, b], BitVec.ofInt 64 (min (s.g a).toInt (s.g b).toInt))
  | .max d a b => some (d, [a, b], BitVec.ofInt 64 (max (s.g a).toInt (s.g b).toInt))
  | .clz d a => some (d, [a], BitVec.ofNat 64 (leadingZeros (s.g a)))
  | .popc d a => some (d, [a], BitVec.ofNat 64 ((List.range 64).countP fun k => (s.g a).getLsbD k))
  | _ => none

/-- Destination, source and result of the immediate forms within their limits (R280, R281). -/
def immResult (s : State) : Instr → Option (Reg × List Reg × Word)
  | .addi d a v => some (d, [a], BitVec.ofInt 64 ((s.g a).toInt + v.toInt))
  | .andi d a v => some (d, [a], s.g a &&& BitVec.ofInt 64 v.toInt)
  | .ori d a v => some (d, [a], s.g a ||| BitVec.ofInt 64 v.toInt)
  | .xori d a v => some (d, [a], s.g a ^^^ BitVec.ofInt 64 v.toInt)
  | .slti d a v => some (d, [a], if (s.g a).toInt < v.toInt then 1 else 0)
  | .slli d a v => if v.toNat ≤ 63 then some (d, [a], BitVec.ofNat 64 ((s.g a).toNat * 2 ^ v.toNat)) else none
  | .srli d a v => if v.toNat ≤ 63 then some (d, [a], BitVec.ofNat 64 ((s.g a).toNat / 2 ^ v.toNat)) else none
  | .srai d a v => if v.toNat ≤ 63 then some (d, [a], BitVec.ofInt 64 ((s.g a).toInt / 2 ^ v.toNat)) else none
  | .ldhi d v => some (d, [], BitVec.ofInt 64 (v.toInt * 2 ^ 15))
  | _ => none

/-- Signed quotient and remainder with their corners (R279, R117). -/
def signedDiv (a b : Word) : Word × Word :=
  if b = 0 then (BitVec.allOnes 64, a)
  else if a.toInt = -2 ^ 63 ∧ b.toInt = -1 then (a, 0)
  else (BitVec.ofInt 64 (a.toInt.tdiv b.toInt), BitVec.ofInt 64 (a.toInt.tmod b.toInt))

/-- Unsigned quotient and remainder (R279, R117). -/
def unsignedDiv (a b : Word) : Word × Word :=
  if b = 0 then (BitVec.allOnes 64, a)
  else (BitVec.ofNat 64 (a.toNat / b.toNat), BitVec.ofNat 64 (a.toNat % b.toNat))

/-- Destination, sources and result of the divisions (R278, R279). -/
def divResult (s : State) : Instr → Option (Reg × Reg × Reg × Word)
  | .div d a b => some (d, a, b, (signedDiv (s.g a) (s.g b)).1)
  | .rem d a b => some (d, a, b, (signedDiv (s.g a) (s.g b)).2)
  | .divu d a b => some (d, a, b, (unsignedDiv (s.g a) (s.g b)).1)
  | .remu d a b => some (d, a, b, (unsignedDiv (s.g a) (s.g b)).2)
  | _ => none

/-! ## Branches and jumps (R282) -/

/-- The test conditions. -/
def TestHolds (c : BitVec 3) (v : Word) : Prop :=
  (c = 0 ∧ v.toNat = 0) ∨ (c = 1 ∧ v.toNat ≠ 0) ∨ (c = 2 ∧ v.toInt < 0) ∨ (c = 3 ∧ 0 ≤ v.toInt) ∨
    (c = 4 ∧ 0 < v.toInt) ∨ (c = 5 ∧ v.toInt ≤ 0) ∨ (c = 6 ∧ v.toNat % 2 = 1) ∨ (c = 7 ∧ v.toNat % 2 = 0)

/-- The compare conditions. -/
def CompareHolds (c : BitVec 3) (a b : Word) : Prop :=
  (c = 0 ∧ a.toNat = b.toNat) ∨ (c = 1 ∧ a.toNat ≠ b.toNat) ∨ (c = 2 ∧ a.toInt < b.toInt) ∨
    (c = 3 ∧ b.toInt ≤ a.toInt) ∨ (c = 4 ∧ a.toNat < b.toNat) ∨ (c = 5 ∧ b.toNat ≤ a.toNat) ∨
    (c = 6 ∧ ∃ k, a.getLsbD k = true ∧ b.getLsbD k = true) ∨ (c = 7 ∧ ∀ k, a.getLsbD k = true → b.getLsbD k = false)

/-- Address of the branch + 4 × offset. -/
def targetOf {n : Nat} (pc : Word) (off : BitVec n) : Word := BitVec.ofInt 64 (pc.toInt + 4 * off.toInt)

/-! ## Accesses of a thread (R283 to R286) -/

/-- An access of a thread as its issue leaves it: the kind of operation, the register that will be written, address,
bytes, what the access does, the registers it uses and those whose poison it checks. -/
structure Access where
  kind  : Nat → ThreadOpKind
  dest  : Reg
  addr  : Word
  bytes : Nat
  does  : List Kind
  used  : List Reg
  clean : List Reg
  ord   : Nat
  scope : Nat
  store : Bool

/-- The accesses of the table within their limits (R54, R55, R283, R286). The address of LD, LDU and ST is ga + offset ×
size, that of AMO and CAS is ga. -/
def accessOf (s : State) : Instr → Option Access
  | .ld d b ord scope size off => if ord.toNat ≤ 1 ∧ scope.toNat ≤ 5 then
      some ⟨fun p => .load p (2 ^ size.toNat) true, d, BitVec.ofInt 64 ((s.g b).toInt + off.toInt * 2 ^ size.toNat),
        2 ^ size.toNat, [.rd], [d, b], [b], ord.toNat, scope.toNat, false⟩ else none
  | .ldu d b ord scope size off => if ord.toNat ≤ 1 ∧ scope.toNat ≤ 5 ∧ size.toNat ≤ 2 then
      some ⟨fun p => .load p (2 ^ size.toNat) false, d, BitVec.ofInt 64 ((s.g b).toInt + off.toInt * 2 ^ size.toNat),
        2 ^ size.toNat, [.rd], [d, b], [b], ord.toNat, scope.toNat, false⟩ else none
  | .st d b ord scope size off => if (ord.toNat = 0 ∨ ord.toNat = 2) ∧ scope.toNat ≤ 5 then
      some ⟨fun p => .store p (2 ^ size.toNat) (s.g d), 0, BitVec.ofInt 64 ((s.g b).toInt + off.toInt * 2 ^ size.toNat),
        2 ^ size.toNat, [.wr], [d, b], [b, d], ord.toNat, scope.toNat, true⟩ else none
  | .amo d a b op ord scope size => if op.toNat ≤ 6 ∧ scope.toNat ≤ 5 ∧ 2 ≤ size.toNat then
      some ⟨fun p => .amo op.toNat p (2 ^ size.toNat) (s.g b), d, s.g a, 2 ^ size.toNat, [.rd, .wr], [d, a, b], [a, b],
        ord.toNat, scope.toNat, false⟩ else none
  | .cas d a b ord scope size => if scope.toNat ≤ 5 ∧ 2 ≤ size.toNat then
      some ⟨fun p => .cas p (2 ^ size.toNat) (s.g b) (s.g d), d, s.g a, 2 ^ size.toNat, [.rd, .wr], [d, a, b], [a, b],
        ord.toNat, scope.toNat, false⟩ else none
  | _ => none

/-- The place of an access, where the thread may make it in every way asked (R284). -/
def At (s : State) (x : Access) (p : Nat) : Prop := ∃ t, s.locateAll s.whoMe x.addr x.does = .ok p t

/-- Sign or zero extension of the low `n` bytes of a number to 64 bits. -/
def extend (n : Nat) (signed : Bool) (v : Nat) : Word :=
  if signed ∧ 2 ^ (8 * n - 1) ≤ v % 2 ^ (8 * n) then BitVec.ofInt 64 ((v % 2 ^ (8 * n) : Nat) - 2 ^ (8 * n)) else BitVec.ofNat 64 (v % 2 ^ (8 * n))

/-- New value of an AMO on `n` bytes (R286): `old` and `b` are its low bytes, read signed for minimum and maximum. -/
def amoResult (op n old b : Nat) : Nat :=
  let m := 2 ^ (8 * n)
  let sg := fun (x : Nat) => if 2 * (x % m) < m then ((x % m : Nat) : Int) else ((x % m : Nat) : Int) - m
  match op with
  | 0 => b % m
  | 1 => (old + b) % m
  | 2 => (old % m) &&& (b % m)
  | 3 => (old % m) ||| (b % m)
  | 4 => (old % m) ^^^ (b % m)
  | 5 => if sg b < sg old then b % m else old % m
  | _ => if sg old < sg b then b % m else old % m

/-- Operation `k` of thread `t` ends: `v` goes to the destination `d`, whose busy bit clears, and the operation leaves the
list (R274, R275, R292); the pc and everything else of the thread stay. -/
structure Ended (s u : State) (t k : Nat) (d : Reg) (v : Word) (p : Bool) : Prop where
  ops : (u.thread t).ops = (s.thread t).ops.eraseIdx k
  dest : (u.thread t).reg d = if d = 0 then 0 else v
  poison : (u.thread t).poisoned d = (d != 0 && p)
  busy : (u.thread t).isBusy d = false
  regs : ∀ q, q ≠ d → (u.thread t).reg q = (s.thread t).reg q
  busies : ∀ q, q ≠ d → (u.thread t).isBusy q = (s.thread t).isBusy q
  poisons : ∀ q, q ≠ d → (u.thread t).poisoned q = (s.thread t).poisoned q
  others : ∀ j, j ≠ t → u.thread j = s.thread j
  thread : u.thread t = { s.thread t with regs := (u.thread t).regs, poison := (u.thread t).poison,
                                          busy := (u.thread t).busy, ops := (u.thread t).ops }

/-! ## Releases and acquires (R188, R384, R387) -/

/-- A note of a write is the same write: its bytes, what it wrote, and when. -/
def SameWrite (g h : Unseen) : Prop := g.p = h.p ∧ g.n = h.n ∧ g.new = h.new ∧ g.time = h.time

/-- The writes of agent `x` that others need not see yet are performed at scope `sc` of it (R188, R287). -/
def Performed (s u : State) (x : Agent) (sc : Nat) : Prop :=
  ∀ h ∈ s.unseen, h.n ≠ 0 → h.who.meets x = true → ∃ g ∈ u.unseen, SameWrite g h ∧ (x, sc) ∈ g.scopes

/-- A release of agent `x` at scope `sc`, of everything that happens before now. -/
def IsRelease (s : State) (x : Agent) (sc : Nat) (y : Release) : Prop :=
  y.who = x ∧ y.scope = sc ∧ ∃ t, s.free ≤ t ∧ (x, t) ∈ y.past

/-- Agent `x` released at scope `sc`: its writes are performed there, and the newest write, its own to `n` bytes at `p`, carries the
release, which a reader of its value synchronises with (R384). -/
def ReleasedBy (s u : State) (x : Agent) (sc p n : Nat) : Prop :=
  Performed s u x sc ∧ ∃ g l y, u.unseen = g :: l ∧ g.p = p ∧ g.n = n ∧ g.who = x ∧ (x, sc) ∈ g.scopes ∧ y ∈ g.sync ∧ IsRelease s x sc y

/-- Agent `x` has learned of the writes of the past `l`: of those that others need not see yet, none is lost, and it must see each. -/
def Learned (s u : State) (x : Agent) (l : Past) : Prop :=
  ∀ h ∈ s.unseen, h.n ≠ 0 → h.inPast l = true → ∃ g ∈ u.unseen, SameWrite g h ∧ g.known x = true

/-- Agent `x` acquired at scope `sc` of the releases whose values it has read: where each of the two scopes holds the other agent, it
has learned of what was released (R384). -/
def Acquired (s u : State) (x : Agent) (sc : Nat) (rel : List Release) : Prop :=
  ∀ y ∈ rel, s.liesIn x y.scope y.who = true → s.liesIn y.who sc x = true → Learned s u x y.past

/-- Agent `x` acquired at cluster scope what the seal of tile `t` of the shelf of cluster `cl` released, the tile's bytes (R235, R389). -/
def TileAcquired (s u : State) (x : Agent) (cl : Nat) (t : Tile) : Prop :=
  ∀ h ∈ s.unseen, h.n ≠ 0 → h.inPast t.past = true →
    overlap (h.p, h.n) (pa (spA (24 * cl + t.core)) (4096 * t.gran), 4096 * t.size) = true → ∃ g ∈ u.unseen, SameWrite g h ∧ g.known x = true

/-! ## Traps (R276, R277) -/

/-- A trap frame can be written and the entry fetched at level `T` for thread `t` (R276, R277): the vector `v`, and the
physical place `p` of the frame, both from the thread control block as the thread's own stores leave it (R285). -/
def CanEnter (s : State) (t T : Nat) (v : Word) (p : Nat) : Prop :=
  s.ownNat t (tcb t + if T = 1 then 0 else 8) 8 = v.toNat ∧ v ≠ 0 ∧ v.toNat % 4 = 0 ∧
    s.ownNat t (tcb t + if T = 1 then 0x10 else 0x18) 8 % 64 = 0 ∧
    (∃ q x, s.resolve (s.whoAt t T) v .fetch = .ok q x) ∧
    ∃ x, s.resolve (s.whoAt t T) (BitVec.ofNat 64 (s.ownNat t (tcb t + if T = 1 then 0x10 else 0x18) 8)) .wr = .ok p x

/-- No breakpoint of `ifepel` is set. -/
def NoBreaks (s : State) : Prop := s.dbg.breaks = []

/-- The event record of a thread's trap as a number (R65, R277): code, rank, element 0xFFFF, tag 0, slot 0xFF, info. -/
def trapRecord (s : State) (t code : Nat) (info : Word) : Nat :=
  let rank := if (s.thread t).level = 0 then (s.thread t).hrank.toNat % 8 else if (s.thread t).level = 1 then 4 else 6
  code + rank * 2 ^ 8 + 0xFFFF * 2 ^ 16 + 0xFF * 2 ^ 56 + info.toNat * 2 ^ 64

/-- Thread `t` stands at the entry `v` of level `T`, its registers as before, with the frame of R276 at `p`, released at cluster scope;
no other byte and nothing else changed. -/
structure Entered (s u : State) (t T : Nat) (v : Word) (p record : Nat) (epc : Word) (word : BitVec 32) : Prop where
  thread : u.thread t = { s.thread t with level := BitVec.ofNat 2 T, pc := v, run := .running }
  others : ∀ k, k ≠ t → u.thread k = s.thread k
  epc : Memory.readN u.mem p 8 = epc.toNat
  prev : Memory.readN u.mem (p + 8) 1 = (s.thread t).level.toNat
  zero1 : Memory.readN u.mem (p + 9) 7 = 0
  record : Memory.readN u.mem (p + 0x10) 32 = record
  word : Memory.readN u.mem (p + 0x30) 4 = word.toNat
  zero2 : Memory.readN u.mem (p + 0x34) 12 = 0
  bytes : ∀ a, a < p ∨ p + 64 ≤ a → u.readByte a = s.readByte a
  released : ReleasedBy s u (.thread t) 2 p 64
  rest : u = { s with threads := u.threads, mem := u.mem, unseen := u.unseen, poison := u.poison }
  marks : ∀ l, l ∈ u.poison ↔ l ∈ s.poison ∧ 64 * l ≠ p

/-- Info of a trap (R277): the address of Misaligned, PageFault and AccessFault, the pc of an instruction whose line is marked, and
0 for every other code. -/
def infoOf (code : Nat) (a : Word) : Word := if code ∈ [0x05, 0x06, 0x07, 0x10] then a else 0

/-- Memory operation `k` of thread `t` need wait for no earlier one: none is an acquire, none meets its bytes, and where it
is a release none is an access (R285). -/
def MayGo (s : State) (t k : Nat) (o : ThreadOp) (p n : Nat) : Prop :=
  ∀ j y, j < k → (s.thread t).ops[j]? = some y → y.ord % 2 = 0 ∧
    ∀ q m, y.range = some (q, m) → o.ord < 2 ∧ (q + m ≤ p ∨ p + n ≤ q)

/-- Operation `k` of thread `t`, on `n` bytes at `p`, can be performed: no earlier one stands before it, its line holds no diverted
value (R375), and its place is awake and has its path (R350, R360, R364). -/
structure CanPerform (s : State) (t k : Nat) (o : ThreadOp) (p n : Nat) : Prop where
  bound : t < 64
  op : (s.thread t).ops[k]? = some o
  order : MayGo s t k o p n
  line : s.divertWait (s.vdOfThread t) o.ea.toNat = false
  awake : s.asleep (s.vdOfThread t) o = none
  path : s.lost (s.vdOfThread t) o = none

/-- The `n` bytes at `p` hold the number `v`, every other byte and everything but threads, memory and what the other agents need
not see yet (R385) is as before. -/
structure Stored (s u : State) (p n v : Nat) : Prop where
  value : Memory.readN u.mem p n = v % 2 ^ (8 * n)
  bytes : ∀ a, a < p ∨ p + n ≤ a → u.readByte a = s.readByte a
  rest : u = { s with threads := u.threads, mem := u.mem, unseen := u.unseen }

/-! ## System registers (R57, R108, R255, R256) -/

/-- Read and write levels of the system registers (R57): 0 user, 1 supervisor; none where a register cannot be written. -/
def sysLevels : Nat → Option (Nat × Option Nat)
  | 0x001 => some (0, some 1)
  | 0x002 => some (0, some 1)
  | 0x003 => some (1, some 1)
  | 0x004 => some (0, some 0)
  | 0x005 => some (1, some 1)
  | 0x006 => some (1, some 1)
  | 0x010 => some (0, some 0)
  | 0x020 => some (1, none)
  | 0x030 => some (0, some 0)
  | 0x040 => some (0, some 1)
  | 0x050 => some (0, some 1)
  | 0x051 => some (1, some 1)
  | _ => none

/-- A register that is held per thread, as a 64-bit value (R255, R256, R108). -/
def threadReg (x : ThreadState) : Nat → Option Word
  | 0x001 => some (BitVec.ofNat 64 x.tagwin.toNat)
  | 0x002 => some (BitVec.ofNat 64 x.hrank.toNat)
  | 0x003 => some x.fedge
  | 0x004 => some (BitVec.ofNat 64 x.msquota.toNat)
  | 0x005 => some (BitVec.ofNat 64 x.wdlim.toNat)
  | 0x006 => some (BitVec.ofNat 64 x.thlim.toNat)
  | 0x030 => some (BitVec.ofNat 64 x.uipend.toNat)
  | _ => none

/-- The thread with RW register `n` set to `v` (R108, R256): none for a value that breaks a stated limit or sets a reserved
bit, and for another register. -/
def setThreadReg (x : ThreadState) (n : Nat) (v : Word) : Option ThreadState :=
  match n with
  | 0x001 => if 1 ≤ v.toNat ∧ v.toNat ≤ 256 then some { x with tagwin := BitVec.ofNat 32 v.toNat } else none
  | 0x002 => if v.toNat < 8 then some { x with hrank := BitVec.ofNat 32 v.toNat } else none
  | 0x003 => some { x with fedge := v }
  | 0x004 => if 1 ≤ v.toNat ∧ v.toNat ≤ 64 then some { x with msquota := BitVec.ofNat 32 v.toNat } else none
  | 0x005 => if v.toNat < 2 ^ 32 then some { x with wdlim := BitVec.ofNat 32 v.toNat } else none
  | 0x006 => if v.toNat < 2 ^ 32 then some { x with thlim := BitVec.ofNat 32 v.toNat } else none
  | _ => none

/-- The bits of a register's RW field. -/
def fieldBits : Nat → Word
  | 0x001 => 0x1FF
  | 0x002 => 7
  | 0x003 => BitVec.allOnes 64
  | 0x004 => 0x7F
  | _ => 0xFFFFFFFF

/-- The scale causes that TSTAT shows (R257): cause `k` stands in the scale status word of some core of the device in the
cluster. -/
def ScaleShown (s : State) (c vd k : Nat) : Prop :=
  s.vdOfCluster c = vd ∧ ∃ j < 24, (s.core (24 * c + j)).scaleStatus.getLsbD k = true

/-! ## VDSTATE and BOOTSTAT (R345, R355) -/

/-- VDSTATE of a device: state in [2:0], wake class in [5:4], pinned in [6], debug in [7], number in [23:14], idle in [31:24]. -/
def vdstateOf (s : State) (v : Nat) : Word :=
  BitVec.ofNat 64 ((match (s.vd v).mode with
    | .active => 0 | .collapsing => 1 | .dormant => 2 | .waking => 3) + 16 * (s.vd v).wclass +
    (if (s.vd v).pinned then 64 else 0) + (if (s.vd v).debug then 128 else 0) + 2 ^ 14 * v + 2 ^ 24 * (s.vd v).idle)

/-- BOOTSTAT: the failed starts in [1:0], minimal mode in [4], the three causes from [8] on. -/
def bootstatOf (s : State) : Word :=
  let cause := fun (k : Nat) => ((s.causes[k]?).getD 0).toNat
  BitVec.ofNat 64 (s.fails % 4 + (if s.boot = .minimal then 16 else 0) + 2 ^ 8 * cause 0 + 2 ^ 16 * cause 1 + 2 ^ 24 * cause 2)

/-! ## Apertures (R164, R196, R288) -/

/-- An address of aperture 0xFD with no reserved bit set, of a core of the cluster. -/
def ClusterForm (v : Nat) : Prop := v / 2 ^ 56 = 0xFD ∧ v / 2 ^ 29 % 2 ^ 27 = 0 ∧ v / 2 ^ 21 % 8 = 0 ∧ v / 2 ^ 24 % 32 < 24

/-- A translated address whose page, as the die of cluster `c` translates it for the device, has target `k`: 0 die HBM, 1 commons,
2 pod-remote. -/
def PageIn (s : State) (c vd v k : Nat) : Prop :=
  v / 2 ^ 56 = 0 ∧ ∃ e l, s.leafOf (dieOfCluster c) vd (v % 2 ^ 56) = .leaf e l ∧ e / 2 ^ 62 % 4 = k

/-! ## Task records (R58, R59, R258) -/

/-- The 64 bytes of a task record at generic address `a` lie at the physical place `p`, where the hardware reads and writes
them for the device, whatever the record holds. -/
structure RecordAt (s : State) (w : Who) (a : Word) (p : Nat) : Prop where
  aligned : a.toNat % 64 = 0
  plain : ∀ o, o < 64 → isMgmt (p + o) = false
  clean : ∀ o, o < 64 → s.poisoned (p + o) = false
  place : ∀ (m : List Host.Cell) (hs : List TaskHome) o, o < 64 →
    (∀ b, b < p ∨ p + 64 ≤ b → Memory.read m b = Memory.read s.mem b) →
    ∀ k, ∃ x, ({ s with mem := m, homes := hs } : State).resolve w (BitVec.ofNat 64 (a.toNat + o)) k = .ok (p + o) x

/-- Bits of a state word: state, whether it can be acted on (R59). -/
def WordOf (s : State) (p st : Nat) : Prop :=
  s.readNat p 4 % 16 = st ∧ st ≤ 7 ∧ s.readNat p 4 / 2 ^ 7 % 2 = 0

/-- The cluster whose task machine acts on a record for the issuing thread: its home, or the thread's own (R258). -/
def homeOfMine (s : State) (a : Word) : Nat := s.homeCluster (s.vdOfThread s.cur.t) (clusterOfThread s.cur.t) a

/-- The party on whose behalf that task machine reads and writes the record. -/
def homeWho (s : State) (a : Word) : Who := hwWho (s.vdOfThread s.cur.t) (homeOfMine s a)

/-- Task `q` is one that a new task of the ranges `x` waits for (R261): it holds an entry of the table, is PENDING, READY or RUNNING,
and a read range meets what it writes, or a written range any of its ranges. -/
def WaitsFor (s : State) (vd c : Nat) (x : TileSet) (q : Word) : Prop :=
  (∃ e ∈ (s.cluster c).deps, e.vd = vd ∧ e.task = q ∧
    ((e.write = true ∧ ∃ r ∈ x.reads, overlap r (e.lo, e.len) = true) ∨ ∃ r ∈ x.writes, overlap r (e.lo, e.len) = true)) ∧
  ∃ wd, s.taskWord (hwWho vd c) q = .ok wd ∧ wd % 16 ∈ [1, 2, 3]

/-- What a task instruction leaves of the thread: the result word in `d`, pc + 4. -/
structure Answered (s u : State) (d : Reg) (v : Nat) : Prop where
  pc : u.me.pc = s.me.pc + 4
  dest : u.me.reg d = if d = 0 then 0 else BitVec.ofNat 64 v
  regs : ∀ q, q ≠ d → u.me.reg q = s.me.reg q
  thread : u.me = { s.me with regs := u.me.regs, poison := u.me.poison, pc := u.me.pc }
  others : ∀ k, k ≠ s.cur.t → u.thread k = s.thread k

/-! ## Long operations (R292, R295, R296) -/

/-- The issuing thread has one more outstanding operation, with destination `d`, busy now; it stands at pc + 4 and nothing
else changed. -/
structure Issued (s u : State) (d : Reg) (k : ThreadOpKind) : Prop where
  only : OnlyMe s u
  thread : u.me = { s.me with pc := s.me.pc + 4, busy := u.me.busy,
                              ops := s.me.ops ++ [{ kind := k, dest := d, ord := 0, scope := 0 }] }
  busy : u.me.isBusy d = (d != 0)
  busies : ∀ q, q ≠ d → u.me.isBusy q = s.me.isBusy q

/-- The value names a region of the issuing thread's device: its place and the place's generation (R295). -/
def NamesRegion (s : State) (v : Word) (r : Nat) : Prop :=
  r < 256 ∧ v.toNat = r + 256 * (Sparse.atD (s.cluster (r / 64)).gens (r % 64) 0).toNat ∧ (s.region r).live = true ∧
    (s.region r).vd = s.vdOfThread s.cur.t

/-- The fault edge that a load of a region by thread `t` takes (R327), and its chain: it rises to the supervisor's rank. -/
def EdgeRises (s : State) (t : Nat) (x : RegionState) : Prop :=
  s.rankChain (hwWho (s.vdOfThread t) (clusterOfThread t)) 9 x.rank
    (if x.declEdge = 0 then (s.thread t).fedge else x.declEdge).toNat = none

/-- The cores of a mask of the cluster of thread `t`, in rising order (R295). -/
def coresOfMask (t m : Nat) : List Nat :=
  ((List.range 24).filter fun k => m.testBit k).map fun k => 24 * clusterOfThread t + k

/-- The registers an instruction names pass the checks of R273 and R274. -/
def Ready (s : State) (used clean : List Reg) : Prop := Idle s used ∧ Clean s clean

/-! ## Firings of elements (R95 to R109) -/

/-- A firing that nothing holds back: its element lies in a region, no operand is poison, and under rule 2 the gate p holds
a value that is not 0 (R96, R109). -/
structure CanFire (s : State) (w : Slot) : Prop where
  place : s.site.a < 65536
  clean : ∀ k, s.site.poisonAt k = false
  gate : w.fire = 2 → ∃ p c, s.site.fed 3 = some (p, c, false) ∧ p ≠ 0

/-- The input of a flow or memory instruction: under rule 1 the ports that are not taken are free values (R93). -/
def inputOf (s : State) (w : Slot) : FireIn := (if w.fire = 1 then s.draw else s).fin w

/-- The token that a result sends to a destination (R98, R99), as a flight from the firing's slot; none where the tag
operation fails. -/
def tokenTo (s : State) (d : Dest) (e : Emission) : Option (List Flight) :=
  if d.valid = false then some []
  else match applyTagOp (s.region s.site.r) (if d.tagop = 4 ∧ e.kind = 7 then 0 else d.tagop.toNat) e.tag e.seq e.pay with
    | none => none
    | some (g, q) => some [{
        src := (65536 * s.site.r + s.site.a) * 32 + s.site.slot
        r := s.site.r
        tok := { rsv := 0, net := d.net, last := e.last, kind := e.kind, dest := d.elem, port := d.port, slot := d.slot,
                 chan := e.chan, seq := q, ctx := BitVec.ofNat 8 (g.toNat / 65536), iter := BitVec.ofNat 16 g.toNat,
                 payload := e.pay }
        past := e.past }]

/-- The tokens of a result that goes to dest0, dest1 or both, dest0 first (R102). -/
def tokensOf (s : State) (w : Slot) (dst : Which) (e : Emission) : Option (List Flight) :=
  match (if dst = .d1 then some [] else tokenTo s w.d0 e), (if dst = .d0 then some [] else tokenTo s w.d1 e) with
  | some x, some y => some (x ++ y)
  | _, _ => none

/-- The firing took its operand set and sent the tokens `l`; no other element, no thread and no byte of memory changed. -/
structure Fired (s u : State) (l : List Flight) : Prop where
  net : u.net = s.net ++ l
  taken : ∀ m ∈ s.site.ents, ∀ q ∈ (u.elem s.site.r s.site.a).store, q.stamp ≠ m.2.stamp
  others : ∀ r a, a < 65536 → (r, a) ≠ (s.site.r, s.site.a) → u.elem r a = s.elem r a
  bytes : ∀ a, u.readByte a = s.readByte a
  rest : u = { s with elems := u.elems, regions := u.regions, cores := u.cores, clusters := u.clusters, net := u.net,
                      free := u.free }

/-- The instruction fires and sends `l`. -/
def Fires (i : Instr) (s : State) (l : List Flight) : Prop := ∃ u, exec i s = .next u ∧ Fired s u l

/-- Arity, function and flags among those listed (R113, R137). -/
def Shape (w : Slot) (arities fns flags : List Nat) : Prop :=
  w.arity.toNat ∈ arities ∧ w.fn.toNat ∈ fns ∧ w.flags.toNat ∈ flags

/-- The function of a compute element (R113 to R133). -/
def computeOf : Instr → Option (Slot × (FireIn → CRes))
  | .elemAdd w => some (w, cAdd)
  | .elemSub w => some (w, cSub)
  | .elemMul w => some (w, cMul)
  | .mulhi w => some (w, cMulhi)
  | .mad w => some (w, cMad)
  | .elemDiv w => some (w, cDiv)
  | .elemRem w => some (w, cRem)
  | .elemAnd w => some (w, cAnd)
  | .elemOr w => some (w, cOr)
  | .elemXor w => some (w, cXor)
  | .andn w => some (w, cAndn)
  | .shl w => some (w, cShl)
  | .shr w => some (w, cShr)
  | .sar w => some (w, cSar)
  | .rot w => some (w, cRot)
  | .elemClz w => some (w, cClz)
  | .elemPopc w => some (w, cPopc)
  | .elemMin w => some (w, cMin)
  | .elemMax w => some (w, cMax)
  | .abs w => some (w, cAbs)
  | .fadd w => some (w, cFadd)
  | .fsub w => some (w, cFsub)
  | .fmul w => some (w, cFmul)
  | .fma w => some (w, cFma)
  | .fmin w => some (w, cFmin)
  | .fmax w => some (w, cFmax)
  | .fsgn w => some (w, cFsgn)
  | .frcp w => some (w, cFrcp)
  | .frsq w => some (w, cFrsq)
  | .fexp2 w => some (w, cFexp2)
  | .flog2 w => some (w, cFlog2)
  | .fcvt w => some (w, cFcvt)
  | .fclass w => some (w, cFclass)
  | .fdot w => some (w, cFdot)
  | .amax w => some (w, cAmax)
  | .cmp w => some (w, cCmp)
  | .fcmp w => some (w, cFcmp)
  | .sel w => some (w, cSel)
  | .bcmp w => some (w, cBcmp)
  | .bfind w => some (w, cBfind)
  | .bperm w => some (w, cBperm)
  | .hash64 w => some (w, cHash64)
  | .crc32c w => some (w, cCrc32c)
  | _ => none

/-- The ports that choose or address rather than carry data (R115): poison on one is a fault. -/
def controlPorts : Instr → List Nat
  | .sel _ => [2]
  | .bcmp _ => [2]
  | .bperm _ => [1]
  | _ => []

/-- An input of `n` operands that are all one 64-bit integer lane, as is the result. -/
structure WholeWords (x : FireIn) (n : Nat) : Prop where
  arity : x.w.arity.toNat = n
  count : x.ops.length = n
  fmts : ∀ o ∈ x.ops, o.fmt = .i64
  out : x.out.fmt = .i64
  flags : x.w.flags = 0

/-- The lanes of width `w` of a payload: lane 0 lowest (R67). -/
def laneBits (w p i : Nat) : Nat := p / 2 ^ (w * i) % 2 ^ w

/-- An integer lane, read signed or unsigned (R71). -/
def laneInt (w : Nat) (sg : Bool) (p i : Nat) : Int :=
  if sg = true ∧ 2 ^ (w - 1) ≤ laneBits w p i then (laneBits w p i : Int) - 2 ^ w else laneBits w p i

/-- A payload of 64 bits whose lanes of width `w` are those of `f`. -/
def LanesAre (w pay : Nat) (f : Nat → Nat) : Prop := pay < 2 ^ 64 ∧ ∀ i, i < 64 / w → laneBits w pay i = f i

/-- An input of `n` operands whose formats, and the out channel's, are all of one class and lane width. -/
structure LanesFit (x : FireIn) (n : Nat) (c : LaneClass) (w : Nat) : Prop where
  arity : x.w.arity.toNat = n
  count : x.ops.length = n
  fmts : ∀ o ∈ x.ops, o.fmt.cls = c ∧ o.fmt.width = w
  out : x.out.fmt.cls = c ∧ x.out.fmt.width = w
  flags : x.w.flags = 0

/-- DivLane (R117) on lanes of width `w`: quotient and remainder, each modulo 2^w. -/
def divLaneOf (w : Nat) (a b : Int) : Int × Int := if b = 0 then (2 ^ w - 1, a) else (a.tdiv b, a.tmod b)

/-- The value of a finite number. -/
def ratOf : Num → Option Rat
  | .fin s n d => some ((if s then -(n : Rat) else n) / d)
  | _ => none

/-- Decoded lane `i` of operand `k` of a float instruction (R76). -/
def floatLane (x : FireIn) (k i : Nat) : Num := ((x.op k).lane false i).1

/-- The finite lanes of an input have denominators that are not 0: those of codes and of the values of R94 have. -/
def Sound (x : FireIn) : Prop := ∀ k i s n d, floatLane x k i = .fin s n d → 0 < d

/-- The exact sum of two numbers (R77, R118): NaN of a NaN or of infinities of both signs, an infinity, or the finite sum, an exact zero
keeping the sign of two addends of one sign, else −0 under RDN alone. -/
def IsSum (m : RoundMode) (a b r : Num) : Prop :=
  ((a.isNan = true ∨ b.isNan = true ∨ ∃ s, a = .inf s ∧ b = .inf (!s)) → r.isNan = true) ∧
  (∀ s, ((a = .inf s ∧ (b = .inf s ∨ (ratOf b).isSome)) ∨ (b = .inf s ∧ (ratOf a).isSome)) → r = .inf s) ∧
  (∀ p q, ratOf a = some p → ratOf b = some q → ratOf r = some (p + q) ∧
    (p + q = 0 → r.sign = if a.sign = b.sign then a.sign else decide (m = .rdn)))

/-- The exact product of two numbers (R76, R118). -/
def IsProduct (a b r : Num) : Prop :=
  ((a.isNan = true ∨ b.isNan = true ∨ (a.isInf = true ∧ b.isZero = true) ∨ (a.isZero = true ∧ b.isInf = true)) → r.isNan = true) ∧
  (a.isNan = false → b.isNan = false → a.isZero = false → b.isZero = false → a.isInf = true ∨ b.isInf = true → r = .inf (a.sign != b.sign)) ∧
  (∀ p q, ratOf a = some p → ratOf b = some q → ratOf r = some (p * q) ∧ r.sign = (a.sign != b.sign))

/-- `a` is less than `b`, neither being NaN; zeros are equal (R125). -/
def Below (a b : Num) : Prop :=
  (a = .inf true ∧ b.isNan = false ∧ b ≠ .inf true) ∨ (b = .inf false ∧ a.isNan = false ∧ a ≠ .inf false) ∨
    ∃ p q, ratOf a = some p ∧ ratOf b = some q ∧ p < q

/-- `a` is below `b` in the total order of R88. -/
def RankBelow (a b : Num) : Prop :=
  (a.isNan = true ∧ a.sign = true ∧ ¬ (b.isNan = true ∧ b.sign = true)) ∨
  (b.isNan = true ∧ b.sign = false ∧ ¬ (a.isNan = true ∧ a.sign = false)) ∨
  (a.isNan = false ∧ b.isNan = false ∧ (Below a b ∨ (ratOf a = some 0 ∧ ratOf b = some 0 ∧ a.sign = true ∧ b.sign = false)))

/-- The predicates of CMP (R125). -/
def IntPredicate (p : Nat) (a b : Int) : Prop :=
  (p = 0 ∧ a = b) ∨ (p = 1 ∧ a ≠ b) ∨ (p = 2 ∧ a < b) ∨ (p = 3 ∧ a ≤ b) ∨ (p = 4 ∧ b < a) ∨ (p = 5 ∧ b ≤ a)

/-- The predicates of FCMP, in IEEE mode and under the total order (R125). -/
def FloatPredicate (p : Nat) (tot : Bool) (a b : Num) : Prop :=
  let ordered := a.isNan = false ∧ b.isNan = false
  if tot = true then
    (p = 0 ∧ ¬ RankBelow a b ∧ ¬ RankBelow b a) ∨ (p = 1 ∧ (RankBelow a b ∨ RankBelow b a)) ∨ (p = 2 ∧ RankBelow a b) ∨
      (p = 3 ∧ ¬ RankBelow b a) ∨ (p = 4 ∧ RankBelow b a) ∨ (p = 5 ∧ ¬ RankBelow a b)
  else
    (p = 0 ∧ ordered ∧ ¬ Below a b ∧ ¬ Below b a) ∨ (p = 1 ∧ ¬ (ordered ∧ ¬ Below a b ∧ ¬ Below b a)) ∨ (p = 2 ∧ Below a b) ∨
      (p = 3 ∧ ordered ∧ ¬ Below b a) ∨ (p = 4 ∧ Below b a) ∨ (p = 5 ∧ ordered ∧ ¬ Below a b) ∨ (p = 6 ∧ ¬ ordered) ∨ (p = 7 ∧ ordered)

/-- The result of a comparison whose lanes hold by `P` (R126): a mask by lane in the integer format with as many lanes, or the OR or
the AND of the lanes in an I64. -/
def Compared (x : FireIn) (lanes : Nat) (P : Nat → Prop) (res : CRes) : Prop :=
  (x.w.flags = 0 → x.out.fmt = (match lanes with | 1 => .i64 | 2 => .i32 | 4 => .i16 | 8 => .i8 | _ => .raw) →
    ∃ pay c, res = .val pay c false ∧ pay < 2 ^ 64 ∧ ∀ i, i < lanes →
      (P i → laneBits (64 / lanes) pay i = 2 ^ (64 / lanes) - 1) ∧ (¬ P i → laneBits (64 / lanes) pay i = 0)) ∧
  (x.w.flags = 1 → x.out.fmt = .i64 → ((∃ i, i < lanes ∧ P i) → ∃ c, res = .val 1 c false) ∧
    ((∀ i, i < lanes → ¬ P i) → ∃ c, res = .val 0 c false)) ∧
  (x.w.flags = 2 → x.out.fmt = .i64 → ((∀ i, i < lanes → P i) → ∃ c, res = .val 1 c false) ∧
    ((∃ i, i < lanes ∧ ¬ P i) → ∃ c, res = .val 0 c false))

/-- The class code of a code of a float format (R122), by its fields: 16-bit and wider formats and E5M2 have infinities, E4M3 has one
NaN code of each sign, E2M1 neither. -/
def classOf (f : Fmt) (code : Nat) : Nat :=
  let m := code % 2 ^ f.man
  let e := code / 2 ^ f.man % 2 ^ f.expw
  let s := code / 2 ^ (f.man + f.expw) % 2
  let top := e + 1 = 2 ^ f.expw
  (if e = 0 then (if m = 0 then 0 else 2)
   else if top ∧ f = .e4m3 ∧ m = 7 then 8
   else if top ∧ f ≠ .e4m3 ∧ f ≠ .e2m1 then (if m = 0 then 6 else 8)
   else 4) + s

/-- Bytes of a raw operand (R128). -/
def byteOf (v i : Nat) : Nat := v / 2 ^ (8 * i) % 256

/-- Hash64 (R132). -/
def hashOf (a b : Word) : Word :=
  let h0 := a ^^^ b.rotateLeft 23 ^^^ 0x6A1F4C3BD28095E7
  let h1 := (h0 ^^^ (h0 >>> 32)) * 0xC3A59E274D1B86F5
  let h2 := (h1 ^^^ (h1 >>> 29)) * 0x8F1BB6E52C79D04B
  h2 ^^^ (h2 >>> 32)

/-- The CRC-32C of R133 over the first `n` bytes of `a`, from the state `c`: byte by byte, eight turns each. -/
def crcTurn (c : Nat) : Nat := if c % 2 = 1 then c / 2 ^^^ 0x82F63B78 else c / 2
def crcOf (a c : Nat) : Nat → Nat
  | 0 => c
  | n + 1 => crcTurn (crcTurn (crcTurn (crcTurn (crcTurn (crcTurn (crcTurn (crcTurn (crcOf a c n ^^^ byteOf a n))))))))

/-- Operand `k` as a 64-bit value. -/
def opWord (x : FireIn) (k : Nat) : Word := BitVec.ofNat 64 (x.op k).bits

/-! ## Memory, matrix and shelf elements (R167, R185, R208, R235) -/

/-- The request of a memory instruction (R167, R185, R186): its base register is that of constants bits [2:0], its scope the
flags; behind a parked request of its slot it is parked too (R169). -/
def requestOf (s : State) (w : Slot) (op : MemOp) (off size : Nat) (typed : Bool) (order : Nat) (dst : ReplyTo) : MemReq :=
  let e := s.elem s.site.r s.site.a
  { slot := s.site.slot, tag := s.site.tag, seq := s.site.seq, last := s.site.last, op := op,
    base := (Sparse.atD (s.unit s.site.r s.site.a).mb (w.const.toNat % 8) 0).toNat, off := off, size := size,
    typed := typed, order := order, scope := w.flags.toNat, dst := dst,
    parked := e.queue.any fun y => y.parked && y.slot == s.site.slot, sent := false, id := e.stamp, past := s.site.past }

/-- The instruction takes its set and queues one request, which MEMORY_REQUEST_ISSUE performs. -/
def Queues (i : Instr) (s : State) (q : MemReq) : Prop :=
  ∃ u, exec i s = .next u ∧ Fired s u [] ∧
    (u.elem s.site.r s.site.a).queue = (s.elem s.site.r s.site.a).queue ++ [q]

/-- The instruction takes its set and the free context `k` of its element, which holds `c`. -/
def Opens (s u : State) (k : Nat) (c : StreamCtx) : Prop :=
  Fired s u [] ∧ Sparse.entry? (u.elem s.site.r s.site.a).ctxs k = some c ∧
    ∀ j, j ≠ k → Sparse.entry? (u.elem s.site.r s.site.a).ctxs j = Sparse.entry? (s.elem s.site.r s.site.a).ctxs j

/-- Offset and reply of port a of LD and ST (R187, R40): a number below 2^41, or a request token with its continuation. -/
def AddressPort (s : State) (w : Slot) (p off : Nat) (dst : ReplyTo) : Prop :=
  (s.site.kindA ∈ [0, 3] ∧ p < 2 ^ 41 ∧ off = p ∧ dst = .dests w.d0 w.d1 w.out) ∨
  (s.site.kindA = 2 ∧ contOk (s.region s.site.r).cores.length p = true ∧ off = p % 2 ^ 41 ∧
    ∃ m, s.site.entry 0 = some m ∧
      dst = .cont (BitVec.ofNat 16 (p / 2 ^ 48)) (BitVec.ofNat 5 (p / 2 ^ 43)) (BitVec.ofNat 2 (p / 2 ^ 41)) m.tok.chan)

/-- A matrix instruction whose form and operands pass the checks of its firing (R207 to R226), with what it asks of its
engine. -/
def engineOf (x : FireIn) : Instr → Option (Slot × MxOp)
  | .mma w => if formOk w [2, 3] fnZero 0 ∧ mmaBad w x = false then some (w, .mma false false) else none
  | .mmaZ w => if formOk w [2, 3] fnZero 1 ∧ mmaBad w x = false then some (w, .mma true (w.flags == 1)) else none
  | .accRd w =>
    if w.const = 0 ∧ readoutFmt x.out.fmt ∧ w.flags.toNat ≤ 1 ∧
      ((w.fn = 0 ∧ w.arity = 1 ∧ payOf x 0 < 2 ^ 17 ∧ payOf x 0 / 2 ^ 13 < 32 / x.out.fmt.lanes) ∨
       (w.fn = 1 ∧ w.arity = 2 ∧ payOf x 0 < 2 ^ 8 ∧ payOf x 1 < 2 ^ 32)) then some (w, .accRd (w.fn == 1) (w.flags == 1)) else none
  | .accWr w =>
    if w.const = 0 ∧ w.arity = 2 ∧ payOf x 1 < 2 ^ 32 ∧
      ((w.fn = 0 ∧ w.flags.toNat ≤ 1 ∧ payOf x 0 < 2 ^ 8 ∧ (x.op 1).fmt ∈ [.fp32, .bf16, .fp16]) ∨
       (w.fn = 1 ∧ w.flags = 0 ∧ payOf x 0 < 2 ^ 18)) then some (w, .accWr (w.fn == 1) (w.flags == 1)) else none
  | .accCvt w =>
    if w.arity = 3 ∧ w.fn.toNat ≤ 1 ∧ w.flags.toNat ≤ 1 ∧ w.const.toNat % 8 ≤ 5 ∧ w.const.toNat / 8 ≠ 0 ∧
      w.const.toNat < 2 ^ 11 ∧ payOf x 0 < 2 ^ 8 ∧ payOf x 1 < 2 ^ 32 ∧ payOf x 2 % 2 ^ 32 < 2 ^ 18 ∧ payOf x 2 < 2 ^ 50 ∧
      x.out.fmt = .e2m1 then some (w, .accCvt (w.fn == 1) (w.flags == 1)) else none
  | .accChk w => if w.arity = 1 ∧ w.fn = 0 ∧ w.flags = 0 ∧ w.const = 0 ∧ payOf x 0 < 2 ^ 8 then some (w, .accChk) else none
  | .accVfy w =>
    let f := bf16Value (w.const.toNat / 2 ^ 16)
    if w.arity = 1 ∧ w.fn = 0 ∧ w.flags = 0 ∧ w.const.toNat % 2 ^ 16 < 2 ^ 5 ∧ f.special = false ∧
      (f.sign = false ∨ f.isZero = true) ∧ payOf x 0 < 2 ^ 8 then some (w, .accVfy) else none
  | .accFix w => if w.arity = 1 ∧ w.fn = 0 ∧ w.flags = 0 ∧ w.const = 0 ∧ payOf x 0 < 2 ^ 8 then some (w, .accFix) else none
  | .sclLd w =>
    if w.flags = 0 ∧ ((w.fn = 0 ∧ w.arity = 2 ∧ w.const.toNat < 2 ^ 6 ∧ payOf x 0 < 2 ^ 32 ∧ payOf x 1 < 2 ^ 18) ∨
      (w.fn = 1 ∧ w.arity = 1 ∧ w.const.toNat < 2 ^ 4 ∧ payOf x 0 < 2 ^ 18) ∨
      (w.fn = 2 ∧ w.arity = 1 ∧ w.const = 0 ∧ payOf x 0 < 2 ^ 5)) then some (w, .sclLd w.fn.toNat) else none
  | _ => none

/-- Dest1 of the firing that issued an instruction is not valid, or asks for no tag operation (R98, R99). -/
def PlainReply (c : MxCmd) : Prop := c.d1.valid = false ∨ c.d1.tagop = 0

/-- The engine's token goes to dest1 of the firing that issued `c` (R208); nothing is sent where dest1 is not valid. -/
def Replied (s u : State) (c : MxCmd) (pay : Nat) : Prop :=
  (c.d1.valid = false → u.net = s.net) ∧
  (c.d1.valid = true → ∃ f, u.net = s.net ++ [f] ∧ f.r = c.r ∧ f.tok.dest = c.d1.elem ∧ f.tok.slot = c.d1.slot ∧
    f.tok.port = c.d1.port ∧ f.tok.payload = BitVec.ofNat 64 pay ∧ tokTag f.tok = c.tag ∧ f.tok.last = c.last)

/-! ## Copy engines (R62, R316 to R320) -/

/-- Queue `q` runs and stands at the well-formed record `d`, whose kind is `kind` and whose body is not performed yet. -/
structure AtRecord (s : State) (q d kind : Nat) : Prop where
  bound : q < 2048
  runs : s.queueRuns q = true
  rec1 : s.fetchRec q = .inl d
  kind : d % 256 = kind
  header : recFault d = none
  body : bodyFault d (s.queue q).cur.toNat = none
  open1 : (s.queue q).fin = false
  open2 : (s.queue q).acted = false

/-- The state in which a record's body acts: at its first step it has begun, and where its header asks for it, an acquire at its scope
comes first (R62, R317); COUNT acquires after its wait (R319). -/
def atBody (s : State) (q d : Nat) : State :=
  if (s.queue q).begun ∨ d % 256 = 8 then s
  else (if recAcq d then s.recAcquire q d else s).updQueue q fun x => { x with begun := true }

/-- The end of a record need not wait for a diverted value in the line of its counter (R375). -/
def EndsNow (s : State) (q d : Nat) : Prop := recAction d = 1 → s.epDiverted q (recCaddr d) 0 = false

/-- The pieces of destination line `k` of a segment: its bytes in one 32-byte granule, or in each of two (R386). -/
def pieces (g : Seg) (k : Nat) : List (Nat × Nat) :=
  let mid := 64 * k + 32 - g.dst % 64
  if 64 * k + 32 ≤ g.dst % 64 + g.lo k ∨ g.hi k ≤ mid then [(g.lo k, g.hi k)] else [(g.lo k, mid), (mid, g.hi k)]

/-- Nothing that line `k` of a segment reads or writes waits: for a diverted value, for memory that sleeps, or for a stopped link
(R375, R381, R394). -/
def LineFree (s : State) (q : Nat) (g : Seg) (k : Nat) : Prop :=
  s.epDiverted q g.dst (g.lo k) = false ∧ s.srcWaits q g.src (g.lo k) (g.hi k - g.lo k) = false

/-- The greater of two numbers as FMAX gives it (R119): a NaN is ignored beside a number. -/
def IsLarger (a b r : Num) : Prop :=
  (a.isNan = true → r = b) ∧ (a.isNan = false → b.isNan = true → r = a) ∧
    (a.isNan = false → b.isNan = false → (r = a ∨ r = b) ∧ ¬ RankBelow r a ∧ ¬ RankBelow r b)

/-- The lesser, as FMIN gives it. -/
def IsLesser (a b r : Num) : Prop :=
  (a.isNan = true → r = b) ∧ (a.isNan = false → b.isNan = true → r = a) ∧
    (a.isNan = false → b.isNan = false → (r = a ∨ r = b) ∧ ¬ RankBelow a r ∧ ¬ RankBelow b r)

/-- One lane `c` of REDUCE, from the destination's `a` and the source's `b` (R319): 0 add, 1 max, 2 min. -/
def Combined (f : Fmt) (op a b c : Nat) : Prop :=
  let sg := fun (v : Nat) => if 2 ^ (f.width - 1) ≤ v then (v : Int) - 2 ^ f.width else v
  let x := (fmtValue f a).1
  let y := (fmtValue f b).1
  (f.cls = .int → (op = 0 → c = (a + b) % 2 ^ f.width) ∧ (op = 1 → c = if sg a < sg b then b else a) ∧
    (op = 2 → c = if sg b < sg a then b else a)) ∧
  (f.cls = .float → ∃ r, c = roundCode f .rne r ∧ (op = 0 → IsSum .rne x y r) ∧ (op = 1 → IsLarger x y r) ∧ (op = 2 → IsLesser x y r))

/-- The bytes that a segment writes, as a number, from its source's and from what the destination held: the source's, or, for REDUCE,
lane by lane the two combined. -/
def Mixed (g : Seg) (n src old new : Nat) : Prop :=
  match g.red with
  | none => new = src
  | some (f, op) => new < 2 ^ (8 * n) ∧ ∀ l, f.width * (l + 1) ≤ 8 * n →
      Combined f op (laneBits f.width old l) (laneBits f.width src l) (laneBits f.width new l)

/-- Bytes `x` of a segment are performed: the destination takes the bytes of its source, combined with its own where the record is a
REDUCE; no other byte changes, and no thread. -/
structure Moved (s u : State) (q : Nat) (g : Seg) (scale : Bool) (x : Nat × Nat) : Prop where
  bytes : ∀ p t bs, s.epPlace q g.dst x.1 (x.2 - x.1) .wr scale = .ok p t → s.srcBytes q g.src x.1 (x.2 - x.1) = .inl bs →
    Mixed g (x.2 - x.1) (ofBytes (bs.map (·.1)) % 2 ^ (8 * (x.2 - x.1))) (s.seenNat (.queue q) p (x.2 - x.1))
        (Memory.readN u.mem p (x.2 - x.1)) ∧
      ∀ a, a < p ∨ p + (x.2 - x.1) ≤ a → u.readByte a = s.readByte a
  threads : u.threads = s.threads

/-- Bytes `x` of a segment have their place and sources without a mark; a destination that REDUCE reads has none either. -/
def CanMove (s : State) (q : Nat) (g : Seg) (scale : Bool) (x : Nat × Nat) : Prop :=
  ∃ p t bs, s.epPlace q g.dst x.1 (x.2 - x.1) .wr scale = .ok p t ∧ (g.red.isSome = true → s.poisoned p = false) ∧
    s.srcBytes q g.src x.1 (x.2 - x.1) = .inl bs ∧ ∀ b ∈ bs, b.2 = none

/-- Line `k` of a segment is performed in `b`, the state in which a record's body acts, by instruction `i` at `s`: at once where its
bytes lie in one granule, else a granule at a step in a free order (R386). `ends` says what the state after its last granule is. -/
def LineGoes (i : Instr) (s b : State) (q : Nat) (g : Seg) (scale : Bool) (k : Nat) (ends : State → Prop) : Prop :=
  (∀ x, pieces g k = [x] → CanMove b q g scale x → (s.queue q).half = none → ∃ u, Moved b u q g scale x ∧ ends u) ∧
  (∀ x y, pieces g k = [x, y] → (s.queue q).half = none → CanMove b q g scale x → CanMove b q g scale y →
    ∃ u h, exec i s = .next u ∧ (u.queue q).done = (s.queue q).done ∧
      ((h = 0 ∧ Moved b u q g scale x) ∨ (h = 1 ∧ Moved b u q g scale y)) ∧ (u.queue q).half = some h) ∧
  (∀ x y h, pieces g k = [x, y] → (s.queue q).half = some h → h < 2 →
    CanMove b q g scale (if h = 0 then y else x) → ∃ u, Moved b u q g scale (if h = 0 then y else x) ∧ ends u)

/-- The one destination of a record, with its source, and whether it may write scale memory (R319): body word `i` is
`recW d i`. -/
def segOf (q d : Nat) : Instr → Option (Nat × Seg × Bool)
  | .copy k => if k = q then some (1, { dst := recW d 1, len := recW d 2, src := .copy (recW d 0), red := none }, false) else none
  | .fill k => if k = q then some (3, { dst := recW d 1, len := recW d 2, src := .fill (recW d 3), red := none }, false) else none
  | .scaleput k => if k = q then some (4, { dst := recW d 1, len := recW d 2, src := .copy (recW d 0), red := none }, true) else none
  | .gathercopy k =>
    let rb := recW d 3 % 2 ^ 24
    if k = q then some (5, {
        dst := recW d 1, len := rb * (recW d 3 / 2 ^ 24 % 2 ^ 24),
        src := .gather (recW d 0) (recW d 2) rb (if recW d 3 / 2 ^ 48 % 2 = 1 then 8 else 4), red := none }, false) else none
  | .reduce k => if k = q then some (6, {
        dst := recW d 1, len := recW d 2, src := .copy (recW d 0),
        red := some ((Fmt.ofCode (recW d 3 % 32)).getD .i64, recW d 3 / 2 ^ 5 % 4) }, false) else none
  | _ => none

/-- The last step of a SCALEPUT record loads a layout record (R319). -/
def loadsLayout (d : Nat) : Prop := d % 256 = 4 ∧ recW d 3 / 2 ^ 22 % 2 = 1

/-! ## Firmware services (R362) -/

/-- Thread `t` has trapped to machine level with service `code`, and g1 and g2 hold `g1` and `g2`. -/
structure Asks (s : State) (t code g1 g2 : Nat) : Prop where
  bound : t < 64
  code : s.serviceCode t = some code
  one : ((s.thread t).reg 1).toNat = g1
  two : ((s.thread t).reg 2).toNat = g2

/-- Thread `t` has returned from its service, from state `s` to `u`: status in g1, result in g2, at the pc and level of its frame, with
its other registers and every other thread as before (R362). -/
structure Served (s u : State) (t st res : Nat) : Prop where
  status : (u.thread t).reg 1 = BitVec.ofNat 64 st
  result : (u.thread t).reg 2 = BitVec.ofNat 64 res
  pc : ∀ f, s.machineFrame t = some f → (u.thread t).pc = BitVec.ofNat 64 (s.readNat f 8)
  level : ∀ f, s.machineFrame t = some f → (u.thread t).level = BitVec.ofNat 2 (s.readNat (f + 8) 1)
  run : (u.thread t).run = .running
  regs : ∀ r, r ≠ 1 → r ≠ 2 → (u.thread t).reg r = (s.thread t).reg r
  others : ∀ k, k ≠ t → u.thread k = s.thread k

/-- PART changes the shelf of cluster `c` alone: partition `p` becomes `x`, or is gone; every tile, every other partition and every
granule of another partition stays (R267). -/
structure Parted (s u : State) (c p : Nat) (x : Option Partition) : Prop where
  part : Sparse.entry? (u.cluster c).parts p = x
  parts : ∀ k, k ≠ p → Sparse.entry? (u.cluster c).parts k = Sparse.entry? (s.cluster c).parts k
  tiles : (u.cluster c).tiles = (s.cluster c).tiles
  grans : ∀ k g n, (granAt (s.cluster c) k g).part = some n → n ≠ p → granAt (u.cluster c) k g = granAt (s.cluster c) k g
  gens : ∀ k g, g < 1024 → (granAt (u.cluster c) k g).gen = (granAt (s.cluster c) k g).gen
  others : ∀ j, j ≠ c → u.cluster j = s.cluster j
  rest : u = { s with clusters := u.clusters }

/-- The granules of a cluster's shelf are listed once each. -/
def Listed (c : ClusterState) : Prop := (c.granules.map (·.1)).Pairwise (· < ·)

/-! ## The debugger (R31, R246) -/

/-- What the loader writes of an image has its places in the memory of device `v`, and no write of the image moves one: they hold
no entry by which the device's addresses are walked. -/
def HasPlaces (s : State) (v : Nat) (im : Image) : Prop :=
  ∀ w ∈ imageWrites im, ∀ k, k < w.2.length → ∃ p, ∀ u : State, u = { s with mem := u.mem } →
    (∀ q, (∀ z ∈ imageWrites im, ∀ j, j < z.2.length → s.framePlace v (z.1 + j) ≠ some q) → u.readByte q = s.readByte q) →
    u.framePlace v (w.1 + k) = some p

/-- `ifepel` is attached to device `v`, which has debug permission. -/
structure Attached (s : State) (v : Nat) : Prop where
  dev : s.dbg.vd = some v
  live : (s.vd v).live = true
  debug : (s.vd v).debug = true

/-- The command prints lines and changes nothing else. -/
def Prints (i : Instr) (s : State) : Prop := ∃ l, exec i s = .next { s with dbg := { s.dbg with console := s.dbg.console ++ l } }

end Claims

end Sys2Proof
end

