-- ==== Sys2Proof/Certificates/Slice0/Obligations.lean ====
section
/-! DEFINITION. The statements for the provers. -/
open Sys2Proof Sys2Proof.Machine Sys2Proof.Claims

/-! ## Control core: register, immediate and divide forms -/

/-- R278 (register forms without a side effect), R280, R281, R275: each writes its result and the OR of the sources' poison bits
to gd, goes to pc + 4, and changes nothing else; with g0 nothing is written. -/
def Obligations.RegisterAndImmediateFormsWriteTheirResult : Prop :=
  (∀ s i d srcs v, aluResult s i = some (d, srcs, v) → Idle s (d :: srcs) →
    Completes i s d v (srcs.any s.me.poisoned)) ∧
  (∀ s i d srcs v, immResult s i = some (d, srcs, v) → Idle s (d :: srcs) →
    Completes i s d v (srcs.any s.me.poisoned))

/-- R279: DIV, DIVU, REM and REMU write the result that DivLane gives; a zero divisor sets the divide flag of the
thread's device in its cluster and no other flag. None of them traps. -/
def Obligations.DivisionsWriteTheirResult : Prop :=
  ∀ s i d a b v, divResult s i = some (d, a, b, v) → Idle s [d, a, b] →
    let c := clusterOfThread s.cur.t
    let vd := s.vdOfThread s.cur.t
    ∃ u, exec i s = .next u ∧
      (s.g b ≠ 0 → Wrote s u d v (s.me.poisoned a || s.me.poisoned b) (s.me.pc + 4)) ∧
      (s.g b = 0 → Wrote { s with clusters := u.clusters } u d v (s.me.poisoned a || s.me.poisoned b) (s.me.pc + 4) ∧
        u.divz c vd = true ∧ (∀ c' vd', (c', vd') ≠ (c, vd) → u.divz c' vd' = s.divz c' vd') ∧
        ∀ c', u.cluster c' = { s.cluster c' with divz := (u.cluster c').divz })

/-- R56, R57, R273, R274, R282, R296, R299: an instruction that reads or writes a busy register waits; a shift amount above 63 is
IllegalInstruction; a poisoned operand of a branch or jump is Poison; operands that UISEND, UIMASK.ENT and UIRET find bad
trap; a system register below its level is Privilege, one that is not listed or has no write level IllegalInstruction; a
supervisor instruction at user level is Privilege. -/
def Obligations.FailedChecksTrapOrWait : Prop :=
  ((∀ s i d srcs v, aluResult s i = some (d, srcs, v) ∨ immResult s i = some (d, srcs, v) → ¬ Idle s (d :: srcs) → Stalls i s) ∧
  (∀ s i d a b v, divResult s i = some (d, a, b, v) → ¬ Idle s [d, a, b] → Stalls i s)) ∧
  ((∀ s d a (v : BitVec 15), 63 < v.toNat →
    Traps (.slli d a v) s 0x01 0 ∧ Traps (.srli d a v) s 0x01 0 ∧ Traps (.srai d a v) s 0x01 0) ∧
  (∀ s a c off, Idle s [a] → ¬ Clean s [a] → Traps (.bt a c off) s 0x08 0 ∧ Traps (.bdec a off) s 0x08 0) ∧
  (∀ s a b c off, Idle s [a, b] → ¬ Clean s [a, b] → Traps (.bc a b c off) s 0x08 0) ∧
  (∀ s d a (v : BitVec 15), Idle s [d, a] → ¬ Clean s [a] → (BitVec.ofInt 64 ((s.g a).toInt + v.toInt)).toNat % 4 = 0 →
    Traps (.jind d a v) s 0x08 0)) ∧
  ((∀ s a, Idle s [a] → 16 ≤ (s.g a).toNat → Traps (.uisend a) s 0x03 0) ∧
  (∀ s d a, Idle s [d, a] → (s.g a).toNat % 4 ≠ 0 → Traps (.uimaskEnt d a) s 0x05 (s.g a)) ∧
  (∀ s, s.me.inui = false → Traps .uiret s 0x01 0)) ∧
  (∀ s d a (n : BitVec 15),
    (sysLevels n.toNat = none → Traps (.sysrd d n) s 0x01 0 ∧ Traps (.syswr a n) s 0x01 0) ∧
    (∀ r, sysLevels n.toNat = some (r, none) →
      Traps (.syswr a n) s 0x01 0 ∧ Traps (.sysset d a n) s 0x01 0 ∧ Traps (.sysclr d a n) s 0x01 0) ∧
    (∀ r w, sysLevels n.toNat = some (r, w) → s.me.level.toNat < r → Traps (.sysrd d n) s 0x04 0) ∧
    (∀ r w, sysLevels n.toNat = some (r, some w) → s.me.level.toNat < w →
      Traps (.syswr a n) s 0x04 0 ∧ Traps (.sysset d a n) s 0x04 0 ∧ Traps (.sysclr d a n) s 0x04 0)) ∧
  (∀ s d a b, s.me.level = 0 →
    Traps .eret s 0x04 0 ∧ Traps (.rgnload d a b) s 0x04 0 ∧ Traps (.rgnstart d a b) s 0x04 0 ∧ Traps (.rgnswap d a b) s 0x04 0 ∧
    Traps (.rgndrain d a) s 0x04 0 ∧ Traps (.rgnsave d a b) s 0x04 0 ∧ Traps (.rgnrest d a b) s 0x04 0 ∧
    Traps (.rgnkill d a) s 0x04 0 ∧ Traps (.vdsleep d a) s 0x04 0 ∧ Traps (.tlbinv d a b) s 0x04 0)

/-! ## Control core: branches and jumps -/

/-- R282: BT, BC, BDEC, JREL and JIND write and go where the table says, where the registers are idle and the operands
clean; BDEC of g0 forms 2^64 − 1. -/
def Obligations.BranchesAndJumpsGoToTheirTarget : Prop :=
  (∀ s a c (off : BitVec 15), Idle s [a] → Clean s [a] → ∃ u, exec (.bt a c off) s = .next u ∧
    (TestHolds c (s.g a) → Went s u (targetOf s.me.pc off)) ∧ (¬ TestHolds c (s.g a) → Went s u (s.me.pc + 4))) ∧
  (∀ s a b c (off : BitVec 12), Idle s [a, b] → Clean s [a, b] → ∃ u, exec (.bc a b c off) s = .next u ∧
    (CompareHolds c (s.g a) (s.g b) → Went s u (targetOf s.me.pc off)) ∧
    (¬ CompareHolds c (s.g a) (s.g b) → Went s u (s.me.pc + 4))) ∧
  (∀ s a (off : BitVec 15), Idle s [a] → Clean s [a] → ∃ u, exec (.bdec a off) s = .next u ∧
    Wrote s u a (BitVec.ofInt 64 ((s.g a).toInt - 1)) false
      (if s.g a = 1 then s.me.pc + 4 else targetOf s.me.pc off)) ∧
  (∀ s d (off : BitVec 20), Idle s [d] → ∃ u, exec (.jrel d off) s = .next u ∧
    Wrote s u d (s.me.pc + 4) false (targetOf s.me.pc off)) ∧
  (∀ s d a (v : BitVec 15), Idle s [d, a] →
    let t := BitVec.ofInt 64 ((s.g a).toInt + v.toInt)
    (t.toNat % 4 ≠ 0 → Traps (.jind d a v) s 0x05 t) ∧
    (t.toNat % 4 = 0 → Clean s [a] → ∃ u, exec (.jind d a v) s = .next u ∧ Wrote s u d (s.me.pc + 4) false t))

/-! ## Control core: accesses -/

/-- R283, R285, R286, R292, R56, R273, R284: LD, LDU, ST, AMO and CAS that pass their checks issue: the operation joins the
thread's list, its destination is busy, the thread goes to pc + 4, and no register, no byte of memory and nothing else but
the translation cache changes. An access that is not aligned is Misaligned, one that the thread may not make is the fault of
its translation or aperture, with the address as info where R277 gives it one; a poisoned operand is Poison; one that meets
bytes of an outstanding record waits (R170). -/
def Obligations.AccessesIssueOrTrap : Prop :=
  (∀ s i x p, accessOf s i = some x → Idle s x.used → (if x.store then s.me.stores else s.me.loads) < 64 →
    x.addr.toNat % x.bytes = 0 → At s x p → Clean s x.clean → s.blocked s.whoMe.vd p x.bytes = false →
    s.divertWait s.whoMe.vd x.addr.toNat = false → isMgmt p = false → isFarMgmt p = false →
    ∃ u, exec i s = .next u ∧
      u.me = { s.me with pc := s.me.pc + 4, busy := u.me.busy,
                         ops := s.me.ops ++ [{ kind := x.kind p, dest := x.dest, ord := x.ord, scope := x.scope, ea := x.addr }] } ∧
      u.me.isBusy x.dest = (x.dest != 0) ∧ (∀ q, q ≠ x.dest → u.me.isBusy q = s.me.isBusy q) ∧
      (∀ k, k ≠ s.cur.t → u.thread k = s.thread k) ∧ (∀ a, u.readByte a = s.readByte a) ∧
      u = { s with threads := u.threads, tlb := u.tlb }) ∧
  (∀ s i x, accessOf s i = some x → Idle s x.used → (if x.store then s.me.stores else s.me.loads) < 64 →
    (x.addr.toNat % x.bytes ≠ 0 → Traps i s 0x05 x.addr) ∧
    (x.addr.toNat % x.bytes = 0 → ∀ c, s.locateAll s.whoMe x.addr x.does = .fault c → Traps i s c (infoOf c x.addr)) ∧
    (x.addr.toNat % x.bytes = 0 → ∀ p, At s x p → ¬ Clean s x.clean → Traps i s 0x08 0) ∧
    (x.addr.toNat % x.bytes = 0 → ∀ p, At s x p → Clean s x.clean → s.scoreHit p x.bytes = true → s.sleeper p = none → Stalls i s))

/-- R283, R285, R286, R274, R275, R292: an outstanding load of storage that is not marked is performed: its destination takes the
bytes, sign- or zero-extended, and is busy no more; they are the newest bytes where the thread must see every write to them (R385).
A store gives its bytes the value, and every other byte stays. An AMO or CAS reads, modifies and writes in one step: the
destination takes the old value, sign-extended; CAS writes only where the old value is the expected one. With acquire order the
thread acquires, at the access's scope, of the releases whose value it reads (R384); with release order its earlier writes are
performed at that scope, and the value that it writes carries the release. Which of the writes that a thread need not see a load
misses is a free value (log 117). -/
def Obligations.AccessesArePerformed : Prop :=
  (∀ s t k o p n sg, o.kind = .load p n sg → n ∈ [1, 2, 4, 8] → CanPerform s t k o p n → s.marked (s.vdOfThread t) p = false →
    ∃ u, exec (.threadOperationComplete t k) s = .next u ∧ Ended s u t k o.dest (extend n sg (s.seenNat (.thread t) p n)) false ∧
      (s.mayMiss (.thread t) p n = [] → s.seenNat (.thread t) p n = s.readNat p n) ∧
      u = { s with threads := u.threads, unseen := u.unseen } ∧
      (o.ord = 0 → u.unseen.map (fun h => { h with reads := [] }) = s.unseen.map fun h => { h with reads := [] }) ∧
      (o.ord = 1 → Acquired s u (.thread t) o.scope (s.seenSync (.thread t) p n)) ∧ ∀ a, u.readByte a = s.readByte a) ∧
  (∀ s t k o p n v, Safe s → o.kind = .store p n v → n ∈ [1, 2, 4, 8] → CanPerform s t k o p n →
    s.reach (s.vdOfThread t) p ≠ .dead → isMgmt p = false → isFarMgmt p = false →
    ∃ u, exec (.threadOperationComplete t k) s = .next u ∧ Ended s u t k o.dest 0 false ∧ Stored s u p n v.toNat ∧
      (2 ≤ o.ord → ReleasedBy s u (.thread t) o.scope p n)) ∧
  (∀ s t k o p n, Safe s → n ∈ [4, 8] → CanPerform s t k o p n →
    s.reach (s.vdOfThread t) p ≠ .dead → s.poisoned p = false → isMgmt p = false → isMgmt (p + n - 1) = false →
    (∀ op b, o.kind = .amo op p n b → op ≤ 6 → ∃ u, exec (.threadOperationComplete t k) s = .next u ∧
      Ended s u t k o.dest (extend n true (s.readNat p n)) false ∧
      Stored s u p n (amoResult op n (s.readNat p n) b.toNat) ∧
      (2 ≤ o.ord → ReleasedBy s u (.thread t) o.scope p n) ∧ (o.ord % 2 = 1 → Acquired s u (.thread t) o.scope (s.carried p n))) ∧
    (∀ b e, o.kind = .cas p n b e → ∃ u, exec (.threadOperationComplete t k) s = .next u ∧
      Ended s u t k o.dest (extend n true (s.readNat p n)) false ∧
      Stored s u p n (if s.readNat p n = e.toNat % 2 ^ (8 * n) then b.toNat else s.readNat p n) ∧
      (2 ≤ o.ord → Performed s u (.thread t) o.scope) ∧ (o.ord % 2 = 1 → Acquired s u (.thread t) o.scope (s.carried p n))))

/-! ## Control core: traps and returns -/

/-- R276, R277: a trap of a thread below machine level enters the level above its own: the frame takes epc, the level
trapped from, the event record and the instruction word, the thread stands at the vector at the new level, and no
register changes; the frame is written with a release at cluster scope (code 2 of R52). Where an access of the thread is still to be
performed, the frame is written behind it, by an outstanding operation of that order and scope. A vector of user level that is 0 or
not a multiple of 4 escalates the record to machine level. A trap at machine level halts the thread and posts the record to the management core. -/
def Obligations.TrapsEnterTheirLevel : Prop :=
  ∀ s t code (info epc : Word) (word : BitVec 32), Safe s → NoBreaks s → code < 256 →
    (∀ v p, (s.thread t).level.toNat < 2 → CanEnter s t ((s.thread t).level.toNat + 1) v p → (s.thread t).released = true →
      Entered s (s.takeTrap t code info epc word) t ((s.thread t).level.toNat + 1) v p (trapRecord s t code info) epc word) ∧
    (∀ v p, (s.thread t).level = 0 → (s.ownNat t (tcb t) 8 = 0 ∨ s.ownNat t (tcb t) 8 % 4 ≠ 0) → CanEnter s t 2 v p →
      (s.thread t).released = true →
      Entered s (s.takeTrap t code info epc word) t 2 v p (trapRecord s t code info) epc word) ∧
    (∀ k o p prev (ev : BitVec 256), (s.thread t).ops[k]? = some o → o.kind = .frame p epc prev ev word → o.scope = 2 → o.ord = 2 →
      CanPerform s t k o p 64 → ∃ u, exec (.threadOperationComplete t k) s = .next u ∧ ReleasedBy s u (.thread t) 2 p 64 ∧
        Memory.readN u.mem p 8 = epc.toNat ∧ Memory.readN u.mem (p + 8) 1 = prev % 256 ∧
        Memory.readN u.mem (p + 0x10) 32 = ev.toNat ∧ Memory.readN u.mem (p + 0x30) 4 = word.toNat ∧
        ∀ a, a < p ∨ p + 64 ≤ a → u.readByte a = s.readByte a) ∧
    (∀ v p, (s.thread t).level.toNat < 2 → CanEnter s t ((s.thread t).level.toNat + 1) v p → (s.thread t).released = false →
      s.takeTrap t code info epc word = s.updThread t fun x =>
        { x with level := BitVec.ofNat 2 (x.level.toNat + 1), pc := v, run := .running,
                 ops := x.ops ++ [{ kind := .frame p epc x.level.toNat (BitVec.ofNat 256 (trapRecord s t code info)) word,
                                    dest := 0, ord := 2, scope := 2 }] }) ∧
    ((s.thread t).level = 2 →
      let u := s.takeTrap t code info epc word
      u.thread t = { s.thread t with run := .halted } ∧ (∀ k, k ≠ t → u.thread k = s.thread k) ∧
        u.notices = s.notices ++ [{ vd := none, ev := BitVec.ofNat 256 (trapRecord s t code info) }] ∧
        u = { s with threads := u.threads, notices := u.notices })

/-- R299, R277, R56, R273: TRAP takes the trap with code IllegalInstruction, info 2^63 + v, and epc at the next instruction; a word
that is no instruction traps with IllegalInstruction; a fetch that faults traps with its fault, and one of a marked line
with UncorrectableMemory, both with pc in info; a fetch over a path for which the device has no route is AccessFault (R364). That a
fetch from memory of a device that sleeps is VdDormant and no wake is log 122 (DESIGN CHOICE). -/
def Obligations.TrapsOfInstructionsAndFetches : Prop :=
  (∀ s v, exec (.trap v) s =
    .next (s.takeTrap s.cur.t 0x01 (BitVec.ofNat 64 (2 ^ 63 + v.toNat)) (s.me.pc + 4) s.cur.word)) ∧
  ((∀ s t, s.turn = .thread t → Traps .illegalInstruction s 0x01 0) ∧
  (∀ s c, s.resolve s.whoMe s.me.pc .fetch = .fault c → Traps .instructionFetchFault s c (infoOf c s.me.pc)) ∧
  (∀ s p x, s.resolve s.whoMe s.me.pc .fetch = .ok p x → s.reach (s.vdOfThread s.cur.t) p = .fault →
    Traps .instructionFetchFault s 0x07 s.me.pc) ∧
  (∀ s p x v, s.resolve s.whoMe s.me.pc .fetch = .ok p x → s.reach (s.vdOfThread s.cur.t) p = .here → s.sleeper p = some v →
    Traps .instructionFetchFault s 0x1B 0) ∧
  (∀ s p x, s.resolve s.whoMe s.me.pc .fetch = .ok p x → s.reach (s.vdOfThread s.cur.t) p = .here → s.sleeper p = none →
    s.poisoned p = true → Traps .instructionFetchFault s 0x10 s.me.pc) ∧
  (∀ s p x, s.resolve s.whoMe s.me.pc .fetch = .ok p x → s.reach (s.vdOfThread s.cur.t) p = .dead → s.sleeper p = none →
    Traps .instructionFetchFault s 0x10 s.me.pc))

/-- R299, R285: ERET reads the frame of its level, and where it stands, as the thread's own stores leave them: pc and level are
restored, and nothing else changes; at user level it is Privilege, and a saved level not below the current one is Malformed (log 9,
DESIGN CHOICE). -/
def Obligations.EretReturnsThroughTheFrame : Prop :=
  (∀ s, s.me.level = 0 → Traps .eret s 0x04 0) ∧
  ∀ s p x, s.me.level.toNat ∈ [1, 2] →
    let f := s.ownNat s.cur.t (tcb s.cur.t + if s.me.level = 1 then 0x10 else 0x18) 8
    f % 64 = 0 → s.resolve s.whoMe (BitVec.ofNat 64 f) .rd = .ok p x → (∀ o ∈ s.me.ops, o.touches p 64 = false) →
    (s.me.level.toNat ≤ s.readNat (p + 8) 1 → Traps .eret s 0x03 0) ∧
    (s.readNat (p + 8) 1 < s.me.level.toNat → s.readNat p 8 % 4 = 0 → ∃ u, exec .eret s = .next u ∧ OnlyMe s u ∧
      u.me = { s.me with pc := BitVec.ofNat 64 (s.readNat p 8), level := BitVec.ofNat 2 (s.readNat (p + 8) 1) })

/-! ## Control core: interrupts and waits -/

/-- R299, R300: UISEND sets the sent bit of a thread of the cluster; UIMASK and UIMASK.ENT return the old value and set
the new one; UIRET restores pc and mask; an open interrupt saves pc and mask and goes to the entry. -/
def Obligations.UserInterruptsAreSentTakenAndReturned : Prop :=
  (∀ s a, Idle s [a] → (s.g a).toNat < 16 →
    let t := 16 * clusterOfThread s.cur.t + (s.g a).toNat
    ∃ u, exec (.uisend a) s = .next u ∧
      u = (s.updThread t fun x => { x with uipend := x.uipend ||| 0x20 }).updMe fun x => { x with pc := x.pc + 4 }) ∧
  (∀ s d a v, Idle s [d, a] → ∃ u, exec (.uimask d a v) s = .next u ∧
    Wrote (s.updMe fun x => { x with uimask := BitVec.ofNat 6 (s.g a).toNat ||| v }) u d
      (BitVec.ofNat 64 s.me.uimask.toNat) false (s.me.pc + 4)) ∧
  (∀ s d a, Idle s [d, a] → Clean s [a] → (s.g a).toNat % 4 = 0 → ∃ u, exec (.uimaskEnt d a) s = .next u ∧
    Wrote (s.updMe fun x => { x with uient := s.g a }) u d s.me.uient false (s.me.pc + 4)) ∧
  (∀ s, s.me.inui = true → ∃ u, exec .uiret s = .next u ∧
    u = s.updMe fun x => { x with pc := x.uepc, uimask := x.umask, inui := false }) ∧
  (∀ s t, t < 64 → (s.thread t).run = .running → (s.thread t).level = 0 → (s.thread t).inui = false →
    (s.thread t).uient ≠ 0 → (∃ k < 6, (s.thread t).uipend.getLsbD k = true ∧ (s.thread t).uimask.getLsbD k = true) →
    ∃ u, exec (.userInterruptTake t) s = .next u ∧ u = s.updThread t fun x =>
      { x with uepc := x.pc, umask := x.uimask, uimask := 0, inui := true, pc := x.uient })

/-- R287, R291, R384, R385: FENCE goes on once what it waits for is performed (release: every access of the thread; acquire: its
loads and atomics), and waits before; it changes but the pc and what agents must see: a release performs the thread's writes at its
scope and stands for what the thread writes next (log 117, DEDUCED), an acquire learns of what the releases that the thread has read
released. WAITGE writes the first value it sees that is at least gb, unsigned, and acquires at pod scope what it releases; else it
waits and reads again (WAITGE_SATISFY); a marked location is Poison, with the address as info and gd not written; a wait whose route
has gone is AccessFault (R364). -/
def Obligations.FencesAndWaitgeWait : Prop :=
  (∀ s (ord : BitVec 2) (scope : BitVec 3), ord ≠ 0 → scope.toNat ≤ 5 →
    let waits := (2 ≤ ord.toNat ∧ ∃ o ∈ s.me.ops, o.range ≠ none) ∨ (ord.toNat % 2 = 1 ∧ 0 < s.me.loads)
    let x := Agent.thread s.cur.t
    let writes := fun (l : List Unseen) => (l.filter fun h => h.n != 0).map fun h => (h.p, h.n, h.old, h.new, h.who, h.time)
    (¬ waits → ∃ u, exec (.fence ord scope) s = .next u ∧ Went { s with unseen := u.unseen } u (s.me.pc + 4) ∧
      writes u.unseen = writes s.unseen ∧
      (2 ≤ ord.toNat → Performed s u x scope.toNat ∧ ∃ g ∈ u.unseen, g.n = 0 ∧ g.who = x ∧ ∃ y ∈ g.sync, IsRelease s x scope.toNat y) ∧
      (ord.toNat % 2 = 1 → ∀ h ∈ s.unseen, h.n ≠ 0 → (h.reads.any fun y => y.meets x) = true → Acquired s u x scope.toNat h.sync)) ∧
    (waits → Stalls (.fence ord scope) s)) ∧
  ((∀ s d a b p x, s.me.run = .running → Idle s [d, a, b] → Clean s [a] → s.me.ops = [] → (s.g a).toNat % 8 = 0 → s.locate s.whoMe (s.g a) .rd = .ok p x →
    s.blocked s.whoMe.vd p 8 = false → s.divertWait s.whoMe.vd (s.g a).toNat = false →
    let x := Agent.thread s.cur.t
    let v := s.seenNat x p 8
    (s.marked (s.vdOfThread s.cur.t) p = false →
      ((s.g b).toNat ≤ v → ∃ u, exec (.waitge d a b) s = .next u ∧
        Wrote { s with tlb := u.tlb, unseen := u.unseen, free := s.free + 1 } u d (BitVec.ofNat 64 v) false (s.me.pc + 4) ∧
        Acquired s u x 5 (s.seenSync x p 8)) ∧
      (v < (s.g b).toNat → ∃ l, exec (.waitge d a b) s =
        .next (({ s with tlb := l, free := s.free + 1 } : State).updMe fun y => { y with run := .waitge d p (s.g a) (s.g b) }))) ∧
    (s.marked (s.vdOfThread s.cur.t) p = true → ∃ l, exec (.waitge d a b) s =
      .next (({ s with tlb := l } : State).takeTrap s.cur.t 0x08 (s.g a) s.me.pc s.cur.word))) ∧
  (∀ s t d p a v, t < 64 → (s.thread t).run = .waitge d p a v →
    let x := Agent.thread t
    let now := s.seenNat x p 8
    (s.reach (s.vdOfThread t) p = .fault → ∃ word, exec (.waitgeSatisfy t) s =
      .next (s.takeTrap t 0x07 a (s.thread t).pc word)) ∧
    (s.reach (s.vdOfThread t) p ≠ .fault → s.blocked (s.vdOfThread t) p 8 = false → s.divertWait (s.vdOfThread t) a.toNat = false →
      (s.marked (s.vdOfThread t) p = false → now < v.toNat → ∃ u, exec (.waitgeSatisfy t) s = .next u ∧
        u = { s with threads := u.threads, free := s.free + 1 } ∧ ∀ j, u.thread j = s.thread j) ∧
      (s.marked (s.vdOfThread t) p = false → v.toNat ≤ now → ∃ u, exec (.waitgeSatisfy t) s = .next u ∧
        (u.thread t).reg d = (if d = 0 then 0 else BitVec.ofNat 64 now) ∧
        (u.thread t).run = .running ∧ (u.thread t).pc = (s.thread t).pc + 4 ∧ (∀ q, q ≠ d → (u.thread t).reg q = (s.thread t).reg q) ∧
        (∀ j, j ≠ t → u.thread j = s.thread j) ∧ Acquired s u x 5 (s.seenSync x p 8) ∧
        u = { s with threads := u.threads, unseen := u.unseen, free := s.free + 1 }) ∧
      (s.marked (s.vdOfThread t) p = true → ∃ word, exec (.waitgeSatisfy t) s =
        .next (s.takeTrap t 0x08 a (s.thread t).pc word)))))

/-- R290: WAITC goes on where every class is within its count, 7 setting no limit; else it stalls, and WAITC_SATISFY lets
it go on once they are; `waitc 7, 7, 0, 7` encodes as 0x7800_0FC7. -/
def Obligations.WaitcWaitsForTheCounts : Prop :=
  let within := fun (x : ThreadState) (l st c tl : Nat) =>
    (l = 7 ∨ x.loads ≤ l) ∧ (st = 7 ∨ x.stores ≤ st) ∧ (c = 7 ∨ x.copies ≤ c) ∧ (tl = 7 ∨ x.tiles ≤ tl)
  (∀ s (l st c tl : BitVec 3), (within s.me l.toNat st.toNat c.toNat tl.toNat →
      ∃ u, exec (.waitc l st c tl) s = .next u ∧ Went s u (s.me.pc + 4)) ∧
    (¬ within s.me l.toNat st.toNat c.toNat tl.toNat → exec (.waitc l st c tl) s =
      .next (s.updMe fun x => { x with run := .waitc l.toNat st.toNat c.toNat tl.toNat }))) ∧
  (∀ s t l st c tl, t < 64 → (s.thread t).run = .waitc l st c tl →
    (within (s.thread t) l st c tl → exec (.waitcSatisfy t) s =
      .next (s.updThread t fun x => { x with run := .running, pc := x.pc + 4 })) ∧
    (¬ within (s.thread t) l st c tl → exec (.waitcSatisfy t) s = .next s)) ∧
  decodeWord 0x78000FC7 = .ok (.waitc 7 7 0 7)

/-- R293: WFI goes on at once where its condition holds (at user level a bit that the mask leaves open, else any bit), and
stalls else; WFI_WAKE lets it go on once it holds. -/
def Obligations.WfiWaitsForAPendingBit : Prop :=
  let met := fun (x : ThreadState) => ∃ k < 6, x.uipend.getLsbD k = true ∧ (x.level = 0 → x.uimask.getLsbD k = true)
  (∀ s, (met s.me → ∃ u, exec .wfi s = .next u ∧ Went s u (s.me.pc + 4)) ∧
    (¬ met s.me → exec .wfi s = .next (s.updMe fun x => { x with run := .wfi }))) ∧
  (∀ s t, t < 64 → (s.thread t).run = .wfi →
    (met (s.thread t) → exec (.wfiWake t) s = .next (s.updThread t fun x => { x with run := .running, pc := x.pc + 4 })) ∧
    (¬ met (s.thread t) → exec (.wfiWake t) s = .next s))

/-- R288, R196: APCVT gives an address of the aperture asked for unchanged, and 0 where the address does not lie in it; APTEST gives
1 or 0. For a thread nothing lies in .sp; .clu holds the addresses of aperture 0xFD with a core of the cluster and no reserved bit
set; .hbm, .com and .pod hold the translated addresses whose page has that target. Neither faults on the value of ga. -/
def Obligations.ApertureFormsAnswer : Prop :=
  ∀ s d a (ap : BitVec 3), Idle s [d, a] → ap.toNat ≤ 4 →
    let v := (s.g a).toNat
    let lies := (ap = 1 ∧ ClusterForm v) ∨
      (2 ≤ ap.toNat ∧ PageIn s (clusterOfThread s.cur.t) (s.vdOfThread s.cur.t) v (ap.toNat - 2))
    (lies → Completes (.apcvt d a ap) s d (s.g a) false ∧ Completes (.aptest d a ap) s d 1 false) ∧
    (¬ lies → Completes (.apcvt d a ap) s d 0 false ∧ Completes (.aptest d a ap) s d 0 false)

/-! ## Control core: system registers -/

/-- R57, R255 to R257, R108: SYSRD of a register that is held per thread, at its level, writes its value; TSTAT reads divz in bit
0, the scale causes of the device's cores in the cluster in [5:1], lastf in [15:8], the ready tasks, at most 4,095, in
[27:16], and 0 elsewhere. R345, R352, R355: BOOTSTAT, VDSTATE, XPRED and XPTAB read as their maps say, the last three for the thread's
device. -/
def Obligations.ThreadAndStatusRegistersAreRead : Prop :=
  (∀ s d (n : BitVec 15) r w v, sysLevels n.toNat = some (r, w) → threadReg s.me n.toNat = some v → r ≤ s.me.level.toNat → Idle s [d] →
    ∃ u, exec (.sysrd d n) s = .next u ∧ Wrote { s with free := u.free } u d v false (s.me.pc + 4)) ∧
  (∀ s d, Idle s [d] →
    let c := clusterOfThread s.cur.t
    let vd := s.vdOfThread s.cur.t
    ∃ u v, exec (.sysrd d 0x010) s = .next u ∧ Wrote { s with free := u.free } u d v false (s.me.pc + 4) ∧
      v.getLsbD 0 = s.divz c vd ∧ (∀ k < 5, v.getLsbD (1 + k) = true ↔ ScaleShown s c vd k) ∧
      v = BitVec.ofNat 64 (s.tstat s.cur.t) ∧
      v.extractLsb' 8 8 = s.me.lastf ∧ (v.extractLsb' 16 12).toNat = min (s.cluster c).ready.length 4095 ∧
      v.extractLsb' 6 2 = 0 ∧ v.extractLsb' 28 36 = 0) ∧
  (∀ s d, Idle s [d] →
    let vd := s.vdOfThread s.cur.t
    let reads := fun (n : BitVec 15) (v : Word) =>
      ∃ u, exec (.sysrd d n) s = .next u ∧ Wrote { s with free := u.free } u d v false (s.me.pc + 4)
    (s.me.level ≠ 0 → reads 0x020 (bootstatOf s)) ∧
    (vd ≠ noVd → reads 0x040 (vdstateOf s vd) ∧ reads 0x050 (BitVec.ofNat 64 (s.vd vd).xpred.toNat) ∧
      (s.me.level ≠ 0 → reads 0x051 (s.vd vd).xptab)))

/-- R57, R256, R108, R299: SYSWR, SYSSET and SYSCLR of the registers that are held per thread: at their level a value
within the limits is stored and the old value returned, and one that breaks a limit, or sets a reserved bit, is Malformed
and changes nothing.
R255, R257, R352, R345, R299: SYSWR of UIPEND clears the pending bits written as 1; SYSWR of TSTAT clears the divide flag of
the thread's device in its cluster and the scale causes in every core of the device there; SYSCLR of either does so and returns the
old value, SYSSET returns it and clears nothing. SYSWR of XPRED stores the control field, forgets the learned counts where it enables
the predictor, and is Malformed with XPTAB 0; SYSWR of XPTAB takes a multiple of 32; SYSWR of VDSTATE sets the idle field alone. That
bits [63:32] of a 32-bit register are reserved, and that SYSCLR never faults on a reserved bit, is log 74 (DEDUCED). -/
def Obligations.SystemRegistersAreWritten : Prop :=
  (∀ s (n : BitVec 15) a old, n.toNat ∈ [1, 2, 3, 4, 5, 6] → threadReg s.me n.toNat = some old →
    (n ≠ 4 → s.me.level ≠ 0) →
    (Idle s [a] → Clean s [a] →
      (∀ x, setThreadReg s.me n.toNat (s.g a) = some x → ∃ u, exec (.syswr a n) s = .next u ∧ OnlyMe s u ∧ u.me = { x with pc := x.pc + 4 }) ∧
      (setThreadReg s.me n.toNat (s.g a) = none → Traps (.syswr a n) s 0x03 0)) ∧
    (∀ d, Idle s [d, a] → Clean s [a] →
      (∀ x, setThreadReg s.me n.toNat ((old &&& fieldBits n.toNat) ||| s.g a) = some x → ∃ u, exec (.sysset d a n) s = .next u ∧
        Wrote { (s.updMe fun _ => x) with free := u.free } u d old false (s.me.pc + 4)) ∧
      (setThreadReg s.me n.toNat ((old &&& fieldBits n.toNat) ||| s.g a) = none → Traps (.sysset d a n) s 0x03 0) ∧
      (∀ x, setThreadReg s.me n.toNat (old &&& fieldBits n.toNat &&& ~~~(s.g a)) = some x → ∃ u, exec (.sysclr d a n) s = .next u ∧
        Wrote { (s.updMe fun _ => x) with free := u.free } u d old false (s.me.pc + 4)) ∧
      (setThreadReg s.me n.toNat (old &&& fieldBits n.toNat &&& ~~~(s.g a)) = none → Traps (.sysclr d a n) s 0x03 0))) ∧
  ((∀ s a, Idle s [a] → Clean s [a] → (s.g a).toNat < 64 → ∃ u, exec (.uipendWrite a) s = .next u ∧ OnlyMe s u ∧
    u.me = { s.me with pc := s.me.pc + 4, uipend := s.me.uipend &&& ~~~(BitVec.ofNat 32 (s.g a).toNat) }) ∧
  (∀ s a, Idle s [a] → Clean s [a] → (s.g a).toNat < 64 →
    let c := clusterOfThread s.cur.t
    let vd := s.vdOfThread s.cur.t
    ∃ u, exec (.tstatWrite a) s = .next u ∧ u.me = { s.me with pc := s.me.pc + 4 } ∧
      u.divz c vd = (s.divz c vd && !(s.g a).getLsbD 0) ∧ (∀ c' v', (c', v') ≠ (c, vd) → u.divz c' v' = s.divz c' v') ∧
      (∀ k, (u.core k).scaleStatus = if k / 24 = c then
        (s.core k).scaleStatus &&& ~~~(BitVec.ofNat 32 ((s.g a).toNat / 2)) else (s.core k).scaleStatus) ∧
      (∀ k, u.core k = { s.core k with scaleStatus := (u.core k).scaleStatus }) ∧
      (∀ c', u.cluster c' = { s.cluster c' with divz := (u.cluster c').divz }) ∧
      u = { s with threads := u.threads, cores := u.cores, clusters := u.clusters }) ∧
  (∀ s d a, Idle s [d, a] → Clean s [a] →
    let c := clusterOfThread s.cur.t
    let vd := s.vdOfThread s.cur.t
    let pend := BitVec.ofNat 64 s.me.uipend.toNat
    let stat := BitVec.ofNat 64 (s.tstat s.cur.t)
    (∃ u, exec (.sysclr d a 0x030) s = .next u ∧
      Wrote ({ s.updMe fun y => { y with uipend := y.uipend &&& ~~~(BitVec.ofNat 32 ((s.g a).toNat % 64)) } with free := u.free } : State)
        u d pend false (s.me.pc + 4)) ∧
    (∃ u, exec (.sysclr d a 0x010) s = .next u ∧
      Wrote { s with free := u.free, cores := u.cores, clusters := u.clusters } u d stat false (s.me.pc + 4) ∧
      u.divz c vd = (s.divz c vd && !(s.g a).getLsbD 0) ∧ (∀ c' v', (c', v') ≠ (c, vd) → u.divz c' v' = s.divz c' v') ∧
      (∀ k, (u.core k).scaleStatus = if k / 24 = c then
        (s.core k).scaleStatus &&& ~~~(BitVec.ofNat 32 ((s.g a).toNat % 64 / 2)) else (s.core k).scaleStatus)) ∧
    ((s.g a).toNat < 64 → (∃ u, exec (.sysset d a 0x030) s = .next u ∧ Wrote { s with free := u.free } u d pend false (s.me.pc + 4)) ∧
      ∃ u, exec (.sysset d a 0x010) s = .next u ∧ (Wrote { s with free := u.free, cores := u.cores, clusters := u.clusters } u d stat false
        (s.me.pc + 4)) ∧ (∀ c' v', u.divz c' v' = s.divz c' v') ∧ ∀ k, (u.core k).scaleStatus = (s.core k).scaleStatus)) ∧
  (∀ s a, Idle s [a] → Clean s [a] → s.me.level ≠ 0 → s.vdOfThread s.cur.t ≠ noVd →
    let vd := s.vdOfThread s.cur.t
    let went := fun (u : State) (t : State) => u = t.updMe fun x => { x with pc := x.pc + 4 }
    ((s.g a).toNat % 32 = 0 → ∃ u, exec (.syswr a 0x051) s = .next u ∧ went u (s.updVd vd fun y => { y with xptab := s.g a })) ∧
    ((s.g a).toNat % 32 ≠ 0 → Traps (.syswr a 0x051) s 0x03 0) ∧
    ((s.g a).toNat < 2 ^ 32 ∧ (s.g a).toNat / 2 ^ 8 % 2 ^ 6 = 0 ∧ (s.g a).toNat / 2 ^ 3 % 2 = 0 →
      ∃ u, exec (.syswr a 0x040) s = .next u ∧ went u (s.updVd vd fun y => { y with idle := (s.g a).toNat / 2 ^ 24 })) ∧
    (¬ ((s.g a).toNat < 2 ^ 32 ∧ (s.g a).toNat / 2 ^ 8 % 2 ^ 6 = 0 ∧ (s.g a).toNat / 2 ^ 3 % 2 = 0) → Traps (.syswr a 0x040) s 0x03 0)) ∧
  (∀ s a, Idle s [a] → Clean s [a] → s.me.level ≠ 0 → s.vdOfThread s.cur.t ≠ noVd →
    let vd := s.vdOfThread s.cur.t
    ((s.g a).toNat < 4 → ((s.g a).toNat % 2 = 1 → (s.vd vd).xptab ≠ 0) → ∃ u, exec (.xpredWrite a) s = .next u ∧
      u = (s.updVd vd fun y => { y with
        xpred := BitVec.ofNat 32 (s.g a).toNat
        learned := if (s.g a).toNat % 2 = 1 ∧ y.xpred.getLsbD 0 = false then [] else y.learned }).updMe
          fun x => { x with pc := x.pc + 4 }) ∧
    ((s.g a).toNat % 2 = 1 → (s.vd vd).xptab = 0 → Traps (.xpredWrite a) s 0x03 0)))

/-! ## Control core: tasks and other instructions of a device -/

/-- R258, R271, R294: TASKPUB takes an EMPTY expert record to PENDING, or to READY where its count is 0 (a record with a region
then stands at the tail of the ready queue), and remembers its home; ETRIG takes a RUNNING record without successors to TRIGGERED,
and is discarded where a fault of the task's region stands; TASKRES with 1 reclaims a RETIRED, FAULTED or KILLED record, TASKRES with 0
retires a future, a PENDING or READY record without a region, and of a RETIRED record is DoubleResolve. The result is the state, and
no byte outside the record changes. R261: TASKPUB of a basic record takes one dependence entry for each range, counts the distinct
tasks that it must wait for, and is decremented when they retire. Which faults stand against an ETRIG (a fault of the run, a stopped
slot, a parked request) is log 107 (DEDUCED). -/
def Obligations.TaskInstructionsMoveTheRecord : Prop :=
  ∀ s d a p, let vd := s.vdOfThread s.cur.t
    let c := homeOfMine s (s.g a)
    Safe s → RecordAt s (homeWho s (s.g a)) (s.g a) p → s.me.ops = [] →
    (Idle s [d, a] → Clean s [a] → s.homeOf vd (s.g a) = none → s.tileWaiting vd c (s.g a) = false → WordOf s p 0 →
      s.readNat p 4 < 2 ^ 16 → s.readNat p 4 / 2 ^ 6 % 2 = 1 →
      ∃ u, exec (.taskpub d a) s = .next u ∧ (∀ b, b < p ∨ p + 64 ≤ b → u.readByte b = s.readByte b) ∧
        (∃ h, u.homeOf vd (s.g a) = some h ∧ h.cluster = clusterOfThread s.cur.t ∧ h.thread = s.cur.t) ∧
        (s.readNat (p + 4) 4 ≠ 0 → WordOf u p 1 ∧ Answered s u d 1) ∧
        (s.readNat (p + 4) 4 = 0 → WordOf u p 2 ∧ Answered s u d 2 ∧
          (s.readNat (p + 0x10) 8 ≠ 0 → (u.cluster c).ready = (s.cluster c).ready ++
            [{ vd := vd, task := s.g a, prio := s.readNat p 4 / 16 % 4 }]))) ∧
    (∀ x, Idle s [d, a] → Clean s [a] → s.homeOf vd (s.g a) = none → s.tileWaiting vd c (s.g a) = false → WordOf s p 0 →
      s.readNat p 4 < 2 ^ 16 → s.readNat p 4 / 2 ^ 6 % 2 = 0 → s.tileSet (homeWho s (s.g a)) (s.readNat (p + 0x18) 8) = .ok x →
      x.rd = [] → x.wr = [] → (s.cluster c).deps.length + x.reads.length + x.writes.length ≤ 4096 →
      ∃ u qs, exec (.taskpub d a) s = .next u ∧ (∀ b, b < p ∨ p + 64 ≤ b → u.readByte b = s.readByte b) ∧
        qs.Nodup ∧ (∀ q, q ∈ qs ↔ WaitsFor s vd c x q) ∧ u.readNat (p + 4) 4 = qs.length ∧
        (u.cluster c).deps = (s.cluster c).deps ++ x.reads.map (fun r => ⟨vd, s.g a, r.1, r.2, false⟩) ++
          x.writes.map (fun r => ⟨vd, s.g a, r.1, r.2, true⟩) ∧
        (u.cluster c).succs = (s.cluster c).succs ++ qs.map (fun q => ⟨vd, q, s.g a, false⟩) ∧
        (qs ≠ [] → WordOf u p 1 ∧ Answered s u d 1) ∧
        (qs = [] → WordOf u p 2 ∧ Answered s u d 2 ∧ (s.readNat (p + 0x10) 8 ≠ 0 → (u.cluster c).ready = (s.cluster c).ready ++
          [{ vd := vd, task := s.g a, prio := s.readNat p 4 / 16 % 4 }]))) ∧
    (∀ b st, Idle s [d, a, b] → Clean s [a, b] → s.g b = 0 → st ∈ [1, 2] → WordOf s p st → s.readNat (p + 0x10) 8 = 0 →
      s.readNat (p + 8) 8 = 0 → (s.cluster c).succs = [] → (∀ k, ∀ y ∈ (s.cluster k).tiles, y.count = 0 ∨ y.task = none) →
      ∃ u, exec (.taskres d a b) s = .next u ∧ WordOf u p 5 ∧ Answered s u d 5 ∧
        ∀ b, b < p ∨ p + 4 ≤ b → u.readByte b = s.readByte b) ∧
    (Idle s [d, a] → Clean s [a] → WordOf s p 3 → s.readNat (p + 8) 8 = 0 → (s.cluster c).succs = [] →
      (s.faultStands vd (s.g a) = false → ∃ u, exec (.etrig d a) s = .next u ∧ WordOf u p 4 ∧ Answered s u d 4 ∧
        u.readNat p 4 / 2 ^ 16 = 0 ∧ ∀ b, b < p ∨ p + 4 ≤ b → u.readByte b = s.readByte b) ∧
      (s.faultStands vd (s.g a) = true → ∃ u, exec (.etrig d a) s = .next u ∧
        Wrote { s with unseen := u.unseen } u d 3 false (s.me.pc + 4))) ∧
    (∀ b st, Idle s [d, a, b] → Clean s [a, b] → s.g b = 1 → st ∈ [5, 6, 7] → WordOf s p st →
      ∃ u, exec (.taskres d a b) s = .next u ∧ WordOf u p 0 ∧ Answered s u d 0 ∧
        ∀ b, b < p ∨ p + 4 ≤ b → u.readByte b = s.readByte b) ∧
    (∀ b, Idle s [d, a, b] → Clean s [a, b] → s.g b = 0 → WordOf s p 5 → ∃ l, exec (.taskres d a b) s =
      .next (({ s with unseen := l } : State).takeTrap s.cur.t 0x17 0 s.me.pc s.cur.word))

/-- R260, R294: TASKJOIN of a predecessor that is EMPTY, FAULTED or KILLED answers 3 and changes nothing; of a RETIRED one it
decrements the successor, which gets READY at 0, and answers 1; of one that is PENDING, READY or RUNNING it writes the successor into
the first free place of its chain, of a TRIGGERED one into the first free place behind its trigger position, and answers 0; without a
free place it answers 2 and writes nothing. A successor that is not 64-byte aligned traps with Misaligned. -/
def Obligations.TaskjoinAppendsTheSuccessor : Prop :=
  ∀ s d a b p st, Idle s [d, a, b] → Clean s [a, b] →
    ((s.g b).toNat % 64 ≠ 0 → Traps (.taskjoin d a b) s 0x05 (s.g b)) ∧
    ((s.g b).toNat % 64 = 0 → s.me.ops = [] → RecordAt s (homeWho s (s.g a)) (s.g a) p → WordOf s p st →
      (st ∈ [0, 6, 7] → ∃ u, exec (.taskjoin d a b) s = .next u ∧ Wrote { s with unseen := u.unseen } u d 3 false (s.me.pc + 4)) ∧
      (st ∈ [1, 2, 3, 4] → s.readNat (p + 8) 8 = 0 →
        ∃ u, exec (.taskjoin d a b) s = .next u ∧ Wrote { s with unseen := u.unseen } u d 2 false (s.me.pc + 4)) ∧
      (∀ q k, Safe s → st ∈ [1, 2, 3, 4] → s.readNat (p + 8) 8 ≠ 0 → k < 7 →
        RecordAt s (homeWho s (s.g a)) (BitVec.ofNat 64 (s.readNat (p + 8) 8)) q → s.readNat (q + 8 * k) 8 = 0 →
        (st = 4 → s.readNat p 4 / 2 ^ 16 ≤ k) →
        (∀ j, j < k → (st = 4 → s.readNat p 4 / 2 ^ 16 ≤ j) → s.readNat (q + 8 * j) 8 ≠ 0) →
        ∃ u, exec (.taskjoin d a b) s = .next u ∧ Answered s u d 0 ∧
          Memory.readN u.mem (q + 8 * k) 8 = (s.g b).toNat ∧
          ∀ x, x < q + 8 * k ∨ q + 8 * k + 8 ≤ x → u.readByte x = s.readByte x) ∧
      (let vd := s.vdOfThread s.cur.t
       let c := homeOfMine s (s.g a)
       st = 5 →
        (s.homeCluster vd c (s.g b) ≠ c → ∃ u rel, exec (.taskjoin d a b) s = .next u ∧ Answered s u d 1 ∧
          u.decrs = s.decrs ++ [{ vd := vd, task := s.g b, rel := rel }] ∧ ∀ x, u.readByte x = s.readByte x) ∧
        (∀ q, Safe s → s.homeCluster vd c (s.g b) = c → RecordAt s (hwWho vd c) (s.g b) q → WordOf s q 1 →
          s.tileWaiting vd c (s.g b) = false →
          ∃ u, exec (.taskjoin d a b) s = .next u ∧ Answered s u d 1 ∧
            u.readNat (q + 4) 4 = (s.readNat (q + 4) 4 + 2 ^ 32 - 1) % 2 ^ 32 ∧
            (s.readNat (q + 4) 4 ≠ 1 → WordOf u q 1) ∧
            (s.readNat (q + 4) 4 = 1 → WordOf u q 2 ∧ (s.readNat (q + 0x10) 8 ≠ 0 → (u.cluster c).ready = (s.cluster c).ready ++
              [{ vd := vd, task := s.g b, prio := s.readNat q 4 / 16 % 4 }])) ∧
            ∀ x, x < q ∨ q + 8 ≤ x → u.readByte x = s.readByte x)))

/-- R298, R316: CHAIN appends an aligned record to a queue of the thread's die that the device holds: an idle queue starts
at the record; a queue that runs takes it in the next field of its tail record. The thread counts one more copy and gets
0. An operand with a bit above [9:0] is Malformed, a record that is not 64-byte aligned Misaligned, and a queue outside
the device AccessFault; that its info is the operand ga is logs 70 and 75 (DEDUCED). An append waits for the thread's own accesses to
the field that it writes (R285). -/
def Obligations.ChainAppendsARecord : Prop :=
  ∀ s d a b, Ready s [d, a, b] [a, b] →
    let n := (s.g b).toNat
    let q := 1024 * (clusterOfThread s.cur.t / 2) + 64 * (n % 16) + n / 16
    ((s.g a).toNat % 64 = 0 → 2 ^ 10 ≤ n → Traps (.chain d a b) s 0x03 0) ∧
    ((s.g a).toNat % 64 ≠ 0 → Traps (.chain d a b) s 0x05 (s.g a)) ∧
    (n < 2 ^ 10 → (s.g a).toNat % 64 = 0 → s.me.copies < 64 → s.me.acquiring = false →
      (s.queueVd q ≠ some (s.vdOfThread s.cur.t) → Traps (.chain d a b) s 0x07 (s.g a)) ∧
      (s.queueVd q = some (s.vdOfThread s.cur.t) → (s.queue q).bound = true →
        ((s.queue q).run = false → (s.queue q).stopped = false → ∃ u, exec (.chain d a b) s = .next u ∧
          (u.queue q).run = true ∧ (u.queue q).cur = s.g a ∧ (u.queue q).tail = s.g a ∧
          u.me.copies = s.me.copies + 1 ∧ u.me.reg d = 0 ∧ (∀ r, r ≠ d → u.me.reg r = s.me.reg r) ∧
          u.me.pc = s.me.pc + 4 ∧ ∀ x, u.readByte x = s.readByte x) ∧
        (∀ p x, (s.queue q).run = true → s.resolve (s.queueWho q) ((s.queue q).tail + 8) .wr = .ok p x →
          (∃ o ∈ s.me.ops, o.touches p 8 = true) → Stalls (.chain d a b) s) ∧
        (∀ p x, Safe s → (s.queue q).run = true → s.resolve (s.queueWho q) ((s.queue q).tail + 8) .wr = .ok p x →
          (∀ o ∈ s.me.ops, o.touches p 8 = false) →
          ∃ u, exec (.chain d a b) s = .next u ∧ (u.queue q).tail = s.g a ∧ (u.queue q).cur = (s.queue q).cur ∧
          Memory.readN u.mem p 8 = (s.g a).toNat ∧ (∀ x, x < p ∨ p + 8 ≤ x → u.readByte x = s.readByte x) ∧
          u.me.copies = s.me.copies + 1 ∧ u.me.reg d = 0 ∧ u.me.pc = s.me.pc + 4)))

/-- R297: RGNCONST writes one constants plane of a region of the device that is not loading, returns the old value, and
changes no other plane; a locator that names no handler table or sets a reserved bit, or a value with a bit above [31:0],
is Malformed. (Of a region that loads it waits: log 93, DESIGN CHOICE.)
R299, R345, R346: VDQUERY of the thread's own device gives VDSTATE, the wake counter or the resident bytes; another item, or a
number above 1,023, is Malformed. -/
def Obligations.RgnconstAndVdqueryAnswer : Prop :=
  (∀ s d a b r, Ready s [d, a, b] [d, a, b] → NamesRegion s (s.g a) r →
    let l := (s.g b).toNat
    let core := l / 2 ^ 14 % 2 ^ 9
    let elem := l / 2 ^ 7 % 2 ^ 7
    let slot := l / 4 % 32
    let conf := l % 4
    let plane := fun (s : State) (x e c k : Nat) =>
      (Sparse.atD (Sparse.atD (s.elem x e).confs c {}).planes k {}).const
    let bad := 2 ^ 32 ≤ (s.g d).toNat ∨ 2 ^ 23 ≤ l ∨ (s.region r).cores.length ≤ core ∨ 96 ≤ elem ∨
      (s.region r).confs.length ≤ conf
    (bad → Traps (.rgnconst d a b) s 0x03 0) ∧
    (¬ bad → (s.region r).status ≠ .loading → ∃ u, exec (.rgnconst d a b) s = .next u ∧
      Wrote { s with elems := u.elems } u d (BitVec.ofNat 64 (plane s r (128 * core + elem) conf slot).toNat) false (s.me.pc + 4) ∧
      plane u r (128 * core + elem) conf slot = BitVec.ofNat 32 (s.g d).toNat ∧
      ∀ e c k, e < 65536 → (e, c, k) ≠ (128 * core + elem, conf, slot) → plane u r e c k = plane s r e c k)) ∧
  (∀ s d a b, Idle s [d, a, b] →
    let v := s.vdOfThread s.cur.t
    (2 ^ 10 ≤ (s.g a).toNat ∨ 3 ≤ (s.g b).toNat → Traps (.vdquery d a b) s 0x03 0) ∧
    ((s.g a).toNat = v → (s.vd v).live = true → v < 1024 →
      (s.g b = 0 → Completes (.vdquery d a b) s d (vdstateOf s v) false) ∧
      (s.g b = 1 → Completes (.vdquery d a b) s d (s.vd v).counter false) ∧
      (s.g b = 2 → Completes (.vdquery d a b) s d (s.vd v).resident false)))

/-- R289, R292, R295, R296, R299: the tile operations that pass their checks at issue join the thread's list with their
destination busy and wait to be performed; RGNDRAIN and VDSLEEP begin their drain or collapse at once, VDSLEEP of a dormant
device gives 0 at once, and a cache instruction over 0 bytes does nothing. That RGNSAVE needs the whole save area, whose length the
image's opaque layout fixes, to be writable is log 103 (DESIGN CHOICE). -/
def Obligations.TileOperationsIssue : Prop :=
  ∀ s d a b, s.me.tiles < 64 → Ready s [d, a, b] [a, b] →
    let vd := s.vdOfThread s.cur.t
    (∀ (scope : BitVec 3), 1 ≤ scope.toNat → scope.toNat ≤ 5 →
      (s.g b = 0 → (∃ u, exec (.cflush a b scope) s = .next u ∧ Went s u (s.me.pc + 4)) ∧
        ∃ u, exec (.cinv a b scope) s = .next u ∧ Went s u (s.me.pc + 4)) ∧
      (s.g b ≠ 0 → (s.g b).toNat ≤ 2 ^ 32 →
        (∃ u, exec (.cflush a b scope) s = .next u ∧ Issued s u 0 (.tile (.cflush false (s.g a) (s.g b) scope.toNat))) ∧
        ∃ u, exec (.cinv a b scope) s = .next u ∧ Issued s u 0 (.tile (.cflush true (s.g a) (s.g b) scope.toNat)))) ∧
    (s.me.level ≠ 0 →
      ((s.g b).toNat < 2 → ∃ u, exec (.tlbinv d a b) s = .next u ∧ Issued s u d (.tile (.tlbinv (s.g b == 1) (s.g a)))) ∧
      ((s.g a).toNat = vd → vd < 1024 → (s.vd vd).live = true →
        ((s.vd vd).mode = .dormant → Completes (.vdsleep d a) s d 0 false) ∧
        ((s.vd vd).mode = .active → ∃ u u', exec (.vdsleep d a) s = .next u ∧ Issued s u' d (.tile (.vdsleep vd)) ∧
          u = u'.beginCollapse vd)) ∧
      (∀ r, NamesRegion s (s.g a) r →
        (∃ u, exec (.rgnkill d a) s = .next u ∧ Issued s u d (.tile (.rgnkill (s.g a).toNat))) ∧
        (∃ u, exec (.rgndrain d a) s = .next u ∧
          Issued (if (s.region r).status = .running then s.updRegion r fun x => { x with draining := !x.drained, frozenEnd := false } else s)
            u d (.tile (.rgndrain (s.g a).toNat))) ∧
        (s.g b = 0 → (s.region r).status ≠ .running → (s.region r).rank ≤ s.me.hrank.toNat % 8 →
          ∃ u, exec (.rgnstart d a b) s = .next u ∧ Issued s u d (.tile (.rgnstart (s.g a).toNat 0))) ∧
        (∀ r', NamesRegion s (s.g b) r' → (s.region r).activeNow = true → (s.region r').activeNow = false →
          (s.region r').status ≠ .loading → (s.region r').cores = (s.region r).cores →
          ∃ u, exec (.rgnswap d a b) s = .next u ∧ Issued s u d (.tile (.rgnswap (s.g a).toNat (s.g b).toNat))) ∧
        ((s.g b).toNat % 4096 = 0 → (s.region r).drained = true →
          s.areaFault (hwWho vd (clusterOfThread s.cur.t)) (s.g b).toNat .wr (s.imageSize r) = none →
          ∃ u, exec (.rgnsave d a b) s = .next u ∧ Issued s u d (.tile (.rgnsave (s.g a).toNat (s.g b))))) ∧
      (∀ im p x, (s.g a).toNat % 4096 = 0 → (s.g b).toNat < 2 ^ 24 →
        s.resolve (hwWho vd (clusterOfThread s.cur.t)) (s.g a) .rd = .ok p x →
        s.imageAt (hwWho vd (clusterOfThread s.cur.t)) (s.g a) = some im → im.vd = vd →
        ((List.range 24).countP fun k => (s.g b).getLsbD k) = im.region.cores.length →
        ∃ u, exec (.rgnrest d a b) s = .next u ∧ Issued s u d (.tile (.rgnrest (s.g a) (BitVec.ofNat 24 (s.g b).toNat)))) ∧
      (∀ x n, s.readDesc (hwWho vd (clusterOfThread s.cur.t)) (s.g a) = .ok x →
        s.descCores (hwWho vd (clusterOfThread s.cur.t)) (s.g a) = .ok n → n ≤ 24 → (s.g b).toNat < 2 ^ 24 →
        ((List.range 24).countP fun k => (s.g b).getLsbD k) = n →
        ((∀ p < 64, (s.region (64 * clusterOfThread s.cur.t + p)).live = true) → ∃ u, exec (.rgnload d a b) s = .next u ∧
          Issued s u d (.tile (.rgnload (s.g a) (BitVec.ofNat 24 (s.g b).toNat) noRid))) ∧
        (∀ p, s.freePlace (clusterOfThread s.cur.t) = some p → EdgeRises s s.cur.t x →
          let r := 64 * clusterOfThread s.cur.t + p
          ∃ u, exec (.rgnload d a b) s = .next u ∧ (u.region r).live = true ∧ (u.region r).status = x.status ∧
            (u.region r).cores = coresOfMask s.cur.t (s.g b).toNat ∧
            (u.region r).thread = s.cur.t ∧ u.me.reg d = (if d = 0 then 0 else BitVec.ofNat 64 (s.rid r)) ∧
            u.me.ops = s.me.ops ++ [{ kind := .tile (.rgnload (s.g a) (BitVec.ofNat 24 (s.g b).toNat) (s.rid r)), dest := 0,
                                      ord := 0, scope := 0 }] ∧
            u.me.pc = s.me.pc + 4 ∧ (∀ q, q ≠ r → u.region q = s.region q) ∧ ∀ z, u.readByte z = s.readByte z)))

/-- R289, R296, R299, R330 to R334, R346: how an outstanding tile operation is performed. RGNKILL frees the region and gives 0,
and waits while the region still loads, or stands loaded, with its task READY, or for an RGNSTART with a task record (R271).
RGNDRAIN gives 0 drained or 1 frozen, and waits while the drain goes on. RGNSTART starts a loaded region and gives 0, a task's
record becoming RUNNING, gives 1 where the load failed, and lets the parked requests of a started one go on. RGNSWAP exchanges the
two banks. RGNSAVE keeps the region's image, frees it and gives the image's length; RGNREST puts an image back at a place and
gives its RID. RGNLOAD takes a free place, gives the RID, and ends with the load. VDSLEEP begins the collapse and ends with it.
TLBINV of a page, or of every translation, leaves none of the device, once the thread's earlier stores are performed. A cache
instruction ends. What RGNSTART demands of a record is log 49, what RGNREST finds no image log 40 (both DEDUCED). -/
def Obligations.TileOperationsArePerformed : Prop :=
  ∀ s t k o, t < 64 → (s.thread t).ops[k]? = some o →
    let live := fun (v : Nat) => (s.region (v % 256)).live = true ∧ s.rid (v % 256) = v
    let now := exec (.threadOperationComplete t k) s
    ((∀ v, o.kind = .tile (.rgnkill v) → live v →
      let x := s.region (v % 256)
      let waits := (x.task ≠ none ∧ (x.status = .loading ∨ x.status = .loaded)) ∨ (x.status ≠ .running ∧
        ∃ q ∈ s.threads, ∃ y ∈ q.2.ops, ∃ a, y.kind = .tile (.rgnstart v a) ∧ a ≠ 0)
      (¬ waits → ∃ u, now = .next u ∧ u = (s.killRegion (v % 256)).endOp t k 0 false ∧ (u.region (v % 256)).live = false) ∧
      (waits → now = .next s)) ∧
    (∀ v, o.kind = .tile (.rgndrain v) → live v → (s.region (v % 256)).status = .running →
      ((s.region (v % 256)).drained = true → ∃ u, now = .next u ∧ Ended s u t k o.dest 0 false) ∧
      ((s.region (v % 256)).drained = false → (s.region (v % 256)).frozenEnd = true → ∃ u, now = .next u ∧ Ended s u t k o.dest 1 false) ∧
      ((s.region (v % 256)).drained = false → (s.region (v % 256)).frozenEnd = false → (s.region (v % 256)).draining = true →
        now = .next s))) ∧
    ((∀ v, o.kind = .tile (.rgnstart v 0) → live v → (s.region (v % 256)).status = .loaded → (s.region (v % 256)).load = none →
      ((s.region (v % 256)).loadFault ≠ 0 → ∃ u, now = .next u ∧ Ended s u t k o.dest 1 false ∧ (u.region (v % 256)).status = .loaded) ∧
      ((s.region (v % 256)).loadFault = 0 → (s.region (v % 256)).activeNow = true → ∃ u, now = .next u ∧ Ended s u t k o.dest 0 false ∧
        (u.region (v % 256)).status = .running ∧ (u.region (v % 256)).task = none ∧ (u.region (v % 256)).arg1 = 0)) ∧
    (∀ v a p, o.kind = .tile (.rgnstart v a) → a ≠ 0 → live v →
      let x := s.region (v % 256)
      let w := hwWho x.vd (s.homeCluster x.vd (v % 256 / 64) a)
      x.status = .loaded → x.load = none → x.loadFault = 0 → x.activeNow = true → Safe s → RecordAt s w a p → WordOf s p 2 →
      x.rank ≤ (s.thread t).hrank.toNat % 8 → s.blocksOf x.vd x.desc = [] →
      ∃ u, now = .next u ∧ Ended s u t k o.dest 0 false ∧ WordOf u p 3 ∧ (u.region (v % 256)).status = .running ∧
        (u.region (v % 256)).task = some a ∧ (u.region (v % 256)).arg1 = BitVec.ofNat 64 (s.readNat (p + 0x38) 8) ∧
        ∀ b, b < p ∨ p + 4 ≤ b → u.readByte b = s.readByte b) ∧
    (∀ v a, o.kind = .tile (.rgnstart v a) → live v → (s.region (v % 256)).status = .running →
      ∃ u, now = .next u ∧ Ended s u t k o.dest 0 false ∧ ∀ e < 65536, ∀ q ∈ (u.elem (v % 256) e).queue, q.parked = false)) ∧
    ((∀ v v', o.kind = .tile (.rgnswap v v') → live v → live v' → v % 256 ≠ v' % 256 →
      ∃ u, now = .next u ∧ Ended s u t k o.dest 0 false ∧ (u.region (v % 256)).activeNow = false ∧ (u.region (v' % 256)).activeNow = true ∧
        (∀ z, (u.port z).bind ≠ some (v % 256)) ∧ ∀ a, u.readByte a = s.readByte a) ∧
    (∀ v area, o.kind = .tile (.rgnsave v area) → live v → (∀ e ∈ s.elems, e.1 / 65536 = v % 256 → ∀ q ∈ e.2.queue, q.sent = false) →
      ∃ u im, now = .next u ∧ Ended s u t k o.dest (BitVec.ofNat 64 (s.imageSize (v % 256))) false ∧ u.images = s.images ++ [im] ∧
        im.region = s.region (v % 256) ∧ im.elems = s.elemsOf (v % 256) ∧ im.area = area ∧ im.len = s.imageSize (v % 256) ∧
        (u.region (v % 256)).live = false) ∧
    (∀ area mask im p, o.kind = .tile (.rgnrest area mask) → s.imageAt (hwWho (s.vdOfThread t) (clusterOfThread t)) area = some im →
      s.freePlace (clusterOfThread t) = some p → s.journalFits im = true → s.shelfFree (s.vdOfThread t) (clusterOfThread t) im = true →
      let r := 64 * clusterOfThread t + p
      ∃ u, now = .next u ∧ (u.region r).cores = coresOfMask t mask.toNat ∧ (u.region r).status = im.region.status ∧
        (u.region r).live = im.region.live ∧ Ended s u t k o.dest (BitVec.ofNat 64 (u.rid r)) false)) ∧
    ((∀ desc mask x p, o.kind = .tile (.rgnload desc mask noRid) → s.freePlace (clusterOfThread t) = some p →
      s.readDesc (hwWho (s.vdOfThread t) (clusterOfThread t)) desc = .ok x → EdgeRises s t x →
      let r := 64 * clusterOfThread t + p
      ∃ u q, now = .next u ∧ (u.region r).live = true ∧ (u.region r).status = x.status ∧
        (u.region r).cores = coresOfMask t mask.toNat ∧ (u.thread t).reg o.dest = (if o.dest = 0 then 0 else BitVec.ofNat 64 (s.rid r)) ∧
        (u.thread t).isBusy o.dest = false ∧ (u.thread t).ops[k]? = some q ∧ q.kind = .tile (.rgnload desc mask (s.rid r)) ∧ q.dest = 0) ∧
    (∀ desc mask v, o.kind = .tile (.rgnload desc mask v) → v < 2 ^ 16 → live v →
      ((s.region (v % 256)).status = .loading → now = .next s) ∧
      ((s.region (v % 256)).status ≠ .loading → ∃ u, now = .next u ∧ Ended s u t k o.dest 0 false)) ∧
    (∀ v, o.kind = .tile (.vdsleep v) →
      ((s.vd v).live = false ∨ (s.vd v).mode = .dormant → ∃ u, now = .next u ∧ Ended s u t k o.dest 0 false) ∧
      ((s.vd v).live = true → (s.vd v).mode = .active → now = .next (s.beginCollapse v)) ∧
      ((s.vd v).live = true → (s.vd v).mode = .collapsing ∨ (s.vd v).mode = .waking → now = .next s))) ∧
    (∀ all va, o.kind = .tile (.tlbinv all va) → (∀ j y, j < k → (s.thread t).ops[j]? = some y → y.isStore = false ∧
      y.isFrame = false ∧ (y.isLoad = false ∨ ∃ p n g, y.kind = .load p n g)) → s.repair = [] →
      let hit := fun (e : Nat × Nat × Word × Nat × Nat) => e.2.1 = s.vdOfThread t ∧ (all = true ∨
        e.2.2.1.toNat = va.toNat % 2 ^ 56 / leafBytes e.2.2.2.1 e.2.2.2.2 * leafBytes e.2.2.2.1 e.2.2.2.2)
      ∃ u, now = .next u ∧ (∀ e, e ∈ u.tlb ↔ e ∈ s.tlb ∧ ¬ hit e) ∧ Ended s u t k o.dest 0 false) ∧
    (∀ inv a n sc, o.kind = .tile (.cflush inv a n sc) → ∃ u, now = .next u ∧
      Ended s u t k o.dest 0 false ∧ ∀ x, u.readByte x = s.readByte x)

/-! ## Elements: compute -/

/-- R113 to R136, R96, R98, R102, R87: a firing of a compute instruction whose function, flags, arity and formats
fit takes its set, sends the function's result to dest0 and dest1, sets the causes of its scales in its core's status word
and the divide flag of its device in the cluster of its core, and changes nothing else; DFASTEP sends its request to dest0. -/
def Obligations.ComputeElementsFire : Prop :=
  (∀ s i w f p c d l, computeOf i = some (w, f) → CanFire s w → s.site.a % 128 < 64 → f (s.fin w) = .val p c d →
    tokensOf s w .both (s.out w (BitVec.ofNat 64 p)) = some l →
    ∃ u, exec i s = .next u ∧ Fired s u l ∧
      (∀ k, (u.core k).scaleStatus = if k = s.coreOf s.site.r s.site.a ∧ c ≠ 0 then
        (s.core k).scaleStatus ||| BitVec.ofNat 32 (c % 32) else (s.core k).scaleStatus) ∧
      ∀ x v, u.divz x v = (s.divz x v || (d && x == s.coreOf s.site.r s.site.a / 24 && v == (s.region s.site.r).vd))) ∧
  (∀ s w, CanFire s w → s.site.a % 128 < 64 → Shape w [2] (List.range 24) [0] →
    let x := s.fin w
    let off := (x.a.raw % 2 ^ 32 * 256 + x.b.raw % 256) * (if w.fn.toNat < 8 then 2 else if w.fn.toNat < 16 then 4 else 8)
    off < 2 ^ 41 → w.d0.valid = true → 64 ≤ w.d0.elem.toNat % 128 → w.d0.elem.toNat % 128 < 80 → w.d0.slot = 0 → w.d0.port = 0 →
    w.d1.valid = false → w.const.toNat < 2 ^ 23 → ∀ l,
    tokensOf s w .d0 { s.out w (BitVec.ofNat 64 (off + w.const.toNat * 2 ^ 41)) with kind := 2 } = some l → Fires (.dfastep w) s l)

/-- R116, R117: the results of the integer instructions on one 64-bit lane, and on lanes of every width; fn[0] makes lanes signed.
R118 to R124: the float instructions encode each lane once from the exact result that their table gives. R125, R126: the comparisons.
R127 to R133: SEL, the byte instructions, HASH64 and CRC32C. Where R77 and R82 differ, for a sum of +0 alone under RDN, the sign is
log 121's (DESIGN CHOICE); no clause states it for FDOT. -/
def Obligations.IntegerElementsComputeTheirLane : Prop :=
  ∀ x, let a := opWord x 0
    let b := opWord x 1
    let c := opWord x 2
    let sg := x.w.fn = 1
    let is := fun (f : FireIn → CRes) (v : Word) => f x = .val v.toNat 0 false
    (x.w.fn = 0 ∨ x.w.fn = 1) →
    (WholeWords x 2 → is cAdd (a + b) ∧ is cSub (a - b) ∧ is cMul (a * b) ∧ is cAnd (a &&& b) ∧ is cOr (a ||| b) ∧
      is cXor (a ^^^ b) ∧ is cAndn (a &&& ~~~b) ∧ is cShl (a <<< (b.toNat % 64)) ∧ is cShr (a >>> (b.toNat % 64)) ∧
      is cSar (a.sshiftRight (b.toNat % 64)) ∧ is cRot (a.rotateLeft (b.toNat % 64)) ∧
      (sg → is cMulhi ((BitVec.ofInt 128 (a.toInt * b.toInt)).extractLsb' 64 64) ∧
        is cMin (if a.toInt < b.toInt then a else b) ∧ is cMax (if a.toInt < b.toInt then b else a) ∧
        cDiv x = .val (signedDiv a b).1.toNat 0 (b == 0) ∧ cRem x = .val (signedDiv a b).2.toNat 0 (b == 0)) ∧
      (¬ sg → is cMulhi (BitVec.ofNat 64 (a.toNat * b.toNat / 2 ^ 64)) ∧
        is cMin (if a.toNat < b.toNat then a else b) ∧ is cMax (if a.toNat < b.toNat then b else a) ∧
        cDiv x = .val (unsignedDiv a b).1.toNat 0 (b == 0) ∧ cRem x = .val (unsignedDiv a b).2.toNat 0 (b == 0))) ∧
    (WholeWords x 3 → is cMad (a * b + c)) ∧
    (WholeWords x 1 → is cClz (BitVec.ofNat 64 (leadingZeros a)) ∧
      is cPopc (BitVec.ofNat 64 ((List.range 64).countP fun k => a.getLsbD k)) ∧
      is cAbs (if sg ∧ a.toInt < 0 then 0 - a else a)) ∧
    -- integer lanes of any width
    (∀ w : Nat,
      let s1 : Bool := x.w.fn == 1
      let v := fun k i => laneInt w s1 (x.op k).bits i
      let u := fun k i => laneBits w (x.op k).bits i
      let lanes := fun (f : FireIn → CRes) (z : Bool) (r : Nat → Int) =>
        ∃ pay, f x = .val pay 0 z ∧ LanesAre w pay fun i => (r i % 2 ^ w).toNat
      let n := fun i => (v 1 i % w).toNat
      (LanesFit x 2 .int w →
        lanes cAdd false (fun i => v 0 i + v 1 i) ∧ lanes cSub false (fun i => v 0 i - v 1 i) ∧ lanes cMul false (fun i => v 0 i * v 1 i) ∧
        lanes cMulhi false (fun i => v 0 i * v 1 i / 2 ^ w) ∧
        lanes cShl false (fun i => v 0 i * 2 ^ n i) ∧ lanes cShr false (fun i => u 0 i / 2 ^ n i) ∧
        lanes cSar false (fun i => laneInt w true (x.op 0).bits i / 2 ^ n i) ∧
        lanes cRot false (fun i => u 0 i * 2 ^ n i + u 0 i / 2 ^ (w - n i)) ∧
        lanes cMin false (fun i => min (v 0 i) (v 1 i)) ∧ lanes cMax false (fun i => max (v 0 i) (v 1 i)) ∧
        ∃ z, (z = true ↔ ∃ i < 64 / w, v 1 i = 0) ∧ lanes cDiv z (fun i => (divLaneOf w (v 0 i) (v 1 i)).1) ∧
          lanes cRem z (fun i => (divLaneOf w (v 0 i) (v 1 i)).2)) ∧
      (LanesFit x 2 .int w ∨ LanesFit x 2 .raw w →
        lanes cAnd false (fun i => (u 0 i &&& u 1 i : Nat)) ∧ lanes cOr false (fun i => (u 0 i ||| u 1 i : Nat)) ∧
        lanes cXor false (fun i => (u 0 i ^^^ u 1 i : Nat)) ∧ lanes cAndn false (fun i => (u 0 i &&& (2 ^ w - 1 - u 1 i) : Nat))) ∧
      (LanesFit x 3 .int w → lanes cMad false (fun i => v 0 i * v 1 i + v 2 i)) ∧
      (LanesFit x 1 .int w →
        lanes cClz false (fun i => if u 0 i = 0 then w else w - (Nat.log2 (u 0 i) + 1 : Nat)) ∧
        lanes cPopc false (fun i => ((List.range w).countP fun k => (u 0 i).testBit k : Nat)) ∧
        lanes cAbs false (fun i => if v 0 i < 0 then -(v 0 i) else v 0 i))) ∧
    (Sound x → x.w.flags = 0 →
      let L := x.out.fmt.lanes
      let v := floatLane x
      let fits := fun (n : Nat) => x.w.arity.toNat = n ∧ x.ops.length = n ∧ (∀ o ∈ x.ops, o.fmt.cls = .float ∧ o.fmt.lanes = L) ∧
        x.out.fmt.cls = .float
      let floats := fun (f : FireIn → CRes) (P : Nat → Sys2Proof.Num → Prop) => ∃ pay c, f x = .val pay c false ∧ pay < 2 ^ 64 ∧
        ∀ i < L, ∃ r, P i r ∧ laneBits x.out.fmt.width pay i = (encodeLane x.out false x.outSc i r).1 % 2 ^ x.out.fmt.width
      -- the float instructions (R118 to R120)
      (x.w.fn = 0 → fits 2 → floats cFadd (fun i r => IsSum x.out.round (v 0 i) (v 1 i) r) ∧
        floats cFsub (fun i r => IsSum x.out.round (v 0 i) (v 1 i).neg r) ∧ floats cFmul (fun i r => IsProduct (v 0 i) (v 1 i) r) ∧
        floats cFmin (fun i r => ((v 0 i).isNan = true → r = v 1 i) ∧ ((v 1 i).isNan = true → (v 0 i).isNan = false → r = v 0 i) ∧
          ((v 0 i).isNan = false → (v 1 i).isNan = false → (r = v 0 i ∨ r = v 1 i) ∧ ¬ RankBelow (v 0 i) r ∧ ¬ RankBelow (v 1 i) r)) ∧
        floats cFmax (fun i r => ((v 0 i).isNan = true → r = v 1 i) ∧ ((v 1 i).isNan = true → (v 0 i).isNan = false → r = v 0 i) ∧
          ((v 0 i).isNan = false → (v 1 i).isNan = false → (r = v 0 i ∨ r = v 1 i) ∧ ¬ RankBelow r (v 0 i) ∧ ¬ RankBelow r (v 1 i)))) ∧
      (x.w.fn = 0 → fits 3 → floats cFma (fun i r => ∃ p, IsProduct (v 0 i) (v 1 i) p ∧ IsSum x.out.round p (v 2 i) r)) ∧
      (x.w.fn.toNat ≤ 2 → fits 2 → floats cFsgn (fun i r => r.abs = (v 0 i).abs ∧ r.sign = (if x.w.fn = 0 then (v 1 i).sign
        else if x.w.fn = 1 then !(v 1 i).sign else (v 0 i).sign != (v 1 i).sign))) ∧
      (x.w.fn = 0 → fits 1 →
        floats cFrcp (fun i r => ((v 0 i).isNan = true → r.isNan = true) ∧ (∀ s, v 0 i = .inf s → ratOf r = some 0 ∧ r.sign = s) ∧
          (∀ q, ratOf (v 0 i) = some q → (q = 0 → r = .inf (v 0 i).sign) ∧ (q ≠ 0 → ratOf r = some (1 / q)))) ∧
        floats cFrsq (fun i r => ((v 0 i).isNan = true ∨ v 0 i = .inf true ∨ (∃ q, ratOf (v 0 i) = some q ∧ q < 0) → r.isNan = true) ∧
          (v 0 i = .inf false → ratOf r = some 0 ∧ r.sign = false) ∧ (ratOf (v 0 i) = some 0 → r = .inf (v 0 i).sign)) ∧
        floats cFexp2 (fun i r => ((v 0 i).isNan = true → r.isNan = true) ∧ (v 0 i = .inf false → r = .inf false) ∧
          (v 0 i = .inf true → ratOf r = some 0 ∧ r.sign = false) ∧ (ratOf (v 0 i) = some 0 → ratOf r = some 1) ∧
          (ratOf (v 0 i) = some 1 → ratOf r = some 2)) ∧
        floats cFlog2 (fun i r => ((v 0 i).isNan = true ∨ v 0 i = .inf true ∨ (∃ q, ratOf (v 0 i) = some q ∧ q < 0) → r.isNan = true) ∧
          (v 0 i = .inf false → r = .inf false) ∧ (ratOf (v 0 i) = some 0 → r = .inf true) ∧
          (ratOf (v 0 i) = some 1 → ratOf r = some 0 ∧ r.sign = false)))) ∧
    -- conversion, class, dot product and magnitude (R121 to R124)
    (x.w.flags = 0 → x.a.fmt.cls ≠ .raw → x.out.fmt.cls ≠ .raw → (x.w.fn.toNat / 8 % 2 = 1 → x.a.fmt.cls = .int) →
      let si := decide (x.w.fn.toNat / 8 % 2 = 1)
      let so := decide (x.w.fn.toNat / 16 = 1)
      let p := x.w.fn.toNat % 8
      let La := x.a.fmt.lanes
      let Lo := x.out.fmt.lanes
      let w := x.out.fmt.width
      let code := fun (i o : Nat) => (encodeLane x.out so x.outSc o (x.a.lane si i).1).1 % 2 ^ w
      let converts := fun (P : Nat → Nat → Prop) => ∃ pay c, cFcvt x = .val pay c false ∧ pay < 2 ^ 64 ∧ ∀ i < Lo, P i (laneBits w pay i)
      (x.w.arity = 1 → La = Lo → p = 0 → converts fun i l => l = code i i) ∧
      (x.w.arity = 1 → Lo < La → p < La / Lo → converts fun i l => l = code (p * Lo + i) i) ∧
      (La < Lo → p < Lo / La → x.w.arity = 1 ∨ (x.w.arity = 2 ∧ x.b.fmt = x.out.fmt) → converts fun i l =>
        (p * La ≤ i → i < (p + 1) * La → l = code (i - p * La) i) ∧
        (i < p * La ∨ (p + 1) * La ≤ i → l = if x.w.arity = 2 then laneBits w (x.b.passBits x.out).1 i else 0))) ∧
    (x.w.arity = 1 → x.w.fn = 0 → x.w.flags = 0 → x.a.fmt.cls = .float →
      x.out.fmt = (match x.a.fmt.lanes with | 2 => .i32 | 4 => .i16 | 8 => .i8 | _ => .raw) →
      ∃ pay, cFclass x = .val pay 0 false ∧
        LanesAre x.a.fmt.width pay fun i => classOf x.a.fmt (laneBits x.a.fmt.width (x.a.passBits x.out).1 i)) ∧
    (Sound x → x.w.fn = 0 → x.w.flags = 0 → (∀ o ∈ x.ops, o.fmt.cls = .float) → x.out.fmt.cls = .float →
      x.w.arity.toNat = x.ops.length → x.ops.length = 2 ∨ x.ops.length = 3 → x.b.fmt.lanes = x.a.fmt.lanes →
      x.a.fmt.lanes % x.out.fmt.lanes = 0 → (x.ops.length = 3 → x.c.fmt.lanes = x.out.fmt.lanes) →
      let g := x.a.fmt.lanes / x.out.fmt.lanes
      ∃ pay c, cFdot x = .val pay c false ∧ pay < 2 ^ 64 ∧ ∀ j < x.out.fmt.lanes, ∃ r,
        laneBits x.out.fmt.width pay j = (encodeLane x.out false x.outSc j r).1 % 2 ^ x.out.fmt.width ∧
        ((∃ i < g, (floatLane x 0 (j * g + i)).isNan = true ∨ (floatLane x 1 (j * g + i)).isNan = true) ∨
          (x.ops.length = 3 ∧ (floatLane x 2 j).isNan = true) → r.isNan = true) ∧
        (∀ A B : Nat → Rat, ∀ C : Rat, (∀ i < g, ratOf (floatLane x 0 (j * g + i)) = some (A i) ∧ ratOf (floatLane x 1 (j * g + i)) = some (B i)) →
          (x.ops.length = 2 → C = 0) → (x.ops.length = 3 → ratOf (floatLane x 2 j) = some C) →
          ratOf r = some ((List.range g).foldl (fun t i => t + A i * B i) 0 + C))) ∧
    (Sound x → x.w.fn = 0 → x.a.fmt.cls = .float → x.out.fmt.cls = .float → x.w.flags.toNat ≤ 1 →
      x.w.arity = 1 ∨ (x.w.arity = 2 ∧ x.b.fmt = x.out.fmt) →
      let seen := fun (l : Sys2Proof.Num) => (∃ i < x.a.fmt.lanes, floatLane x 0 i = l) ∨ (x.w.arity = 2 ∧ floatLane x 1 0 = l)
      ∃ pay c r, cAmax x = .val pay c false ∧ pay = (encodeLane x.out false x.outSc 0 r).1 % 2 ^ x.out.fmt.width ∧
        (x.w.flags = 0 → (∃ q, ratOf r = some q ∧ 0 ≤ q ∧ (q = 0 ∨ ∃ l, seen l ∧ ratOf l.abs = some q) ∧
          ∀ l p, seen l → ratOf l.abs = some p → p ≤ q)) ∧
        (x.w.flags = 1 → ((∃ l, seen l ∧ l.isNan = true) → r.isNan = true) ∧
          ((∀ l, seen l → l.isNan = false) → (∃ l, seen l ∧ l.isInf = true) → r = .inf false))) ∧
    -- comparison and selection (R125 to R127)
    (x.w.arity = 2 → x.ops.length = 2 → x.w.fn.toNat < 16 → x.a.fmt.lanes = x.b.fmt.lanes →
      ((∀ o ∈ x.ops, o.fmt.cls = .int) → x.w.fn.toNat / 2 < 6 → Compared x x.a.fmt.lanes
        (fun i => IntPredicate (x.w.fn.toNat / 2) (laneInt x.a.fmt.width (x.w.fn.toNat % 2 == 1) x.a.bits i)
          (laneInt x.a.fmt.width (x.w.fn.toNat % 2 == 1) x.b.bits i)) (cCmp x)) ∧
      (Sound x → (∀ o ∈ x.ops, o.fmt.cls = .float) → (8 ≤ x.w.fn.toNat → x.w.fn.toNat % 8 < 6) → Compared x x.a.fmt.lanes
        (fun i => FloatPredicate (x.w.fn.toNat % 8) (decide (8 ≤ x.w.fn.toNat)) (floatLane x 0 i) (floatLane x 1 i)) (cFcmp x))) ∧
    (x.w.arity = 3 → x.w.fn = 0 → x.w.flags = 0 → x.a.fmt = x.out.fmt → x.b.fmt = x.out.fmt →
      x.c.fmt = .raw ∨ x.c.fmt.lanes = x.out.fmt.lanes →
      let bits := fun k i => laneBits x.out.fmt.width ((x.op k).passBits x.out).1 i
      ∃ pay c, cSel x = .val pay c false ∧ LanesAre x.out.fmt.width pay fun i => if bits 2 i ≠ 0 then bits 0 i else bits 1 i) ∧
    -- bytes and hashing (R128 to R133)
    (x.out.fmt = .i64 ∨ x.out.fmt = .raw → x.w.flags = 0 →
      let A := fun i => byteOf x.a.raw i
      let B := fun i => byteOf x.b.raw i
      (x.w.fn = 0 → x.w.arity = 2 ∨ x.w.arity = 3 →
        (let n := if x.w.arity = 3 then min x.c.raw 8 else 8
         ∃ pay first, cBcmp x = .val pay 0 false ∧ pay < 2 ^ 25 ∧ pay / 2 ^ 16 % 2 ^ 8 = first ∧
          (∀ i < 8, (pay.testBit i = true ↔ n ≤ i ∨ A i = B i) ∧ (pay.testBit (8 + i) = true ↔ i < n ∧ A i < B i)) ∧
          (∀ i < first, i < n → A i = B i) ∧ (first = 8 ∨ (first < n ∧ A first ≠ B first)) ∧
          (pay.testBit 24 = true ↔ first < 8 ∧ A first < B first)) ∧
        ∃ pay, cBperm x = .val pay 0 false ∧ pay < 2 ^ 64 ∧ ∀ i < 8, byteOf pay i =
          if 128 ≤ B i then 0 else if B i % 16 < 8 then A (B i % 16) else if x.w.arity = 3 then byteOf x.c.raw (B i % 16 - 8) else 0) ∧
      (x.w.fn.toNat ≤ 2 → x.w.arity = 2 →
        let found := fun i => if x.w.fn = 0 then A i = B 0 else if x.w.fn = 1 then A i ≠ B 0 else B 0 ≤ A i ∧ A i ≤ B 1
        ∃ pay, cBfind x = .val pay 0 false ∧ pay < 2 ^ 16 ∧ (∀ i < 8, pay.testBit i = true ↔ found i) ∧
          (pay / 2 ^ 8 % 2 ^ 4 < 8 → found (pay / 2 ^ 8 % 2 ^ 4)) ∧ pay / 2 ^ 8 % 2 ^ 4 ≤ 8 ∧ (∀ i < pay / 2 ^ 8 % 2 ^ 4, ¬ found i) ∧
          pay / 2 ^ 12 = (List.range 8).countP fun i => pay.testBit i) ∧
      (x.w.fn = 0 → x.w.arity = 1 ∨ x.w.arity = 2 → cHash64 x =
        .val (hashOf (BitVec.ofNat 64 x.a.raw) (if x.w.arity = 2 then BitVec.ofNat 64 x.b.raw else 0)).toNat 0 false) ∧
      (x.w.fn.toNat < 8 → x.w.arity = 2 → cCrc32c x = .val (crcOf x.a.raw (x.b.raw % 2 ^ 32) (x.w.fn.toNat + 1)) 0 false))

/-- R49, R68, R109, R113, R115: at a compute instruction an undefined form is IllegalInstruction and stops the slot with its set
kept; formats that do not fit are Malformed and take the set; a poison data operand leaves as a poison token with its payload;
poison on a control port is Poison and stops the slot. That a poison operand leaves as poison also where the formats do not fit is
log 10 (DEDUCED). -/
def Obligations.BadFormsAndPoisonAtElements : Prop :=
  ∀ s i w f, computeOf i = some (w, f) → s.site.a < 65536 →
    let stopped := fun (t : State) (code token : Nat) =>
      (t.raise s.site.r code s.site.a s.site.slot s.site.tag.toNat 0 token).stopSlotAt s.site.r s.site.a s.site.slot
    (64 ≤ s.site.a % 128 ∨ f (s.fin w) = .illegal → exec i s = .next (stopped s 0x01 0)) ∧
    (s.site.a % 128 < 64 → CanFire s w → f (s.fin w) = .malformed → ∃ t, Fired s t [] ∧
      exec i s = .next (t.raise s.site.r 0x03 s.site.a s.site.slot s.site.tag.toNat 0 (s.site.firstTok fun _ _ => true))) ∧
    (s.site.a % 128 < 64 → f (s.fin w) ≠ .illegal → w.fire ≠ 2 →
      (∀ p l, (∀ k ∈ controlPorts i, s.site.poisonAt k = false) → s.site.firstPoison = some p →
        tokensOf s w .both { s.out w p with kind := 7 } = some l → Fires i s l) ∧
      (∀ k ∈ controlPorts i, s.site.poisonAt k = true → ∃ t, t.net = s.net ∧ t.elems = s.elems ∧
        exec i s = .next (stopped t 0x08 (s.site.firstTok fun _ m => m.tok.kind == 7))))

/-! ## Elements: flow, tags and contexts -/

/-- R137 to R141, R159, R96, R98, R102: STEER, MERGE, FORK, CONST, NOP and TAGGET send what the table says, a closed or open GATE
nothing or its data, and SINK nothing; a closed gate of rule 2 takes the set of any compute instruction. That SINK and a closed
GATE take a poison token silently is log 21 (DEDUCED), that FORK and GATE compare the lane count of a alone log 101 (DESIGN
CHOICE). -/
def Obligations.FlowElementsFire : Prop :=
  (∀ s w, CanFire s w → s.site.a % 128 < 96 →
    let x := inputOf s w
    let out := fun k => s.out w (BitVec.ofNat 64 (payOf x k))
    let fits := fun k => (x.op k).fmt.lanes = x.out.fmt.lanes
    let bnd : BitVec 4 := if w.flags = 1 then 1 else 0
    (Shape w [2] [0] [0] → w.fire = 0 → fits 0 → ∀ l,
      tokensOf s w (if payOf x 1 ≠ 0 then .d0 else .d1) (out 0) = some l → Fires (.steer w) s l) ∧
    (Shape w [1, 2, 3] [0] [0] → w.fire = 1 → ∀ k m t, s.site.ents = (k, m) :: t → fits k → ∀ l,
      tokensOf s w .both (out k) = some l → Fires (.merge w) s l) ∧
    (Shape w [2] [0] [0] → w.fire = 0 → fits 0 → ∀ l l', tokensOf s w .d0 (out 0) = some l →
      tokensOf s w .d1 (out 1) = some l' → Fires (.fork w) s (l ++ l')) ∧
    (Shape w [1] [0, 1] [0, 1] → ∀ l, tokensOf s w .both { s.out w (BitVec.ofNat 64
      ((constOpnd x.out.fmt x.out (w.fn == 1) w.const).passBits x.out).1) with kind := bnd } = some l → Fires (.const w) s l) ∧
    (Shape w [1, 2, 3] [0] [0, 1] → fits 0 → ∀ l, tokensOf s w .both { out 0 with kind := bnd } = some l → Fires (.nop w) s l) ∧
    (Shape w [1] [0] [0] → x.out.fmt = .i64 ∨ x.out.fmt = .raw → ∀ l, tokensOf s w .both
      (s.out w (BitVec.ofNat 64 (s.site.seq.toNat * 2 ^ 24 + s.site.tag.toNat))) = some l → Fires (.tagget w) s l)) ∧
  (∀ s w, s.site.a % 128 < 96 → s.site.a < 65536 → w.fire ≠ 2 → Shape w [1, 2, 3] [0] [0] →
    (s.site.firstPoison = none → ((inputOf s w).op 0).fmt.lanes = (inputOf s w).out.fmt.lanes) → Fires (.sink w) s []) ∧
  (∀ s w p c, s.site.a % 128 < 96 → s.site.a < 65536 → w.fire = 2 → Shape w [1, 2] [0] [0, 1] →
    s.site.fed 3 = some (p, c, false) →
    ((p ≠ 0 ↔ w.flags = 1) → Fires (.gate w) s []) ∧
    (¬ (p ≠ 0 ↔ w.flags = 1) → (∀ k, s.site.poisonAt k = false) →
      let x := inputOf s w
      (x.op 0).fmt.lanes = x.out.fmt.lanes → ∀ l l', tokensOf s w .d0 (s.out w (BitVec.ofNat 64 (payOf x 0))) = some l →
        tokensOf s w .d1 (s.out w (BitVec.ofNat 64 (payOf x 1))) = some l' →
        Fires (.gate w) s (if w.arity = 2 then l ++ l' else l))) ∧
  (∀ s i w f c, computeOf i = some (w, f) → s.site.a % 128 < 64 → f (s.fin w) ≠ .illegal → w.fire = 2 →
    s.site.fed 3 = some (0, c, false) → Fires i s [])

/-- R137, R141 to R144, R99: TAGSET and SEQSET send a under the tag or sequence that b gives; CTXALLOC binds the lowest free
context to the tag, or finds it bound, and sends a; where none is free it waits; CTXRET sends a to the parent tag and frees the
context; CTXFREE frees the context that a names. R156: CHBIND and SCLSET send the old entry or scale register and write the new
one; the values written are 32 bits wide, and the entry is a channel entry. That CTXRET sends before it frees is log 121 (DESIGN
CHOICE). -/
def Obligations.TagContextAndBindingElementsFire : Prop :=
  (∀ s w, CanFire s w → s.site.a % 128 < 96 →
    let x := inputOf s w
    let r := s.site.r
    let out := s.out w (BitVec.ofNat 64 (payOf x 0))
    let b := payOf x 1
    (x.op 0).fmt.lanes = x.out.fmt.lanes →
    (Shape w [2] [0, 1] [0] → b < 2 ^ 28 → ctxBound (s.region r) (b / 2 ^ 16 % 256) = true → ∀ l, tokensOf s w .both
      { out with tag := BitVec.ofNat 24 b, seq := if w.fn = 1 then BitVec.ofNat 4 (b / 2 ^ 24) else out.seq } = some l →
      Fires (.tagset w) s l) ∧
    (Shape w [2] [0] [0] → b < 16 → ∀ l, tokensOf s w .both { out with seq := BitVec.ofNat 4 b } = some l →
      Fires (.seqset w) s l) ∧
    (Shape w [1] [0] [0] →
      ((∃ k, childOf (s.region r) s.site.tag = some k) → ∀ l, tokensOf s w .both out = some l → Fires (.ctxalloc w) s l) ∧
      (childOf (s.region r) s.site.tag = none → (∀ k < 256, ctxBound (s.region r) k = true) →
        ∃ u, exec (.ctxalloc w) s = .next u ∧ u.net = s.net ∧ u.elems = s.elems) ∧
      (∀ k, childOf (s.region r) s.site.tag = none → k < 256 → ctxBound (s.region r) k = false →
        (∀ j < k, ctxBound (s.region r) j = true) →
        let c : Ctx := { bound := true, parent := BitVec.ofNat 8 (tagCtx s.site.tag), iter := tagIter s.site.tag }
        let t := s.updRegion r fun y => { y with ctxs := Sparse.put y.ctxs k c }
        ∀ l, tokensOf t w .both out = some l → ∃ u, exec (.ctxalloc w) s = .next u ∧ Fired t u l ∧
          Sparse.atD (u.region r).ctxs k {} = c)) ∧
    (Shape w [1] [0] [0] → ∀ g l, parentTag (s.region r) (tagCtx s.site.tag) = some g →
      tokensOf s w .both { out with tag := g } = some l → ∃ u, exec (.ctxret w) s = .next u ∧ u.net = s.net ++ l ∧
        ctxBound (u.region r) (tagCtx s.site.tag) = false) ∧
    (Shape w [1] [0] [0] → ∀ k, payOf x 0 = k → 1 ≤ k → k < 256 → ctxBound (s.region r) k = true →
      w.d0.tagop = 0 → w.d1.tagop = 0 → ∀ l, tokensOf s w .both out = some l →
      ∃ u, exec (.ctxfree w) s = .next u ∧ u.net = s.net ++ l ∧ ctxBound (u.region r) k = false)) ∧
  (∀ s w, CanFire s w → s.site.a % 128 < 64 →
    let x := inputOf s w
    let v := payOf x 0
    v < 2 ^ 32 → (x.op 0).fmt.lanes = x.out.fmt.lanes →
    (Shape w [1] (List.range 32) [0] → (Chan.ofBits? v).isSome = true → ∀ l, tokensOf s w .both (s.out w (BitVec.ofNat 64
        (Sparse.atD (s.elem s.site.r s.site.a).bank.chans w.fn.toNat 0).toNat)) = some l →
      ∃ u, exec (.chbind w) s = .next u ∧ Fired s u l ∧
        Sparse.atD (u.elem s.site.r s.site.a).bank.chans w.fn.toNat 0 = BitVec.ofNat 32 v) ∧
    (Shape w [1] (List.range 16) [0] → ∀ l,
      tokensOf s w .both (s.out w (BitVec.ofNat 64 ((s.unit s.site.r s.site.a).sc w.fn.toNat))) = some l →
      ∃ u, exec (.sclset w) s = .next u ∧ Fired { s with units := u.units } u l ∧
        (u.unit s.site.r s.site.a).sc w.fn.toNat = v ∧
        ∀ k, k < 16 → k ≠ w.fn.toNat → (u.unit s.site.r s.site.a).sc k = (s.unit s.site.r s.site.a).sc k))

/-! ## Elements: loops, accumulation, rows and merging -/

/-- R145, R147, R148: LOOPGEN takes its set and arms a generator for n iterations from f, and sets the window base where n is not
0, by a control token to each of its elements in this package; LOOPRET sends a retire token to port p of dest0 and a to dest1;
ACCUM opens with b, adds each a, and sends the sum under the tag of its first iteration where a has last set. That ACCUM takes b's
codes as its running value and keeps it as the out channel encodes it is logs 26 (DEDUCED) and 101 (DESIGN CHOICE), that LOOPGEN's
b has any lane count log 121 (DESIGN CHOICE). -/
def Obligations.LoopAndAccumElementsFire : Prop :=
  ∀ s w, CanFire s w → s.site.a % 128 < 64 → w.fire ≠ 2 →
    let x := inputOf s w
    let r := s.site.r
    let e := s.elem r s.site.a
    let c := tagCtx s.site.tag
    let it := tagIter s.site.tag
    (Shape w [1, 2] [0] [0] →
      let f := payOf x 0 / 2 ^ 32
      let n := payOf x 0 % 2 ^ 32
      (∀ m, s.site.entry 0 = some m → m.tok.kind.toNat ≤ 1) → (x.op 0).fmt.lanes = x.out.fmt.lanes → w.const.toNat ≤ 256 →
        f < 2 ^ 16 → n ≤ 65536 → f + n ≤ 65536 →
      ∃ u, exec (.loopgen w) s = .next u ∧ Fired { s with ctl := u.ctl } u [] ∧
        (u.elem r s.site.a).gens = e.gens ++ [{
          slot := s.site.slot, ctx := BitVec.ofNat 8 c, iter := it, f := f, n := n, j := 0, live := [],
          cap := if w.const = 0 then (s.region r).tagwin else w.const.toNat, seq := s.site.seq,
          seed := if w.arity = 2 then some (BitVec.ofNat 64 (payOf x 1)) else none, poison := false, past := s.site.past }] ∧
        u.ctl = s.ctl ++ (if n = 0 then [] else (((List.range (s.region r).cores.length).filter fun k =>
          !isFar (s.coreOf r (128 * k))).flatMap fun k => (List.range 96).map fun i => 128 * k + i).map fun a =>
            { r := r, elem := a, ctx := BitVec.ofNat 8 c, base := BitVec.ofNat 16 f })) ∧
    (Shape w [1] [0] [0] → w.d0.valid = true → w.d0.port = 3 → (x.op 0).fmt.lanes = x.out.fmt.lanes → ∀ l l',
      tokensOf s w .d0 { s.out w 0 with kind := 6 } = some l →
      tokensOf s w .d1 (s.out w (BitVec.ofNat 64 (payOf x 0))) = some l' → Fires (.loopret w) s (l ++ l')) ∧
    (Shape w [2] [0, 1] [0] →
      (∀ m, s.site.ents = [(1, m)] → m.tok.kind = 0 → x.out.fmt.cls ≠ .raw → x.b.fmt = x.out.fmt →
        ∃ u, exec (.accum w) s = .next u ∧ Fired s u [] ∧ (u.elem r s.site.a).accums = e.accums ++ [{
          slot := s.site.slot, ctx := BitVec.ofNat 8 c, it0 := it, next := it, seq := s.site.seq,
          value := BitVec.ofNat 64 x.b.bits, poison := none, past := s.site.past }]) ∧
      (∀ m z, s.site.ents = [(0, m)] → e.accums.find? (fun z => z.slot == s.site.slot && z.ctx.toNat == c) = some z →
        z.next - z.it0 ≤ (it + 65536 - z.it0) % 65536 → x.out.fmt.cls ≠ .raw → x.a.fmt.cls = x.out.fmt.cls → x.a.fmt.lanes = x.out.fmt.lanes →
        let v := BitVec.ofNat 64 (accumAdd x z.value).1
        let past := joinPast z.past s.site.past
        let same := fun (q : Accum) => q.slot == z.slot && q.ctx == z.ctx
        (s.site.last = false → z.next < z.it0 + 65535 → ∃ u, exec (.accum w) s = .next u ∧ Fired s u [] ∧
          (u.elem r s.site.a).accums = replaceFirst same (fun _ => { z with value := v, next := z.next + 1, past := past }) e.accums) ∧
        (s.site.last = true → ∀ l, tokensOf s w .both {
            kind := if z.poison.isSome then 7 else 0, pay := z.poison.getD v, tag := mkTag z.ctx.toNat z.it0, seq := z.seq,
            last := false, chan := w.out, past := past } = some l →
          ∃ u, exec (.accum w) s = .next u ∧ Fired s u l ∧ (u.elem r s.site.a).accums = removeFirst same e.accums)))

/-- R149, R150: COMPRESS and TOPK add the elements of each token of a row; the token with last set ends it, and then the
entries chosen go to dest0, the last of them with last set, and their count to dest1, all with sequence 0.
R151: MERGE2 of two heads in order with the same coordinate takes both and sends both payloads; with a lower a it takes
a alone, and sends it, with its coordinate on the other side, in a union; once both streams have ended a terminator
follows. -/
def Obligations.RowAndMergeElementsFire : Prop :=
  (∀ s w, CanFire s w → s.site.a % 128 < 64 → w.fire ≠ 2 → Shape w [1] [0, 1] [0, 1] →
    let x := inputOf s w
    let e := s.elem s.site.r s.site.a
    let z := (e.rows.find? fun z => z.slot == s.site.slot).getD
      { slot := s.site.slot, tag := s.site.tag, taken := 0, lanes := 0, elems := [], dead := false }
    let els := z.elems ++ (rowTake x w z.taken).1
    let past := joinPast z.past s.site.past
    z.dead = false → rowBad x w z = false →
    (s.site.last = false → ∀ i ∈ [Instr.compress w, Instr.topk w], ∃ u, exec i s = .next u ∧ Fired s u [] ∧
      (u.elem s.site.r s.site.a).rows = (e.rows.filter fun q => q.slot != s.site.slot) ++
        [{ z with taken := z.taken + 1, lanes := x.a.fmt.lanes, elems := els, past := past }]) ∧
    (s.site.last = true → ∀ (f g : Emission → List Flight),
      (∀ q, q.kind = 0 → q.tag = z.tag → tokenTo s w.d0 q = some (f q) ∧ tokenTo s w.d1 q = some (g q)) →
      let sent := fun (p : List Word × Nat) =>
        let tok := fun (v : Word) (l : Bool) =>
          ({ kind := 0, pay := v, tag := z.tag, seq := 0, last := l, chan := w.out, past := past } : Emission)
        ((p.1.zip (List.range p.1.length)).flatMap fun q => f (tok q.1 (q.2 + 1 == p.1.length))) ++
          g (tok (BitVec.ofNat 64 p.2) true)
      Fires (.compress w) s (sent (compressEntries w.const.toNat els)) ∧ Fires (.topk w) s (sent (topEntries w.const.toNat els)))) ∧
  (∀ s w m n, s.site.a < 65536 → s.site.a % 128 < 64 → w.fire ≠ 2 → Shape w [2] [0, 1] [0] → s.site.ents = [(0, m), (1, n)] →
    let z := mergeOf (s.elem s.site.r s.site.a) s.site.slot s.site.tag
    let x := inputOf s w
    let tok := fun (v : Word) =>
      ({ kind := 0, pay := v, tag := s.site.tag, seq := m.tok.seq, last := m.tok.last, chan := w.out, past := s.site.past } : Emission)
    let coord := fun (m : MsEntry) => m.tok.payload.toNat % 2 ^ 32
    let after := fun (o : Option Nat) (m : MsEntry) => ∀ c, o = some c → c < coord m
    m.tok.kind ≠ 7 → n.tok.kind ≠ 7 → coord m ≠ 0xFFFFFFFF → coord n ≠ 0xFFFFFFFF → after z.lastA m → after z.lastB n →
    z.endA = false → z.endB = false → (x.op 0).fmt.lanes = x.out.fmt.lanes → (x.op 1).fmt.lanes = x.out.fmt.lanes →
    (coord m = coord n → ∀ l l' t, tokensOf s w .d0 (tok m.tok.payload) = some l → tokensOf s w .d1 (tok n.tok.payload) = some l' →
      (if m.tok.last && n.tok.last then tokensOf s w .both { s.out w 0xFFFFFFFF with last := true } else some []) = some t →
      Fires (.merge2 w) s (l ++ l' ++ t)) ∧
    (coord m < coord n → ∀ l l', tokensOf s w .d0 (tok m.tok.payload) = some l →
      tokensOf s w .d1 (tok (BitVec.ofNat 64 (coord m))) = some l' →
      ∃ u, exec (.merge2 w) s = .next u ∧ u.net = s.net ++ (if w.fn = 1 then l ++ l' else []) ∧
        (u.elem s.site.r s.site.a).store = (s.elem s.site.r s.site.a).store.filter fun q => q.stamp != m.stamp))

/-! ## Elements: system -/

/-- R152 to R155, R157, R158: what the system instructions do: TOKOUT adds a token to its port, and waits where it is full; TRAP
raises IllegalInstruction with a and stops, or passes a on; ETRIG triggers its task once and passes a on; DONE tells the
sequencer, of this package or of the one that steps the region; CNTWATCH sets a watch, and waits where all 8 are in use; CHAIN
appends to its queue. DONE in a part of a region that another package steps is log 116 (DESIGN CHOICE), the fields of TOKOUT's
token that R152 does not give log 25 (DESIGN CHOICE). -/
def Obligations.SystemElementsFire : Prop :=
  ∀ s w, CanFire s w → s.site.a % 128 < 64 →
    let x := inputOf s w
    let r := s.site.r
    let core := s.coreOf r s.site.a
    let die := core / 48
    let out := s.out w (BitVec.ofNat 64 (payOf x 0))
    let fits := (x.op 0).fmt.lanes = x.out.fmt.lanes
    (Shape w [1] [0] [0] → fits → w.const.toNat < 512 → w.d0.valid = false → w.d1.valid = false → w.const.toNat ≠ 255 →
      (s.portOf (s.region r).vd die w.const.toNat = none →
        ∃ t, Fired s t [] ∧ exec (.tokout w) s = .next (t.raise r 0x07 s.site.a s.site.slot s.site.tag.toNat 0
          (s.site.firstTok fun _ _ => true))) ∧
      ∀ p, s.portOf (s.region r).vd die w.const.toNat = some p →
        (s.portTakes p = true → ∃ u t, exec (.tokout w) s = .next u ∧ u.portFifo p = s.portFifo p ++ [t] ∧ u.net = s.net ∧
          t.vd = (s.region r).vd ∧ t.r = some r ∧ t.tok.payload = out.pay ∧ tokTag t.tok = s.site.tag ∧
          t.tok.seq = s.site.seq ∧ t.tok.last = s.site.last ∧ t.past = s.site.past) ∧
        (s.portTakes p = false → ∃ u, exec (.tokout w) s = .next u ∧ u.net = s.net ∧ u.elems = s.elems ∧ u.ports = s.ports)) ∧
    (w.const.toNat < 2 ^ 15 →
      let raised := fun (t : State) => t.raise r 0x01 s.site.a s.site.slot s.site.tag.toNat (2 ^ 63 + w.const.toNat)
        (tokBits (s.tokenA w x))
      (Shape w [1] [0] [0] → fits → ∃ t, t.net = s.net ∧ t.elems = s.elems ∧
        exec (.elemTrap w) s = .next ((raised t).stopSlotAt r s.site.a s.site.slot)) ∧
      (Shape w [1] [1] [0] → fits → ∀ l, tokensOf s w .both out = some l → ∃ t u, t.net = s.net ∧ t.elems = s.elems ∧
        exec (.elemTrap w) s = .next u ∧ Fired { raised t with site := s.site } u l)) ∧
    (Shape w [1] [1, 2, 3, 4, 5] [0] → fits →
      ((s.region r).task = none ∨ (s.region r).triggered = true → ∀ l, tokensOf s w .both out = some l →
        ∃ u, exec (.elemEtrig w) s = .next u ∧ u.net = s.net ++ l) ∧
      (∀ a, (s.region r).task = some a → (s.region r).triggered = false →
        ∃ t u, Fired { s with mem := t.mem, poison := t.poison, unseen := t.unseen } t [] ∧ exec (.elemEtrig w) s = .next u ∧
          let y := s.streamAgent r s.site.a s.site.slot
          let q := t.triggerTask (s.region r).vd (r / 64) [t.releaseOf y s.site.past w.fn.toNat] a
          Performed s t y w.fn.toNat ∧
          (u.region r).triggered = (q.2 == 4) ∧
          u = (q.1.updRegion r fun y => { y with triggered := q.2 == 4 }).pass w x 0 .both id)) ∧
    (Shape w [1] [0, 1] [0] → fits →
      ((s.region r).lead ≠ none → ∃ u, exec (.done w) s = .next u ∧ Fired s u []) ∧
      ((s.region r).lead = none → (s.region r).doneRecv = false → ∃ u, exec (.done w) s = .next u ∧ Fired s u [] ∧
        (u.region r).doneRecv = true ∧
        (u.region r).stopFlag = (w.fn == 1)) ∧
      ((s.region r).lead = none → (s.region r).doneRecv = true → ∃ t, Fired s t [] ∧
        exec (.done w) s = .next (t.raise r 0x03 0xFFFF 0xFF s.site.tag.toNat 0 (tokBits (doneToken s.site))))) ∧
    (Shape w [2] [1, 2, 3, 4, 5] [0] → fits →
      ((s.core core).watches.length < 8 → ∃ u, exec (.cntwatch w) s = .next u ∧ Fired s u [] ∧
        (u.core core).watches = (s.core core).watches ++ [{
          r := r, elem := s.site.a, slot := s.site.slot, tag := s.site.tag, seq := s.site.seq, last := s.site.last,
          addr := BitVec.ofNat 64 (payOf x 0), target := BitVec.ofNat 64 (payOf x 1), scope := w.fn.toNat,
          d0 := w.d0, d1 := w.d1, chan := w.out, past := s.site.past }]) ∧
      (8 ≤ (s.core core).watches.length → ∃ u, exec (.cntwatch w) s = .next u ∧ u.elems = s.elems ∧ u.cores = s.cores)) ∧
    (Shape w [1] [0] [0] → fits → w.const.toNat < 1024 → isEngineGate w.d0 = true → w.d1.valid = false →
      let q := 1024 * die + 64 * (w.const.toNat % 16) + w.const.toNat / 16
      s.queueVd q = some (s.region r).vd → (s.queue q).bound = true → (s.queue q).run = false → (s.queue q).stopped = false →
      payOf x 0 % 64 = 0 → ∃ u, exec (.elemChain w) s = .next u ∧ (u.queue q).run = true ∧
        (u.queue q).cur = BitVec.ofNat 64 (payOf x 0) ∧ (u.queue q).tail = BitVec.ofNat 64 (payOf x 0) ∧ u.net = s.net)

/-! ## Elements: memory -/

/-- R183 to R195, R202, R167: the memory instructions whose operands pass their checks queue one request, with the operation,
offset, size, order and scope that fn, flags and operands give. -/
def Obligations.MemoryElementsQueueTheirRequest : Prop :=
  ∀ s w, CanFire s w → 64 ≤ s.site.a % 128 → s.site.a % 128 < 80 → (s.elem s.site.r s.site.a).queue.length < 64 →
    let x := inputOf s w
    let p := fun k => payOf x k
    let v := fun k => BitVec.ofNat 64 (payOf x k)
    let fn := w.fn.toNat
    let size := 2 ^ (fn % 4)
    let typed := decide (16 ≤ fn)
    let dests := ReplyTo.dests w.d0 w.d1 w.out
    let plain := s.site.kindA ∈ [0, 3]
    let scopes := List.range 6
    (w.const.toNat < 8 → Shape w [1] (List.range 32) scopes → ∀ off dst, AddressPort s w (p 0) off dst →
      Queues (.elemLd w) s (requestOf s w .ld off size typed (fn / 4 % 4) dst)) ∧
    (w.const.toNat < 8 → Shape w [2] (List.range 32) scopes → ∀ off dst, AddressPort s w (p 0) off dst →
      Queues (.elemSt w) s (requestOf s w (.st (v 1)) off size typed (fn / 4 % 4) dst)) ∧
    (plain → (x.op 0).fmt.cls = .int → (x.op 0).fmt.lanes * size ≤ 8 → w.const.toNat < 8 →
      (Shape w [1] (List.range 32) scopes → Queues (.gather w) s
        (requestOf s w (.gather (x.op 0).fmt.lanes (x.op 0).fmt.width (v 0)) 0 size typed (fn / 4 % 4) dests)) ∧
      (Shape w [2] (List.range 32) scopes → Queues (.scatter w) s
        (requestOf s w (.scatter (x.op 0).fmt.lanes (x.op 0).fmt.width (v 0) (v 1)) 0 size typed (fn / 4 % 4) dests))) ∧
    (plain → p 0 < 2 ^ 41 → w.const.toNat < 8 →
      (Shape w [2] (List.range 18) scopes → Queues (.atom w) s
        (requestOf s w (.atom (fn / 2) (v 1) 0) (p 0) (if fn % 2 = 1 then 8 else 4) false 3 dests)) ∧
      (Shape w [3] [18, 19] scopes → Queues (.atom w) s
        (requestOf s w (.atom 9 (v 1) (v 2)) (p 0) (if fn % 2 = 1 then 8 else 4) false 3 dests))) ∧
    (plain → p 0 < 2 ^ 41 → p 2 < 2 ^ 16 → w.const.toNat < 2 ^ 19 → Shape w [3] [0, 1, 2, 3] scopes →
      redFmtOk (x.op 1).fmt (fn < 2) (if fn % 2 = 1 then 8 else 4) = true → Queues (.red w) s
        (requestOf s w (.red (p 2) (w.const.toNat / 8 + 1) (fn < 2) (fmtCode (x.op 1).fmt) (v 1)) (p 0)
          (if fn % 2 = 1 then 8 else 4) false 2 dests)) ∧
    (plain → (x.op 0).fmt.lanes = x.out.fmt.lanes → w.const = 0 → Shape w [1] [4, 8, 12] scopes →
      Queues (.elemFence w) s (requestOf s w (.fence (v 0)) 0 1 false (fn / 4) dests)) ∧
    (plain → p 0 < 2 ^ 41 → p 1 < 2 ^ 32 → w.const.toNat < 2 ^ 25 → Shape w [2] [0, 1] [0] →
      let n := w.const.toNat / 8 % 64 + 1
      (fn = 1 → n ∈ [8, 16, 32, 64]) → Queues (.mldt w) s
        (requestOf s w (.mldt (fn == 1) (16 * n) (16 * (w.const.toNat / 2 ^ 9)) (BitVec.ofNat 32 (p 1))) (p 0) 1 false 0 dests))

/-- R196, R203: APCVT and APTEST send their answer, and APCVT with its flag also writes it to a base register; PREF passes a
on and queues nothing. -/
def Obligations.ApertureElementsAnswer : Prop :=
  ∀ s w, CanFire s w → 64 ≤ s.site.a % 128 → s.site.a % 128 < 80 → (s.elem s.site.r s.site.a).queue.length < 64 →
    s.site.kindA ∈ [0, 3] →
    let x := inputOf s w
    let who := s.whoElem s.site.r s.site.a
    let own := s.coreOf s.site.r s.site.a % 24
    let v := s.apConvert who own w.fn.toNat (payOf x 0)
    let test := s.apTest who own w.fn.toNat (payOf x 0)
    (v = 0 ∨ test = true) ∧
    (∀ l, tokensOf s w .both (s.out w (BitVec.ofNat 64 v)) = some l → w.fire ≠ 1 →
      (Shape w [1] (List.range 5) [0] → w.const = 0 → Fires (.elemApcvt w) s l) ∧
      (Shape w [1] (List.range 5) [1] → w.const.toNat < 8 → ∃ u, exec (.elemApcvt w) s = .next u ∧
        Fired { s with units := u.units } u l ∧
        Sparse.atD (u.unit s.site.r s.site.a).mb w.const.toNat 0 = BitVec.ofNat 64 v)) ∧
    (Shape w [1] (List.range 5) [0] → w.const = 0 → w.fire ≠ 1 → ∀ l, tokensOf s w .both (s.out w (if test then 1 else 0)) = some l →
      Fires (.elemAptest w) s l) ∧
    (Shape w [1] [0] [0] → w.const.toNat < 2 ^ 19 → payOf x 0 < 2 ^ 41 → (x.op 0).fmt.lanes = x.out.fmt.lanes → ∀ l,
      tokensOf s w .both (s.out w (BitVec.ofNat 64 (payOf x 0))) = some l → Fires (.pref w) s l)

/-- R197 to R201: AGSTREAM and FIB.OPEN take a free context and queue the read of its descriptor, and wait where none is
free; FIB.ADV and FIB.END of an open demand fibre queue a request; FIB.CLOSE closes a fibre. -/
def Obligations.StreamElementsOpenTheirContext : Prop :=
  ∀ s w, CanFire s w → 64 ≤ s.site.a % 128 → s.site.a % 128 < 80 → (s.elem s.site.r s.site.a).queue.length < 64 →
    s.site.kindA ∈ [0, 3] →
    let x := inputOf s w
    let e := s.elem s.site.r s.site.a
    let p := payOf x 0
    let dests := ReplyTo.dests w.d0 w.d1 w.out
    let ctx := fun (kind : CtxKind) => ({ kind := kind, slot := s.site.slot, tag := s.site.tag, seq := s.site.seq, dst := dests,
                                          base := w.const.toNat % 8, id := e.stamp, past := s.site.past } : StreamCtx)
    (∀ k, freeStream e = some k →
      (Shape w [1, 2] [0] [0] → w.const.toNat < 8 → p < 2 ^ 41 → ∃ u, exec (.agstream w) s = .next u ∧
        Opens s u k (ctx (if w.arity = 2 then .store else .load)) ∧ (u.elem s.site.r s.site.a).queue = e.queue ++
          [requestOf s w (.agOpen k (w.arity == 2) s.site.back) p 64 false 0 dests]) ∧
      (Shape w [1] [0, 1] [0] → p < 2 ^ 32 → ∃ u, exec (.fibOpen w) s = .next u ∧
        Opens s u k (ctx (if w.fn = 0 then .fibDemand else .fibRun)) ∧ (u.elem s.site.r s.site.a).queue = e.queue ++
          [requestOf s w (.fibOpen k (w.fn == 0) p s.site.back) (w.const.toNat / 8 * 64) 64 false 0 dests])) ∧
    (freeStream e = none → (Shape w [1, 2] [0] [0] → w.const.toNat < 8 → p < 2 ^ 41 →
      ∃ u, exec (.agstream w) s = .next u ∧ u.net = s.net ∧ u.elems = s.elems)) ∧
    (∀ c, s.fibreOf p = some c → Shape w [1] [0] [0] → w.const = 0 →
      (c.kind = .fibDemand → p % 2 ^ 32 < 4 →
        Queues (.fibAdv w) s (requestOf s w (.fibAdv (p % 4) (p / 2 ^ 32 % 2 ^ 32)) 0 4 false 0 dests)) ∧
      (c.kind = .fibDemand → p < 4 → Queues (.fibEnd w) s (requestOf s w (.fibEnd p) 0 4 false 0 dests)) ∧
      (p < 4 → ∃ t, Opens s t p { c with closing := true, closeTo := some (dests, s.site.tag, s.site.seq, s.site.last) } ∧
        exec (.fibClose w) s = .next (t.settleCtx s.site.r s.site.a p)))

/-! ## Elements: matrix and shelf -/

/-- R207 to R226: a matrix instruction whose operands pass its checks takes its set and joins the issue port that dest0 names,
with its operands, tag and constants. -/
def Obligations.MatrixElementsReachTheirEngine : Prop :=
  ∀ s i w op mx, engineOf (inputOf s w) i = some (w, op) → CanFire s w → s.site.a % 128 < 64 →
    portOfMx w s.site.a = some mx →
    let x := inputOf s w
    let k := s.coreOf s.site.r s.site.a
    ∃ u c, exec i s = .next u ∧ Fired s u [] ∧ (u.core k).issue = (s.core k).issue ++ [c] ∧ c.mx = mx ∧ c.op = op ∧
      c.r = s.site.r ∧ c.elem = s.site.a ∧ c.slot = s.site.slot ∧ c.tag = s.site.tag ∧ c.seq = s.site.seq ∧
      c.last = s.site.last ∧ c.a = BitVec.ofNat 64 (payOf x 0) ∧ (2 ≤ w.arity.toNat → c.b = BitVec.ofNat 64 (payOf x 1)) ∧
      (w.arity.toNat = 3 → c.c = BitVec.ofNat 64 (payOf x 2)) ∧ c.const = w.const ∧ c.d1 = w.d1 ∧ c.outCh = w.out

/-- R230 to R240: SHALLOC queues its request; SHSEAL seals an open tile of its region and passes the handle on; SHLD and SHPEEK
take a context for their words; SHABANDON frees a tile of its region and sends its count; SHQUERY answers; a handle that names no
tile is ShelfOverRead, and the slot stops. The corners of sealing and abandoning are log 69 (DEDUCED). -/
def Obligations.ShelfElementsFire : Prop :=
  ∀ s w, CanFire s w → 64 ≤ s.site.a % 128 → s.site.a % 128 < 80 →
    let x := inputOf s w
    let r := s.site.r
    let cl := clusterOfCore (s.coreOf r s.site.a)
    let c := s.cluster cl
    let h := payOf x 0
    let dests := ReplyTo.dests w.d0 w.d1 w.out
    (∀ expert shares, (Shape w [1] [0] [0] ∧ expert = false ∧ shares = [0, 0, 0, 0]) ∨
        (Shape w [2] [0] [0] ∧ expert = true ∧ shares = ((List.range 4).map fun i => payOf x 1 / 2 ^ (16 * i) % 2 ^ 16) ∧
          shares.sum = h % 2 ^ 16 ∧ ∀ i < 4, payOf x 1 / 2 ^ (16 * i) % 2 ^ 16 ≠ 0 → ((s.region r).readers[i]?).getD 0 ≠ 0) →
      w.const.toNat < 16 → h < 2 ^ 20 → h % 2 ^ 16 ≠ 0 →
      (Sparse.atD c.parts w.const.toNat {}).live = true → (Sparse.atD c.parts w.const.toNat {}).vd = (s.region r).vd →
      ∃ u, exec (.shalloc w) s = .next u ∧ Fired s u [] ∧
        (Sparse.atD (u.cluster cl).parts w.const.toNat {}).queue = (Sparse.atD c.parts w.const.toNat {}).queue ++ [{
          r := r, elem := s.site.a, slot := s.site.slot, tag := s.site.tag, seq := s.site.seq, last := s.site.last, dst := dests,
          count := h % 2 ^ 16, size := h / 2 ^ 16 + 1, expert := expert, shares := shares, task := (s.region r).task,
          past := s.site.past }]) ∧
    (Shape w [1] [0] [0] → w.const = 0 → h < 2 ^ 32 → handleOk h = true →
      (tileOf c h = none → ∀ i ∈ [Instr.shseal w, Instr.shabandon w], ∃ t : State, t.net = s.net ∧ t.elems = s.elems ∧
        exec i s = .next ((t.raise r 0x0C s.site.a s.site.slot s.site.tag.toNat h 0).stopSlotAt r s.site.a s.site.slot)) ∧
      (∀ t, tileOf c h = some t → t.region = s.rid r →
        (t.state = .opened → (s.elem r s.site.a).queue = [] → ∀ l, tokensOf s w .both (s.out w (BitVec.ofNat 64 h)) = some l →
          ∃ u past, exec (.shseal w) s = .next u ∧ u.net = s.net ++ l ∧
            tileOf (u.cluster cl) h = some { t with state := .sealed, past := past } ∧ ∀ y ∈ s.site.past, ∃ z ∈ past, z.1 = y.1 ∧ y.2 ≤ z.2) ∧
        (t.reading = 0 → ∀ l, tokensOf s w .both (s.out w (BitVec.ofNat 64 t.count)) = some l →
          ∃ u, exec (.shabandon w) s = .next u ∧ Fired s u l ∧ tileOf (u.cluster cl) h = none))) ∧
    (w.const = 0 → h < 2 ^ 32 → handleOk h = true → ∀ k, freeStream (s.elem r s.site.a) = some k → ∀ first words,
      (Shape w [1] [0, 1] [0] ∧ first = 0 ∧ words = 512 * hSize h) ∨
        (Shape w [2] [0, 1] [0] ∧ payOf x 1 < 2 ^ 29 ∧ payOf x 1 % 2 ^ 16 < 2 ^ 13 ∧ first = payOf x 1 % 2 ^ 13 ∧
          words = payOf x 1 / 2 ^ 16 + 1 ∧ first + words ≤ 512 * hSize h) →
      let ctx := fun (peek : Bool) => ({
        kind := .shelf, slot := s.site.slot, tag := s.site.tag, seq := s.site.seq, dst := dests, base := 0,
        handle := BitVec.ofNat 32 h, peek := peek, start := first, stop := words, itstep := w.fn == 1,
        ents := s.site.back, id := (s.elem r s.site.a).stamp, past := s.site.past } : StreamCtx)
      (∃ u, exec (.shld w) s = .next u ∧ Opens s u k (ctx false)) ∧
      ((s.region r).peek = true → ∃ u, exec (.shpeek w) s = .next u ∧ Opens s u k (ctx true))) ∧
    (w.const = 0 → ∀ v, (Shape w [1] [0] [0] ∧ h < 2 ^ 32 ∧ handleOk h = true ∧ v = queryTile c h) ∨
        (Shape w [1] [1] [0] ∧ h < 16 ∧ (Sparse.atD c.parts h {}).live = true ∧
          (Sparse.atD c.parts h {}).vd = (s.region r).vd ∧ v = queryPart c h) →
      ∀ l, tokensOf s w .both (s.out w (BitVec.ofNat 64 v)) = some l → Fires (.shquery w) s l)

/-! ## Copy engines and stream ports -/

/-- R316, R317, R319, R386, R391: a record with one destination is performed line by line, and a line granule by granule in a free
order: the bytes take their source's, or, of REDUCE, each lane the combination of its own and its source's, and every other byte
stays; after the last line the record ends: its action is done, own becomes 0, and the queue goes to the next record or stops.
BCAST does the same for each destination of its list. An engine that follows the next field of the tail makes that record the
tail. That a line takes one step for each granule, in a free order, is log 120 (DESIGN CHOICE). -/
def Obligations.CopyRecordsArePerformedLineByLine : Prop :=
  (∀ s q d i kind g scale, segOf q d i = some (kind, g, scale) → AtRecord s q d kind →
    let k := (s.queue q).done
    let b := atBody s q d
    (g.lines ≤ k → ¬ loadsLayout d → EndsNow b q d → exec i s = .next (b.endRec q d).draw) ∧
    (k < g.lines → Safe s → ∀ p0 t0, b.epPlace q g.dst 0 1 .wr scale = .ok p0 t0 → paSpace p0 < 16 ∨ 1024 ≤ paSpace p0 → LineFree b q g k →
      let ends := fun (u : State) => (u.queue q).done = k + 1 ∧ (u.queue q).half = (none : Option Nat) ∧
        (k + 1 < g.lines → exec i s = .next u.draw) ∧
        (g.lines = k + 1 → ¬ loadsLayout d → EndsNow u q d → exec i s = .next (u.endRec q d).draw)
      LineGoes i s b q g scale k ends) ∧
    (k < g.lines → (∀ c a, b.doLine q g k scale = .fault c a → exec i s = .next (b.stopQueue q c a)) ∧
      (∀ u, b.doLine q g k scale = .part u → exec i s = .next u.draw) ∧
      (b.doLine q g k scale = .wait → exec i s = .next (b.rouseRec q)) ∧
      ∀ u, b.doLine q g k scale = .go u → k + 1 < g.lines →
        exec i s = .next (u.updQueue q fun x => { x with done := k + 1 }).draw)) ∧
  (∀ s q d dst k, AtRecord s q d 7 → recW d 2 ≠ 0 → let b := atBody s q d
    let g : Seg := { dst := dst, len := recW d 2, src := .copy (recW d 0), red := none }
    b.bcastAt q d (recW d 3) 0 (s.queue q).done = .line dst k → Safe s → ∀ p0 t0, b.epPlace q dst 0 1 .wr false = .ok p0 t0 →
    paSpace p0 < 16 ∨ 1024 ≤ paSpace p0 → LineFree b q g k → LineGoes (.bcast q) s b q g false k fun u =>
      (u.queue q).done = (s.queue q).done + 1 ∧ (u.queue q).half = (none : Option Nat) ∧ exec (.bcast q) s = .next u.draw) ∧
  (∀ s q d p x, recAction d = 0 → s.resolve (s.queueWho q) (s.queue q).cur .wr = .ok p x → Safe s →
    let u := s.endRec q d
    let nx := s.readNat (p + 8) 8
    (isMgmt p = false → isMgmt (p + 15) = false → (nx = 0 → (u.queue q).run = false) ∧
      (nx ≠ 0 → (u.queue q).cur = BitVec.ofNat 64 nx ∧ (u.queue q).run = (s.queue q).run ∧
        (u.queue q).tail = if (s.queue q).tail = (s.queue q).cur then BitVec.ofNat 64 nx else (s.queue q).tail)) ∧
    Memory.readN u.mem (p + 1) 1 = (s.readByte (p + 1)).toNat / 2 * 2 ∧
    ∀ a, a ≠ p + 1 → u.readByte a = s.readByte a)

/-- R63, R152, R316, R319, R321, R384: BCAST performs its list's destinations in order; COUNT waits until its counter has reached
the target; LINK appends its record to an idle queue, which starts, or behind the tail of another, and is refused by a queue of
another device; NOP ends; STREAM moves one token; a kind that is not listed stops the queue; the write of QCHAN starts an idle
queue and is refused by a running one; that of QSTAT clears refused; a bound port delivers its first token. The order of the
checks of a record is log 60 (DEDUCED), what COUNT acquires is found as log 117 says (DEDUCED). -/
def Obligations.OtherRecordsAndPortsGoOn : Prop :=
  (∀ s q d, AtRecord s q d 10 → EndsNow (atBody s q d) q d → exec (.nopRecord q) s = .next ((atBody s q d).endRec q d).draw) ∧
  (∀ s q d, AtRecord s q d 8 → let b := atBody s q d
    exec (.count q) s = .next (b.updQueue q fun x => { x with begun := true }).draw ∧
    (∀ p t, (s.queue q).begun = true → b.epPlace q (recW d 0) 0 8 .rd false = .ok p t → b.deadOrMarked q p = false →
      b.epDiverted q (recW d 0) 0 = false → let v := b.seenNat (.queue q) p 8
      (b.mayMiss (.queue q) p 8 = [] → v = b.readNat p 8) ∧ (v < recW d 1 → exec (.countSatisfy q) s = .next b.draw) ∧
      (recW d 1 ≤ v → let z := (b.noteRead (.queue q) p 8).recAcquire q d
        (recAcq d = true → Acquired b z (.queue q) (recScope d) (b.seenSync (.queue q) p 8)) ∧
        (EndsNow z q d → exec (.countSatisfy q) s = .next (z.endRec q d).draw)))) ∧
  (∀ s q d, AtRecord s q d 9 → let b := atBody s q d
    let t := 1024 * (q / 1024) + 64 * (recW d 1 % 16) + recW d 1 / 16
    let rc := BitVec.ofNat 64 (recW d 0)
    let done := fun (u : State) => (recAction d ≠ 1 → exec (.link q) s = .next (u.endRec q d).draw) ∧
      (EndsNow u q d → exec (.link q) s = .next (u.endRec q d).draw)
    (s.queueVd t ≠ s.queueVd q ∨ (s.queue t).bound = false → exec (.link q) s = .next (b.stopQueue q 0x07 rc.toNat)) ∧
    (s.queueVd t = s.queueVd q → (s.queue t).bound = true →
      ((s.queue t).run = false → (s.queue t).stopped = false → ∃ u, done u ∧ (u.queue t).run = true ∧ (u.queue t).cur = rc ∧
        (u.queue t).tail = rc ∧ (∀ j, j ≠ t → u.queue j = b.queue j) ∧ ∀ a, u.readByte a = s.readByte a) ∧
      ((s.queue t).run = true ∨ (s.queue t).stopped = true → ∀ p x, Safe s → b.resolve (b.queueWho t) ((s.queue t).tail + 8) .wr = .ok p x →
        ∃ u, done u ∧ Memory.readN u.mem p 8 = rc.toNat ∧ (u.queue t).tail = rc ∧ (u.queue t).cur = (b.queue t).cur ∧
          (∀ a, a < p ∨ p + 8 ≤ a → Memory.read u.mem a = Memory.read s.mem a)))) ∧
  (∀ s q d, AtRecord s q d 7 → let b := atBody s q d
    (recW d 2 = 0 → EndsNow b q d → exec (.bcast q) s = .next (b.endRec q d).draw) ∧
    (recW d 2 ≠ 0 → b.bcastAt q d (recW d 3) 0 (s.queue q).done = .noMore → EndsNow b q d →
      exec (.bcast q) s = .next (b.endRec q d).draw) ∧
    (recW d 2 ≠ 0 → b.bcastAt q d (recW d 3) 0 (s.queue q).done = .wait → exec (.bcast q) s = .next (b.rouseRec q)) ∧
    (recW d 2 ≠ 0 → ∀ c a, b.bcastAt q d (recW d 3) 0 (s.queue q).done = .fault c a → exec (.bcast q) s = .next (b.stopQueue q c a)) ∧
    (recW d 2 ≠ 0 → ∀ dst k u, b.bcastAt q d (recW d 3) 0 (s.queue q).done = .line dst k →
      let g : Seg := { dst := dst, len := recW d 2, src := .copy (recW d 0), red := none }
      (b.doLine q g k false = .part u → exec (.bcast q) s = .next u.draw) ∧
      (b.doLine q g k false = .go u → let v := u.updQueue q fun x => { x with done := x.done + 1 }
        exec (.bcast q) s = .next (if k + 1 = g.lines then v.freeScore q else v).draw))) ∧
  (∀ s q d a b t l, AtRecord s q d 2 → recW d 0 / 2 ^ 9 = 0xFB * 2 ^ 47 → recW d 1 / 2 ^ 9 = 0xFB * 2 ^ 47 →
    s.portOf ((s.queueVd q).getD noVd) (q / 1024) (recW d 0 % 512) = some a →
    s.portOf ((s.queueVd q).getD noVd) (q / 1024) (recW d 1 % 512) = some b → a ≠ b → s.portTakes b = true →
    s.portFifo a = t :: l → (s.queue q).held = [] → (s.queue q).done + 1 < recW d 2 / 16 → ∃ u, exec (.stream q) s = .next u ∧
      u.portFifo a = l ∧ u.portFifo b = s.portFifo b ++ [{ vd := (s.queueVd q).getD noVd, r := none, tok := t.tok, past := t.past }] ∧
      (u.queue q).done = (s.queue q).done + 1 ∧ ∀ x, u.readByte x = s.readByte x) ∧
  (∀ s q d c, q < 2048 → s.queueRuns q = true → s.fetchRec q = .inl d → d % 256 = 0 ∨ 10 < d % 256 → recFault d = some c →
    exec (.chainKindStop q) s = .next (s.stopQueue q c (s.queue q).cur.toNat)) ∧
  (∀ s q (v : Word), q < 2048 → (s.queueVd q).isSome = true → (s.queue q).bound = true → v.toNat % 64 = 0 →
    ((s.queue q).run = true → exec (.qchanWrite q v) s = .next (s.updQueue q fun x => { x with refused := true })) ∧
    ((s.queue q).run = false → ∃ u, exec (.qchanWrite q v) s = .next u ∧ (u.queue q).run = true ∧ (u.queue q).cur = v ∧
      (u.queue q).stopped = false ∧ ((s.queue q).stopped = false → (u.queue q).tail = v))) ∧
  (∀ s q (v : Word), q < 2048 → v.getLsbD 2 = true →
    exec (.qstatWrite q v) s = .next (s.updQueue q fun x => { x with refused := false })) ∧
  (∀ s p r t l, p < 512 → (s.port p).bind = some r → (s.port p).fifo = t :: l → (s.region r).live = true →
    ∃ u, exec (.streamPortDelivery p) s = .next u ∧ (u.port p).fifo = l ∧ (u.port p).bind = some r ∧
      (∃ f, u.net = s.net ++ [f] ∧ f.r = r ∧ f.tok = { t.tok with net := true }) ∧
      u = { s with ports := u.ports, net := u.net, unseen := u.unseen })

/-! ## Steps of regions and elements -/

/-- R49, R50, R93, R95, R107, R144, R145, R146: a token that arrives at a slot enters the matching store, or its clear latch; at
an empty slot it is SlotEmpty, under a context that is not bound Malformed; one for a core of another package leaves over the edge
link to it (R368); a spill record returns to the store; a retire token ends an iteration; a window-base token sets its base; a
generator admits an iteration where cap and TAGWIN let it, and sends the done token at the end. How a token leaves over an edge
link, waits where lane 3 is stopped and is then gone is log 116 (DESIGN CHOICE). -/
def Obligations.TokensAndGeneratorsGoOn : Prop :=
  (∀ s k f, s.net[k]? = some f → s.mayArrive k f = true → f.tok.dest.toNat / 128 < (s.region f.r).cores.length →
    assignedElem f.tok.dest.toNat = true → f.tok.rsv = 0 → f.tok.kind.toNat < 8 → hasTable f.tok.dest.toNat = true →
    f.tok.kind ≠ 6 → (s.elem f.r f.tok.dest.toNat).order = none → s.farElem f.r f.tok.dest.toNat = false →
    s.inputStalls f.r f.tok.dest.toNat = false →
    let a := f.tok.dest.toNat
    let e := s.elem f.r a
    let sl := f.tok.slot.toNat
    let port := f.tok.port.toNat
    let w := e.slotW sl
    (e.opcode sl = 0 → exec (.tokenArrival k) s = .next ((s.land k).raise f.r 0x02 a sl (tokTag f.tok).toNat 0 (tokBits f.tok))) ∧
    (e.opcode sl ≠ 0 → ctxBound (s.region f.r) f.tok.ctx.toNat = false →
      exec (.tokenArrival k) s = .next ((s.land k).raise f.r 0x03 a sl (tokTag f.tok).toNat 0 (tokBits f.tok))) ∧
    (e.opcode sl ≠ 0 → ctxBound (s.region f.r) f.tok.ctx.toNat = true → portUsed w port = true → ¬ (e.opcode sl = 0x54 ∧
      a % 128 < 64 ∧ port = 3) →
      (slotMode w port = 0 ∨ port = 3 → e.store.length < (s.region f.r).quota → ∃ u, exec (.tokenArrival k) s = .next u ∧
        u.net = removeAt s.net k ∧ (u.elem f.r a).store = e.store ++ [{ tok := f.tok, stamp := s.stampOf f.r a, pend := false, past := f.past }] ∧
        u = { s with net := u.net, elems := u.elems }) ∧
      (slotMode w port = 2 → port ≠ 3 → (Sparse.atD e.bank.latches (4 * sl + port) {}).valid = false →
        ∃ u l, exec (.tokenArrival k) s = .next u ∧ u.net = removeAt s.net k ∧ (u.elem f.r a).store = e.store ∧
          Sparse.atD (u.elem f.r a).bank.latches (4 * sl + port) {} = l ∧ l.valid = true ∧ l.pay = f.tok.payload ∧
          l.chan = f.tok.chan ∧ l.tag = tokTag f.tok ∧ l.past = f.past ∧ u = { s with net := u.net, elems := u.elems }))) ∧
  (∀ s k f p, s.net[k]? = some f → s.mayArrive k f = true → s.farElem f.r f.tok.dest.toNat = true →
    s.edgePort (s.region f.r).vd (farPackage (s.coreOf f.r f.tok.dest.toNat)) = some p →
    (s.laneStopped p 3 = false → exec (.tokenArrival k) s = .next (s.land k)) ∧
    (s.laneStopped p 3 = true → exec (.tokenArrival k) s = .next s)) ∧
  (∀ s r a, r < 256 → a < 65536 → (s.elem r a).spill ≠ [] → (s.elem r a).store.length < (s.region r).quota →
    (s.region r).activeNow = true → (s.region r).dbgStop = false → ∃ u m, exec (.refill r a) s = .next u ∧
      m ∈ (s.elem r a).spill ∧ (u.elem r a).spill = (s.elem r a).spill.filter (fun q => q.stamp != m.stamp) ∧
      (m.pend = false → (u.elem r a).store = (s.elem r a).store ++ [m]) ∧ u = { s with elems := u.elems }) ∧
  (∀ s k f g g', s.net[k]? = some f → s.mayArrive k f = true → isRetire f.tok = true →
    f.tok.dest.toNat / 128 < (s.region f.r).cores.length → (s.elem f.r f.tok.dest.toNat).order = none →
    s.farElem f.r f.tok.dest.toNat = false → s.inputStalls f.r f.tok.dest.toNat = false →
    genOf (s.elem f.r f.tok.dest.toNat) f.tok = some g → f.tok.payload.toNat % 2 ^ 60 = 0 →
    genRetire g f.tok.ctx.toNat f.tok.iter.toNat = some g' → ∃ u, exec (.retireToken k) s = .next u ∧
      u.net = removeAt s.net k ∧ (u.region f.r).inFlight = (s.region f.r).inFlight - 1 ∧
      (u.elem f.r f.tok.dest.toNat).gens =
        replaceFirst (fun q => q.slot == g'.slot) (fun _ => { g' with ends := joinPast g'.ends f.past }) (s.elem f.r f.tok.dest.toNat).gens) ∧
  (∀ s k c, s.ctl[k]? = some c → (s.region c.r).activeNow = true → (∀ b ∈ s.ctl.take k, ¬ (b.r = c.r ∧ b.elem = c.elem ∧ b.ctx = c.ctx)) →
    ∃ u, exec (.windowBaseToken k) s = .next u ∧ u.ctl = removeAt s.ctl k ∧
      u.winBaseOf c.r c.elem c.ctx.toNat = c.base.toNat ∧ u = { s with ctl := u.ctl, units := u.units }) ∧
  (∀ s r a slot g, r < 256 → a < 65536 → slot < 32 → (s.elem r a).gens.find? (fun g => g.slot == slot) = some g →
    s.regionGoes r = true → (s.region r).drained = false → (s.region r).frozenEnd = false →
    (s.elem r a).stopped.contains (32 * (s.elem r a).active + slot) = false →
    let w := (s.elem r a).slotW slot
    (g.j < g.n → (s.region r).draining = false → g.live.length < g.cap → (s.region r).inFlight < (s.region r).tagwin →
      w.d0.valid = true → w.d0.tagop = 0 → ∃ u f, exec (.loopgenEmit r a slot) s = .next u ∧ u.net = s.net ++ [f] ∧
        tokTag f.tok = mkTag g.ctx.toNat (g.f + g.j) ∧ f.tok.last = (g.j + 1 == g.n) ∧ f.tok.dest = w.d0.elem ∧ f.r = r ∧
        (g.seed = none → f.tok.payload = BitVec.ofNat 64 g.j) ∧ (∀ v, g.seed = some v → f.tok.payload = v) ∧
        (u.region r).inFlight = (s.region r).inFlight + 1 ∧ (u.elem r a).gens = replaceFirst (fun q => q.slot == g.slot)
          (fun _ => { g with live := insertNat (g.f + g.j) g.live, j := g.j + 1 }) (s.elem r a).gens) ∧
    (g.n ≤ g.j → g.live = [] → w.d1.valid = true → w.d1.tagop = 0 → ∃ u f, exec (.loopgenEmit r a slot) s = .next u ∧
      u.net = s.net ++ [f] ∧ tokTag f.tok = mkTag g.ctx.toNat g.iter ∧ f.tok.payload = BitVec.ofNat 64 g.n ∧
      f.tok.last = true ∧ (u.elem r a).gens = removeFirst (fun q => q.slot == g.slot) (s.elem r a).gens))

/-- R91, R155, R251, R254, R258, R331: an element that has emptied switches its configuration; a step that is done goes on to the
next, or, the last, waits for its task's counter; a drain ends drained or frozen; a post at a thread gateway adds its payload to
the mailbox word and sets the thread's bit. When a step is complete is logs 46 and 102 (DEDUCED), what a post releases is found as
log 117 says (DEDUCED). -/
def Obligations.RegionStepsGoOn : Prop :=
  (∀ s r a c, r < 256 → a < 65536 → (s.elem r a).order = some c → (s.elem r a).store = [] → (s.elem r a).spill = [] →
    (s.region r).activeNow = true → (s.region r).dbgStop = false →
    let t := s.updElem r a fun e => { e with active := c, order := none }
    exec (.configSwitch r a) s = .next (t.endSwitch r) ∧ ((s.region r).switching = false → t.endSwitch r = t)) ∧
  (∀ s r, r < 256 → s.stepDone r = true → (∀ p ∈ s.elemsOf r, p.2.ctxs = []) →
    ((s.region r).stopFlag = true ∨ nextStep (s.region r).confs (s.region r).point (s.region r).conf = none →
      (s.region r).task.isSome = true → ∃ u, exec (.stepComplete r) s = .next u ∧ (u.region r).awaiting = true ∧
        (u.region r).inStep = false ∧ u = { s with regions := u.regions }) ∧
    (∀ p c, (s.region r).stopFlag = false → nextStep (s.region r).confs (s.region r).point (s.region r).conf = some (p, c) →
      (s.region r).draining = true → ∃ u, exec (.stepComplete r) s = .next u ∧ (u.region r).point = p ∧
        (u.region r).conf = c ∧ (u.region r).pendStep = true ∧ u = { s with regions := u.regions }) ∧
    (∀ p c, (s.region r).stopFlag = false → nextStep (s.region r).confs (s.region r).point (s.region r).conf = some (p, c) →
      (s.region r).draining = false → (s.region r).drained = false → (s.region r).frozenEnd = false →
      exec (.stepComplete r) s = .next (((s.progress r).updRegion r fun y =>
        { y with point := p, conf := c, inStep := false, doneRecv := false }).startStep r))) ∧
  (∀ s r, r < 256 → (s.region r).live = true → (s.region r).draining = true → (s.region r).drained = false →
    (s.region r).frozenEnd = false →
    (s.drainDone r = true → exec (.drainEnd r) s = .next (s.updRegion r fun y => { y with draining := false, drained := true })) ∧
    (s.drainDone r = false → s.frozen r = true →
      exec (.drainEnd r) s = .next (s.updRegion r fun y => { y with draining := false, frozenEnd := true })) ∧
    (s.drainDone r = false → s.frozen r = false → exec (.drainEnd r) s = .next s)) ∧
  (∀ s k f p t, Safe s → s.net[k]? = some f → s.mayArrive k f = true → isPost f.tok = true → s.farElem f.r f.tok.dest.toNat = false →
    f.tok.dest.toNat / 128 < (s.region f.r).cores.length →
    let n := f.tok.dest.toNat % 128 - 120
    let x := s.region f.r
    let h := x.gates.toNat / 2 ^ (8 * n) % 256
    h ≠ 0xFF → x.mbox ≠ 0 → s.resolve (hwWho x.vd (f.r / 64)) (BitVec.ofNat 64 (x.mbox.toNat + 8 * n)) .wr = .ok p t →
    isMgmt p = false → s.poisoned p = false → ∃ u, exec (.gatewayPost k) s = .next u ∧ u.net = removeAt s.net k ∧
      Memory.readN u.mem p 8 = (s.readNat p 8 + f.tok.payload.toNat) % 2 ^ 64 ∧
      (∀ a, a < p ∨ p + 8 ≤ a → u.readByte a = s.readByte a) ∧
      (u.thread (16 * (f.r / 64) + h % 16)).uipend = (s.thread (16 * (f.r / 64) + h % 16)).uipend ||| (1#32 <<< n) ∧
      ReleasedBy s u (s.emitter f) 2 p 8 ∧ u = { s with net := u.net, mem := u.mem, threads := u.threads, unseen := u.unseen })

/-- R167 to R170, R188, R190 to R200, R157, R383 to R386: a request that may issue follows its token path, releases where its order
says so and is performed: a load gives the bytes that its element must see and acquires what their writes release, a store writes its
own, and carries its release; an MLDT moves a piece at a time; a fault parks it; a reply sends its tokens over its token path; a
store stream stores its next element; a contribution joins its reduction, one that does not fit is Malformed, and a reduction that
has all its terms writes their result (a floating one of one term stores its code unchanged: log 101); a watch whose counter has
reached its target sends the count. The order is that of log 117. -/
def Obligations.MemoryRequestsArePerformed : Prop :=
  (∀ s r a k q, r < 256 → a < 65536 → k < 64 → s.memGoes r a = true → (s.elem r a).queue[k]? = some q → s.mayIssue r a k = true →
    let x := s.streamAgent r a q.slot
    let e := s.elemAgent r a
    let b := (s.learn x q.past).releaseIf q.order e q.past q.scope
    (Learned s b x q.past ∧ (2 ≤ q.order → Performed s b e q.scope)) ∧
    (b.perform r a q = .stall → exec (.memoryRequestIssue r a k) s = .next (s.rouseAll r (s.rangesOf r a q))) ∧
    (∀ c i, b.perform r a q = .fault c i → exec (.memoryRequestIssue r a k) s = .next (s.draw.parkReq r a q c i)) ∧
    (∀ t, b.perform r a q = .sent t → ∃ u, exec (.memoryRequestIssue r a k) s = .next u ∧ (u.elem r a).queue =
      (t.elem r a).queue.map fun (y : MemReq) => if y.id == q.id then { y with sent := true } else y) ∧
    (∀ t l h m, b.perform r a q = .part t l h m → ∃ u, exec (.memoryRequestIssue r a k) s = .next u ∧ (∀ p, u.readByte p = t.readByte p) ∧
      (u.elem r a).queue = (t.elem r a).queue.map fun (y : MemReq) =>
        if y.id == q.id then { y with left := some l, hits := h, bad := m, first := 0 } else y) ∧
    (∀ t outs, b.perform r a q = .done t outs → (∀ x v, q.op ≠ .fibAdv x v) → (∀ x, q.op ≠ .fibEnd x) →
      exec (.memoryRequestIssue r a k) s =
        .next (t.draw.updElem r a fun y => addReply (dropReq y q.id) q.slot q.slot q.tag outs (t.draw.pastOf x q.past))) ∧
    (∀ p t, s.effAddr r a q.typed q.base q.off q.size q.size (if q.op = .ld then .rd else .wr) = .ok p t →
      s.blocked (s.region r).vd p q.size = false → s.repair = [] → s.reach (s.region r).vd p ≠ .dead → s.dbg.vd = none →
      (q.op = .ld → s.regMarked r p = false → ∃ u, exec (.memoryRequestIssue r a k) s = .next u ∧
        (∃ y, (u.elem r a).replies = (s.elem r a).replies ++ [y] ∧ y.outs = [out1 q (b.agentRead x r p q.size) false] ∧
          (b.mayMiss x p q.size = [] → y.outs = [out1 q (s.regRead r p q.size) false])) ∧
        (q.order % 2 = 1 → Acquired b u e q.scope (b.seenSync x p q.size)) ∧
        (u.elem r a).queue = (s.elem r a).queue.filter (fun y => y.id != q.id) ∧ ∀ b, u.readByte b = s.readByte b) ∧
      (∀ v, q.op = .st v → isMgmt p = false → isFarMgmt p = false → Safe s → (s.region r).buffering = false →
        ∃ u, exec (.memoryRequestIssue r a k) s = .next u ∧ Memory.readN u.mem p q.size = v.toNat % 2 ^ (8 * q.size) ∧
        (∀ b, b < p ∨ p + q.size ≤ b → u.readByte b = s.readByte b) ∧
        (∃ g l, u.unseen = g :: l ∧ g.p = p ∧ g.n = q.size ∧ g.who = x ∧ (2 ≤ q.order → ∃ y ∈ g.sync, IsRelease s e q.scope y)) ∧
        (u.elem r a).queue = (s.elem r a).queue.filter (fun y => y.id != q.id)))) ∧
  (∀ s r a k y, r < 256 → a < 65536 → (s.elem r a).replies[k]? = some y → s.regionGoes r = true →
    (∀ z ∈ (s.elem r a).replies.take k, z.stream ≠ y.stream) → y.stream < 32 → exec (.memoryReply r a k) s =
      .next (y.outs.foldl (fun s o => s.sendOut r a y.slot o y.past) (s.updElem r a fun e => { e with replies := removeAt e.replies k }))) ∧
  (∀ s r a x c m p t, r < 256 → a < 65536 → x < 4 → Sparse.entry? (s.elem r a).ctxs x = some c →
    entryAt (entriesOf (s.elem r a) c.slot) 1 c.tag = some m → s.memGoes r a = true → s.mayStore r a x c = true → m.tok.kind ≠ 7 →
    0 ≤ streamOff c c.next → streamOff c c.next < 2 ^ 41 →
    s.effAddr r a c.typed (s.mbOf r a c.base) (streamOff c c.next).toNat c.size c.size .wr = .ok p t →
    s.blocked (s.region r).vd p c.size = false → s.repair = [] → s.reach (s.region r).vd p ≠ .dead → isMgmt p = false →
    isFarMgmt p = false → Safe s → (s.region r).buffering = false → s.dbg.vd = none →
    ∃ u, exec (.storeStreamData r a x) s = .next u ∧ Memory.readN u.mem p c.size = m.tok.payload.toNat % 2 ^ (8 * c.size) ∧
      (∀ b, b < p ∨ p + c.size ≤ b → u.readByte b = s.readByte b) ∧
      Sparse.entry? (u.elem r a).ctxs x = some { c with next := c.next + 1, first := 0 }) ∧
  (∀ s c k m, c < 4 → (s.cluster c).redMsgs[k]? = some m → m.x < m.n → m.r < 256 → Safe s →
    let rest := removeAt (s.cluster c).redMsgs k
    let hit := fun (o : RedOpen) => overlap (o.pa, o.size) (m.pa, m.size)
    ((∀ o ∈ (s.cluster c).reds, hit o = false) →
      (256 ≤ (s.cluster c).reds.length → exec (.redContribution c k) s = .next s) ∧
      (m.n = 1 → (s.cluster c).reds.length < 256 → ∃ u, exec (.redContribution c k) s = .next u ∧
        let o : RedOpen := { pa := m.pa, size := m.size, n := 1, fadd := m.fadd, fmt := m.fmt, terms := [(0, m.val)] }
        Memory.readN u.mem m.pa m.size = redValue o % 2 ^ (8 * m.size) ∧
          (∀ b, b < m.pa ∨ m.pa + m.size ≤ b → u.readByte b = s.readByte b) ∧ (u.cluster c).redMsgs = rest) ∧
      (1 < m.n → (s.cluster c).reds.length < 256 → ∃ u, exec (.redContribution c k) s = .next u ∧
        (u.cluster c).redMsgs = rest ∧
        (∃ o ∈ (u.cluster c).reds, o.pa = m.pa ∧ o.n = m.n ∧ o.terms = [(m.x, m.val)]) ∧ ∀ b, u.readByte b = s.readByte b)) ∧
    (∀ o, (s.cluster c).reds.find? hit = some o →
      let fits := o.pa = m.pa ∧ o.size = m.size ∧ o.n = m.n ∧ o.fadd = m.fadd ∧ o.fmt = m.fmt ∧ Sparse.entry? o.terms m.x = none
      let terms := Sparse.put o.terms m.x m.val
      (¬ fits → exec (.redContribution c k) s = .next
        ((s.updCluster c fun x => { x with redMsgs := rest } : State).rejectRed m)) ∧
      (fits → terms.length ≠ m.n → ∃ u, exec (.redContribution c k) s = .next u ∧ (u.cluster c).redMsgs = rest ∧
        (∃ z ∈ (u.cluster c).reds, z.pa = m.pa ∧ z.n = m.n ∧ z.terms = terms) ∧ ∀ b, u.readByte b = s.readByte b) ∧
      (fits → terms.length = m.n → ∃ u, exec (.redContribution c k) s = .next u ∧ (u.cluster c).redMsgs = rest ∧
        (u.cluster c).reds = (s.cluster c).reds.filter (fun z => z.pa != m.pa) ∧
        Memory.readN u.mem m.pa m.size = redValue { o with terms := terms } % 2 ^ (8 * m.size) ∧
          ∀ b, b < m.pa ∨ m.pa + m.size ≤ b → u.readByte b = s.readByte b))) ∧
  (∀ s core k y p t, core < 96 → (s.core core).watches[k]? = some y → s.regionGoes y.r = true →
    (s.region y.r).drained = false → (s.region y.r).frozenEnd = false → s.dbg.vd = none →
    s.effAddr y.r y.elem false y.addr.toNat 0 8 8 .rd = .ok p t → s.blocked (s.region y.r).vd p 8 = false → s.repair = [] →
    s.regMarked y.r p = false →
    let x := s.streamAgent y.r y.elem y.slot
    let u := s.learn x y.past
    let v := u.agentRead x y.r p 8
    (u.mayMiss x p 8 = [] → v = s.regRead y.r p 8) ∧
    (v < y.target.toNat → exec (.counterWatchComplete core k) s = .next u.draw) ∧
    (y.target.toNat ≤ v → ∃ z : State, Acquired u z x y.scope (u.seenSync x p 8) ∧
      z = { s with cores := (s.updCore core fun c => { c with watches := removeAt c.watches k } : State).cores, unseen := z.unseen,
                   free := z.free } ∧
      exec (.counterWatchComplete core k) s = .next (z.sendOut y.r y.elem y.slot
        { dst := .dests y.d0 y.d1 y.chan, which := 2, tag := y.tag, seq := y.seq, last := y.last,
          pay := BitVec.ofNat 64 v, poison := false } (z.pastOf x y.past))))

/-! ## Steps of engines and shelves -/

/-- R80, R175, R176, R182, R208, R215, R216, R219 to R226, R386: a k-step trigger enters the pool; a k-step that is next reads its
lines one by one and is applied once it has read them all, each word of the tile taking its products with one rounding; an engine
performs the instruction at the head of its issue port, one that writes memory piece by piece, and its token goes to dest1. The
steps in which lines and pieces are read and written are log 120 (DESIGN CHOICE). -/
def Obligations.EnginesPerformTheirInstructions : Prop :=
  (∀ s core mx c, core < 96 → mx < 3 → headOf (s.core core) mx = some c → c.isMma = true → s.mxGoes c.r = true →
    let z := s.accOf core c.acc
    (c.opens = true ∧ z.opened = true ∧ z.tag = c.tag →
      exec (.kstepTriggerArrival core mx) s = .next ((s.popMx core mx).mxRaise c 0x03 0)) ∧
    (¬ (c.opens = true ∧ z.opened = true ∧ z.tag = c.tag) → poolFull (s.core core) mx = false →
      (z.opened = true → z.tag = c.tag → c.seq ≠ z.next → z.held.getLsbD c.seq.toNat = false) →
      exec (.kstepTriggerArrival core mx) s =
        .next (((s.popMx core mx).updCore core fun k => { k with pool := k.pool ++ [c] }).settleAcc core c.acc))) ∧
  (∀ s core n c, core < 96 → n < 256 → nextK (s.core core) n = some c → s.mxGoes c.r = true →
    let cap := c.opens || !(s.accOf core n).bands
    (∀ k, s.kPlaces core c cap = .ok k → (linesLeft c k.lines = [] →
        exec (.kstepApply core n) s = .next (s.applyK core n c ((s.seenBy c).kRead core c cap k))) ∧
      (linesLeft c k.lines ≠ [] → ∃ u y, exec (.kstepApply core n) s = .next u ∧ y.line ∈ linesLeft c k.lines ∧
        (u.core core).pool = replaceFirst (· == c) (fun _ => { c with seen := c.seen ++ [y] }) (s.core core).pool ∧
        (∀ b, u.readByte b = s.readByte b) ∧
        (c.a.toNat / 2 ^ 32 % 2 = 1 → ∀ t, tileOf (s.cluster (clusterOfCore core)) (c.a.toNat % 2 ^ 32) = some t →
          TileAcquired s u (s.elemAgent c.r c.elem) (clusterOfCore core) t))) ∧
    (s.kPlaces core c cap = .error none → exec (.kstepApply core n) s = .next s) ∧
    (∀ e i, s.kPlaces core c cap = .error (some (e, i)) → exec (.kstepApply core n) s =
      .next (((s.updCore core fun k => { k with pool := removeFirst (· == c) k.pool }).mxRaise c e i).settleAcc core n))) ∧
  (∀ s core n d k, Safe s → core < 96 → n < 256 → k < 1024 →
    (s.addTile core n d).accWord core n k = addProducts (s.accWord core n k) (products d (k / 32) (k % 32)) % 2 ^ 32 ∧
      ∀ a, a < accPa core n 0 ∨ accPa core n 0 + 4096 ≤ a → (s.addTile core n d).readByte a = s.readByte a) ∧
  (∀ s core mx c, core < 96 → mx < 3 → tileWaiting (s.core core) mx = none → headOf (s.core core) mx = some c →
    c.isMma = false → s.mxGoes c.r = true →
    ¬ (c.opens = true ∧ (s.accOf core c.acc).opened = true ∧ (s.accOf core c.acc).tag ≠ c.tag) →
    let t := s.popMx core mx
    let read := c.pieces = none ∧ ∃ ls, s.mxLines core c = .ok ls ∧ linesLeft c ls = []
    (∀ ls, c.pieces = none → s.mxLines core c = .ok ls → linesLeft c ls ≠ [] →
      exec (.accPerform core mx) s = .next (s.seeOne core c (linesLeft c ls))) ∧
    (c.pieces = none → s.mxLines core c = .error none → exec (.accPerform core mx) s = .next s) ∧
    (∀ e i, c.pieces = none → s.mxLines core c = .error (some (e, i)) → exec (.accPerform core mx) s = .next (t.mxRaise c e i)) ∧
    (c.pieces = some [] ∨ (read ∧ s.beginMx core c = none) →
      (∀ u k v, t.performMx core c = .ok (u, k, v) → exec (.accPerform core mx) s = .next ((u.mxReply c k v).progress c.r)) ∧
      (t.performMx core c = .error none → exec (.accPerform core mx) s = .next s) ∧
      (∀ e i, t.performMx core c = .error (some (e, i)) → exec (.accPerform core mx) s = .next (t.mxRaise c e i))) ∧
    (read → s.beginMx core c = some (.error none) → exec (.accPerform core mx) s = .next s) ∧
    (∀ e i, read → s.beginMx core c = some (.error (some (e, i))) →
      exec (.accPerform core mx) s = .next (t.mxRaise c e i)) ∧
    (∀ u ps, read → s.beginMx core c = some (.ok (u, ps)) →
      exec (.accPerform core mx) s = .next (u.putMx core c { c with pieces := some ps })) ∧
    (∀ y l, c.pieces = some (y :: l) → ∃ i z, (y :: l)[i]? = some z ∧
      (s.scoreHit z.p z.n = true → exec (.accPerform core mx) s = .next s) ∧
      (s.scoreHit z.p z.n = false → s.pieceOk core c z = false → ∃ a, exec (.accPerform core mx) s = .next (t.mxRaise c 0x07 a)) ∧
      (s.scoreHit z.p z.n = false → s.pieceOk core c z = true → exec (.accPerform core mx) s =
        .next (((s.writePiece c z).putMx core c { c with pieces := some (removeAt (y :: l) i) }).draw))) ∧
    (c.op = .accChk → t.performMx core c = .ok (t.reform core c.acc, 0, c.acc)) ∧
    (c.op = .sclLd 2 → t.performMx core c = .ok (t.clearCauses core (c.a.toNat % 32), 0, (s.core core).scaleStatus.toNat)))

/-- R231 to R239, R266, R268: the head of a partition's queue is served where there is room, and its handle goes to dest0; a
shelf read begins once its tile is sealed, a consuming one with its journal entry, and acquires at cluster scope; it delivers a word
at a step; with its last word it ends: its count goes to dest1, and a consuming read lowers the tile's count, which drains at 0, and
is journaled; a partition that starved for a period raises ShelfStarved; the balancer begins a new period and, of a pipeline whose
requests were parked for more than half of it, moves a replica. What Bextex declares, `moveReplica` and `settlePipe` are the model's
(logs 69, 111), the order of reads is that of log 117. -/
def Obligations.ShelfStepsGoOn : Prop :=
  (∀ s c p q rest k g, c < 4 → p < 16 → (Sparse.atD (s.cluster c).parts p {}).queue = q :: rest →
    let t := s.grow c p (s.reqCore q) q.size (Sparse.atD (s.cluster c).parts p {}).ceil
    exec (.shallocServe c p) s = .next (t.servePart c p) ∧
    ((Sparse.atD (t.cluster c).parts p {}).queue = q :: rest → roomFor (t.cluster c) p (t.reqCore q) q.size = some (k, g) →
      q.elem ≠ 0xFFFF → (Sparse.atD ((t.servePart c p).cluster c).parts p {}).queue = rest ∧
        ∃ x ∈ ((t.servePart c p).cluster c).tiles, x.state = .opened ∧ x.count = q.count ∧ x.core = k ∧ x.gran = g ∧
          x.size = q.size ∧ x.region = t.rid q.r)) ∧
  (∀ s r a x y, r < 256 → a < 65536 → x < 4 → Sparse.entry? (s.elem r a).ctxs x = some y → y.kind = .shelf → s.memGoes r a = true →
    let cl := clusterOfCore (s.coreOf r a)
    let h := y.handle.toNat
    let charge := fun (t : Tile) => if t.expert = true then readerEntry t (s.region r).desc else none
    (y.begun = false →
      (tileOf (s.cluster cl) h = none → exec (.shldRead r a x) s = .next (s.shelfReadFault r a x y 0x0C)) ∧
      (∀ t, tileOf (s.cluster cl) h = some t →
        (t.state = .opened → exec (.shldRead r a x) s = .next s) ∧
        (t.state ≠ .opened → ∀ e, readCheck t (s.region r).vd (s.region r).desc (!y.peek) = some e →
          exec (.shldRead r a x) s = .next (s.shelfReadFault r a x y e)) ∧
        (t.state ≠ .opened → readCheck t (s.region r).vd (s.region r).desc (!y.peek) = none →
          (y.itstep = true → tagIter y.tag + y.stop - 1 ≤ 0xFFFF) →
          (y.peek = false → journalRoom (s.cluster cl) (s.rid r) h = false → exec (.shldRead r a x) s = .next s) ∧
          (y.peek = true ∨ journalRoom (s.cluster cl) (s.rid r) h = true →
            ∃ u, exec (.shldRead r a x) s = .next u ∧ Sparse.entry? (u.elem r a).ctxs x = some { y with begun := true, ents := [] } ∧
              tileOf (u.cluster cl) h = some { t with reading := t.reading + 1, claims := if y.peek = true then t.claims else t.claims ++ [charge t] } ∧
              (y.peek = false → ∃ j ∈ (u.cluster cl).journal, j.region = s.rid r ∧ j.handle = h) ∧
              TileAcquired s u (s.elemAgent r a) cl t ∧ u.net = s.net ∧ ∀ b, u.readByte b = s.readByte b)))) ∧
    (y.begun = true →
      let p := pa (spA (24 * cl + hCore h)) (4096 * hGran h + 8 * (y.start + y.next))
      let ag := s.streamAgent r a (32 + x)
      let word := fun (f : Flight) (d0 : Dest) (v : Nat) => f.r = r ∧ f.tok.dest = d0.elem ∧
        f.tok.payload = BitVec.ofNat 64 (s.agentRead ag r p 8) ∧ (s.mayMiss ag p 8 = [] → f.tok.payload = BitVec.ofNat 64 v) ∧
        tokTag f.tok = if y.itstep = true then mkTag (tagCtx y.tag) (tagIter y.tag + y.next) else y.tag
      (s.scoreHit p 8 = true → exec (.shldRead r a x) s = .next s) ∧
      (∀ d0 d1 ch v, s.scoreHit p 8 = false → s.readAt r p 8 = .inl v → y.dst = .dests d0 d1 ch → d0.valid = true → d0.tagop = 0 →
        (y.next + 1 ≠ y.stop → ∃ u f, exec (.shldRead r a x) s = .next u ∧ u.net = s.net ++ [f] ∧ word f d0 v ∧ f.tok.last = false ∧
          Sparse.entry? (u.elem r a).ctxs x = some { y with next := y.next + 1 } ∧ ∀ b, u.readByte b = s.readByte b) ∧
        (y.next + 1 = y.stop → d1.valid = true → d1.tagop = 0 → ∃ u f g, exec (.shldRead r a x) s = .next u ∧ u.net = s.net ++ [f, g] ∧
          word f d0 v ∧ f.tok.last = true ∧ g.r = r ∧ g.tok.dest = d1.elem ∧ g.tok.payload = BitVec.ofNat 64 y.stop ∧
          tokTag g.tok = y.tag ∧ g.tok.last = true ∧ Sparse.entry? (u.elem r a).ctxs x = (none : Option StreamCtx) ∧
          (∀ b, u.readByte b = s.readByte b) ∧ ∀ t, tileOf (s.cluster cl) h = some t →
            (y.peek = true → t.state ≠ .drained → tileOf (u.cluster cl) h = some { t with reading := t.reading - 1 }) ∧
            (y.peek = false → ∃ z, tileOf (u.cluster cl) h = some z ∧ z.count = t.count - 1 ∧ z.reading = t.reading - 1 ∧
              z.state = (if t.count - 1 = 0 then TileState.drained else t.state) ∧
              (∀ i, charge t = some i → z.shares = modifyAt (fun n => n - 1) t.shares i) ∧
              ∃ j ∈ (u.cluster cl).journal, j.region = s.rid r ∧ j.handle = h ∧ 1 ≤ j.count))))) ∧
  (∀ s c p n q rest, c < 4 → p < 16 → s.partPeriod c p = some n →
    let y := Sparse.atD (s.cluster c).parts p {}
    (y.queue = q :: rest →
      (y.starve < n → exec (.shelfStarved c p) s = .next s) ∧
      (n ≤ y.starve → q.elem ≠ 0xFFFF → ∃ t : State, (Sparse.atD (t.cluster c).parts p {}).starve = 0 ∧
        (Sparse.atD (t.cluster c).parts p {}).queue = y.queue ∧ exec (.shelfStarved c p) s = .next (t.raise q.r 0x0F 0xFFFF 0xFF 0 0 0))) ∧
    (n ≤ y.period → ∃ u, exec (.stageBalancer c p) s = .next u ∧ (Sparse.atD (u.cluster c).parts p {}).period = 0 ∧
      (Sparse.atD (u.cluster c).parts p {}).parkedC = 0 ∧ u = { s with clusters := u.clusters } ∧
      let ps : List Pipeline := (s.declaredPipes c).map (s.settlePipe c)
      (2 * y.parkedC ≤ y.period → (u.cluster c).pipes = ps) ∧
      ∀ (k : Nat) (l : Pipeline) (i : Nat), ps[k]? = some l → l.parts.findIdx? (· == p) = some i → l.expert = false →
        l.vd = y.vd → 1 < stageWidth l i →
        i + 1 < l.stages.length → y.period < 2 * y.parkedC → (u.cluster c).pipes[k]? = some (moveReplica i l)))

/-- R80, R208, R215, R216, R221, R222, R226, R232, R233, R235, R239, R268: the steps of engines and shelves complete, by the
state alone. A trigger enters the pool; a k-step whose lines are read is applied; ACC.CHK, ACC.WR `.el` and SCL.LD `.st` at the
head of a port are performed; a parked SHALLOC with room gets its tile; a shelf read delivers a word; ShelfStarved is raised; a
period of the balancer ends. -/
def Obligations.EngineAndShelfStepsComplete : Prop :=
  (∀ s core mx c, core < 96 → mx < 3 → headOf (s.core core) mx = some c → c.isMma = true → s.mxGoes c.r = true →
    ((s.core core).pool.filter fun y => y.mx == mx).length < 64 →
    let z := s.accOf core c.acc
    (∀ y ∈ c :: (s.core core).pool, ¬ (y.acc = c.acc ∧ y.opens = true ∧ z.opened = true ∧ z.tag = y.tag)) →
    (z.opened = true → z.tag = c.tag → c.seq ≠ z.next → z.held.getLsbD c.seq.toNat = false) →
    ∃ u, exec (.kstepTriggerArrival core mx) s = .next u ∧ (u.core core).pool = (s.core core).pool ++ [c] ∧
      (u.core core).issue = removeFirst (fun y => y.mx == mx) (s.core core).issue ∧
      (z.opened = true → z.tag = c.tag → c.opens = false → c.seq ≠ z.next → (u.accOf core c.acc).held.getLsbD c.seq.toNat = true) ∧
      u = { s with cores := u.cores }) ∧
  (∀ s core n c p, Safe s → core < 96 → n < 256 → nextK (s.core core) n = some c → s.mxGoes c.r = true → PlainReply c →
    let z := s.accOf core n
    let cap := c.opens || !z.bands
    s.kPlaces core c cap = .ok p → (∀ l ∈ p.lines, ∃ y ∈ c.seen, y.line = l) →
    (∀ y ∈ removeFirst (fun y => y == c) (s.core core).pool, ¬ (y.acc = n ∧ y.opens = true ∧ y.tag = c.tag)) →
    let d := (s.seenBy c).kRead core c cap p
    d.badA = [] → d.badB = [] → ∃ u, exec (.kstepApply core n) s = .next u ∧
      (∀ k < 1024, u.accWord core n k =
        addProducts (if c.opens = true then 0 else s.accWord core n k) (products d (k / 32) (k % 32)) % 2 ^ 32) ∧
      (∀ a, a < accPa core n 0 ∨ accPa core n 0 + 4096 ≤ a → u.readByte a = s.readByte a) ∧
      (u.accOf core n).opened = true ∧ (u.accOf core n).tag = c.tag ∧
      (u.accOf core n).next = (if c.opens = true then c.seq else z.next) + 1 ∧
      (u.core core).pool = removeFirst (fun y => y == c) (s.core core).pool ∧ Replied s u c n) ∧
  (∀ s core mx c, Safe s → core < 96 → mx < 3 → tileWaiting (s.core core) mx = none → headOf (s.core core) mx = some c →
    c.pieces = none → s.mxGoes c.r = true → PlainReply c →
    let n := c.a.toNat % 256
    let rest := removeFirst (fun y => y.mx == mx) (s.core core).issue
    (c.op = .accChk → ∃ u, exec (.accPerform core mx) s = .next u ∧ (u.core core).issue = rest ∧ (u.accOf core n).ck = true ∧
      (u.accOf core n).verify = none ∧ (∀ i < 32, (u.accOf core n).row i = roundCode .fp32 .rne (sumWords (s.rowWords core n i)) % 2 ^ 32) ∧
      (∀ j < 32, (u.accOf core n).col j = roundCode .fp32 .rne (sumWords (s.colWords core n j)) % 2 ^ 32) ∧
      (∀ a, u.readByte a = s.readByte a) ∧ Replied s u c n) ∧
    (∀ ck, c.op = .accWr true ck → ∃ u, exec (.accPerform core mx) s = .next u ∧ (u.core core).issue = rest ∧
      (u.accOf core n).verify = none ∧ Replied s u c n ∧ let p := accPa core n (c.a.toNat / 2 ^ 8 % 2 ^ 10)
      Memory.readN u.mem p 4 = c.b.toNat % 2 ^ 32 ∧ ∀ a, a < p ∨ p + 4 ≤ a → u.readByte a = s.readByte a) ∧
    (c.op = .sclLd 2 → ∃ u, exec (.accPerform core mx) s = .next u ∧ (u.core core).issue = rest ∧
      Replied s u c (s.core core).scaleStatus.toNat ∧ ∀ a, u.readByte a = s.readByte a)) ∧
  (∀ s c p q rest k g d0 d1 ch, c < 4 → p < 16 → (Sparse.atD (s.cluster c).parts p {}).queue = q :: rest →
    roomFor (s.cluster c) p (s.reqCore q) q.size = some (k, g) → q.elem ≠ 0xFFFF → q.dst = .dests d0 d1 ch → d0.valid = true →
    d0.tagop = 0 → ∃ u x f, exec (.shallocServe c p) s = .next u ∧ (Sparse.atD (u.cluster c).parts p {}).queue = rest ∧
      (u.cluster c).tiles = (s.cluster c).tiles ++ [x] ∧ x.state = .opened ∧ x.count = q.count ∧ x.core = k ∧ x.gran = g ∧
      x.size = q.size ∧ x.part = p ∧ x.region = s.rid q.r ∧ (∀ i < q.size, granFree (s.cluster c) p k (g + i) = true) ∧
      u.net = s.net ++ [f] ∧ f.r = q.r ∧ f.tok.dest = d0.elem ∧ f.tok.payload = BitVec.ofNat 64 x.handle ∧ tokTag f.tok = q.tag ∧
      u = { s with clusters := u.clusters, net := u.net }) ∧
  (∀ s r a x y d0 d1 ch, r < 256 → a < 65536 → x < 4 → Sparse.entry? (s.elem r a).ctxs x = some y → y.kind = .shelf →
    s.memGoes r a = true → y.begun = true → y.itstep = false → y.next + 1 ≠ y.stop → y.dst = .dests d0 d1 ch → d0.valid = true →
    d0.tagop = 0 → let p := pa (spA (24 * clusterOfCore (s.coreOf r a) + hCore y.handle.toNat)) (4096 * hGran y.handle.toNat + 8 * (y.start + y.next))
    p < pa (spA 96) 0 → s.scoreHit p 8 = false → s.regMarked r p = false → ∃ u f, exec (.shldRead r a x) s = .next u ∧
      u.net = s.net ++ [f] ∧ f.r = r ∧ f.tok.dest = d0.elem ∧ f.tok.payload = BitVec.ofNat 64 (s.agentRead (s.streamAgent r a (32 + x)) r p 8) ∧
      tokTag f.tok = y.tag ∧ f.tok.last = false ∧ Sparse.entry? (u.elem r a).ctxs x = some { y with next := y.next + 1 } ∧
      ∀ b, u.readByte b = s.readByte b) ∧
  (∀ s c p n q rest, c < 4 → p < 16 → s.partPeriod c p = some n → (Sparse.atD (s.cluster c).parts p {}).queue = q :: rest →
    n ≤ (Sparse.atD (s.cluster c).parts p {}).starve → q.elem ≠ 0xFFFF →
    ∃ t : State, exec (.shelfStarved c p) s = .next (t.raise q.r 0x0F 0xFFFF 0xFF 0 0 0) ∧
      t = s.updCluster c fun k => { k with parts := Sparse.upd k.parts p {} fun y => { y with starve := 0 } }) ∧
  (∀ s c p n, c < 4 → p < 16 → s.partPeriod c p = some n → n ≤ (Sparse.atD (s.cluster c).parts p {}).period →
    ∃ u, exec (.stageBalancer c p) s = .next u ∧ u = { s with clusters := u.clusters } ∧
      Sparse.atD (u.cluster c).parts p {} = { Sparse.atD (s.cluster c).parts p {} with period := 0, parkedC := 0 } ∧
      (∀ j, j ≠ p → Sparse.atD (u.cluster c).parts j {} = Sparse.atD (s.cluster c).parts j {}) ∧
      ∀ j, j ≠ c → u.cluster j = s.cluster j)

/-! ## Task machines, schedulers and launch queues -/

/-- R58, R59, R258, R259, R263, R265, R336, R368: a decrement lowers the count of a PENDING record, the one to 0 makes it READY,
and a record in another state refuses it; the head of a ready queue is placed on free cores, its own package's or a span's, and
one that is not READY is refused; a region whose task is done retires, and its record becomes RETIRED; an idem region restarts and
frees its cores; a notified queue takes a free slot, and a deferred one raises QueueDeferred; a slot takes its queue's next entry,
publishes its record at the queue's priority (log 38, DEDUCED) and moves the head, and an empty queue that may be pre-empted gives its slot to one that
waits. A retirement whose state word is Malformed keeps the region (log 108), a span's cores are those of log 116, the cores kept for
a stage's replica those of log 111, and the event is how a deferral is reported (log 109): the model's choices. -/
def Obligations.TaskStepsGoOn : Prop :=
  (∀ s k d, s.decrs[k]? = some d →
    let w := hwWho d.vd (s.homeCluster d.vd (((s.vd d.vd).clusters.head?).getD 0) d.task)
    ∀ p, Safe s → RecordAt s w d.task p →
      (¬ WordOf s p 1 → exec (.taskDecrement k) s = .next (({ s with decrs := removeAt s.decrs k } : State).refuse d.vd d.task)) ∧
      (WordOf s p 1 → s.readNat (p + 4) 4 ≠ 1 → ∃ u, exec (.taskDecrement k) s = .next u ∧ u.decrs = removeAt s.decrs k ∧
        Memory.readN u.mem (p + 4) 4 = (s.readNat (p + 4) 4 + 2 ^ 32 - 1) % 2 ^ 32 ∧
        (∀ b, b < p + 4 ∨ p + 8 ≤ b → u.readByte b = s.readByte b) ∧
        u = { s with decrs := u.decrs, mem := u.mem, homes := (s.addRel d.vd d.task d.rel).homes }) ∧
      (WordOf s p 1 → s.readNat (p + 4) 4 = 1 → s.tileWaiting d.vd w.cluster d.task = false →
        ∃ u, exec (.taskDecrement k) s = .next u ∧ WordOf u p 2 ∧ u.decrs = removeAt s.decrs k ∧
        (∀ b, b < p ∨ p + 8 ≤ b → u.readByte b = s.readByte b) ∧
        (u.cluster w.cluster).ready = (s.cluster w.cluster).ready ++ (if s.readNat (p + 0x10) 8 = 0 then [] else
          [{ vd := d.vd, task := d.task, prio := s.readNat p 4 / 16 % 4 }]))) ∧
  (∀ s c q d x n, c < 4 → s.headTask c = some q → s.vdRuns q.vd = true → s.sliceOver q.vd = false →
    let w := hwWho q.vd c
    let place := ((s.keptFor c q.vd n (BitVec.ofNat 64 d)).orElse fun _ => s.coresFor c q.vd n).orElse fun _ => s.spanCores q.vd n
    ∀ wd, s.taskWord w q.task = .ok wd → s.hwRead w (q.task.toNat + 0x10) 8 = .ok d →
    (¬ (wd % 16 = 2 ∧ wd / 2 ^ 7 % 2 = 0) → exec (.taskPlacement c) s = .next ((s.unready c q).refuse q.vd q.task)) ∧
    (wd % 16 = 2 → wd / 2 ^ 7 % 2 = 0 → s.readDesc w (BitVec.ofNat 64 d) = .ok x → s.descCores w (BitVec.ofNat 64 d) = .ok n →
    (place = none ∨ s.freePlace c = none → exec (.taskPlacement c) s = .next s) ∧
    (∀ cores p, place = some cores → s.freePlace c = some p → s.stageRoom c q.vd (BitVec.ofNat 64 d) = true →
      let t := ((s.homeOf q.vd q.task).map (·.thread)).getD (16 * c)
      ((s.thread t).hrank.toNat % 8 < x.rank →
        exec (.taskPlacement c) s = .next (((s.unready c q).faultTask q.vd c q.task 0x04).takeKept c cores)) ∧
      (x.rank ≤ (s.thread t).hrank.toNat % 8 → (takeRegs x t (s.thread t)).fedge = 0 → x.rank < 7 →
        ∃ u, exec (.taskPlacement c) s = .next u ∧ u = { s with clusters := u.clusters, regions := u.regions } ∧
          (u.region (64 * c + p)).cores = cores ∧ (u.region (64 * c + p)).task = some q.task ∧
          (u.region (64 * c + p)).live = x.live ∧ (u.region (64 * c + p)).load = x.load ∧
          (∀ j, j ≠ 64 * c + p → u.region j = s.region j) ∧
          (u.cluster c).ready = (s.cluster c).ready.filter fun y => !(y.vd == q.vd && y.task == q.task))))) ∧
  (∀ s r a, r < 256 → (s.region r).task = some a → (s.region r).live = true → (s.region r).awaiting = true →
    let hc := s.homeCluster (s.region r).vd (r / 64) a
    let w := hwWho (s.region r).vd hc
    (s.counterMet w a.toNat = .ok false → exec (.taskRetirement r) s = .next s) ∧
    (s.counterMet w a.toNat = .ok true → ∃ u, exec (.taskRetirement r) s = .next u ∧
      (∀ wd, (s.flushStores r).taskWord w a = .ok wd → wordOk wd = true →
        ((s.region r).keep = true → (u.region r).status = .completed ∧ (u.region r).task = none) ∧
        ((s.region r).keep = false → (u.region r).live = false)) ∧
      (∀ wd, (s.flushStores r).taskWord w a = .ok wd → wordOk wd = false →
        (u.region r).awaiting = false ∧ (u.region r).live = true ∧ (u.region r).task = some a) ∧
      (∀ p, Safe s → RecordAt s w a p → (WordOf s p 3 ∨ WordOf s p 4) → s.readNat (p + 8) 8 = 0 → (s.region r).storeBuf = [] →
        (s.region r).storeClear = [] → (s.region r).storePoison = [] →
        (∀ c, (s.cluster c).succs = [] ∧ (s.cluster c).journal = [] ∧ (s.cluster c).tiles = []) →
        WordOf u p 5 ∧ ∀ b, b < p ∨ p + 4 ≤ b → u.readByte b = s.readByte b))) ∧
  (∀ s r, r < 256 → restartable (s.region r) = true →
    s.sliceOver (s.region r).vd = true ∨ (s.region r).draining = true ∨ (s.region r).drained = true ∨ (s.region r).frozenEnd = true →
    exec (.idempotentRestart r) s = .next (s.restartRegion r) ∧ ((s.restartRegion r).region r).live = false) ∧
  (∀ s c v q l, c < 4 → v < Config.vdCount → (s.vd v).live = true → (s.vd v).dying = false → (s.vd v).mode = .active →
    (s.vd v).parked = false → (∀ y ∈ (s.cluster c).slots, ¬ (y.vd = v ∧ y.qaddr = q)) → s.launchQ v c q = .ok l →
    let rest := (s.cluster c).deferred.filter fun y => !(y.vd == v && y.qaddr == q)
    ((s.cluster c).slots.length < 64 → ∃ u, exec (.queueNotify c v q) s = .next u ∧
      (u.cluster c).slots = (s.cluster c).slots ++ [l] ∧ (u.cluster c).deferred = rest ∧
      (∀ j, j ≠ c → u.cluster j = s.cluster j)) ∧
    (64 ≤ (s.cluster c).slots.length → (∀ y ∈ (s.cluster c).slots, y.nonPre = true) → ∃ t : State, (t.cluster c).deferred = rest ++ [l] ∧
      (t.cluster c).slots = (s.cluster c).slots ∧ exec (.queueNotify c v q) s = .next (t.raiseSuper v 0x16 q.toNat))) ∧
  (∀ s c k l, c < 4 → k < 64 → (s.cluster c).slots[k]? = some l → s.vdRuns l.vd = true →
    let w := hwWho l.vd c
    (s.nextEntry w l.qaddr.toNat = .ok none →
      ((s.cluster c).deferred = [] ∨ l.nonPre = true → exec (.launchSlotConsume c k) s = .next s) ∧
      ((s.cluster c).deferred ≠ [] → l.nonPre = false → exec (.launchSlotConsume c k) s = .next (s.freeSlot c l))) ∧
    (∀ a h p hp, s.nextEntry w l.qaddr.toNat = .ok (some (a, h)) → let ad := BitVec.ofNat 64 a
      Safe s → RecordAt s w ad p → s.homeOf l.vd ad = none → s.tileWaiting l.vd c ad = false → WordOf s p 0 → s.readNat p 4 < 2 ^ 16 →
      s.readNat p 4 / 2 ^ 6 % 2 = 1 → l.prio < 4 → isMgmt hp = false → hp + 8 ≤ p ∨ p + 64 ≤ hp →
      (∀ (m : List Host.Cell) (hs : List TaskHome), (∀ b, b < p ∨ p + 64 ≤ b → Memory.read m b = Memory.read s.mem b) →
        ∃ x, ({ s with mem := m, homes := hs } : State).resolve w (BitVec.ofNat 64 (l.qaddr.toNat + 0x10)) .wr = .ok hp x) →
      ∃ u, exec (.launchSlotConsume c k) s = .next u ∧ Memory.readN u.mem hp 8 = (h + 1) % 2 ^ 64 ∧ u.readNat p 4 / 16 % 4 = l.prio ∧
        (∃ y, u.homeOf l.vd ad = some y ∧ y.cluster = c ∧ y.thread = l.thread ∧ y.own = false) ∧
        (s.readNat (p + 4) 4 ≠ 0 → WordOf u p 1) ∧
        (s.readNat (p + 4) 4 = 0 → WordOf u p 2 ∧ (s.readNat (p + 0x10) 8 ≠ 0 →
          (u.cluster c).ready = (s.cluster c).ready ++ [{ vd := l.vd, task := ad, prio := l.prio }])) ∧
        ∀ b, (b < p ∨ p + 64 ≤ b) → (b < hp ∨ hp + 8 ≤ b) → u.readByte b = s.readByte b) ∧
    (∀ a h, s.nextEntry w l.qaddr.toNat = .ok (some (a, h)) →
      (s.publishEntry c l a = none → exec (.launchSlotConsume c k) s = .next s) ∧
      (∀ t u, s.publishEntry c l a = some t → t.hwWrite w (l.qaddr.toNat + 0x10) 8 (h + 1) = .ok u →
        exec (.launchSlotConsume c k) s = .next u)))

/-- R33, R323, R324, R330, R331, R333, R337, R343, R349, R270, R357: a load takes its records one at a step, ends with its image
active, or with its fault; a pre-emption request aborts the loads on the region's cores, takes a region that `ifepel` has stopped
off its cores, and makes a running one drain; a swapped-out bank is saved; a slice that is over parks its device once its regions
can be saved, and a parked device goes on once clusters and HBM groups are free; Watchdog and ThrottleStarve are raised at their
limits, and their counters restart; a throttle holds a region until it is lifted. Parking a device at the end of its slice is log 42
(DEDUCED), the clusters and HBM groups that it goes on with are log 114 (DESIGN CHOICE), and what becomes of a region that `ifepel`
stopped is log 85. -/
def Obligations.LoadsSlicesAndLimitsGoOn : Prop :=
  (∀ s r l, r < 256 → (s.region r).load = some l → (s.region r).live = true → (s.region r).status = .loading →
    (l.conf < (s.region r).confs.length →
      (∀ l' n, s.nextRecord (s.region r) (r / 64) l = .inr (l', n) → ∃ u, exec (.configLoadRecord r) s = .next u ∧
        u = { s with regions := u.regions } ∧ (u.region r).load = some l' ∧ (u.region r).status = .loading ∧
        ∀ j, j ≠ r → u.region j = s.region j) ∧
      (∀ c i, s.nextRecord (s.region r) (r / 64) l = .inl (c, i) → exec (.configLoadRecord r) s = .next (s.failLoad r c i))) ∧
    ((s.region r).confs.length ≤ l.conf → (s.region r).task = none → (s.region r).rerun = false →
      ∃ u, exec (.configLoadComplete r) s = .next u ∧
      (u.region r).status = .loaded ∧ (u.region r).load = none ∧ (u.region r).loadFault = 0 ∧
      (∀ a c b, a < 65536 → isFar (s.coreOf r a) = false → l.shadow = [(a, c, b)] → Sparse.atD (u.elem r a).confs c {} = b) ∧
      (∀ j, j ≠ r → u.region j = s.region j) ∧ ∀ x, u.readByte x = s.readByte x)) ∧
  (∀ s r, r < 256 → (s.region r).live = true →
    let t := (s.shadowLoads r).foldl State.abortLoad s
    ((s.region r).activeNow = false ∨ (s.region r).load.isSome = true → exec (.preemptionRequest r) s = .next t) ∧
    ((s.region r).activeNow = true → (s.region r).load = none → (s.region r).dbgStop = true →
      exec (.preemptionRequest r) s = .next (t.preemptStopped r)) ∧
    ((s.region r).activeNow = true → (s.region r).load = none → (s.region r).dbgStop = false → (s.region r).status = .running →
      (s.region r).drained = false → (s.region r).frozenEnd = false → exec (.preemptionRequest r) s = .next (t.beginDrain r) ∧
      (s.shadowLoads r = [] →
        exec (.preemptionRequest r) s = .next (s.updRegion r fun x => { x with draining := true, frozenEnd := false })))) ∧
  (∀ s r l, r < 256 → (s.region r).live = true → (s.region r).load = some l → (s.region r).status = .loading →
    s.shadowLoads r = [r] → exec (.preemptionRequest r) s =
      .next ((s.raise r 0x12 0xFFFF 0xFF 0 0 0).updRegion r fun x => { x with load := some { conf := 0, recn := 0, shadow := [], scales := [] }, status := .loaded })) ∧
  (∀ s r, r < 256 → (s.region r).live = true → (s.region r).activeNow = false → (s.region r).saved = false →
    exec (.bankSpill r) s = .next (s.updRegion r fun x => { x with saved := true })) ∧
  (∀ s v, v < Config.vdCount → (s.vd v).live = true → (s.vd v).dying = false → (s.vd v).mode = .active →
    (s.sliceOver v = true → s.collapseReady v = true → ∃ u, exec (.timeSliceExpiry v) s = .next u ∧
      (u.vd v).parked = true ∧ (u.vd v).clusters = []) ∧
    (s.sliceOver v = true → s.collapseReady v = false → exec (.timeSliceExpiry v) s = .next (s.endSlice v)) ∧
    (s.sliceOver v = false → (s.vd v).parked = false → exec (.timeSliceExpiry v) s = .next s) ∧
    ((s.vd v).parked = true → s.wakeGroups v = none → exec (.timeSliceExpiry v) s = .next s) ∧
    (∀ g, (s.vd v).parked = true → s.wakeGroups v = some g → g.wakeClusters v = none → exec (.timeSliceExpiry v) s = .next s) ∧
    (∀ g cs t, (s.vd v).parked = true → s.wakeGroups v = some g → g.wakeClusters v = some (cs, t) → exec (.timeSliceExpiry v) s =
      .next ((t.updVd v fun d => { d with sliceAt := t.clock, sliceEnd := false }).unparkVd v cs))) ∧
  (∀ s r, r < 256 → (s.region r).live = true →
    ((s.region r).wdlim ≠ 0 → 1024 * (s.region r).wdlim ≤ (s.region r).eligible → exec (.watchdog r) s =
      .next ((s.updRegion r fun x => { x with eligible := 0 }).raise r 0x14 0xFFFF 0xFF 0 0 0)) ∧
    ((s.region r).wdlim = 0 ∨ (s.region r).eligible < 1024 * (s.region r).wdlim → exec (.watchdog r) s = .next s) ∧
    ((s.region r).thlim ≠ 0 → 1024 * (s.region r).thlim ≤ (s.region r).throttledC → exec (.throttleStarve r) s =
      .next ((s.updRegion r fun x => { x with throttledC := 0 }).raise r 0x15 0xFFFF 0xFF 0 0 0)) ∧
    ((s.region r).thlim = 0 ∨ (s.region r).throttledC < 1024 * (s.region r).thlim → exec (.throttleStarve r) s = .next s) ∧
    ((s.region r).throttled = false → (s.vd (s.region r).vd).pinned = false → exec (.powerThrottle r) s =
      .next { s.updRegion r fun x => { x with throttled := true } with throttle := true }) ∧
    (∃ u, exec (.throttleLifted r) s = .next u ∧ (u.region r).throttled = false ∧ (∀ j, j ≠ r → u.region j = s.region j) ∧
      u = { s with regions := u.regions, throttle := u.throttle }))

/-! ## Devices -/

/-- R341 to R351: a record that breaks its layout makes no device; a good one for which everything is free makes a live device with
its clusters, and writes its number and status 1; a destroyed device is gone; a permitted wake write wakes a dormant
device; an idle device collapses; a collapse ends DORMANT, a wake ACTIVE with the wake counter one higher; WakeMiss is raised
once after the bound, at the latest where the wake ends. Which clusters and groups a device gets is firmware's choice (log 34); that
the share of class 3 lies in the pooled commons is log 113 (DEDUCED); what the slices of other devices give back for a wake
(endSlices) and the groups and frames that a waking device takes (wakeGroups) are log 114 (DESIGN CHOICE), and how a parked device
goes on (unparkVd) is log 42 (DEDUCED). -/
def Obligations.DevicesAreCreatedCollapsedAndWoken : Prop :=
  (∀ s (a : Word) p x, Safe s → placeOf 1 Config.pod Config.package 0 a.toNat = .ok p x →
    let b := fun (o n : Nat) => s.readNat (p + o) n
    (s.vdRecordOk p = false → ∃ u, exec (.createVd a) s = .next u ∧ Memory.readN u.mem (p + 0x70) 8 = 0x102 ∧ u.vds = s.vds ∧
      ∀ y, y < p + 0x70 ∨ p + 0x78 ≤ y → u.readByte y = s.readByte y) ∧
    (s.vdRecordOk p = true → b 0x18 8 / 2 ^ 62 = 1 → b 8 8 ≠ 0 → commonsOk (b 0x18 8 / 2 ^ 12 % 2 ^ 36 * 2 ^ 12) = true →
      (∃ v < Config.vdCount, (s.vd v).live = false) → b 2 1 ≤ s.openClusters.length → b 4 1 ≤ s.openGroups.length →
      s.sharePlaces (b 8 8) (some (b 0x18 8 / 2 ^ 12 % 2 ^ 36 * 2 ^ 12)) (b 3 1 % 4 == 3) ≠ [] →
      2 * b 0x2A 2 ≤ (s.openQueues 0 (b 0x2A 2)).length + (s.openQueues 1 (b 0x2A 2)).length →
      2 * b 0x2C 1 ≤ (s.openPorts 0 (b 0x2C 1)).length + (s.openPorts 1 (b 0x2C 1)).length →
      ∃ u v, exec (.createVd a) s = .next u ∧ v < Config.vdCount ∧ (s.vd v).live = false ∧ (u.vd v).live = true ∧
        (∀ k, k ≠ v → u.vd k = s.vd k) ∧ (u.vd v).clusters.length = b 2 1 ∧ (∀ c ∈ (u.vd v).clusters, c ∈ s.openClusters) ∧
        (u.vd v).root = BitVec.ofNat 64 (b 0x18 8) ∧ (u.vd v).creator = BitVec.ofNat 64 (b 0x20 8) ∧
        (u.vd v).commonsLen = b 8 8 ∧ (u.vd v).mode = .active ∧ (u.vd v).slice = b 0x29 1 ∧
        Memory.readN u.mem (p + 0x70) 8 = 1 ∧ Memory.readN u.mem p 2 = v)) ∧
  (∀ s (v : Word), v.toNat < Config.vdCount → (s.vd v.toNat).live = true →
    (∀ size, size ≠ 8 → exec (.destroyVd size v) s = .next s) ∧
    ((s.vd v.toNat).dying = true → s.windowsQuiet v.toNat = false → exec (.destroyVd 8 v) s = .next s) ∧
    ((s.vd v.toNat).dying = true → s.windowsQuiet v.toNat = true → ∃ u, exec (.destroyVd 8 v) s = .next u ∧
      u.vd v.toNat = {} ∧ u = s.scrubVd v.toNat) ∧
    ((s.vd v.toNat).dying = false → let t := s.condemnVd v.toNat
      exec (.destroyVd 8 v) s = .next (if t.windowsQuiet v.toNat then t.scrubVd v.toNat else t))) ∧
  (∀ s v who, v < Config.vdCount → (s.vd v).live = true → (s.vd v).dying = false →
    (s.mayWake v who = false → exec (.wakeWrite v who 8) s = .next s) ∧
    (∀ size, size ≠ 8 → exec (.wakeWrite v who size) s = .next s) ∧
    (s.mayWake v who = true → (s.vd v).mode = .dormant → exec (.wakeWrite v who 8) s =
      .next (s.updVd v fun d => { d with mode := .waking, wakeAt := s.clock, missed := false })) ∧
    (s.mayWake v who = true → (s.vd v).mode = .collapsing → exec (.wakeWrite v who 8) s =
      .next (s.updVd v fun d => { d with wakePend := true })) ∧
    (s.mayWake v who = true → (s.vd v).mode = .active ∨ (s.vd v).mode = .waking → exec (.wakeWrite v who 8) s = .next s)) ∧
  (∀ s v, v < Config.vdCount → (s.vd v).live = true → (s.vd v).dying = false →
    ((s.vd v).mode = .active → (s.vd v).parked = false → (s.vd v).idle ≠ 0 →
      (s.vd v).idle * Config.cyclesPerMs ≤ (s.vd v).idleC → s.idleVd v = true →
      exec (.automaticCollapse v) s = .next (s.beginCollapse v) ∧
        (s.regionsOf v = [] → ((s.beginCollapse v).vd v).mode = .collapsing)) ∧
    ((s.vd v).mode = .collapsing → (s.collapseReady v = false → exec (.collapseComplete v) s = .next s) ∧
      (s.collapseReady v = true → ∃ u, exec (.collapseComplete v) s = .next u ∧
        (u.vd v).mode = (if (s.vd v).wakePend then .waking else .dormant) ∧ (u.vd v).parked = true)) ∧
    ((s.vd v).mode = .waking →
      let w := s.missWake v
      (w.endWake v = none → exec (.wakeComplete v) s = .next (w.endSlices v)) ∧
      (∀ t, w.endWake v = some t → exec (.wakeComplete v) s = .next (t.deliverHeld v 4096) ∧
        ((w.vd v).images = [] → (w.vd v).launchQs = [] → (t.vd v).mode = .active ∧ (t.vd v).parked = false ∧
          (t.vd v).counter = (w.vd v).counter + 1)) ∧
      exec (.wakeMiss v) s = .next w ∧
      ((s.vd v).missed = false → boundPassed (s.vd v).wclass (s.vd v).resident.toNat (s.clock - (s.vd v).wakeAt) = true →
        exec (.wakeMiss v) s = .next ((s.updVd v fun d => { d with missed := true }).deliver (hwWho v 0) true
          (mkRecord 0x1A 0 0xFFFF 0 0xFF v 0) 9 (s.vd v).creator.toNat)) ∧
      ((s.vd v).missed = true ∨ boundPassed (s.vd v).wclass (s.vd v).resident.toNat (s.clock - (s.vd v).wakeAt) = false →
        exec (.wakeMiss v) s = .next s)))

/-- R110, R170, R171, R179, R311, R352 to R356: an observation is learned under the basic control and its best experts are copied; a
hint copies its expert under the expert control; a copy waits for the scoreboard of its W-buffer; each is consumed else. A cold
reset starts from the boot ROM; a good image starts its stage, a bad one fails the start with its cause, and the third failure in a
row ends in minimal mode. A request for attestation gets a signed report. An uncorrectable error marks its line or word, poisons its
token or latch, or spoils its slot or channel. That a hint is dropped under the basic control, and how the best experts are chosen, is
log 64 (DEDUCED); the order of the checks of an image (marked bytes, form, digest, signature, version) and what a cold reset keeps is
log 81 (DEDUCED). -/
def Obligations.PredictorBootAndErrorsGoOn : Prop :=
  (∀ s die v c p, die < 2 → s.routerHead die = some (v, c, p) →
    let t := s.popRouter die
    let l := p / 2 ^ 8 % 2 ^ 6
    let e := p % 2 ^ 8
    (p / 2 ^ 14 % 4 = 0 → (s.vd v).xpred.toNat % 4 ≠ 1 ∨ (s.vd v).live = false → exec (.predictorObservation die) s = .next t) ∧
    (p / 2 ^ 14 % 4 = 0 → (s.vd v).xpred.toNat % 4 = 1 → (s.vd v).live = true →
      let u := t.updVd v (fun d => learn d (p / 2 ^ 16 % 2 ^ 32) l e)
      let js := topNext (u.vd v).learned l e 4 (List.range 256)
      ((∀ j ∈ js, s.expertRoom v c (l + 1) j = true) → exec (.predictorObservation die) s =
        .next (js.foldl (fun y j => y.copyExpert v c (l + 1) j) u)) ∧
      ((∃ j ∈ js, s.expertRoom v c (l + 1) j = false) → exec (.predictorObservation die) s = .next s)) ∧
    (p / 2 ^ 14 % 4 = 1 → (s.vd v).xpred.toNat % 4 ≠ 3 ∨ (s.vd v).live = false → exec (.predictorHint die) s = .next t) ∧
    (p / 2 ^ 14 % 4 = 1 → (s.vd v).xpred.toNat % 4 = 3 → (s.vd v).live = true →
      (s.expertRoom v c l e = true → exec (.predictorHint die) s = .next (t.copyExpert v c l e)) ∧
      (s.expertRoom v c l e = false → exec (.predictorHint die) s = .next s))) ∧
  (∀ d b l e i, d.observed = [(b, l, i)] → (learn d b (l + 1) e).learned = bump l i e d.learned ∧
    learnedAt (bump l i e d.learned) l i e = min 255 (learnedAt d.learned l i e + 1)) ∧
  (∀ s, ∃ u, exec .coldReset s = .next u ∧ u = { State.reset with turn := s.turn, clock := s.clock, free := s.free } ∧
    u.boot = .rom ∧ u.mem = []) ∧
  (∀ s img, s.boot ∈ [BootStage.rom, .mgmt, .pkg, .bextex] →
    let failed := fun (c : BitVec 8) => ({ s with
      fails := s.fails + 1, causes := s.causes.set s.fails c, bootLog := [],
      boot := if s.fails + 1 < 3 then .rom else .minimal } : State)
    exec .bootStageTimeout s = .next (failed 5) ∧
    (img.poisoned = true → exec (.bootStage img) s = .next (failed 6)) ∧
    (img.poisoned = false → img.wellFormed = false → exec (.bootStage img) s = .next (failed 4)) ∧
    (img.poisoned = false → img.wellFormed = true → img.claimed ≠ img.digest → exec (.bootStage img) s = .next (failed 2)) ∧
    (img.poisoned = false → img.wellFormed = true → img.claimed = img.digest →
      (Config.mldsaVerify Config.keyDigest img.digest img.signature = false → exec (.bootStage img) s = .next (failed 1)) ∧
      (Config.mldsaVerify Config.keyDigest img.digest img.signature = true →
        (img.version < Config.fusedVersion → exec (.bootStage img) s = .next (failed 3)) ∧
        (∀ k, Config.fusedVersion ≤ img.version → img.reported = some k → exec (.bootStage img) s = .next (failed (0xF0 ||| k.setWidth 8))) ∧
        (Config.fusedVersion ≤ img.version → img.reported = none → ∃ u, exec (.bootStage img) s = .next u ∧
          u.bootLog = s.bootLog ++ [img.digest] ∧ (s.boot = .rom → u.boot = .mgmt ∧ u.fails = s.fails) ∧
          (s.boot = .mgmt → u.boot = .pkg ∧ u.fails = s.fails) ∧ (s.boot = .pkg → u.boot = .bextex ∧ u.fails = s.fails) ∧
          (s.boot = .bextex → u.boot = .running ∧ u.fails = 0) ∧
          u = { s with boot := u.boot, bootLog := u.bootLog, fails := u.fails })))) ∧
  (∀ s img, s.boot = .minimal → exec (.bootStage img) s =
    .next (if imageCause img = none then { s with update := some img.digest } else s)) ∧
  (∀ s (n : BitVec 256), ∃ u r, exec (.attestationRequest n) s = .next u ∧ u = { s with reports := s.reports ++ [r] } ∧
    r.nonce = n ∧ r.stages = s.bootLog ∧ r.version = Config.fusedVersion ∧
    r.sig = Config.mldsaSign (n :: r.stages ++ [BitVec.ofNat 256 r.version] ++ r.vds)) ∧
  (∀ s p, lineStorage p = true → ∃ u, exec (.uncorrectableError (.line p)) s = .next u ∧ u.poisoned p = true ∧
    (∀ q, q / 64 ≠ p / 64 → u.poisoned q = s.poisoned q) ∧ u = { s with poison := u.poison }) ∧
  (∀ s core n i j, core < 96 → n < 256 → i < 32 → j < 32 → ∃ u, exec (.uncorrectableError (.accWord core n i j)) s = .next u ∧
    u.poisonedWord (accPa core n (32 * i + j)) = true ∧ u = { s with poisonW := u.poisonW }) ∧
  (∀ s r a k m, r < 256 → a < 65536 → ((s.elem r a).store[k]? = some m → ∃ t : State, (t.elem r a).store =
      modifyAt (fun q => { q with tok := { q.tok with kind := 7, payload := BitVec.ofNat 64 (2 ^ 63 + a) } }) (s.elem r a).store k ∧
      exec (.uncorrectableError (.entry r a k)) s =
        .next (t.raise r 0x10 a m.tok.slot.toNat (tokTag m.tok).toNat (2 ^ 63 + a) 0)) ∧
    ((s.elem r a).spill[k]? = some m → ∃ t : State, (t.elem r a).spill =
      modifyAt (fun q => { q with tok := { q.tok with kind := 7, payload := BitVec.ofNat 64 (2 ^ 63 + a) } }) (s.elem r a).spill k ∧
      exec (.uncorrectableError (.spill r a k)) s =
        .next (t.raise r 0x10 a m.tok.slot.toNat (tokTag m.tok).toNat (2 ^ 63 + a) 0))) ∧
  (∀ s r a conf k, r < 256 → a < 65536 →
    let bank := fun (t : State) => Sparse.atD (t.elem r a).confs conf {}
    (∀ port, (Sparse.atD (bank s).latches (4 * k + port) {}).valid = true → ∃ t : State,
      Sparse.atD (bank t).latches (4 * k + port) {} = { Sparse.atD (bank s).latches (4 * k + port) {} with
        pay := BitVec.ofNat 64 (2 ^ 63 + a), kind := 7 } ∧ exec (.uncorrectableError (.latch r a conf k port)) s =
        .next (t.raise r 0x10 a k (Sparse.atD (bank s).latches (4 * k + port) {}).tag.toNat (2 ^ 63 + a) 0)) ∧
    ((Sparse.entry? (s.elem r a).confs conf).isSome = true →
      (∃ u, exec (.uncorrectableError (.planes r a conf k)) s = .next u ∧ k ∈ (bank u).badSlots ∧ u = { s with elems := u.elems }) ∧
      ∃ u, exec (.uncorrectableError (.chan r a conf k)) s = .next u ∧ k ∈ (bank u).badChans ∧ u = { s with elems := u.elems }))

/-! ## Links, remote accesses and reductions in windows -/

/-- R347, R350, R351, R358 to R361, R364, R366, R367, R369, R394: a flit with a bad CRC is retried, and the eighth failed
retry makes the link retrain; a good one of lane 3 gives its tokens to its port; a stopped lane waits until go; a link that fails
or trains, a package that has failed; a load of another member of the span is answered with what an agent of that package sees
(R388), its store is written, and its atomic changes its bytes, once no earlier one of its requester to the line is left and lane 1
takes the reply; one for a device that sleeps wakes it and is held where the device lists its requester, and is refused else; a bound
Serdex port delivers its first token. The order of what is held is log 82 (DEDUCED), which rows of the management aperture answer is
log 112 (DEDUCED), and what the host writes through BAR2 is free (log 122, DESIGN CHOICE). -/
def Obligations.LinksAndRemoteAccessesGoOn : Prop :=
  (∀ s p f, p < 40 → f.lane < 4 → (s.serdexPort p).up = true →
    (f.good = false → (s.serdexPort p).retries < 8 → exec (.flitReceive p f) s =
      .next (s.updSerdex p fun x => { x with retries := x.retries + 1 })) ∧
    (f.good = false → 8 ≤ (s.serdexPort p).retries → exec (.flitReceive p f) s =
      .next (s.updSerdex p fun x => { x with up := false, retries := 0 })) ∧
    (f.good = true → f.formOk = false → (s.serdexPort p).rx = [] → exec (.flitReceive p f) s =
      .next (s.updSerdex p fun x => { x with retries := 0 })) ∧
    (∀ v q, f.good = true → f.lane = 3 → f.ftype = 0 → f.msg = .stream v q → f.line = false → (s.serdexPort p).rx = [] →
      f.pkg = Config.package → f.pod = Config.pod → f.count + 1 = f.tokens.length → f.tokens.length ≤ 4 →
      (s.vd v).live = true → (s.vd v).dying = false → q ∈ (s.vd v).ports →
      (s.vd v).mode = .active → (∀ y ∈ s.wakeBuf, y.1 ≠ v) →
      (s.port q).fifo.length + f.tokens.length ≤ 256 → ∃ u, exec (.flitReceive p f) s = .next u ∧
        (u.port q).fifo = (s.port q).fifo ++ f.tokens.map (fun t => { vd := v, r := none, tok := t }) ∧
        (u.serdexPort p).rx = [] ∧ (u.serdexPort p).retries = 0 ∧ u = { s with ports := u.ports, serdex := u.serdex })) ∧
  (∀ s p l n, p < 40 → l < 4 →
    exec (.laneStop p l) s = .next (s.updSerdex p fun x => { x with stopTx := x.stopTx.set l true }) ∧
    exec (.laneGo p l) s = .next (s.updSerdex p fun x => { x with stopTx := x.stopTx.set l false }) ∧
    exec (.linkDown p) s = .next (s.updSerdex p fun x => { x with up := false }) ∧
    ∃ u, exec (.linkTrained p n) s = .next u ∧ (u.serdexPort p).up = true ∧
      (u.serdexPort p).stopTx = [false, false, false, false] ∧ 
      (u.serdexPort p).nbr = (if 32 ≤ p ∧ isTier p = false then n % 256 else (s.serdexPort p).nbr) ∧
      u = { s with serdex := u.serdex }) ∧
  (∀ s k, k < 4096 → ∃ u, exec (.targetFailureDetected k) s = .next u ∧ u = { s with failed := u.failed } ∧
    ∀ q, q ∈ u.failed ↔ q = k ∨ q ∈ s.failed) ∧
  (∀ s k, s.remote[k]? = none → exec (.remoteAccess k) s = .next s.hostStore) ∧
  (∀ s k q, s.remote[k]? = some q →
    s.replyWait q = true ∨ (∃ y ∈ s.remote.take k, y.pod = q.pod ∧ y.pkg = q.pkg ∧ y.vd = q.vd ∧ y.pa / 64 = q.pa / 64) →
    exec (.remoteAccess k) s = .next s) ∧
  (∀ s k q v, Safe s → s.remote[k]? = some q → s.replyWait q = false →
    (∀ y ∈ s.remote.take k, ¬ (y.pod = q.pod ∧ y.pkg = q.pkg ∧ y.vd = q.vd ∧ y.pa / 64 = q.pa / 64)) →
    let t := { s with remote := removeAt s.remote k }
    let p := pa spCommons q.pa
    let listed := s.mayWake v (.vd q.pkg q.vd)
    (requestOk q = false → exec (.remoteAccess k) s = .next (t.reply q 0x05 0 false)) ∧
    (requestOk q = true → s.spanOfFar q.pod q.pkg q.vd = none → exec (.remoteAccess k) s = .next (t.reply q 0x07 0 false)) ∧
    (requestOk q = true → (s.spanOfFar q.pod q.pkg q.vd).isSome = true → isMgmt p = true →
      exec (.remoteAccess k) s = .next (t.remoteMgmt q)) ∧
    (requestOk q = true → (s.spanOfFar q.pod q.pkg q.vd).isSome = true → isMgmt p = false → s.shareOwner q.pa q.size = some v →
      (s.spanJoins q.pkg q.vd v = false ∨ (s.vd v).dying = true → exec (.remoteAccess k) s = .next (t.reply q 0x07 0 false)) ∧
      (s.spanJoins q.pkg q.vd v = true → (s.vd v).dying = false →
        ((s.vd v).mode = .active → s.holds v = false → s.placeDiverted p = true → exec (.remoteAccess k) s = .next s) ∧
        ((s.vd v).mode = .dormant ∨ (s.vd v).mode = .waking ∨ ((s.vd v).mode = .collapsing ∧ listed = true) ∨
            ((s.vd v).mode = .active ∧ s.holds v = true) →
          (listed = false → (s.vd v).mode ≠ .active → exec (.remoteAccess k) s = .next (t.reply q 0x1B 0 false)) ∧
          (listed = true ∨ (s.vd v).mode = .active →
            (s.holdRoom v = true → exec (.remoteAccess k) s = .next (({ t with wakeBuf := t.wakeBuf ++ [(v, .remote q)] } : State).wake v)) ∧
            (s.holdRoom v = false → exec (.remoteAccess k) s = .next (t.reply q 0x1B 0 false)))) ∧
        (((s.vd v).mode = .active ∧ s.holds v = false ∧ s.placeDiverted p = false) ∨ ((s.vd v).mode = .collapsing ∧ listed = false) →
          (q.kind = .load → s.poisoned p = false → exec (.remoteAccess k) s =
            .next (t.draw.reply q 0 (BitVec.ofNat 64 (t.seenNat (.far q.pod q.pkg) p q.size)) false)) ∧
          (q.kind = .load → s.poisoned p = true → exec (.remoteAccess k) s = .next (t.reply q 0 (poisonPayload p) true)) ∧
          (∀ b, q.kind = .store b → ∃ u, exec (.remoteAccess k) s = .next (u.draw.reply q 0 0 false) ∧ Stored t u p q.size b.toNat) ∧
          (∀ op b c, q.kind = .atomic op b c → op ≤ 6 → q.size ∈ [4, 8] → s.poisoned p = false →
            ∃ u, exec (.remoteAccess k) s = .next (u.draw.reply q 0 (BitVec.ofNat 64 (s.readNat p q.size)) false) ∧
              Stored t u p q.size (amoResult op q.size (s.readNat p q.size) b.toNat)))))) ∧
  (∀ s p b t l, p < 40 → (s.serdexPort p).bind = some b → (s.serdexPort p).fifo = t :: l →
    let pkg := b.toNat / 2 ^ 19 % 2 ^ 8
    let pod := b.toNat / 2 ^ 27 % 2 ^ 4
    let v := b.toNat / 2 ^ 31 % 2 ^ 10
    let q := 256 * (b.toNat / 2 ^ 41 % 2) + b.toNat / 2 ^ 42 % 2 ^ 8
    let u := s.updSerdex p fun y => { y with fifo := l }
    (pkg = Config.package → pod = Config.pod → (s.vd v).live = true → (s.vd v).dying = false → q ∈ (s.vd v).ports →
      (s.vd v).mode = .active → (∀ y ∈ s.wakeBuf, y.1 ≠ v) → (s.port q).fifo.length < 256 →
      exec (.serdexPortDelivery p) s =
        .next (u.updPort q fun x => { x with fifo := x.fifo ++ [{ vd := v, r := none, tok := t.tok, past := t.past }] })) ∧
    (¬ (pkg = Config.package ∧ pod = Config.pod) →
      (s.routed t.vd pod pkg = false → exec (.serdexPortDelivery p) s = .next (u.refusePort t 0x07)) ∧
      (s.routed t.vd pod pkg = true → (s.streamLink t.vd p pod = none → exec (.serdexPortDelivery p) s = .next s) ∧
        (∀ l, s.streamLink t.vd p pod = some l → exec (.serdexPortDelivery p) s = .next u) ∧
        (pod = Config.pod →
          (s.livePort t.vd p = true → s.laneStopped p 3 = false → exec (.serdexPortDelivery p) s = .next u) ∧
          (s.livePort t.vd p = false ∨ s.laneStopped p 3 = true → exec (.serdexPortDelivery p) s = .next s)))))

/-- R9, R372 to R375, R379, R381, R384: a switch forwards a node, or combines two children of one node of the tree whose
contributions carry the same fields; the home port keeps the nodes of an open reduction, joins a new one with its sibling, performs
the final write of a finished one, discards what was sent again of it, refuses an overlap and a new reduction of a window that closes;
a node for a device that sleeps is held; an acknowledgement ends its contribution, and acquires what the final write released, at pod
scope from another pod; where a switch or a link fails, every unacknowledged contribution of a window that moves is sent again,
marked, on a live path. What stands for a closed window and what is discarded is log 76 (DEDUCED), the path that a contribution takes
again log 115 (DEDUCED). -/
def Obligations.ReductionsInWindowsGoOn : Prop :=
  (∀ s sw i d, sw < 128 → s.nodes[i]? = some d → d.sw = sw → d.home = false →
    exec (.switchNode sw i true) s = .next { s with nodes := modifyAt (fun y => { y with home := true }) s.nodes i }) ∧
  (∀ s sw w x y, sw < 128 → s.nodes = [x, y] → x.sw = sw → y.sw = sw → x.home = false → y.home = false →
    s.windowOf x.node.win = some w → y.node.win = x.node.win → y.node.addr = x.node.addr → x.node.retx = false →
    y.node.retx = false →
    (joinable w.terms x.node y.node = false ∨ sameFields x.node y.node = false → exec (.switchNode sw 0 false) s = .next s) ∧
    (joinable w.terms x.node y.node = true → sameFields x.node y.node = true →
      ∃ u z, exec (.switchNode sw 0 false) s = .next u ∧ u = { s with nodes := [z] } ∧
      z.node.lo = min x.node.lo y.node.lo ∧ z.node.m = x.node.m + y.node.m ∧ z.sw = sw ∧ z.home = false ∧
      z.node.val = (if x.node.lo ≤ y.node.lo then joinValue w x.node.val.toNat y.node.val.toNat
        else joinValue w y.node.val.toNat x.node.val.toNat))) ∧
  (∀ s k y w, Safe s → s.nodes[k]? = some y → y.home = true → s.windowOf y.node.win = some w →
    let refuse := fun (c : Nat) => Host.Outcome.next (y.node.srcs.foldl (fun (t : State) q => t.refuseSource q y.node.addr c)
      { s with nodes := removeAt s.nodes k })
    let t := { s with nodes := removeAt s.nodes k }
    let sleeps := (s.vd w.vd).dying = false ∧
      (s.holds w.vd = true ∨ ((s.vd w.vd).mode = .collapsing ∧ s.nodeListed w y.node = true))
    ((∃ q ∈ y.node.srcs, (q.pkg, q.id) ∈ s.finished) → exec (.homeNode k) s = .next t) ∧
    ((∀ q ∈ y.node.srcs, (q.pkg, q.id) ∉ s.finished) → sleeps →
      (((s.vd w.vd).mode = .active ∨ t.nodeListed w y.node = true) ∧ s.holdRoom w.vd = true → exec (.homeNode k) s =
        .next (({ t with wakeBuf := s.wakeBuf ++ [(w.vd, .node y.node)] } : State).wake w.vd)) ∧
      (((s.vd w.vd).mode ≠ .active ∧ t.nodeListed w y.node = false) ∨ s.holdRoom w.vd = false → exec (.homeNode k) s = refuse 0x1B)) ∧
    ((∀ q ∈ y.node.srcs, (q.pkg, q.id) ∉ s.finished) → ¬ sleeps → y.node.addr < 2 ^ 64 →
    (s.divertWait w.vd y.node.addr = true ∨ s.homeTakes y.node = false → exec (.homeNode k) s = .next s) ∧
    (s.divertWait w.vd y.node.addr = false → s.homeTakes y.node = true →
    (s.fitsWindow w y.node = false → exec (.homeNode k) s = refuse 0x03) ∧
    (∀ h x, s.fitsWindow w y.node = true → s.homeReds = [h] → h.win = y.node.win → h.addr.toNat = y.node.addr → h.nodes = [x] →
      1 ≤ x.m →
      (overlap (nodeRun x) (nodeRun y.node) = true →
        (y.node.retx = true ∨ sharesSource x y.node = true → exec (.homeNode k) s = .next t) ∧
        (y.node.retx = false → sharesSource x y.node = false → exec (.homeNode k) s = refuse 0x03)) ∧
      (overlap (nodeRun x) (nodeRun y.node) = false → joinable w.terms x y.node = false → exec (.homeNode k) s =
        .next { t with homeReds := [{ h with nodes := [x, { y.node with retx := false }] }] }) ∧
      (overlap (nodeRun x) (nodeRun y.node) = false → joinable w.terms x y.node = true →
        let val := if x.lo ≤ y.node.lo then joinValue w x.val.toNat y.node.val.toNat else joinValue w y.node.val.toNat x.val.toNat
        (¬ (min x.lo y.node.lo = 0 ∧ x.m + y.node.m = w.terms) → ∃ z, exec (.homeNode k) s =
          .next { t with homeReds := [{ h with nodes := [z] }] } ∧ z.lo = min x.lo y.node.lo ∧ z.m = x.m + y.node.m ∧ z.val = val ∧
            ∀ q, q ∈ z.srcs ↔ q ∈ x.srcs ∨ q ∈ y.node.srcs) ∧
        (min x.lo y.node.lo = 0 → x.m + y.node.m = w.terms → ∀ p, s.homePlace w y.node.addr = some p → ∃ u,
          exec (.homeNode k) s = .next u ∧ u.homeReds = [] ∧ Memory.readN u.mem p w.size = val.toNat % 2 ^ (8 * w.size) ∧
          (∀ q, q ∈ x.srcs ∨ q ∈ y.node.srcs → (q.pkg, q.id) ∈ u.finished) ∧
          ∀ a, a < p ∨ p + w.size ≤ a → u.readByte a = s.readByte a))) ∧
    (s.fitsWindow w y.node = true → (∀ h ∈ s.homeReds, ¬ (h.win = y.node.win ∧ h.addr.toNat = y.node.addr)) →
      (w.closing = true ∨ (s.vd w.vd).dying = true → exec (.homeNode k) s = refuse 0x07) ∧
      (w.closing = false → (s.vd w.vd).dying = false →
      (¬ (y.node.lo = 0 ∧ y.node.m = w.terms) → ∃ u h, exec (.homeNode k) s = .next u ∧ h.win = y.node.win ∧
        h.addr = BitVec.ofNat 64 y.node.addr ∧ h.nodes = [{ y.node with retx := false }] ∧
        u = { s with nodes := removeAt s.nodes k, homeReds := s.homeReds ++ [h] }) ∧
      (y.node.lo = 0 → y.node.m = w.terms → ∀ p, s.homePlace w y.node.addr = some p → ∃ u, exec (.homeNode k) s = .next u ∧
        Memory.readN u.mem p w.size = y.node.val.toNat % 2 ^ (8 * w.size) ∧ u.homeReds = s.homeReds ∧
        (∀ q ∈ y.node.srcs, (q.pkg, q.id) ∈ u.finished) ∧ ReleasedBy s u .port 5 p w.size ∧
        ∀ a, a < p ∨ p + w.size ≤ a → u.readByte a = s.readByte a)))))) ∧
  (∀ s k y, s.nodes[k]? = some y → y.home = true → s.windowOf y.node.win = none → y.node.srcs = [] →
    exec (.homeNode k) s = .next { s with nodes := removeAt s.nodes k }) ∧
  (∀ s k c, s.retained[k]? = some c →
    let t : State := { s with retained := removeAt s.retained k }
    (∀ v, c.acked = some v → pkgOf c.msg.pa / 256 = Config.pod → exec (.contributionAck k) s =
      .next (t.ackRed c.msg v.toNat c.msg.scope c.sync)) ∧
    (∀ v y, c.acked = some v → pkgOf c.msg.pa / 256 ≠ Config.pod → c.sync = [y] → exec (.contributionAck k) s =
      .next ((t.learn (s.elemAgent c.msg.r c.msg.elem) y.past).ackRed c.msg v.toNat 5 [])) ∧
    (c.acked = none → c.win < 2 ^ 40 → exec (.contributionAck k) s = .next s)) ∧
  (∀ s sw, sw < 128 → let link := Config.linkOnly s.free
    ∃ u, exec (.routeRewrite sw) s = .next u ∧ (∀ q, q ∈ u.downSw ↔ (link = false ∧ q = sw) ∨ q ∈ s.downSw) ∧
    u = { s with downSw := u.downSw, nodes := u.nodes, retained := u.retained, free := u.free } ∧
    let kept := s.nodes.filter fun y => link || y.sw != sw || y.home
    (s.retained = [] → u.nodes = kept ∧ u.retained = []) ∧
    (∀ c, s.retained = [c] → (c.sw ≠ sw ∧ (sw < 96 ∨ pkgOf c.msg.pa / 256 = Config.pod)) ∨ c.acked.isSome = true →
      u.nodes = kept ∧ u.retained = [c]) ∧
    (∀ c e, s.retained = [c, e] → c.sw = sw → c.acked = none → e.win = c.win → e.acked = none → ∀ y ∈ u.retained, y.retx = true) ∧
    (∀ c, s.retained = [c] → c.sw = sw → c.acked = none → c.win < 2 ^ 40 →
      ∃ z, u.retained = [{ c with retx := true, sw := z.sw }] ∧ u.nodes = kept ++ [z] ∧
        z.home = false ∧ z.node.lo = c.x ∧ z.node.m = 1 ∧ z.node.val = c.val ∧ z.node.retx = true ∧
        ∀ p, u.pathPort c.vd (pkgOf c.msg.pa / 256) (paOff c.msg.pa) = some p → z.sw = portSwitch p))

/-! ## Firmware services and gangs -/

/-- R362 to R365, R371: a service returns with its status in g1 and its result in g2, at the pc and level of the frame; SPAN
submits a member's record; WINOPEN opens a window under its lowest free number; WINCLOSE and SPANLEAVE close windows and wait while a
reduction is open; another code gets status 1. Which numbers the span's members on other packages hold is free (farWindows, log 122);
the statuses and results that the rules leave open are logs 83 and 100 (DEDUCED). -/
def Obligations.SpanAndWindowServicesAnswer : Prop :=
  (∀ (s : State) t p st res, s.machineFrame t = some p → st < 2 ^ 64 → res < 2 ^ 64 →
    let u := s.serviceReturn t st res
    ((u.thread t).reg 1).toNat = st ∧ ((u.thread t).reg 2).toNat = res ∧ (u.thread t).pc = BitVec.ofNat 64 (s.readNat p 8) ∧
      (u.thread t).level = BitVec.ofNat 2 (s.readNat (p + 8) 1) ∧ (u.thread t).run = .running ∧ (∀ r, r ≠ 1 → r ≠ 2 →
        (u.thread t).reg r = (s.thread t).reg r) ∧
      (∀ k, k ≠ t → u.thread k = s.thread k) ∧ u = { s with threads := u.threads }) ∧
  (∀ s t g1 g2, Asks s t 0x7F00 g1 g2 →
    let v := s.vdOfThread t
    (s.recordAt t v g1 = none → exec (.span t) s = .next (s.serviceReturn t 1 0)) ∧
    (∀ w, s.recordAt t v g1 = some w → (s.readSpan w g1 = none → exec (.span t) s = .next (s.serviceReturn t 1 0)) ∧
      (∀ p, s.readSpan w g1 = some p →
        ((s.spanOf v).isSome = true → exec (.span t) s = .next (s.serviceReturn t 3 0)) ∧
        (∀ i, s.spans = [] → (∀ m ∈ p.members, s.memberExists m = true) → p.indexOf Config.pod Config.package v = some i →
          let q := { p with num := 0, submitted := insertNat i p.submitted }
          let all := s.spanReady q
          exec (.span t) s = .next (({ s with spans := [{ q with active := all }] } : State).serviceReturn t
            (if all then 0 else 4) 0)) ∧
        (∀ i y, s.spans = [y] → y.active = false → y.id = p.id → y.edge = p.edge → y.members = p.members →
          (∀ m ∈ p.members, s.memberExists m = true) → p.indexOf Config.pod Config.package v = some i →
          let q := { y with submitted := insertNat i y.submitted }
          let all := s.spanReady q
          exec (.span t) s = .next (({ s with spans := [{ q with active := all }] } : State).serviceReturn t
            (if all then 0 else 4) (if all then y.num else 0)))))) ∧
  (∀ (s : State) (p : Span), s.spanReady p = true ↔ ∀ i m, p.members[i]? = some m → i ∈ p.submitted ∧
    (m.pkg = Config.package → m.pod = Config.pod → s.spanOf m.vd = none)) ∧
  (∀ s t g1 g2 w base len n fmt op home hd, Asks s t 0x7F01 g1 g2 →
    let v := s.vdOfThread t
    s.recordAt t v g1 = some w → s.field w g1 8 = some base → s.field w (g1 + 8) 8 = some len →
    s.field w (g1 + 0x10) 2 = some n → s.field w (g1 + 0x12) 1 = some fmt → s.field w (g1 + 0x13) 1 = some op →
    s.field w (g1 + 0x14) 1 = some home → s.field w (g1 + 0x15) 3 = some 0 → s.field w (g1 + 0x18) 8 = some hd →
    s.field w (g1 + 0x20) 32 = some 0 →
    (base % 64 ≠ 0 ∨ len % 64 ≠ 0 ∨ len = 0 ∨ 2 ^ 30 < len ∨ 3 < op ∨ hd % 64 ≠ 0 → exec (.winopen t) s = .next (s.serviceReturn t 1 0)) ∧
    (∀ p k, base % 64 = 0 → len % 64 = 0 → len ≠ 0 → len ≤ 2 ^ 30 → op ≤ 3 → hd % 64 = 0 →
      (if op / 2 = 1 then fmt ∈ [0, 1] else fmt ∈ [4, 5]) → s.spanOf v = some p → home < p.members.length →
      p.indexOf Config.pod Config.package v = some home → k < 256 →
      let alone := ∀ m ∈ p.members, m.pod = Config.pod ∧ m.pkg = Config.package
      (alone ∨ k ∉ Config.farWindows s.free) →
      (∀ x ∈ s.windows, x.span = p.num → x.num ≠ k ∧ (x.vd = v → overlap (x.base.toNat, x.len) (base, len) = false)) →
      (∀ j < k, (¬ alone ∧ j ∈ Config.farWindows s.free) ∨ ∃ x ∈ s.windows, x.span = p.num ∧ x.num = j) →
      ∃ x : Window, exec (.winopen t) s = .next (({ s.draw with windows := s.windows ++ [x] } : State).serviceReturn t 0 k) ∧
        x.num = k ∧ x.span = p.num ∧ x.vd = v ∧ x.base.toNat = base ∧ x.len = len ∧ x.terms = n + 1 ∧ x.fmt = fmt ∧
        x.dbl = (op % 2 == 1) ∧ x.intAdd = (op / 2 == 1) ∧ x.home = home ∧ x.handler.toNat = hd ∧ x.closing = false)) ∧
  (∀ s t g1 g2, Asks s t 0x7F02 g1 g2 →
    (s.spanOf (s.vdOfThread t) = none → exec (.winclose t) s = .next (s.serviceReturn t 3 0)) ∧
    (∀ p w, s.spanOf (s.vdOfThread t) = some p → s.windows.find? (fun w => w.span == p.num && w.num == g1) = some w →
      (w.vd ≠ s.vdOfThread t → exec (.winclose t) s = .next (s.serviceReturn t 3 0)) ∧
      (w.vd = s.vdOfThread t → s.windowBusy w.num w.span = false → ∃ u, exec (.winclose t) s = .next (u.serviceReturn t 0 0) ∧
        u = { s with windows := s.windows.filter fun x => !(x.num == w.num && x.span == w.span) }) ∧
      (w.vd = s.vdOfThread t → s.windowBusy w.num w.span = true → exec (.winclose t) s =
        .next { s with windows := s.windows.map fun x => if x == w then { x with closing := true } else x }))) ∧
  (∀ s t g1 g2, Asks s t 0x7F09 g1 g2 →
    (g1 ≠ 0 → exec (.spanleave t) s = .next (s.serviceReturn t 1 0)) ∧
    (g1 = 0 → (s.spanOf (s.vdOfThread t)).isSome = true →
      (s.windowsQuiet (s.vdOfThread t) = true → exec (.spanleave t) s =
        .next ((s.leaveSpan (s.vdOfThread t)).serviceReturn t 0 0)) ∧
      (s.windowsQuiet (s.vdOfThread t) = false → ∃ u, exec (.spanleave t) s = .next u ∧ u = { s with windows := u.windows } ∧
        u.windows.length = s.windows.length ∧ ∀ (i : Nat) (x : Window), s.windows[i]? = some x → u.windows[i]? =
          some { x with closing := x.closing || x.vd == s.vdOfThread t }))) ∧
  (∀ s t c g1 g2, Asks s t c g1 g2 → c < 0x7F00 ∨ 0x7F09 < c → exec (.firmwareServiceUnknown t) s = .next (s.serviceReturn t 1 0))

/-- R267, R322, R362, R369: SBIND, QBIND and PBIND bind what the device owns; PART creates, resizes, trims and deletes partitions, with
the granules that their floor and ceiling ask for; RLIST writes the bitmap of what the device was assigned. A set reserved bit is
status 1, what the device does not own status 3; every service ends with its status in g1 and its result in g2, 0 where the rule
gives none. Results and statuses that the rules leave open are logs 83 and 100 (DEDUCED). -/
def Obligations.BindingAndPartitionServicesAnswer : Prop :=
  (∀ s t g1 g2, Asks s t 0x7F04 g1 g2 →
    (g1 / 2 ^ 50 ≠ 0 ∨ g1 / 2 ^ 6 % 2 ^ 13 ≠ 0 ∨ 40 ≤ g1 % 2 ^ 6 → exec (.sbind t) s = .next (s.serviceReturn t 1 0)) ∧
    (g1 / 2 ^ 50 = 0 → g1 / 2 ^ 6 % 2 ^ 13 = 0 → g1 % 2 ^ 6 < 40 →
      (s.ownsSerdex (s.vdOfThread t) (g1 % 2 ^ 6) = false → exec (.sbind t) s = .next (s.serviceReturn t 3 0)) ∧
      (∀ p, s.ownsSerdex (s.vdOfThread t) (g1 % 2 ^ 6) = true → s.spanOf (s.vdOfThread t) = some p →
        (p.indexOf (g1 / 2 ^ 27 % 2 ^ 4) (g1 / 2 ^ 19 % 2 ^ 8) (g1 / 2 ^ 31 % 2 ^ 10)).isSome = true →
        let b := s.updSerdex (g1 % 2 ^ 6) fun x => { x with bind := some (BitVec.ofNat 64 g1) }
        exec (.sbind t) s = .next (b.serviceReturn t 0 0) ∧ ∃ u, exec (.sbind t) s = .next u ∧ Served s u t 0 0 ∧
          (u.serdexPort (g1 % 2 ^ 6)).bind = some (BitVec.ofNat 64 g1) ∧
          (∀ k, k ≠ g1 % 2 ^ 6 → u.serdexPort k = s.serdexPort k) ∧ u = { s with threads := u.threads, serdex := u.serdex }))) ∧
  (∀ s t g1 g2, Asks s t 0x7F05 g1 g2 →
    let q := 1024 * (g1 / 2 ^ 10 % 2) + 64 * (g1 % 2 ^ 4) + g1 / 2 ^ 4 % 2 ^ 6
    let c := g1 / 2 ^ 11 % 2 ^ 2
    (2 ^ 14 ≤ g1 ∨ g2 % 64 ≠ 0 → exec (.qbind t) s = .next (s.serviceReturn t 1 0)) ∧
    (g1 < 2 ^ 14 → g2 % 64 = 0 → (g1 / 2 ^ 13 = 1 ↔ g2 ≠ 0) →
      (q ∉ (s.vd (s.vdOfThread t)).queues → exec (.qbind t) s = .next (s.serviceReturn t 3 0)) ∧
      (c / 2 ≠ g1 / 2 ^ 10 % 2 ∨ s.vdOfCluster c ≠ s.vdOfThread t ∨ (s.queue q).run = true ∨ (s.queue q).stopped = true →
        exec (.qbind t) s = .next (s.serviceReturn t 3 0)) ∧
      (q ∈ (s.vd (s.vdOfThread t)).queues → c / 2 = g1 / 2 ^ 10 % 2 → s.vdOfCluster c = s.vdOfThread t → (s.queue q).run = false →
        (s.queue q).stopped = false →
        let b := s.updQueue q fun x => { x with bound := g2 != 0, cluster := if g2 = 0 then 0 else c, endpoint := BitVec.ofNat 64 g2 }
        exec (.qbind t) s = .next (b.serviceReturn t 0 0) ∧ ∃ u, exec (.qbind t) s = .next u ∧ Served s u t 0 0 ∧
          (u.queue q).bound = (g2 != 0) ∧ (u.queue q).cluster = (if g2 = 0 then 0 else c) ∧ (u.queue q).endpoint.toNat = g2 ∧
          (∀ k, k ≠ q → u.queue k = s.queue k) ∧ u = { s with threads := u.threads, queues := u.queues }))) ∧
  (∀ s t g1 g2, Asks s t 0x7F06 g1 g2 →
    let p := 256 * (g1 / 2 ^ 8) + g1 % 2 ^ 8
    (2 ^ 9 ≤ g1 ∨ g1 % 2 ^ 8 = 255 → exec (.pbind t) s = .next (s.serviceReturn t 1 0)) ∧
    (g1 < 2 ^ 9 → g1 % 2 ^ 8 ≠ 255 →
      (p ∉ (s.vd (s.vdOfThread t)).ports → exec (.pbind t) s = .next (s.serviceReturn t 3 0)) ∧
      (p ∈ (s.vd (s.vdOfThread t)).ports →
        (g2 = 0 → exec (.pbind t) s = .next ((s.updPort p fun x => { x with bind := none }).serviceReturn t 0 0)) ∧
        (∀ r, g2 ≠ 0 → s.ridCheck (s.vdOfThread t) (BitVec.ofNat 64 g2) = .ok r → exec (.pbind t) s =
          .next ((s.updPort p fun x => { x with bind := some r }).serviceReturn t 0 0)) ∧
        (2 ^ 16 ≤ g2 ∨ (g2 ≠ 0 ∧ ((s.region (g2 % 256)).live = false ∨ s.rid (g2 % 256) ≠ g2)) →
          exec (.pbind t) s = .next (s.serviceReturn t 1 0)) ∧
        (g2 ≠ 0 → g2 < 2 ^ 16 → (s.region (g2 % 256)).live = true → s.rid (g2 % 256) = g2 →
          ((s.region (g2 % 256)).vd ≠ s.vdOfThread t → exec (.pbind t) s = .next (s.serviceReturn t 3 0)) ∧
          ((s.region (g2 % 256)).vd = s.vdOfThread t → ∃ u, exec (.pbind t) s = .next u ∧ Served s u t 0 0 ∧
            (u.port p).bind = some (g2 % 256) ∧ (u.port p).fifo = (s.port p).fifo ∧ (∀ k, k ≠ p → u.port k = s.port k) ∧
            u = { s with threads := u.threads, ports := u.ports }))))) ∧
  (∀ s t g1 g2, Asks s t 0x7F07 g1 g2 →
    let v := s.vdOfThread t
    let op := g1 / 2 ^ 6 % 4
    let c := g1 / 2 ^ 4 % 4
    let p := g1 % 16
    let floor := g2 % 2 ^ 16
    let ceil := g2 / 2 ^ 16 % 2 ^ 16
    let x := Sparse.atD (s.cluster c).parts p {}
    let others := (s.cluster c).parts.foldl (fun (n : Nat) (q : Nat × Partition) => if q.1 = p then n else n + q.2.floor) 0
    (2 ^ 8 ≤ g1 → exec (.part t) s = .next (s.serviceReturn t 1 0)) ∧
    (g1 < 2 ^ 8 → (op = 1 ∨ op = 2) → (2 ^ 32 ≤ g2 ∨ 24576 < ceil ∨ ceil < floor) → exec (.part t) s = .next (s.serviceReturn t 1 0)) ∧
    (g1 < 2 ^ 8 → s.vdOfCluster c ≠ v → (op = 1 ∨ op = 2 → g2 < 2 ^ 32 ∧ floor ≤ ceil ∧ ceil ≤ 24576) →
      exec (.part t) s = .next (s.serviceReturn t 3 0)) ∧
    (g1 < 2 ^ 8 → s.vdOfCluster c = v →
      (op ≠ 1 → x.live = false → (op = 2 → g2 < 2 ^ 32 ∧ floor ≤ ceil ∧ ceil ≤ 24576) →
        exec (.part t) s = .next (s.serviceReturn t 3 0)) ∧
      (op = 1 → x.live = false → g2 < 2 ^ 32 → floor ≤ ceil → ceil ≤ 24576 → (s.cluster c).parts = [] →
        floor ≤ s.plainCount c + s.assigned c p →
        ∃ u : State, (Sparse.atD (u.cluster c).parts p {}).live = true ∧ (Sparse.atD (u.cluster c).parts p {}).vd = v ∧
          (Sparse.atD (u.cluster c).parts p {}).floor = floor ∧ (Sparse.atD (u.cluster c).parts p {}).ceil = ceil ∧
          exec (.part t) s = .next (u.serviceReturn t 0 (u.assigned c p))) ∧
      (x.live = true → op = 1 ∨ x.vd ≠ v → (op = 1 ∨ op = 2 → g2 < 2 ^ 32 ∧ floor ≤ ceil ∧ ceil ≤ 24576) →
        exec (.part t) s = .next (s.serviceReturn t 3 0)) ∧
      (op = 1 → x.live = false → x.queue = [] → g2 < 2 ^ 32 → floor ≤ ceil → ceil ≤ 24576 → Listed (s.cluster c) →
        others + floor ≤ 24576 → floor ≤ s.plainCount c + s.assigned c p →
        ∃ b u : State, Parted s b c p (some { x with floor := floor, ceil := ceil, vd := v, live := true }) ∧
          floor ≤ b.assigned c p ∧ (s.assigned c p = 0 → b.assigned c p = floor) ∧
          exec (.part t) s = .next u ∧ u = b.serviceReturn t 0 (b.assigned c p) ∧ Served s u t 0 (b.assigned c p)) ∧
      ((op = 1 ∧ x.live = false) ∨ (op = 2 ∧ x.live = true ∧ x.vd = v) → g2 < 2 ^ 32 → floor ≤ ceil → ceil ≤ 24576 →
        24576 < others + floor ∨ s.plainCount c + s.assigned c p < floor → exec (.part t) s = .next (s.serviceReturn t 2 0)) ∧
      (op = 2 → x.live = true → x.vd = v → x.queue = [] → g2 < 2 ^ 32 → floor ≤ ceil → ceil ≤ 24576 → Listed (s.cluster c) →
        others + floor ≤ 24576 → floor ≤ s.plainCount c + s.assigned c p →
        ∃ b u : State, Parted s b c p (some { x with floor := floor, ceil := ceil }) ∧ floor ≤ b.assigned c p ∧
          (∀ k g, g < 1024 → (granAt (s.cluster c) k g).part = some p → (tileAt (s.cluster c) k g).isSome = true →
            (granAt (b.cluster c) k g).part = some p) ∧
          ((∀ k ∈ partGrans (s.cluster c) p, k ∈ partFree (s.cluster c) p) →
            floor ≤ s.assigned c p → b.assigned c p = min (s.assigned c p) ceil) ∧
          exec (.part t) s = .next u ∧ u = b.serviceReturn t 0 (b.assigned c p) ∧ Served s u t 0 (b.assigned c p)) ∧
      (op = 0 → x.live = true → x.vd = v → x.queue = [] → (∀ y ∈ (s.cluster c).tiles, y.part ≠ p) →
        ∃ u : State, (u.cluster c).parts = Sparse.del (s.cluster c).parts p ∧ (∀ j, j ≠ c → u.cluster j = s.cluster j) ∧
          (Listed (s.cluster c) → ∀ k g, g < 1024 → (granAt (u.cluster c) k g).part ≠ some p) ∧
          exec (.part t) s = .next (u.serviceReturn t 0 0)) ∧
      (op = 0 → x.live = true → x.vd = v → x.queue ≠ [] ∨ (∃ y ∈ (s.cluster c).tiles, y.part = p) →
        exec (.part t) s = .next (s.serviceReturn t 3 0)) ∧
      (op = 3 → x.live = true → x.vd = v → x.queue ≠ [] → exec (.part t) s = .next (s.serviceReturn t 0 (s.assigned c p))) ∧
      (op = 3 → x.live = true → x.vd = v → x.queue = [] → Listed (s.cluster c) →
        (∀ k ∈ partGrans (s.cluster c) p, k ∈ partFree (s.cluster c) p) →
        ∃ b u : State, Parted s b c p (some x) ∧ b.assigned c p = min (s.assigned c p) x.floor ∧
          exec (.part t) s = .next u ∧ u = b.serviceReturn t 0 (b.assigned c p) ∧ Served s u t 0 (b.assigned c p)))) ∧
  (∀ s t g1 g2, Asks s t 0x7F08 g1 g2 →
    let w := hwWho (s.vdOfThread t) (clusterOfThread t)
    let own := if g1 % 2 = 1 then ((s.vd (s.vdOfThread t)).ports.filter fun p => p / 256 == g1 / 2 % 2).map (· % 256)
      else ((s.vd (s.vdOfThread t)).queues.filter fun q => q / 1024 == g1 / 2 % 2).map (· % 1024)
    let half := fun (i : Nat) => (own.filter fun n => n / 512 == i).foldl (fun v n => v + 2 ^ (n % 512)) 0
    (4 ≤ g1 ∨ g2 % 64 ≠ 0 → exec (.rlist t) s = .next (s.serviceReturn t 1 0)) ∧
    (∀ a b, g1 < 4 → g2 % 64 = 0 → s.hwWrite w g2 64 (half 0) = .ok a → a.hwWrite w (g2 + 64) 64 (half 1) = .ok b →
      exec (.rlist t) s = .next (b.serviceReturn t 0 own.length)) ∧
    (∀ p x q y, Safe s → g1 < 4 → g2 % 64 = 0 → s.resolve w (BitVec.ofNat 64 g2) .wr = .ok p x → isMgmt p = false →
      let a := s.writeNat p 64 (half 0)
      a.resolve w (BitVec.ofNat 64 (g2 + 64)) .wr = .ok q y → isMgmt q = false →
      let b := a.writeNat q 64 (half 1)
      (b.machineFrame t).isSome = true → ∃ u, exec (.rlist t) s = .next u ∧ Served b u t 0 own.length ∧
        Memory.readN u.mem q 64 = half 1 % 2 ^ 512 ∧
        (p + 64 ≤ q ∨ q + 64 ≤ p → Memory.readN u.mem p 64 = half 0 % 2 ^ 512) ∧
        (∀ c, (c < p ∨ p + 64 ≤ c) → (c < q ∨ q + 64 ≤ c) → u.readByte c = s.readByte c) ∧
        u = { s with threads := u.threads, mem := u.mem }))

/-- R365, R376, R377, R379: a gang prepares its members on this package; the last good acknowledgement commits it, a failed
prepare or the bound discards it; the last member to start ends it with status 0; after a package has failed a gang without its
images and spares is aborted. How members are prepared and acknowledged is log 84, what becomes of one without a task log 43 (both
DEDUCED). -/
def Obligations.GangStepsGoOn : Prop :=
  (∀ s t g1 g2, Asks s t 0x7F03 g1 g2 →
    let v := s.vdOfThread t
    ((∃ g ∈ s.gangs, g.thread = some t) → exec (.gang t) s = .next s) ∧
    ((∀ g ∈ s.gangs, g.thread ≠ some t) →
      (s.recordAt t v g1 = none → exec (.gang t) s = .next (s.serviceReturn t 1 0)) ∧
      (∀ w g, s.recordAt t v g1 = some w → s.readGang w v t g1 = some g →
        (s.spanOf v = none → exec (.gang t) s = .next (s.serviceReturn t 3 0)) ∧
        (∀ p, s.spanOf v = some p → (∀ m ∈ g.members, p.onPackage m.pod m.pkg = true) → exec (.gang t) s =
          .next (({ s with gangs := s.gangs ++ [g] } : State).prepareGang s.gangs.length t v))))) ∧
  (∀ s k m g y ok, s.gangs[k]? = some g → g.members[m]? = some y → g.phase = .prepare → y.prep = none →
    (s.gangLate g = true → exec (.gangPrepareAck k m ok) s = .next s) ∧ (s.gangLate g = false →
    (s.prepared y ok = some false → exec (.gangPrepareAck k m ok) s = .next (s.gangDiscard k)) ∧
    (s.prepared y ok = none → exec (.gangPrepareAck k m ok) s = .next s) ∧
    (s.prepared y ok = some true → ∃ u g', exec (.gangPrepareAck k m ok) s = .next u ∧ u.gangs[k]? = some g' ∧
      g'.members = modifyAt (fun z => { z with prep := some true }) g.members m ∧ u = { s with gangs := u.gangs } ∧
      (g'.phase = .go ↔ ∀ j z, j ≠ m → g.members[j]? = some z → z.prep = some true)))) ∧
  (∀ s k m g y, s.gangs[k]? = some g → g.members[m]? = some y → g.phase = .go → y.go = false → s.gangLate g = false →
    y.here = false → (∃ j z, j ≠ m ∧ g.members[j]? = some z ∧ z.go = false) → ∃ u g', exec (.gangGoAck k m) s = .next u ∧
      u.gangs[k]? = some g' ∧ g'.members = modifyAt (fun z => { z with go := true, status := 0 }) g.members m ∧ g'.phase = .go ∧
      u = { s with gangs := u.gangs }) ∧
  (∀ s k m g y, s.gangs[k]? = some g → g.members[m]? = some y → g.phase = .go → y.go = false → s.gangLate g = false →
    y.here = false → (∀ j z, j ≠ m → g.members[j]? = some z → z.go = true) → ∃ u : State, exec (.gangGoAck k m) s =
      .next (u.gangReturn k .done 0 g.members.length)) ∧
  (∀ s k g, s.gangs[k]? = some g →
    (s.gangLate g = false → exec (.gangBoundExpiry k) s = .next s) ∧
    (s.gangLate g = true → g.phase = .prepare → exec (.gangBoundExpiry k) s = .next (s.gangDiscard k)) ∧
    (s.gangLate g = true → g.phase = .go → ∃ u : State, exec (.gangBoundExpiry k) s = .next (u.gangReturn k .aborted 5 0))) ∧
  (∀ s k g, s.gangs[k]? = some g → g.phase ≠ .aborted →
    let lost := fun (m : GangMember) => 256 * m.pod + m.pkg ∈ s.failed
    ((∀ m ∈ g.members, ¬ lost m) ∨ g.loose = true → exec (.gangRelaunch k) s = .next s) ∧
    (g.loose = false → (∃ m ∈ g.members, lost m ∧ (m.spare = none ∨ m.image = 0)) → ∃ u : State, exec (.gangRelaunch k) s =
      .next ((u.gangAbortEvent g).gangReturn k .aborted 5 0)) ∧
    (∀ n p q, g.loose = false → g.members = [n] → lost n → n.image ≠ 0 → n.spare = some (p, q) → n.region = none →
      ¬ (q = Config.package ∧ p = Config.pod) →
      ∃ u g', exec (.gangRelaunch k) s = .next u ∧ u.gangs[k]? = some g' ∧ g'.phase = .prepare ∧ g'.since = s.clock ∧
        g'.members = [{ n with pod := p, pkg := q, spare := none, prep := none, go := false, status := 4, region := none }]))

/-! ## The debugger -/

/-- R31, R32, R246, R305, R309, R340: a breakpoint stops its region before the set is consumed, and the debug thread before it
issues; load attaches to a device with debug permission; run publishes the tasks, start starts the debug thread, the
resuming commands resume what they name and report the next stop; kill ends a region, release delivers the held records,
quit detaches. Without permission they print `refused`. The thread that `ifepel` debugs is log 86 (DESIGN CHOICE), what the loader
writes and where is log 87 (DESIGN CHOICE), what the commands print is log 88 (DESIGN CHOICE), and how they count and stop is log 89
(DEDUCED). -/
def Obligations.DebuggerStopsAndResumes : Prop :=
  (∀ s v n a t, s.dbg.vd = some v → Sparse.entry? s.dbg.breaks n = some (.pc a) → s.dbgThread = some t →
    (s.thread t).run = .running → (s.thread t).pc = a → s.dbg.tStop = false → s.dbg.tSkip ≠ some a → s.dbg.tSteps ≠ some 0 →
    ∃ u x, exec (.breakpointStop n) s = .next u ∧ u = { s with dbg := u.dbg } ∧ u.dbg.tStop = true ∧
      u.dbg.stops = s.dbg.stops ++ [x] ∧ x.t = some t ∧ x.r = none ∧ x.cycle = s.clusterClock (clusterOfThread t)) ∧
  (∀ s v n r a slot tag x, s.dbg.vd = some v → Sparse.entry? s.dbg.breaks n = some (.fire (s.region r).desc a slot tag) →
    s.dbgRegions v = [r] → s.regionGoes r = true → (s.elemsOf r).map (·.1) = [a] → s.nextFiring r a = some x → x.r = r → x.a = a →
    x.slot = slot → (∀ g, tag = some g → g = x.tag) → (s.region r).vd = v → (s.region r).dbgSkip = none →
    ∃ u y, exec (.breakpointStop n) s = .next u ∧ (u.region r).dbgStop = true ∧ u = { s with dbg := u.dbg, regions := u.regions } ∧
      u.dbg.stops = s.dbg.stops ++ [y] ∧ y.r = some r ∧ y.a = a ∧ y.slot = slot ∧ y.tag = x.tag) ∧
  (∀ s v img, v < Config.vdCount →
    ((s.vd v).live = false ∨ (s.vd v).debug = false → exec (.ifepelLoad v img) s = .next (s.print ["refused"])) ∧
    ((s.vd v).live = true → (s.vd v).debug = true → s.dbg.vd = none ∨ s.dbg.vd = some v →
      let t : State := { s with dbg := { s.dbg with vd := some v } }
      (t.loadImage v img = none → exec (.ifepelLoad v img) s = .next (t.print ["load refused"])) ∧
      (∀ u, t.loadImage v img = some u → ∃ l, exec (.ifepelLoad v img) s = .next (u.print l)) ∧
      (Safe s → img.names = [] → img.parts = [] → img.ptes = [] → (∀ d ∈ img.datas, d.deferred = false ∧ blockForm d = true) →
        s.vdMeets v img = true → blocksApart (coreBlocks img) = true → s.blockOnShelf v img = false →
        (∀ g ∈ img.regions, g.peek = true → Config.peekPermit v = true) → (∀ k ∈ img.tasks, k.region < img.regions.length) →
        (s.vd v).clusters ≠ [] → HasPlaces t v img →
        let at' := fun (w : Nat × List Byte) (k : Nat) => t.framePlace v (w.1 + k)
        ∃ u l, exec (.ifepelLoad v img) s = .next u ∧ u.dbg.vd = some v ∧ u.dbg.images = s.dbg.images ++ [(v, img)] ∧
          u.dbg.console = s.dbg.console ++ l ∧ u = { s with mem := u.mem, dbg := u.dbg } ∧
          (∀ w ∈ imageWrites img, ∀ k b p, w.2[k]? = some b → at' w k = some p →
            (∀ z ∈ imageWrites img, ∀ j c, z.2[j]? = some c → at' z j = some p → c = b) → u.readByte p = b) ∧
          ∀ q, (∀ w ∈ imageWrites img, ∀ k, k < w.2.length → at' w k ≠ some q) → u.readByte q = s.readByte q))) ∧
  (∀ s v, Attached s v →
    (∀ task, s.lastImage v = none → exec (.ifepelRun task) s = .next (s.print ["no image loaded"])) ∧
    (∀ k im q, s.lastImage v = some im → im.tasks[k]? = some q → s.dbg.todo = [] → exec (.ifepelRun (some k)) s =
      .next (s.publishTodo [q.recAt]).report) ∧
    (∀ t pc, s.dbgThread = some t → ∃ u, exec (.ifepelStart pc) s = .next u ∧ (∀ k, k ≠ t → u.thread k = s.thread k) ∧
      u.thread t = { s.thread t with regs := [], poison := 0, uimask := 0, uient := 0, level := 0, pc := pc, run := .running } ∧
      u.dbg.tStop = false ∧ u = { s with threads := u.threads, dbg := u.dbg }) ∧
    (s.dbg.stops ≠ [] → exec .ifepelCont s = .next s.report) ∧
    (s.dbg.stops = [] → ∃ u, exec .ifepelCont s = .next u ∧ (∀ r ∈ s.dbgRegions v, (u.region r).dbgStop = false) ∧
      u.dbg.tStop = false ∧ u.dbg.wait = true ∧ u = { s with regions := u.regions, dbg := u.dbg }) ∧
    (∀ r, r < 256 → s.dbg.stops = [] → (s.region r).live = true → (s.region r).vd = v → ∃ u, exec (.ifepelContRegion r) s = .next u ∧
      (u.region r).dbgStop = false ∧ (∀ j, j ≠ r → u.region j = s.region j) ∧ u = { s with regions := u.regions, dbg := u.dbg }) ∧
    (∀ n r, (s.dbgRegions v).find? (fun r => (s.region r).dbgStop) = some r → ∃ u, exec (.ifepelStep n) s = .next u ∧
      (u.region r).dbgStop = false ∧ u.dbg.steps = some (r, n)) ∧
    (∀ n, ∃ u, exec (.ifepelStepThread n) s = .next u ∧ u.dbg.tSteps = some n ∧ u.dbg.tStop = false ∧ u = { s with dbg := u.dbg }) ∧
    (s.dbg.stops = [] → exec .ifepelWait s = .next { s with dbg := { s.dbg with wait := true } }) ∧
    (∀ x l, s.dbg.stops = x :: l → ∃ u, exec .ifepelWait s = .next u ∧ u.dbg.stops = l ∧
      u.dbg.console = s.dbg.console ++ [s.stopLine x] ∧ u.dbg.wait = false ∧ u = { s with dbg := u.dbg }) ∧
    (∀ r, r < 256 → (s.region r).live = true → (s.region r).vd = v →
      (s.killWaits r = true → exec (.ifepelKill r) s = .next s) ∧
      (s.killWaits r = false → ∃ l, exec (.ifepelKill r) s = .next ((s.killRegion r).print l))) ∧
    (∀ r, r < 256 → (s.region r).live = false → exec (.ifepelKill r) s = .next (s.print ["refused"])) ∧
    (s.dbg.hold = [] → exec .ifepelRelease s = .next s) ∧
    (∀ h, s.dbg.hold = [h] → h.r = none → exec .ifepelRelease s = .next ((({ s with dbg := { s.dbg with hold := [] } } : State).sendTo h.vd
      h.cluster h.endpoint h.ev).print
        ["released " ++ codeName (h.ev.toNat % 256) ++ " to " ++ hex64 h.endpoint.toNat])) ∧
    (s.dbg.hold = [] → ∃ u, exec .ifepelQuit s = .next u ∧ u.dbg.vd = none ∧ u.dbg.breaks = [] ∧ u.dbg.tStop = false ∧
      (∀ r ∈ s.dbgRegions v, (u.region r).dbgStop = false) ∧ u = { s with regions := u.regions, dbg := u.dbg })) ∧
  (∀ s, s.dbg.vd = none → ∀ i ∈ [Instr.ifepelCont, .ifepelWait, .ifepelRelease, .ifepelQuit, .ifepelList, .ifepelShowEvent],
    exec i s = .next (s.print ["refused"]))

/-- R32, R35, R246, R248, R305, R309, R340: each break form sets the next breakpoint and prints it, delete removes one; the show
forms and list print and change nothing else; `set sys` writes a register of the debug thread or prints the fault; `inject
acc` flips one bit of a word of an accumulator of a stopped region and leaves its verify state none. What the commands print is log 88
(DESIGN CHOICE), `show stream` log 94 (DEDUCED), the notation of slots log 97 (DESIGN CHOICE). -/
def Obligations.DebuggerCommandsPrint : Prop :=
  ∀ s v, Attached s v →
    (∀ i b, (∃ d a k g, i = .ifepelBreakFire d a k g ∧ b = .fire d a k g) ∨
        (∃ g, i = .ifepelBreakTag g ∧ b = .tag g) ∨ (∃ lo n rd wr, i = .ifepelBreakAddr lo n rd wr ∧ b = .addr lo n rd wr) ∨
        (∃ c, i = .ifepelBreakEvent c ∧ b = .event c false) ∨ (∃ c, i = .ifepelBreakEventHold c ∧ b = .event c true) ∨
        (∃ pc, i = .ifepelBreakPc pc ∧ b = .pc pc) →
      ∃ u, exec i s = .next u ∧ Sparse.entry? u.dbg.breaks s.dbg.nextB = some b ∧ u.dbg.nextB = s.dbg.nextB + 1 ∧
        (∀ k, k ≠ s.dbg.nextB → Sparse.entry? u.dbg.breaks k = Sparse.entry? s.dbg.breaks k) ∧
        (∃ t, u.dbg.console = s.dbg.console ++ [toString s.dbg.nextB ++ ": " ++ t]) ∧ u = { s with dbg := u.dbg }) ∧
    (∀ n, ∃ u, exec (.ifepelDelete n) s = .next u ∧ Sparse.entry? u.dbg.breaks n = none ∧
      (∀ k, k ≠ n → Sparse.entry? u.dbg.breaks k = Sparse.entry? s.dbg.breaks k) ∧ u = { s with dbg := u.dbg }) ∧
    (s.dbg.breaks = [] → exec .ifepelList s = .next (s.print ["no breakpoints"])) ∧
    (s.dbg.latest = none → exec .ifepelShowEvent s = .next (s.print ["no event"])) ∧
    (∀ va n, s.hwRead (s.dbgWho v) va.toNat 8 = .ok n →
      exec (.ifepelShowCounter va) s = .next (s.print [hex64 va.toNat ++ " = " ++ toString n])) ∧
    (∀ t (q : Reg), s.dbgThread = some t → exec (.ifepelShowReg [some q]) s =
      .next (s.print ["g" ++ toString q.toNat ++ " = " ++ hex64 ((s.thread t).reg q).toNat])) ∧
    (∀ r a, r < 256 → (s.elem r a).store = [] → (s.elem r a).spill = [] → (s.region r).live = true → (s.region r).vd = v →
      exec (.ifepelShowMs r a) s = .next (s.print ["no entries"])) ∧
    (Prints .ifepelList s ∧ Prints .ifepelShowEvent s ∧ (∀ va, Prints (.ifepelShowTask va) s) ∧ (∀ h x, Prints (.ifepelShowShelf h x) s) ∧
      (∀ va, Prints (.ifepelShowCounter va) s) ∧ (∀ va ty n d, Prints (.ifepelShowMem va ty n d) s) ∧
      (∀ rs, Prints (.ifepelShowReg rs) s) ∧ (∀ va, Prints (.ifepelShowPte va) s) ∧
      (∀ core n w rows cols, core < 96 → n < 256 → Prints (.ifepelShowAcc core n w rows cols) s) ∧
      ∀ r a slot vb, r < 256 → Prints (.ifepelShowMs r a) s ∧ Prints (.ifepelShowSlot r a slot vb) s ∧
        Prints (.ifepelShowStream r a) s ∧ Prints (.ifepelShowAccum r a) s) ∧
    (∀ (n : BitVec 15) x t, s.dbgThread = some t → (∀ c, s.setSys t n.toNat x = .error c → Prints (.ifepelSetSys n x) s) ∧
      (n = 4 → 1 ≤ x.toNat → x.toNat ≤ 64 → ∃ u, exec (.ifepelSetSys n x) s = .next u ∧
        u.thread t = { s.thread t with msquota := BitVec.ofNat 32 x.toNat } ∧ (∀ k, k ≠ t → u.thread k = s.thread k) ∧
        u = { s with threads := u.threads, dbg := u.dbg, free := u.free })) ∧
    (∀ core n i j bit, core < 96 → n < 256 → i < 32 → j < 32 → bit < 32 →
      (s.stoppedOn v core = false → exec (.ifepelInjectAcc core n i j bit) s = .next (s.print ["refused"])) ∧
      (s.stoppedOn v core = true → s.accBusy core n = false → Safe s → ∃ u, exec (.ifepelInjectAcc core n i j bit) s = .next u ∧
        u.accWord core n (32 * i + j) = s.accWord core n (32 * i + j) ^^^ 2 ^ bit ∧ (u.accOf core n).verify = none ∧
        ∀ b, b < accPa core n (32 * i + j) ∨ accPa core n (32 * i + j) + 4 ≤ b → u.readByte b = s.readByte b))

/-! ## The step, the encodings, the reset -/

/-- R13, R51, R53, R91, R101, R272, R273, R300, R317, R354, R362: a running thread's turn runs the instruction to which the four
bytes at its pc decode, and takes an open interrupt where that instruction raises no trap; an element's turn performs the firing
that R101 chooses, as the planes of its slot decode; a queue's turn performs its record; an event's turn performs the event; a
thread that waits for a firmware service does not issue, and in minimal mode only cluster 0 has turns. After each, time passes and
the next turn is a free value (logs 1 and 4: DESIGN CHOICE). -/
def Obligations.StepRunsTheDecodedInstruction : Prop :=
  let andThen := fun (o : Host.Outcome State Fault Refusal) (f : State → State) => (match o with
    | .next u => Host.Outcome.next (finish (f u))
    | .fault x => .fault x
    | .refused x => .refused x)
  (∀ s, s.mayTurn s.turn = false → step s = .next (finish s)) ∧ (∀ (s : State) x, s.boot ≠ .minimal → s.mayTurn x = true) ∧
  (∀ (s : State) t, s.boot = .minimal → (s.mayTurn (.thread t) = true ↔ t < 16)) ∧
  (∀ s t, s.turn = .thread t → t < 64 → s.inService t = true → step s = .next (finish s)) ∧
  (∀ s t p x i l, s.turn = .thread t → s.mayTurn s.turn = true → s.inService t = false → t < 64 →
    (s.thread t).run = .running → s.threadHeld t = false → s.threadStop t = none →
    s.fetchPlace t = .ok p x → s.fetchMarked (s.vdOfThread t) p = false → decodeBytes (s.fetchBytes p) = .ok (i, l) →
    let word := BitVec.ofNat 32 (s.readNat p 4)
    let s1 := { s with cur := { t := t, word := word } }
    ((s.thread t).interruptOpen = false → step s = andThen (exec i s1) fun u => s.noteIssue u t word) ∧
    (∀ u, (s.thread t).interruptOpen = true → exec i s1 = .next u →
      (trapped s1 u t = true → step s = .next (finish (s.noteIssue u t word))) ∧
      (trapped s1 u t = false → step s = andThen (exec (.userInterruptTake t) s1) fun u => s.noteIssue u t word))) ∧
  (∀ s t p x e, s.turn = .thread t → s.mayTurn s.turn = true → s.inService t = false → t < 64 → (s.thread t).run = .running →
    s.threadHeld t = false → s.threadStop t = none →
    (s.thread t).interruptOpen = false → s.fetchPlace t = .ok p x → s.fetchMarked (s.vdOfThread t) p = false →
    decodeBytes (s.fetchBytes p) = .error e →
    let word := BitVec.ofNat 32 (s.readNat p 4)
    step s = andThen (exec .illegalInstruction { s with cur := { t := t, word := word } }) fun u => s.noteIssue u t word) ∧
  (∀ s t, s.turn = .thread t → t < 64 → (s.thread t).run ≠ .running → step s = .next (finish s)) ∧
  (∀ s r a x i, s.turn = .element r a → s.mayTurn s.turn = true → r < 256 → a < 65536 → s.regionGoes r = true →
    s.nextFiring r a = some x → s.fireStop x = none →
    ({ s with site := x } : State).badPlanes x = false → let q := (s.elem x.r x.a).planes x.slot
    decodeSlot q.op q.route q.const = .ok i → step s = andThen (exec i { s with site := x }) fun u => u.passFiring x) ∧
  (∀ s q, s.turn = .engine q → s.mayTurn s.turn = true → q < 2048 → s.queueRuns q = true →
    (s.recAsleep q = false → step s = andThen (exec (s.recordInstr q) s) id) ∧
    (s.recAsleep q = true → step s = .next (finish (s.rouseRec q)))) ∧
  (∀ s i, s.turn = .event i → s.mayTurn s.turn = true → isStep i = true → (∀ t, i ≠ .userInterruptTake t) → step s = andThen (exec i s) id) ∧
  (∀ s, s.dbg.vd = none → (finish s).turn = Config.schedule s.free ∧ (finish s).free = s.free + 1 ∧ (finish s).mem = s.mem ∧
    (finish s).threads = s.threads ∧ (finish s).clock = s.clock + Config.elapsed s.free)

/-- R42, R43, R47, R51 to R55: words written out from the encodings of the spec decode to their instructions, and reserved
op fields and set bits of unused fields are refused. -/
def Obligations.WordsOfTheSpecDecode : Prop :=
  decodeWord 0x40600020 = .ok (.ldhi 6 0x20) ∧ decodeWord 0x30E07FFC = .ok (.addi 14 0 (-4)) ∧
  decodeWord 0x02320C00 = .ok (.add 3 4 3) ∧ decodeWord 0x48527FFE = .ok (.bt 5 1 (-2)) ∧
  decodeWord 0x60713302 = .ok (.ld 7 2 1 4 3 2) ∧ decodeWord 0x669428F3 = .ok (.amo 9 8 10 1 3 4 3) ∧
  decodeWord 0x78000FC7 = .ok (.waitc 7 7 0 7) ∧ decodeWord 0xB8000007 = .ok (.trap 7) ∧ decodeWord 0xBA000000 = .ok .eret ∧
  decodeWord 0xB2008010 = .ok (.tstatWrite 1) ∧ decodeWord 0x00000000 = .error .reservedOp ∧
  decodeWord 0xFE000000 = .error .reservedOp ∧ decodeWord 0x02320C01 = .error .reservedField ∧
  decodeSlot 0x10000200 0x80000180 5 = .ok (.elemAdd {
    fn := 0, fire := 0, amode := 0, bmode := 0, cmode := 0, arity := 2, flags := 0, out := 0,
    d0 := { valid := true, net := false, port := 0, slot := 0, elem := 3, tagop := 0, rsv := 0 },
    d1 := { valid := false, net := false, port := 0, slot := 0, elem := 0, tagop := 0, rsv := 0 }, const := 5 }) ∧
  decodeSlot 0x24000100 0 0 = .error .reservedOp ∧ decodeSlot 0 0 0 = .error .emptySlot

/-- R51 to R55, R57: every well-formed control-core instruction decodes from its own word and from the bytes of that word, and
every word that decodes is the word of its instruction. -/
def Obligations.ControlWordsRoundTrip : Prop :=
  (∀ i w, i.wf = true → encodeWord i = some w → w < 2 ^ 32 ∧ decodeWord w = .ok i ∧
    ∀ l, decodeBytes (bytesOf 4 w ++ l) = .ok (i, l)) ∧
  (∀ i w, w < 2 ^ 32 → decodeWord w = .ok i → encodeWord i = some w)

/-- R42 to R44, R47: every element instruction decodes from its three planes, and planes that decode are those of their
instruction. -/
def Obligations.SlotPlanesRoundTrip : Prop :=
  (∀ i op route const, encodeSlot i = some (op, route, const) → decodeSlot op route const = .ok i) ∧
  (∀ i op route const, decodeSlot op route const = .ok i → encodeSlot i = some (op, route, const))

/-- R36, R311: every step keeps the memory's canonical form, so that equal memories are equal data (the form is the model's
own, log 3). -/
def Obligations.StepsKeepTheMemoryCanonical : Prop := ∀ s s', Safe s → step s = .next s' → Safe s'

/-- R56, R57, R108, R255 to R257, R352, R354, R355: what the spec gives for reset: the system registers of every thread, no
failed start, no device; machine level and pc 0 are the model's (logs 1 and 2); memory lists nothing and is canonical (log 3). -/
def Obligations.ResetLeavesWhatTheSpecGives : Prop :=
  Safe State.reset ∧ State.reset.mem = [] ∧ State.reset.boot = .rom ∧ State.reset.fails = 0 ∧ State.reset.causes = [0, 0, 0] ∧
  (∀ t, let x := State.reset.thread t
    x.tagwin = 256 ∧ x.hrank = 3 ∧ x.fedge = 0 ∧ x.msquota = 64 ∧ x.wdlim = 0xDBC ∧ x.thlim = 0x55D4B ∧ x.uipend = 0 ∧ x.lastf = 0 ∧
      x.pc = 0 ∧ x.level = 2 ∧ ∀ r, x.reg r = 0) ∧
  (∀ v, (State.reset.vd v).live = false ∧ (State.reset.vd v).xpred = 0 ∧ (State.reset.vd v).xptab = 0) ∧
  (∀ r, (State.reset.region r).live = false) ∧ ∀ q, (State.reset.queue q).run = false ∧ (State.reset.queue q).stopped = false
end

