-- ==== Sys2Proof/Laws/Memory.lean ====
section
/-! SUPPORT. The laws of the memory and of sparse tables: what a read gives after a write, and that every memory
operation keeps the canonical form. -/
namespace Sys2Proof

variable {α : Type}

/-! ## Sparse tables -/

theorem Sparse.entry?_put_same (t : Sparse α) (k : Nat) (v : α) : Sparse.entry? (Sparse.put t k v) k = some v := by
  induction t with
  | nil => simp [Sparse.put, Sparse.entry?]
  | cons e r ih =>
    obtain ⟨k', v'⟩ := e
    simp only [Sparse.put]
    split
    · simp [Sparse.entry?]
    · split
      · simp [Sparse.entry?]
      · rename_i h
        simp [Sparse.entry?, Ne.symm h, ih]

theorem Sparse.entry?_put_other (t : Sparse α) {k j : Nat} (v : α) (h : j ≠ k) :
    Sparse.entry? (Sparse.put t k v) j = Sparse.entry? t j := by
  induction t with
  | nil => simp [Sparse.put, Sparse.entry?, h.symm]
  | cons e r ih =>
    obtain ⟨k', v'⟩ := e
    simp only [Sparse.put]
    split
    · simp [Sparse.entry?, h.symm]
    · split
      · rename_i hk
        subst hk
        simp [Sparse.entry?, h.symm]
      · simp only [Sparse.entry?, ih]

@[simp] theorem Sparse.atD_put_same (t : Sparse α) (k : Nat) (v d : α) : Sparse.atD (Sparse.put t k v) k d = v := by
  simp [Sparse.atD, Sparse.entry?_put_same]

theorem Sparse.atD_put_other (t : Sparse α) {k j : Nat} (v d : α) (h : j ≠ k) :
    Sparse.atD (Sparse.put t k v) j d = Sparse.atD t j d := by
  simp [Sparse.atD, Sparse.entry?_put_other t v h]

end Sys2Proof

namespace Sys2Proof.Machine

/-! ## One byte -/

/-- Below the first address of a canonical memory everything reads as unlisted. -/
theorem Memory.read_low {m : List Host.Cell} {l a : Nat} (h : Memory.wfFrom (some l) m) (ha : a ≤ l) :
    Memory.read m a = Memory.unlisted := by
  cases m with
  | nil => rfl
  | cons c r =>
    obtain ⟨a', b⟩ := c
    simp [Memory.wfFrom] at h
    simp [Memory.read, show a' ≠ a by omega, show a < a' by omega]

theorem Memory.wfFrom_weaken {m : List Host.Cell} {l l' : Nat} (h : Memory.wfFrom (some l) m) (hl : l' ≤ l) :
    Memory.wfFrom (some l') m := by
  cases m with
  | nil => rfl
  | cons c r =>
    obtain ⟨a', b⟩ := c
    simp [Memory.wfFrom] at h ⊢
    exact ⟨⟨by omega, h.1.2⟩, h.2⟩

theorem Memory.wfFrom_none {m : List Host.Cell} {l : Nat} (h : Memory.wfFrom (some l) m) : Memory.wfFrom none m := by
  cases m with
  | nil => rfl
  | cons c r =>
    obtain ⟨a', b⟩ := c
    simp [Memory.wfFrom] at h ⊢
    exact ⟨h.1.2, h.2⟩

/-- Reading the address written gives the byte written (R36). -/
theorem Memory.read_write_same {m : List Host.Cell} {o : Option Nat} (h : Memory.wfFrom o m) (a : Nat) (b : Byte) :
    Memory.read (Memory.write m a b) a = b := by
  induction m generalizing o with
  | nil => by_cases hb : b = 0#8 <;> simp [Memory.write, hb, Memory.read, Memory.unlisted]
  | cons c r ih =>
    obtain ⟨a', b'⟩ := c
    have hr : Memory.wfFrom (some a') r := by
      simp [Memory.wfFrom] at h; exact h.2
    simp only [Memory.write]
    split
    · split
      · rename_i h1 h2; simp [Memory.read, show a' ≠ a by omega, h1, h2, Memory.unlisted]
      · simp [Memory.read]
    · split
      · split
        · rename_i h1 h2 h3; subst h2
          rw [Memory.read_low hr (Nat.le_refl _), h3]; rfl
        · simp [Memory.read]
      · rename_i h1 h2
        simp [Memory.read, show a' ≠ a by omega, h1, ih hr]

/-- A write leaves every other address alone (R36). -/
theorem Memory.read_write_other {m : List Host.Cell} {o : Option Nat} (h : Memory.wfFrom o m) {a x : Nat} (b : Byte)
    (hx : x ≠ a) : Memory.read (Memory.write m a b) x = Memory.read m x := by
  induction m generalizing o with
  | nil => by_cases hb : b = 0#8 <;> simp [Memory.write, hb, Memory.read, hx.symm]
  | cons c r ih =>
    obtain ⟨a', b'⟩ := c
    have hr : Memory.wfFrom (some a') r := by
      simp [Memory.wfFrom] at h; exact h.2
    simp only [Memory.write]
    split
    · split
      · rfl
      · rename_i h1 _
        simp only [Memory.read, hx.symm, if_false]
        by_cases hxa : x < a
        · simp [hxa, show a' ≠ x by omega, show x < a' by omega]
        · simp [hxa]
    · split
      · rename_i h1 h2; subst h2
        split
        · simp only [Memory.read, hx.symm, if_false]
          split
          · rename_i hlt; exact Memory.read_low hr (by omega)
          · rfl
        · simp [Memory.read, hx.symm]
      · simp [Memory.read, ih hr]

theorem Memory.wfFrom_write {m : List Host.Cell} {o : Option Nat} (h : Memory.wfFrom o m) (a : Nat) (b : Byte)
    (ho : ∀ l, o = some l → l < a) : Memory.wfFrom o (Memory.write m a b) := by
  induction m generalizing o with
  | nil =>
    by_cases hb : b = 0#8
    · simp [Memory.write, hb, Memory.wfFrom]
    · cases o with
      | none => simp [Memory.write, hb, Memory.wfFrom]
      | some l => simp [Memory.write, hb, Memory.wfFrom, ho l rfl]
  | cons c r ih =>
    obtain ⟨a', b'⟩ := c
    have hr : Memory.wfFrom (some a') r := by
      simp [Memory.wfFrom] at h; exact h.2
    have hb' : b' ≠ 0#8 := by
      simp [Memory.wfFrom] at h; exact h.1.2
    have hlo : ∀ l, o = some l → l < a' := by
      intro l hl; subst hl; simp [Memory.wfFrom] at h; exact h.1.1
    simp only [Memory.write]
    split
    · split
      · exact h
      · rename_i h1 h2
        replace h2 : ¬ b = 0#8 := h2
        cases o with
        | none => simp [Memory.wfFrom, h2, h1, hb', hr]
        | some l => simp [Memory.wfFrom, h2, h1, hb', hr, ho l rfl]
    · split
      · rename_i h1 h2; subst h2
        split
        · cases o with
          | none => exact Memory.wfFrom_none hr
          | some l => exact Memory.wfFrom_weaken hr (Nat.le_of_lt (ho l rfl))
        · rename_i h3
          replace h3 : ¬ b = 0#8 := h3
          cases o with
          | none => simp [Memory.wfFrom, h3, hr]
          | some l => simp [Memory.wfFrom, h3, hr, ho l rfl]
      · rename_i h1 h2
        have := ih hr (fun l hl => by injection hl with hl; omega)
        cases o with
        | none => simp [Memory.wfFrom, hb', this]
        | some l => simp [Memory.wfFrom, hb', this, hlo l rfl]

/-- A write of one byte keeps the canonical form. -/
theorem Memory.wf_write {m : List Host.Cell} (h : Memory.wf m) (a : Nat) (b : Byte) : Memory.wf (Memory.write m a b) :=
  Memory.wfFrom_write h a b (by intro l hl; cases hl)

theorem Memory.wf_nil : Memory.wf [] = true := rfl

/-! ## Several bytes -/

/-- A write of a number keeps the canonical form. -/
theorem Memory.wf_writeN {m : List Host.Cell} (h : Memory.wf m) (a n v : Nat) : Memory.wf (Memory.writeN m a n v) := by
  induction n generalizing m a v with
  | zero => exact h
  | succ n ih => exact ih (Memory.wf_write h _ _) _ _

/-- A write of a list of bytes keeps the canonical form. -/
theorem Memory.wf_writeL {m : List Host.Cell} (h : Memory.wf m) (a : Nat) (l : List Byte) :
    Memory.wf (Memory.writeL m a l) := by
  induction l generalizing m a with
  | nil => exact h
  | cons b r ih => exact ih (Memory.wf_write h _ _) _

/-- Several writes, one after the other, keep the canonical form. -/
theorem Memory.wf_foldl_write {β : Type} (l : List β) (ad : β → Nat) (by' : β → Byte) {m : List Host.Cell}
    (h : Memory.wf m) : Memory.wf (l.foldl (fun m q => Memory.write m (ad q) (by' q)) m) := by
  induction l generalizing m with
  | nil => exact h
  | cons b r ih => exact ih (Memory.wf_write h _ _)

theorem Memory.wf_foldl_writeN {β : Type} (l : List β) (ad n v : β → Nat) {m : List Host.Cell}
    (h : Memory.wf m) : Memory.wf (l.foldl (fun m q => Memory.writeN m (ad q) (n q) (v q)) m) := by
  induction l generalizing m with
  | nil => exact h
  | cons b r ih => exact ih (Memory.wf_writeN h _ _ _)

theorem Memory.wfFrom_filter {m : List Host.Cell} {o : Option Nat} (p : Host.Cell → Bool) (h : Memory.wfFrom o m) :
    Memory.wfFrom o (m.filter p) := by
  induction m generalizing o with
  | nil => exact h
  | cons c r ih =>
    obtain ⟨a', b'⟩ := c
    have hr : Memory.wfFrom (some a') r := by
      simp [Memory.wfFrom] at h; exact h.2
    have hb' : b' ≠ 0#8 := by
      simp [Memory.wfFrom] at h; exact h.1.2
    by_cases hp : p (a', b') = true
    · rw [List.filter_cons_of_pos hp]
      cases o with
      | none => simp [Memory.wfFrom, hb', ih hr]
      | some l =>
        simp [Memory.wfFrom] at h
        simp [Memory.wfFrom, hb', ih hr, h.1.1]
    · rw [List.filter_cons_of_neg hp]
      cases o with
      | none => exact ih (Memory.wfFrom_none hr)
      | some l =>
        simp [Memory.wfFrom] at h
        exact ih (Memory.wfFrom_weaken hr (Nat.le_of_lt h.1.1))

/-- Forgetting addresses keeps the canonical form. -/
theorem Memory.wf_filter {m : List Host.Cell} (p : Host.Cell → Bool) (h : Memory.wf m) : Memory.wf (m.filter p) :=
  Memory.wfFrom_filter p h

/-- An address below or beyond the bytes written reads as before. -/
theorem Memory.read_writeN_other {m : List Host.Cell} (h : Memory.wf m) {a n x : Nat} (v : Nat)
    (hx : x < a ∨ a + n ≤ x) : Memory.read (Memory.writeN m a n v) x = Memory.read m x := by
  induction n generalizing m a v with
  | zero => rfl
  | succ n ih =>
    have h' := Memory.wf_write h a (BitVec.ofNat 8 v)
    rw [Memory.writeN, ih h' _ (by omega)]
    exact Memory.read_write_other h _ (by omega)

/-- Byte `k` of a number written. -/
theorem Memory.read_writeN_at {m : List Host.Cell} (h : Memory.wf m) {a n k : Nat} (v : Nat) (hk : k < n) :
    Memory.read (Memory.writeN m a n v) (a + k) = BitVec.ofNat 8 (v / 256 ^ k) := by
  induction n generalizing m a v k with
  | zero => omega
  | succ n ih =>
    have h' := Memory.wf_write h a (BitVec.ofNat 8 v)
    cases k with
    | zero =>
      rw [Memory.writeN, Memory.read_writeN_other h' _ (by omega), Nat.add_zero, Memory.read_write_same h]
      simp
    | succ k =>
      rw [Memory.writeN, show a + (k + 1) = a + 1 + k by omega, ih h' _ (by omega), Nat.div_div_eq_div_mul, pow_succ,
        Nat.mul_comm]

theorem Memory.readN_congr {m m' : List Host.Cell} {a n : Nat}
    (h : ∀ k, k < n → Memory.read m (a + k) = Memory.read m' (a + k)) : Memory.readN m a n = Memory.readN m' a n := by
  induction n generalizing a with
  | zero => rfl
  | succ n ih =>
    have h0 := h 0 (by omega)
    simp only [Nat.add_zero] at h0
    rw [Memory.readN, Memory.readN, h0, ih]
    intro k hk
    have := h (k + 1) (by omega)
    rw [show a + 1 + k = a + (k + 1) by omega]; exact this

/-- A read of the bytes written gives the number written, reduced to their width (R36). -/
theorem Memory.readN_writeN_same {m : List Host.Cell} (h : Memory.wf m) (a n v : Nat) :
    Memory.readN (Memory.writeN m a n v) a n = v % 256 ^ n := by
  induction n generalizing m a v with
  | zero => simp [Memory.readN, Nat.mod_one]
  | succ n ih =>
    have h' := Memory.wf_write h a (BitVec.ofNat 8 v)
    rw [Memory.readN]
    have e0 : Memory.read (Memory.writeN m a (n + 1) v) a = BitVec.ofNat 8 v := by
      have := Memory.read_writeN_at h v (show 0 < n + 1 by omega) (a := a)
      simpa using this
    rw [e0, Memory.writeN, ih h', BitVec.toNat_ofNat, Nat.pow_succ 256, Nat.mul_comm (256 ^ n) 256, Nat.mod_mul]

/-- Reading bytes that a write does not touch. -/
theorem Memory.readN_writeN_other {m : List Host.Cell} (h : Memory.wf m) {a n b k : Nat} (v : Nat)
    (hd : b + k ≤ a ∨ a + n ≤ b) : Memory.readN (Memory.writeN m a n v) b k = Memory.readN m b k :=
  Memory.readN_congr fun j hj => Memory.read_writeN_other h v (by omega)

end Sys2Proof.Machine
end

