-- ==== Sys2Proof/Laws/State.lean ====
section
/-! SUPPORT. One lemma per field per update of `State` and of a thread, and what the named parts read as after an
update of them. -/
namespace Sys2Proof.Machine


/-! ## State.setThread -/

@[simp] theorem State.setThread_turn (s : State) (t : Nat) (x : ThreadState) : (s.setThread t x).turn = s.turn := rfl
@[simp] theorem State.setThread_clock (s : State) (t : Nat) (x : ThreadState) : (s.setThread t x).clock = s.clock := rfl
@[simp] theorem State.setThread_free (s : State) (t : Nat) (x : ThreadState) : (s.setThread t x).free = s.free := rfl
@[simp] theorem State.setThread_cur (s : State) (t : Nat) (x : ThreadState) : (s.setThread t x).cur = s.cur := rfl
@[simp] theorem State.setThread_site (s : State) (t : Nat) (x : ThreadState) : (s.setThread t x).site = s.site := rfl
@[simp] theorem State.setThread_mem (s : State) (t : Nat) (x : ThreadState) : (s.setThread t x).mem = s.mem := rfl
@[simp] theorem State.setThread_poison (s : State) (t : Nat) (x : ThreadState) : (s.setThread t x).poison = s.poison := rfl
@[simp] theorem State.setThread_poisonW (s : State) (t : Nat) (x : ThreadState) : (s.setThread t x).poisonW = s.poisonW := rfl
@[simp] theorem State.setThread_elems (s : State) (t : Nat) (x : ThreadState) : (s.setThread t x).elems = s.elems := rfl
@[simp] theorem State.setThread_units (s : State) (t : Nat) (x : ThreadState) : (s.setThread t x).units = s.units := rfl
@[simp] theorem State.setThread_cores (s : State) (t : Nat) (x : ThreadState) : (s.setThread t x).cores = s.cores := rfl
@[simp] theorem State.setThread_clusters (s : State) (t : Nat) (x : ThreadState) : (s.setThread t x).clusters = s.clusters := rfl
@[simp] theorem State.setThread_regions (s : State) (t : Nat) (x : ThreadState) : (s.setThread t x).regions = s.regions := rfl
@[simp] theorem State.setThread_homes (s : State) (t : Nat) (x : ThreadState) : (s.setThread t x).homes = s.homes := rfl
@[simp] theorem State.setThread_decrs (s : State) (t : Nat) (x : ThreadState) : (s.setThread t x).decrs = s.decrs := rfl
@[simp] theorem State.setThread_net (s : State) (t : Nat) (x : ThreadState) : (s.setThread t x).net = s.net := rfl
@[simp] theorem State.setThread_ctl (s : State) (t : Nat) (x : ThreadState) : (s.setThread t x).ctl = s.ctl := rfl
@[simp] theorem State.setThread_queues (s : State) (t : Nat) (x : ThreadState) : (s.setThread t x).queues = s.queues := rfl
@[simp] theorem State.setThread_ports (s : State) (t : Nat) (x : ThreadState) : (s.setThread t x).ports = s.ports := rfl
@[simp] theorem State.setThread_vds (s : State) (t : Nat) (x : ThreadState) : (s.setThread t x).vds = s.vds := rfl
@[simp] theorem State.setThread_groups (s : State) (t : Nat) (x : ThreadState) : (s.setThread t x).groups = s.groups := rfl
@[simp] theorem State.setThread_tlb (s : State) (t : Nat) (x : ThreadState) : (s.setThread t x).tlb = s.tlb := rfl
@[simp] theorem State.setThread_wakeBuf (s : State) (t : Nat) (x : ThreadState) : (s.setThread t x).wakeBuf = s.wakeBuf := rfl
@[simp] theorem State.setThread_images (s : State) (t : Nat) (x : ThreadState) : (s.setThread t x).images = s.images := rfl
@[simp] theorem State.setThread_imageId (s : State) (t : Nat) (x : ThreadState) : (s.setThread t x).imageId = s.imageId := rfl
@[simp] theorem State.setThread_boot (s : State) (t : Nat) (x : ThreadState) : (s.setThread t x).boot = s.boot := rfl
@[simp] theorem State.setThread_bootLog (s : State) (t : Nat) (x : ThreadState) : (s.setThread t x).bootLog = s.bootLog := rfl
@[simp] theorem State.setThread_fails (s : State) (t : Nat) (x : ThreadState) : (s.setThread t x).fails = s.fails := rfl
@[simp] theorem State.setThread_causes (s : State) (t : Nat) (x : ThreadState) : (s.setThread t x).causes = s.causes := rfl
@[simp] theorem State.setThread_throttle (s : State) (t : Nat) (x : ThreadState) : (s.setThread t x).throttle = s.throttle := rfl
@[simp] theorem State.setThread_notices (s : State) (t : Nat) (x : ThreadState) : (s.setThread t x).notices = s.notices := rfl
@[simp] theorem State.setThread_reports (s : State) (t : Nat) (x : ThreadState) : (s.setThread t x).reports = s.reports := rfl
@[simp] theorem State.setThread_serdex (s : State) (t : Nat) (x : ThreadState) : (s.setThread t x).serdex = s.serdex := rfl
@[simp] theorem State.setThread_spans (s : State) (t : Nat) (x : ThreadState) : (s.setThread t x).spans = s.spans := rfl
@[simp] theorem State.setThread_windows (s : State) (t : Nat) (x : ThreadState) : (s.setThread t x).windows = s.windows := rfl
@[simp] theorem State.setThread_homeReds (s : State) (t : Nat) (x : ThreadState) : (s.setThread t x).homeReds = s.homeReds := rfl
@[simp] theorem State.setThread_repair (s : State) (t : Nat) (x : ThreadState) : (s.setThread t x).repair = s.repair := rfl
@[simp] theorem State.setThread_nodes (s : State) (t : Nat) (x : ThreadState) : (s.setThread t x).nodes = s.nodes := rfl
@[simp] theorem State.setThread_retained (s : State) (t : Nat) (x : ThreadState) : (s.setThread t x).retained = s.retained := rfl
@[simp] theorem State.setThread_remote (s : State) (t : Nat) (x : ThreadState) : (s.setThread t x).remote = s.remote := rfl
@[simp] theorem State.setThread_failed (s : State) (t : Nat) (x : ThreadState) : (s.setThread t x).failed = s.failed := rfl
@[simp] theorem State.setThread_downSw (s : State) (t : Nat) (x : ThreadState) : (s.setThread t x).downSw = s.downSw := rfl
@[simp] theorem State.setThread_gangs (s : State) (t : Nat) (x : ThreadState) : (s.setThread t x).gangs = s.gangs := rfl
@[simp] theorem State.setThread_unseen (s : State) (t : Nat) (x : ThreadState) : (s.setThread t x).unseen = s.unseen := rfl
@[simp] theorem State.setThread_update (s : State) (t : Nat) (x : ThreadState) : (s.setThread t x).update = s.update := rfl
@[simp] theorem State.setThread_redId (s : State) (t : Nat) (x : ThreadState) : (s.setThread t x).redId = s.redId := rfl
@[simp] theorem State.setThread_finished (s : State) (t : Nat) (x : ThreadState) : (s.setThread t x).finished = s.finished := rfl
@[simp] theorem State.setThread_answers (s : State) (t : Nat) (x : ThreadState) : (s.setThread t x).answers = s.answers := rfl
@[simp] theorem State.setThread_hosted (s : State) (t : Nat) (x : ThreadState) : (s.setThread t x).hosted = s.hosted := rfl
@[simp] theorem State.setThread_dbg (s : State) (t : Nat) (x : ThreadState) : (s.setThread t x).dbg = s.dbg := rfl

/-! ## State.updThread -/

@[simp] theorem State.updThread_turn (s : State) (t : Nat) (f : ThreadState → ThreadState) : (s.updThread t f).turn = s.turn := rfl
@[simp] theorem State.updThread_clock (s : State) (t : Nat) (f : ThreadState → ThreadState) : (s.updThread t f).clock = s.clock := rfl
@[simp] theorem State.updThread_free (s : State) (t : Nat) (f : ThreadState → ThreadState) : (s.updThread t f).free = s.free := rfl
@[simp] theorem State.updThread_cur (s : State) (t : Nat) (f : ThreadState → ThreadState) : (s.updThread t f).cur = s.cur := rfl
@[simp] theorem State.updThread_site (s : State) (t : Nat) (f : ThreadState → ThreadState) : (s.updThread t f).site = s.site := rfl
@[simp] theorem State.updThread_mem (s : State) (t : Nat) (f : ThreadState → ThreadState) : (s.updThread t f).mem = s.mem := rfl
@[simp] theorem State.updThread_poison (s : State) (t : Nat) (f : ThreadState → ThreadState) : (s.updThread t f).poison = s.poison := rfl
@[simp] theorem State.updThread_poisonW (s : State) (t : Nat) (f : ThreadState → ThreadState) : (s.updThread t f).poisonW = s.poisonW := rfl
@[simp] theorem State.updThread_elems (s : State) (t : Nat) (f : ThreadState → ThreadState) : (s.updThread t f).elems = s.elems := rfl
@[simp] theorem State.updThread_units (s : State) (t : Nat) (f : ThreadState → ThreadState) : (s.updThread t f).units = s.units := rfl
@[simp] theorem State.updThread_cores (s : State) (t : Nat) (f : ThreadState → ThreadState) : (s.updThread t f).cores = s.cores := rfl
@[simp] theorem State.updThread_clusters (s : State) (t : Nat) (f : ThreadState → ThreadState) : (s.updThread t f).clusters = s.clusters := rfl
@[simp] theorem State.updThread_regions (s : State) (t : Nat) (f : ThreadState → ThreadState) : (s.updThread t f).regions = s.regions := rfl
@[simp] theorem State.updThread_homes (s : State) (t : Nat) (f : ThreadState → ThreadState) : (s.updThread t f).homes = s.homes := rfl
@[simp] theorem State.updThread_decrs (s : State) (t : Nat) (f : ThreadState → ThreadState) : (s.updThread t f).decrs = s.decrs := rfl
@[simp] theorem State.updThread_net (s : State) (t : Nat) (f : ThreadState → ThreadState) : (s.updThread t f).net = s.net := rfl
@[simp] theorem State.updThread_ctl (s : State) (t : Nat) (f : ThreadState → ThreadState) : (s.updThread t f).ctl = s.ctl := rfl
@[simp] theorem State.updThread_queues (s : State) (t : Nat) (f : ThreadState → ThreadState) : (s.updThread t f).queues = s.queues := rfl
@[simp] theorem State.updThread_ports (s : State) (t : Nat) (f : ThreadState → ThreadState) : (s.updThread t f).ports = s.ports := rfl
@[simp] theorem State.updThread_vds (s : State) (t : Nat) (f : ThreadState → ThreadState) : (s.updThread t f).vds = s.vds := rfl
@[simp] theorem State.updThread_groups (s : State) (t : Nat) (f : ThreadState → ThreadState) : (s.updThread t f).groups = s.groups := rfl
@[simp] theorem State.updThread_tlb (s : State) (t : Nat) (f : ThreadState → ThreadState) : (s.updThread t f).tlb = s.tlb := rfl
@[simp] theorem State.updThread_wakeBuf (s : State) (t : Nat) (f : ThreadState → ThreadState) : (s.updThread t f).wakeBuf = s.wakeBuf := rfl
@[simp] theorem State.updThread_images (s : State) (t : Nat) (f : ThreadState → ThreadState) : (s.updThread t f).images = s.images := rfl
@[simp] theorem State.updThread_imageId (s : State) (t : Nat) (f : ThreadState → ThreadState) : (s.updThread t f).imageId = s.imageId := rfl
@[simp] theorem State.updThread_boot (s : State) (t : Nat) (f : ThreadState → ThreadState) : (s.updThread t f).boot = s.boot := rfl
@[simp] theorem State.updThread_bootLog (s : State) (t : Nat) (f : ThreadState → ThreadState) : (s.updThread t f).bootLog = s.bootLog := rfl
@[simp] theorem State.updThread_fails (s : State) (t : Nat) (f : ThreadState → ThreadState) : (s.updThread t f).fails = s.fails := rfl
@[simp] theorem State.updThread_causes (s : State) (t : Nat) (f : ThreadState → ThreadState) : (s.updThread t f).causes = s.causes := rfl
@[simp] theorem State.updThread_throttle (s : State) (t : Nat) (f : ThreadState → ThreadState) : (s.updThread t f).throttle = s.throttle := rfl
@[simp] theorem State.updThread_notices (s : State) (t : Nat) (f : ThreadState → ThreadState) : (s.updThread t f).notices = s.notices := rfl
@[simp] theorem State.updThread_reports (s : State) (t : Nat) (f : ThreadState → ThreadState) : (s.updThread t f).reports = s.reports := rfl
@[simp] theorem State.updThread_serdex (s : State) (t : Nat) (f : ThreadState → ThreadState) : (s.updThread t f).serdex = s.serdex := rfl
@[simp] theorem State.updThread_spans (s : State) (t : Nat) (f : ThreadState → ThreadState) : (s.updThread t f).spans = s.spans := rfl
@[simp] theorem State.updThread_windows (s : State) (t : Nat) (f : ThreadState → ThreadState) : (s.updThread t f).windows = s.windows := rfl
@[simp] theorem State.updThread_homeReds (s : State) (t : Nat) (f : ThreadState → ThreadState) : (s.updThread t f).homeReds = s.homeReds := rfl
@[simp] theorem State.updThread_repair (s : State) (t : Nat) (f : ThreadState → ThreadState) : (s.updThread t f).repair = s.repair := rfl
@[simp] theorem State.updThread_nodes (s : State) (t : Nat) (f : ThreadState → ThreadState) : (s.updThread t f).nodes = s.nodes := rfl
@[simp] theorem State.updThread_retained (s : State) (t : Nat) (f : ThreadState → ThreadState) : (s.updThread t f).retained = s.retained := rfl
@[simp] theorem State.updThread_remote (s : State) (t : Nat) (f : ThreadState → ThreadState) : (s.updThread t f).remote = s.remote := rfl
@[simp] theorem State.updThread_failed (s : State) (t : Nat) (f : ThreadState → ThreadState) : (s.updThread t f).failed = s.failed := rfl
@[simp] theorem State.updThread_downSw (s : State) (t : Nat) (f : ThreadState → ThreadState) : (s.updThread t f).downSw = s.downSw := rfl
@[simp] theorem State.updThread_gangs (s : State) (t : Nat) (f : ThreadState → ThreadState) : (s.updThread t f).gangs = s.gangs := rfl
@[simp] theorem State.updThread_unseen (s : State) (t : Nat) (f : ThreadState → ThreadState) : (s.updThread t f).unseen = s.unseen := rfl
@[simp] theorem State.updThread_update (s : State) (t : Nat) (f : ThreadState → ThreadState) : (s.updThread t f).update = s.update := rfl
@[simp] theorem State.updThread_redId (s : State) (t : Nat) (f : ThreadState → ThreadState) : (s.updThread t f).redId = s.redId := rfl
@[simp] theorem State.updThread_finished (s : State) (t : Nat) (f : ThreadState → ThreadState) : (s.updThread t f).finished = s.finished := rfl
@[simp] theorem State.updThread_answers (s : State) (t : Nat) (f : ThreadState → ThreadState) : (s.updThread t f).answers = s.answers := rfl
@[simp] theorem State.updThread_hosted (s : State) (t : Nat) (f : ThreadState → ThreadState) : (s.updThread t f).hosted = s.hosted := rfl
@[simp] theorem State.updThread_dbg (s : State) (t : Nat) (f : ThreadState → ThreadState) : (s.updThread t f).dbg = s.dbg := rfl

/-! ## State.updCore -/

@[simp] theorem State.updCore_turn (s : State) (c : Nat) (f : CoreState → CoreState) : (s.updCore c f).turn = s.turn := rfl
@[simp] theorem State.updCore_clock (s : State) (c : Nat) (f : CoreState → CoreState) : (s.updCore c f).clock = s.clock := rfl
@[simp] theorem State.updCore_free (s : State) (c : Nat) (f : CoreState → CoreState) : (s.updCore c f).free = s.free := rfl
@[simp] theorem State.updCore_cur (s : State) (c : Nat) (f : CoreState → CoreState) : (s.updCore c f).cur = s.cur := rfl
@[simp] theorem State.updCore_site (s : State) (c : Nat) (f : CoreState → CoreState) : (s.updCore c f).site = s.site := rfl
@[simp] theorem State.updCore_mem (s : State) (c : Nat) (f : CoreState → CoreState) : (s.updCore c f).mem = s.mem := rfl
@[simp] theorem State.updCore_poison (s : State) (c : Nat) (f : CoreState → CoreState) : (s.updCore c f).poison = s.poison := rfl
@[simp] theorem State.updCore_poisonW (s : State) (c : Nat) (f : CoreState → CoreState) : (s.updCore c f).poisonW = s.poisonW := rfl
@[simp] theorem State.updCore_threads (s : State) (c : Nat) (f : CoreState → CoreState) : (s.updCore c f).threads = s.threads := rfl
@[simp] theorem State.updCore_elems (s : State) (c : Nat) (f : CoreState → CoreState) : (s.updCore c f).elems = s.elems := rfl
@[simp] theorem State.updCore_units (s : State) (c : Nat) (f : CoreState → CoreState) : (s.updCore c f).units = s.units := rfl
@[simp] theorem State.updCore_clusters (s : State) (c : Nat) (f : CoreState → CoreState) : (s.updCore c f).clusters = s.clusters := rfl
@[simp] theorem State.updCore_regions (s : State) (c : Nat) (f : CoreState → CoreState) : (s.updCore c f).regions = s.regions := rfl
@[simp] theorem State.updCore_homes (s : State) (c : Nat) (f : CoreState → CoreState) : (s.updCore c f).homes = s.homes := rfl
@[simp] theorem State.updCore_decrs (s : State) (c : Nat) (f : CoreState → CoreState) : (s.updCore c f).decrs = s.decrs := rfl
@[simp] theorem State.updCore_net (s : State) (c : Nat) (f : CoreState → CoreState) : (s.updCore c f).net = s.net := rfl
@[simp] theorem State.updCore_ctl (s : State) (c : Nat) (f : CoreState → CoreState) : (s.updCore c f).ctl = s.ctl := rfl
@[simp] theorem State.updCore_queues (s : State) (c : Nat) (f : CoreState → CoreState) : (s.updCore c f).queues = s.queues := rfl
@[simp] theorem State.updCore_ports (s : State) (c : Nat) (f : CoreState → CoreState) : (s.updCore c f).ports = s.ports := rfl
@[simp] theorem State.updCore_vds (s : State) (c : Nat) (f : CoreState → CoreState) : (s.updCore c f).vds = s.vds := rfl
@[simp] theorem State.updCore_groups (s : State) (c : Nat) (f : CoreState → CoreState) : (s.updCore c f).groups = s.groups := rfl
@[simp] theorem State.updCore_tlb (s : State) (c : Nat) (f : CoreState → CoreState) : (s.updCore c f).tlb = s.tlb := rfl
@[simp] theorem State.updCore_wakeBuf (s : State) (c : Nat) (f : CoreState → CoreState) : (s.updCore c f).wakeBuf = s.wakeBuf := rfl
@[simp] theorem State.updCore_images (s : State) (c : Nat) (f : CoreState → CoreState) : (s.updCore c f).images = s.images := rfl
@[simp] theorem State.updCore_imageId (s : State) (c : Nat) (f : CoreState → CoreState) : (s.updCore c f).imageId = s.imageId := rfl
@[simp] theorem State.updCore_boot (s : State) (c : Nat) (f : CoreState → CoreState) : (s.updCore c f).boot = s.boot := rfl
@[simp] theorem State.updCore_bootLog (s : State) (c : Nat) (f : CoreState → CoreState) : (s.updCore c f).bootLog = s.bootLog := rfl
@[simp] theorem State.updCore_fails (s : State) (c : Nat) (f : CoreState → CoreState) : (s.updCore c f).fails = s.fails := rfl
@[simp] theorem State.updCore_causes (s : State) (c : Nat) (f : CoreState → CoreState) : (s.updCore c f).causes = s.causes := rfl
@[simp] theorem State.updCore_throttle (s : State) (c : Nat) (f : CoreState → CoreState) : (s.updCore c f).throttle = s.throttle := rfl
@[simp] theorem State.updCore_notices (s : State) (c : Nat) (f : CoreState → CoreState) : (s.updCore c f).notices = s.notices := rfl
@[simp] theorem State.updCore_reports (s : State) (c : Nat) (f : CoreState → CoreState) : (s.updCore c f).reports = s.reports := rfl
@[simp] theorem State.updCore_serdex (s : State) (c : Nat) (f : CoreState → CoreState) : (s.updCore c f).serdex = s.serdex := rfl
@[simp] theorem State.updCore_spans (s : State) (c : Nat) (f : CoreState → CoreState) : (s.updCore c f).spans = s.spans := rfl
@[simp] theorem State.updCore_windows (s : State) (c : Nat) (f : CoreState → CoreState) : (s.updCore c f).windows = s.windows := rfl
@[simp] theorem State.updCore_homeReds (s : State) (c : Nat) (f : CoreState → CoreState) : (s.updCore c f).homeReds = s.homeReds := rfl
@[simp] theorem State.updCore_repair (s : State) (c : Nat) (f : CoreState → CoreState) : (s.updCore c f).repair = s.repair := rfl
@[simp] theorem State.updCore_nodes (s : State) (c : Nat) (f : CoreState → CoreState) : (s.updCore c f).nodes = s.nodes := rfl
@[simp] theorem State.updCore_retained (s : State) (c : Nat) (f : CoreState → CoreState) : (s.updCore c f).retained = s.retained := rfl
@[simp] theorem State.updCore_remote (s : State) (c : Nat) (f : CoreState → CoreState) : (s.updCore c f).remote = s.remote := rfl
@[simp] theorem State.updCore_failed (s : State) (c : Nat) (f : CoreState → CoreState) : (s.updCore c f).failed = s.failed := rfl
@[simp] theorem State.updCore_downSw (s : State) (c : Nat) (f : CoreState → CoreState) : (s.updCore c f).downSw = s.downSw := rfl
@[simp] theorem State.updCore_gangs (s : State) (c : Nat) (f : CoreState → CoreState) : (s.updCore c f).gangs = s.gangs := rfl
@[simp] theorem State.updCore_unseen (s : State) (c : Nat) (f : CoreState → CoreState) : (s.updCore c f).unseen = s.unseen := rfl
@[simp] theorem State.updCore_update (s : State) (c : Nat) (f : CoreState → CoreState) : (s.updCore c f).update = s.update := rfl
@[simp] theorem State.updCore_redId (s : State) (c : Nat) (f : CoreState → CoreState) : (s.updCore c f).redId = s.redId := rfl
@[simp] theorem State.updCore_finished (s : State) (c : Nat) (f : CoreState → CoreState) : (s.updCore c f).finished = s.finished := rfl
@[simp] theorem State.updCore_answers (s : State) (c : Nat) (f : CoreState → CoreState) : (s.updCore c f).answers = s.answers := rfl
@[simp] theorem State.updCore_hosted (s : State) (c : Nat) (f : CoreState → CoreState) : (s.updCore c f).hosted = s.hosted := rfl
@[simp] theorem State.updCore_dbg (s : State) (c : Nat) (f : CoreState → CoreState) : (s.updCore c f).dbg = s.dbg := rfl

/-! ## State.updCluster -/

@[simp] theorem State.updCluster_turn (s : State) (c : Nat) (f : ClusterState → ClusterState) : (s.updCluster c f).turn = s.turn := rfl
@[simp] theorem State.updCluster_clock (s : State) (c : Nat) (f : ClusterState → ClusterState) : (s.updCluster c f).clock = s.clock := rfl
@[simp] theorem State.updCluster_free (s : State) (c : Nat) (f : ClusterState → ClusterState) : (s.updCluster c f).free = s.free := rfl
@[simp] theorem State.updCluster_cur (s : State) (c : Nat) (f : ClusterState → ClusterState) : (s.updCluster c f).cur = s.cur := rfl
@[simp] theorem State.updCluster_site (s : State) (c : Nat) (f : ClusterState → ClusterState) : (s.updCluster c f).site = s.site := rfl
@[simp] theorem State.updCluster_mem (s : State) (c : Nat) (f : ClusterState → ClusterState) : (s.updCluster c f).mem = s.mem := rfl
@[simp] theorem State.updCluster_poison (s : State) (c : Nat) (f : ClusterState → ClusterState) : (s.updCluster c f).poison = s.poison := rfl
@[simp] theorem State.updCluster_poisonW (s : State) (c : Nat) (f : ClusterState → ClusterState) : (s.updCluster c f).poisonW = s.poisonW := rfl
@[simp] theorem State.updCluster_threads (s : State) (c : Nat) (f : ClusterState → ClusterState) : (s.updCluster c f).threads = s.threads := rfl
@[simp] theorem State.updCluster_elems (s : State) (c : Nat) (f : ClusterState → ClusterState) : (s.updCluster c f).elems = s.elems := rfl
@[simp] theorem State.updCluster_units (s : State) (c : Nat) (f : ClusterState → ClusterState) : (s.updCluster c f).units = s.units := rfl
@[simp] theorem State.updCluster_cores (s : State) (c : Nat) (f : ClusterState → ClusterState) : (s.updCluster c f).cores = s.cores := rfl
@[simp] theorem State.updCluster_regions (s : State) (c : Nat) (f : ClusterState → ClusterState) : (s.updCluster c f).regions = s.regions := rfl
@[simp] theorem State.updCluster_homes (s : State) (c : Nat) (f : ClusterState → ClusterState) : (s.updCluster c f).homes = s.homes := rfl
@[simp] theorem State.updCluster_decrs (s : State) (c : Nat) (f : ClusterState → ClusterState) : (s.updCluster c f).decrs = s.decrs := rfl
@[simp] theorem State.updCluster_net (s : State) (c : Nat) (f : ClusterState → ClusterState) : (s.updCluster c f).net = s.net := rfl
@[simp] theorem State.updCluster_ctl (s : State) (c : Nat) (f : ClusterState → ClusterState) : (s.updCluster c f).ctl = s.ctl := rfl
@[simp] theorem State.updCluster_queues (s : State) (c : Nat) (f : ClusterState → ClusterState) : (s.updCluster c f).queues = s.queues := rfl
@[simp] theorem State.updCluster_ports (s : State) (c : Nat) (f : ClusterState → ClusterState) : (s.updCluster c f).ports = s.ports := rfl
@[simp] theorem State.updCluster_vds (s : State) (c : Nat) (f : ClusterState → ClusterState) : (s.updCluster c f).vds = s.vds := rfl
@[simp] theorem State.updCluster_groups (s : State) (c : Nat) (f : ClusterState → ClusterState) : (s.updCluster c f).groups = s.groups := rfl
@[simp] theorem State.updCluster_tlb (s : State) (c : Nat) (f : ClusterState → ClusterState) : (s.updCluster c f).tlb = s.tlb := rfl
@[simp] theorem State.updCluster_wakeBuf (s : State) (c : Nat) (f : ClusterState → ClusterState) : (s.updCluster c f).wakeBuf = s.wakeBuf := rfl
@[simp] theorem State.updCluster_images (s : State) (c : Nat) (f : ClusterState → ClusterState) : (s.updCluster c f).images = s.images := rfl
@[simp] theorem State.updCluster_imageId (s : State) (c : Nat) (f : ClusterState → ClusterState) : (s.updCluster c f).imageId = s.imageId := rfl
@[simp] theorem State.updCluster_boot (s : State) (c : Nat) (f : ClusterState → ClusterState) : (s.updCluster c f).boot = s.boot := rfl
@[simp] theorem State.updCluster_bootLog (s : State) (c : Nat) (f : ClusterState → ClusterState) : (s.updCluster c f).bootLog = s.bootLog := rfl
@[simp] theorem State.updCluster_fails (s : State) (c : Nat) (f : ClusterState → ClusterState) : (s.updCluster c f).fails = s.fails := rfl
@[simp] theorem State.updCluster_causes (s : State) (c : Nat) (f : ClusterState → ClusterState) : (s.updCluster c f).causes = s.causes := rfl
@[simp] theorem State.updCluster_throttle (s : State) (c : Nat) (f : ClusterState → ClusterState) : (s.updCluster c f).throttle = s.throttle := rfl
@[simp] theorem State.updCluster_notices (s : State) (c : Nat) (f : ClusterState → ClusterState) : (s.updCluster c f).notices = s.notices := rfl
@[simp] theorem State.updCluster_reports (s : State) (c : Nat) (f : ClusterState → ClusterState) : (s.updCluster c f).reports = s.reports := rfl
@[simp] theorem State.updCluster_serdex (s : State) (c : Nat) (f : ClusterState → ClusterState) : (s.updCluster c f).serdex = s.serdex := rfl
@[simp] theorem State.updCluster_spans (s : State) (c : Nat) (f : ClusterState → ClusterState) : (s.updCluster c f).spans = s.spans := rfl
@[simp] theorem State.updCluster_windows (s : State) (c : Nat) (f : ClusterState → ClusterState) : (s.updCluster c f).windows = s.windows := rfl
@[simp] theorem State.updCluster_homeReds (s : State) (c : Nat) (f : ClusterState → ClusterState) : (s.updCluster c f).homeReds = s.homeReds := rfl
@[simp] theorem State.updCluster_repair (s : State) (c : Nat) (f : ClusterState → ClusterState) : (s.updCluster c f).repair = s.repair := rfl
@[simp] theorem State.updCluster_nodes (s : State) (c : Nat) (f : ClusterState → ClusterState) : (s.updCluster c f).nodes = s.nodes := rfl
@[simp] theorem State.updCluster_retained (s : State) (c : Nat) (f : ClusterState → ClusterState) : (s.updCluster c f).retained = s.retained := rfl
@[simp] theorem State.updCluster_remote (s : State) (c : Nat) (f : ClusterState → ClusterState) : (s.updCluster c f).remote = s.remote := rfl
@[simp] theorem State.updCluster_failed (s : State) (c : Nat) (f : ClusterState → ClusterState) : (s.updCluster c f).failed = s.failed := rfl
@[simp] theorem State.updCluster_downSw (s : State) (c : Nat) (f : ClusterState → ClusterState) : (s.updCluster c f).downSw = s.downSw := rfl
@[simp] theorem State.updCluster_gangs (s : State) (c : Nat) (f : ClusterState → ClusterState) : (s.updCluster c f).gangs = s.gangs := rfl
@[simp] theorem State.updCluster_unseen (s : State) (c : Nat) (f : ClusterState → ClusterState) : (s.updCluster c f).unseen = s.unseen := rfl
@[simp] theorem State.updCluster_update (s : State) (c : Nat) (f : ClusterState → ClusterState) : (s.updCluster c f).update = s.update := rfl
@[simp] theorem State.updCluster_redId (s : State) (c : Nat) (f : ClusterState → ClusterState) : (s.updCluster c f).redId = s.redId := rfl
@[simp] theorem State.updCluster_finished (s : State) (c : Nat) (f : ClusterState → ClusterState) : (s.updCluster c f).finished = s.finished := rfl
@[simp] theorem State.updCluster_answers (s : State) (c : Nat) (f : ClusterState → ClusterState) : (s.updCluster c f).answers = s.answers := rfl
@[simp] theorem State.updCluster_hosted (s : State) (c : Nat) (f : ClusterState → ClusterState) : (s.updCluster c f).hosted = s.hosted := rfl
@[simp] theorem State.updCluster_dbg (s : State) (c : Nat) (f : ClusterState → ClusterState) : (s.updCluster c f).dbg = s.dbg := rfl

/-! ## State.updRegion -/

@[simp] theorem State.updRegion_turn (s : State) (r : Nat) (f : RegionState → RegionState) : (s.updRegion r f).turn = s.turn := rfl
@[simp] theorem State.updRegion_clock (s : State) (r : Nat) (f : RegionState → RegionState) : (s.updRegion r f).clock = s.clock := rfl
@[simp] theorem State.updRegion_free (s : State) (r : Nat) (f : RegionState → RegionState) : (s.updRegion r f).free = s.free := rfl
@[simp] theorem State.updRegion_cur (s : State) (r : Nat) (f : RegionState → RegionState) : (s.updRegion r f).cur = s.cur := rfl
@[simp] theorem State.updRegion_site (s : State) (r : Nat) (f : RegionState → RegionState) : (s.updRegion r f).site = s.site := rfl
@[simp] theorem State.updRegion_mem (s : State) (r : Nat) (f : RegionState → RegionState) : (s.updRegion r f).mem = s.mem := rfl
@[simp] theorem State.updRegion_poison (s : State) (r : Nat) (f : RegionState → RegionState) : (s.updRegion r f).poison = s.poison := rfl
@[simp] theorem State.updRegion_poisonW (s : State) (r : Nat) (f : RegionState → RegionState) : (s.updRegion r f).poisonW = s.poisonW := rfl
@[simp] theorem State.updRegion_threads (s : State) (r : Nat) (f : RegionState → RegionState) : (s.updRegion r f).threads = s.threads := rfl
@[simp] theorem State.updRegion_elems (s : State) (r : Nat) (f : RegionState → RegionState) : (s.updRegion r f).elems = s.elems := rfl
@[simp] theorem State.updRegion_units (s : State) (r : Nat) (f : RegionState → RegionState) : (s.updRegion r f).units = s.units := rfl
@[simp] theorem State.updRegion_cores (s : State) (r : Nat) (f : RegionState → RegionState) : (s.updRegion r f).cores = s.cores := rfl
@[simp] theorem State.updRegion_clusters (s : State) (r : Nat) (f : RegionState → RegionState) : (s.updRegion r f).clusters = s.clusters := rfl
@[simp] theorem State.updRegion_homes (s : State) (r : Nat) (f : RegionState → RegionState) : (s.updRegion r f).homes = s.homes := rfl
@[simp] theorem State.updRegion_decrs (s : State) (r : Nat) (f : RegionState → RegionState) : (s.updRegion r f).decrs = s.decrs := rfl
@[simp] theorem State.updRegion_net (s : State) (r : Nat) (f : RegionState → RegionState) : (s.updRegion r f).net = s.net := rfl
@[simp] theorem State.updRegion_ctl (s : State) (r : Nat) (f : RegionState → RegionState) : (s.updRegion r f).ctl = s.ctl := rfl
@[simp] theorem State.updRegion_queues (s : State) (r : Nat) (f : RegionState → RegionState) : (s.updRegion r f).queues = s.queues := rfl
@[simp] theorem State.updRegion_ports (s : State) (r : Nat) (f : RegionState → RegionState) : (s.updRegion r f).ports = s.ports := rfl
@[simp] theorem State.updRegion_vds (s : State) (r : Nat) (f : RegionState → RegionState) : (s.updRegion r f).vds = s.vds := rfl
@[simp] theorem State.updRegion_groups (s : State) (r : Nat) (f : RegionState → RegionState) : (s.updRegion r f).groups = s.groups := rfl
@[simp] theorem State.updRegion_tlb (s : State) (r : Nat) (f : RegionState → RegionState) : (s.updRegion r f).tlb = s.tlb := rfl
@[simp] theorem State.updRegion_wakeBuf (s : State) (r : Nat) (f : RegionState → RegionState) : (s.updRegion r f).wakeBuf = s.wakeBuf := rfl
@[simp] theorem State.updRegion_images (s : State) (r : Nat) (f : RegionState → RegionState) : (s.updRegion r f).images = s.images := rfl
@[simp] theorem State.updRegion_imageId (s : State) (r : Nat) (f : RegionState → RegionState) : (s.updRegion r f).imageId = s.imageId := rfl
@[simp] theorem State.updRegion_boot (s : State) (r : Nat) (f : RegionState → RegionState) : (s.updRegion r f).boot = s.boot := rfl
@[simp] theorem State.updRegion_bootLog (s : State) (r : Nat) (f : RegionState → RegionState) : (s.updRegion r f).bootLog = s.bootLog := rfl
@[simp] theorem State.updRegion_fails (s : State) (r : Nat) (f : RegionState → RegionState) : (s.updRegion r f).fails = s.fails := rfl
@[simp] theorem State.updRegion_causes (s : State) (r : Nat) (f : RegionState → RegionState) : (s.updRegion r f).causes = s.causes := rfl
@[simp] theorem State.updRegion_throttle (s : State) (r : Nat) (f : RegionState → RegionState) : (s.updRegion r f).throttle = s.throttle := rfl
@[simp] theorem State.updRegion_notices (s : State) (r : Nat) (f : RegionState → RegionState) : (s.updRegion r f).notices = s.notices := rfl
@[simp] theorem State.updRegion_reports (s : State) (r : Nat) (f : RegionState → RegionState) : (s.updRegion r f).reports = s.reports := rfl
@[simp] theorem State.updRegion_serdex (s : State) (r : Nat) (f : RegionState → RegionState) : (s.updRegion r f).serdex = s.serdex := rfl
@[simp] theorem State.updRegion_spans (s : State) (r : Nat) (f : RegionState → RegionState) : (s.updRegion r f).spans = s.spans := rfl
@[simp] theorem State.updRegion_windows (s : State) (r : Nat) (f : RegionState → RegionState) : (s.updRegion r f).windows = s.windows := rfl
@[simp] theorem State.updRegion_homeReds (s : State) (r : Nat) (f : RegionState → RegionState) : (s.updRegion r f).homeReds = s.homeReds := rfl
@[simp] theorem State.updRegion_repair (s : State) (r : Nat) (f : RegionState → RegionState) : (s.updRegion r f).repair = s.repair := rfl
@[simp] theorem State.updRegion_nodes (s : State) (r : Nat) (f : RegionState → RegionState) : (s.updRegion r f).nodes = s.nodes := rfl
@[simp] theorem State.updRegion_retained (s : State) (r : Nat) (f : RegionState → RegionState) : (s.updRegion r f).retained = s.retained := rfl
@[simp] theorem State.updRegion_remote (s : State) (r : Nat) (f : RegionState → RegionState) : (s.updRegion r f).remote = s.remote := rfl
@[simp] theorem State.updRegion_failed (s : State) (r : Nat) (f : RegionState → RegionState) : (s.updRegion r f).failed = s.failed := rfl
@[simp] theorem State.updRegion_downSw (s : State) (r : Nat) (f : RegionState → RegionState) : (s.updRegion r f).downSw = s.downSw := rfl
@[simp] theorem State.updRegion_gangs (s : State) (r : Nat) (f : RegionState → RegionState) : (s.updRegion r f).gangs = s.gangs := rfl
@[simp] theorem State.updRegion_unseen (s : State) (r : Nat) (f : RegionState → RegionState) : (s.updRegion r f).unseen = s.unseen := rfl
@[simp] theorem State.updRegion_update (s : State) (r : Nat) (f : RegionState → RegionState) : (s.updRegion r f).update = s.update := rfl
@[simp] theorem State.updRegion_redId (s : State) (r : Nat) (f : RegionState → RegionState) : (s.updRegion r f).redId = s.redId := rfl
@[simp] theorem State.updRegion_finished (s : State) (r : Nat) (f : RegionState → RegionState) : (s.updRegion r f).finished = s.finished := rfl
@[simp] theorem State.updRegion_answers (s : State) (r : Nat) (f : RegionState → RegionState) : (s.updRegion r f).answers = s.answers := rfl
@[simp] theorem State.updRegion_hosted (s : State) (r : Nat) (f : RegionState → RegionState) : (s.updRegion r f).hosted = s.hosted := rfl
@[simp] theorem State.updRegion_dbg (s : State) (r : Nat) (f : RegionState → RegionState) : (s.updRegion r f).dbg = s.dbg := rfl

/-! ## State.updVd -/

@[simp] theorem State.updVd_turn (s : State) (v : Nat) (f : VdState → VdState) : (s.updVd v f).turn = s.turn := rfl
@[simp] theorem State.updVd_clock (s : State) (v : Nat) (f : VdState → VdState) : (s.updVd v f).clock = s.clock := rfl
@[simp] theorem State.updVd_free (s : State) (v : Nat) (f : VdState → VdState) : (s.updVd v f).free = s.free := rfl
@[simp] theorem State.updVd_cur (s : State) (v : Nat) (f : VdState → VdState) : (s.updVd v f).cur = s.cur := rfl
@[simp] theorem State.updVd_site (s : State) (v : Nat) (f : VdState → VdState) : (s.updVd v f).site = s.site := rfl
@[simp] theorem State.updVd_mem (s : State) (v : Nat) (f : VdState → VdState) : (s.updVd v f).mem = s.mem := rfl
@[simp] theorem State.updVd_poison (s : State) (v : Nat) (f : VdState → VdState) : (s.updVd v f).poison = s.poison := rfl
@[simp] theorem State.updVd_poisonW (s : State) (v : Nat) (f : VdState → VdState) : (s.updVd v f).poisonW = s.poisonW := rfl
@[simp] theorem State.updVd_threads (s : State) (v : Nat) (f : VdState → VdState) : (s.updVd v f).threads = s.threads := rfl
@[simp] theorem State.updVd_elems (s : State) (v : Nat) (f : VdState → VdState) : (s.updVd v f).elems = s.elems := rfl
@[simp] theorem State.updVd_units (s : State) (v : Nat) (f : VdState → VdState) : (s.updVd v f).units = s.units := rfl
@[simp] theorem State.updVd_cores (s : State) (v : Nat) (f : VdState → VdState) : (s.updVd v f).cores = s.cores := rfl
@[simp] theorem State.updVd_clusters (s : State) (v : Nat) (f : VdState → VdState) : (s.updVd v f).clusters = s.clusters := rfl
@[simp] theorem State.updVd_regions (s : State) (v : Nat) (f : VdState → VdState) : (s.updVd v f).regions = s.regions := rfl
@[simp] theorem State.updVd_homes (s : State) (v : Nat) (f : VdState → VdState) : (s.updVd v f).homes = s.homes := rfl
@[simp] theorem State.updVd_decrs (s : State) (v : Nat) (f : VdState → VdState) : (s.updVd v f).decrs = s.decrs := rfl
@[simp] theorem State.updVd_net (s : State) (v : Nat) (f : VdState → VdState) : (s.updVd v f).net = s.net := rfl
@[simp] theorem State.updVd_ctl (s : State) (v : Nat) (f : VdState → VdState) : (s.updVd v f).ctl = s.ctl := rfl
@[simp] theorem State.updVd_queues (s : State) (v : Nat) (f : VdState → VdState) : (s.updVd v f).queues = s.queues := rfl
@[simp] theorem State.updVd_ports (s : State) (v : Nat) (f : VdState → VdState) : (s.updVd v f).ports = s.ports := rfl
@[simp] theorem State.updVd_groups (s : State) (v : Nat) (f : VdState → VdState) : (s.updVd v f).groups = s.groups := rfl
@[simp] theorem State.updVd_tlb (s : State) (v : Nat) (f : VdState → VdState) : (s.updVd v f).tlb = s.tlb := rfl
@[simp] theorem State.updVd_wakeBuf (s : State) (v : Nat) (f : VdState → VdState) : (s.updVd v f).wakeBuf = s.wakeBuf := rfl
@[simp] theorem State.updVd_images (s : State) (v : Nat) (f : VdState → VdState) : (s.updVd v f).images = s.images := rfl
@[simp] theorem State.updVd_imageId (s : State) (v : Nat) (f : VdState → VdState) : (s.updVd v f).imageId = s.imageId := rfl
@[simp] theorem State.updVd_boot (s : State) (v : Nat) (f : VdState → VdState) : (s.updVd v f).boot = s.boot := rfl
@[simp] theorem State.updVd_bootLog (s : State) (v : Nat) (f : VdState → VdState) : (s.updVd v f).bootLog = s.bootLog := rfl
@[simp] theorem State.updVd_fails (s : State) (v : Nat) (f : VdState → VdState) : (s.updVd v f).fails = s.fails := rfl
@[simp] theorem State.updVd_causes (s : State) (v : Nat) (f : VdState → VdState) : (s.updVd v f).causes = s.causes := rfl
@[simp] theorem State.updVd_throttle (s : State) (v : Nat) (f : VdState → VdState) : (s.updVd v f).throttle = s.throttle := rfl
@[simp] theorem State.updVd_notices (s : State) (v : Nat) (f : VdState → VdState) : (s.updVd v f).notices = s.notices := rfl
@[simp] theorem State.updVd_reports (s : State) (v : Nat) (f : VdState → VdState) : (s.updVd v f).reports = s.reports := rfl
@[simp] theorem State.updVd_serdex (s : State) (v : Nat) (f : VdState → VdState) : (s.updVd v f).serdex = s.serdex := rfl
@[simp] theorem State.updVd_spans (s : State) (v : Nat) (f : VdState → VdState) : (s.updVd v f).spans = s.spans := rfl
@[simp] theorem State.updVd_windows (s : State) (v : Nat) (f : VdState → VdState) : (s.updVd v f).windows = s.windows := rfl
@[simp] theorem State.updVd_homeReds (s : State) (v : Nat) (f : VdState → VdState) : (s.updVd v f).homeReds = s.homeReds := rfl
@[simp] theorem State.updVd_repair (s : State) (v : Nat) (f : VdState → VdState) : (s.updVd v f).repair = s.repair := rfl
@[simp] theorem State.updVd_nodes (s : State) (v : Nat) (f : VdState → VdState) : (s.updVd v f).nodes = s.nodes := rfl
@[simp] theorem State.updVd_retained (s : State) (v : Nat) (f : VdState → VdState) : (s.updVd v f).retained = s.retained := rfl
@[simp] theorem State.updVd_remote (s : State) (v : Nat) (f : VdState → VdState) : (s.updVd v f).remote = s.remote := rfl
@[simp] theorem State.updVd_failed (s : State) (v : Nat) (f : VdState → VdState) : (s.updVd v f).failed = s.failed := rfl
@[simp] theorem State.updVd_downSw (s : State) (v : Nat) (f : VdState → VdState) : (s.updVd v f).downSw = s.downSw := rfl
@[simp] theorem State.updVd_gangs (s : State) (v : Nat) (f : VdState → VdState) : (s.updVd v f).gangs = s.gangs := rfl
@[simp] theorem State.updVd_unseen (s : State) (v : Nat) (f : VdState → VdState) : (s.updVd v f).unseen = s.unseen := rfl
@[simp] theorem State.updVd_update (s : State) (v : Nat) (f : VdState → VdState) : (s.updVd v f).update = s.update := rfl
@[simp] theorem State.updVd_redId (s : State) (v : Nat) (f : VdState → VdState) : (s.updVd v f).redId = s.redId := rfl
@[simp] theorem State.updVd_finished (s : State) (v : Nat) (f : VdState → VdState) : (s.updVd v f).finished = s.finished := rfl
@[simp] theorem State.updVd_answers (s : State) (v : Nat) (f : VdState → VdState) : (s.updVd v f).answers = s.answers := rfl
@[simp] theorem State.updVd_hosted (s : State) (v : Nat) (f : VdState → VdState) : (s.updVd v f).hosted = s.hosted := rfl
@[simp] theorem State.updVd_dbg (s : State) (v : Nat) (f : VdState → VdState) : (s.updVd v f).dbg = s.dbg := rfl

/-! ## State.updQueue -/

@[simp] theorem State.updQueue_turn (s : State) (q : Nat) (f : QueueState → QueueState) : (s.updQueue q f).turn = s.turn := rfl
@[simp] theorem State.updQueue_clock (s : State) (q : Nat) (f : QueueState → QueueState) : (s.updQueue q f).clock = s.clock := rfl
@[simp] theorem State.updQueue_free (s : State) (q : Nat) (f : QueueState → QueueState) : (s.updQueue q f).free = s.free := rfl
@[simp] theorem State.updQueue_cur (s : State) (q : Nat) (f : QueueState → QueueState) : (s.updQueue q f).cur = s.cur := rfl
@[simp] theorem State.updQueue_site (s : State) (q : Nat) (f : QueueState → QueueState) : (s.updQueue q f).site = s.site := rfl
@[simp] theorem State.updQueue_mem (s : State) (q : Nat) (f : QueueState → QueueState) : (s.updQueue q f).mem = s.mem := rfl
@[simp] theorem State.updQueue_poison (s : State) (q : Nat) (f : QueueState → QueueState) : (s.updQueue q f).poison = s.poison := rfl
@[simp] theorem State.updQueue_poisonW (s : State) (q : Nat) (f : QueueState → QueueState) : (s.updQueue q f).poisonW = s.poisonW := rfl
@[simp] theorem State.updQueue_threads (s : State) (q : Nat) (f : QueueState → QueueState) : (s.updQueue q f).threads = s.threads := rfl
@[simp] theorem State.updQueue_elems (s : State) (q : Nat) (f : QueueState → QueueState) : (s.updQueue q f).elems = s.elems := rfl
@[simp] theorem State.updQueue_units (s : State) (q : Nat) (f : QueueState → QueueState) : (s.updQueue q f).units = s.units := rfl
@[simp] theorem State.updQueue_cores (s : State) (q : Nat) (f : QueueState → QueueState) : (s.updQueue q f).cores = s.cores := rfl
@[simp] theorem State.updQueue_clusters (s : State) (q : Nat) (f : QueueState → QueueState) : (s.updQueue q f).clusters = s.clusters := rfl
@[simp] theorem State.updQueue_regions (s : State) (q : Nat) (f : QueueState → QueueState) : (s.updQueue q f).regions = s.regions := rfl
@[simp] theorem State.updQueue_homes (s : State) (q : Nat) (f : QueueState → QueueState) : (s.updQueue q f).homes = s.homes := rfl
@[simp] theorem State.updQueue_decrs (s : State) (q : Nat) (f : QueueState → QueueState) : (s.updQueue q f).decrs = s.decrs := rfl
@[simp] theorem State.updQueue_net (s : State) (q : Nat) (f : QueueState → QueueState) : (s.updQueue q f).net = s.net := rfl
@[simp] theorem State.updQueue_ctl (s : State) (q : Nat) (f : QueueState → QueueState) : (s.updQueue q f).ctl = s.ctl := rfl
@[simp] theorem State.updQueue_ports (s : State) (q : Nat) (f : QueueState → QueueState) : (s.updQueue q f).ports = s.ports := rfl
@[simp] theorem State.updQueue_vds (s : State) (q : Nat) (f : QueueState → QueueState) : (s.updQueue q f).vds = s.vds := rfl
@[simp] theorem State.updQueue_groups (s : State) (q : Nat) (f : QueueState → QueueState) : (s.updQueue q f).groups = s.groups := rfl
@[simp] theorem State.updQueue_tlb (s : State) (q : Nat) (f : QueueState → QueueState) : (s.updQueue q f).tlb = s.tlb := rfl
@[simp] theorem State.updQueue_wakeBuf (s : State) (q : Nat) (f : QueueState → QueueState) : (s.updQueue q f).wakeBuf = s.wakeBuf := rfl
@[simp] theorem State.updQueue_images (s : State) (q : Nat) (f : QueueState → QueueState) : (s.updQueue q f).images = s.images := rfl
@[simp] theorem State.updQueue_imageId (s : State) (q : Nat) (f : QueueState → QueueState) : (s.updQueue q f).imageId = s.imageId := rfl
@[simp] theorem State.updQueue_boot (s : State) (q : Nat) (f : QueueState → QueueState) : (s.updQueue q f).boot = s.boot := rfl
@[simp] theorem State.updQueue_bootLog (s : State) (q : Nat) (f : QueueState → QueueState) : (s.updQueue q f).bootLog = s.bootLog := rfl
@[simp] theorem State.updQueue_fails (s : State) (q : Nat) (f : QueueState → QueueState) : (s.updQueue q f).fails = s.fails := rfl
@[simp] theorem State.updQueue_causes (s : State) (q : Nat) (f : QueueState → QueueState) : (s.updQueue q f).causes = s.causes := rfl
@[simp] theorem State.updQueue_throttle (s : State) (q : Nat) (f : QueueState → QueueState) : (s.updQueue q f).throttle = s.throttle := rfl
@[simp] theorem State.updQueue_notices (s : State) (q : Nat) (f : QueueState → QueueState) : (s.updQueue q f).notices = s.notices := rfl
@[simp] theorem State.updQueue_reports (s : State) (q : Nat) (f : QueueState → QueueState) : (s.updQueue q f).reports = s.reports := rfl
@[simp] theorem State.updQueue_serdex (s : State) (q : Nat) (f : QueueState → QueueState) : (s.updQueue q f).serdex = s.serdex := rfl
@[simp] theorem State.updQueue_spans (s : State) (q : Nat) (f : QueueState → QueueState) : (s.updQueue q f).spans = s.spans := rfl
@[simp] theorem State.updQueue_windows (s : State) (q : Nat) (f : QueueState → QueueState) : (s.updQueue q f).windows = s.windows := rfl
@[simp] theorem State.updQueue_homeReds (s : State) (q : Nat) (f : QueueState → QueueState) : (s.updQueue q f).homeReds = s.homeReds := rfl
@[simp] theorem State.updQueue_repair (s : State) (q : Nat) (f : QueueState → QueueState) : (s.updQueue q f).repair = s.repair := rfl
@[simp] theorem State.updQueue_nodes (s : State) (q : Nat) (f : QueueState → QueueState) : (s.updQueue q f).nodes = s.nodes := rfl
@[simp] theorem State.updQueue_retained (s : State) (q : Nat) (f : QueueState → QueueState) : (s.updQueue q f).retained = s.retained := rfl
@[simp] theorem State.updQueue_remote (s : State) (q : Nat) (f : QueueState → QueueState) : (s.updQueue q f).remote = s.remote := rfl
@[simp] theorem State.updQueue_failed (s : State) (q : Nat) (f : QueueState → QueueState) : (s.updQueue q f).failed = s.failed := rfl
@[simp] theorem State.updQueue_downSw (s : State) (q : Nat) (f : QueueState → QueueState) : (s.updQueue q f).downSw = s.downSw := rfl
@[simp] theorem State.updQueue_gangs (s : State) (q : Nat) (f : QueueState → QueueState) : (s.updQueue q f).gangs = s.gangs := rfl
@[simp] theorem State.updQueue_unseen (s : State) (q : Nat) (f : QueueState → QueueState) : (s.updQueue q f).unseen = s.unseen := rfl
@[simp] theorem State.updQueue_update (s : State) (q : Nat) (f : QueueState → QueueState) : (s.updQueue q f).update = s.update := rfl
@[simp] theorem State.updQueue_redId (s : State) (q : Nat) (f : QueueState → QueueState) : (s.updQueue q f).redId = s.redId := rfl
@[simp] theorem State.updQueue_finished (s : State) (q : Nat) (f : QueueState → QueueState) : (s.updQueue q f).finished = s.finished := rfl
@[simp] theorem State.updQueue_answers (s : State) (q : Nat) (f : QueueState → QueueState) : (s.updQueue q f).answers = s.answers := rfl
@[simp] theorem State.updQueue_hosted (s : State) (q : Nat) (f : QueueState → QueueState) : (s.updQueue q f).hosted = s.hosted := rfl
@[simp] theorem State.updQueue_dbg (s : State) (q : Nat) (f : QueueState → QueueState) : (s.updQueue q f).dbg = s.dbg := rfl

/-! ## State.updPort -/

@[simp] theorem State.updPort_turn (s : State) (p : Nat) (f : PortState → PortState) : (s.updPort p f).turn = s.turn := rfl
@[simp] theorem State.updPort_clock (s : State) (p : Nat) (f : PortState → PortState) : (s.updPort p f).clock = s.clock := rfl
@[simp] theorem State.updPort_free (s : State) (p : Nat) (f : PortState → PortState) : (s.updPort p f).free = s.free := rfl
@[simp] theorem State.updPort_cur (s : State) (p : Nat) (f : PortState → PortState) : (s.updPort p f).cur = s.cur := rfl
@[simp] theorem State.updPort_site (s : State) (p : Nat) (f : PortState → PortState) : (s.updPort p f).site = s.site := rfl
@[simp] theorem State.updPort_mem (s : State) (p : Nat) (f : PortState → PortState) : (s.updPort p f).mem = s.mem := rfl
@[simp] theorem State.updPort_poison (s : State) (p : Nat) (f : PortState → PortState) : (s.updPort p f).poison = s.poison := rfl
@[simp] theorem State.updPort_poisonW (s : State) (p : Nat) (f : PortState → PortState) : (s.updPort p f).poisonW = s.poisonW := rfl
@[simp] theorem State.updPort_threads (s : State) (p : Nat) (f : PortState → PortState) : (s.updPort p f).threads = s.threads := rfl
@[simp] theorem State.updPort_elems (s : State) (p : Nat) (f : PortState → PortState) : (s.updPort p f).elems = s.elems := rfl
@[simp] theorem State.updPort_units (s : State) (p : Nat) (f : PortState → PortState) : (s.updPort p f).units = s.units := rfl
@[simp] theorem State.updPort_cores (s : State) (p : Nat) (f : PortState → PortState) : (s.updPort p f).cores = s.cores := rfl
@[simp] theorem State.updPort_clusters (s : State) (p : Nat) (f : PortState → PortState) : (s.updPort p f).clusters = s.clusters := rfl
@[simp] theorem State.updPort_regions (s : State) (p : Nat) (f : PortState → PortState) : (s.updPort p f).regions = s.regions := rfl
@[simp] theorem State.updPort_homes (s : State) (p : Nat) (f : PortState → PortState) : (s.updPort p f).homes = s.homes := rfl
@[simp] theorem State.updPort_decrs (s : State) (p : Nat) (f : PortState → PortState) : (s.updPort p f).decrs = s.decrs := rfl
@[simp] theorem State.updPort_net (s : State) (p : Nat) (f : PortState → PortState) : (s.updPort p f).net = s.net := rfl
@[simp] theorem State.updPort_ctl (s : State) (p : Nat) (f : PortState → PortState) : (s.updPort p f).ctl = s.ctl := rfl
@[simp] theorem State.updPort_queues (s : State) (p : Nat) (f : PortState → PortState) : (s.updPort p f).queues = s.queues := rfl
@[simp] theorem State.updPort_vds (s : State) (p : Nat) (f : PortState → PortState) : (s.updPort p f).vds = s.vds := rfl
@[simp] theorem State.updPort_groups (s : State) (p : Nat) (f : PortState → PortState) : (s.updPort p f).groups = s.groups := rfl
@[simp] theorem State.updPort_tlb (s : State) (p : Nat) (f : PortState → PortState) : (s.updPort p f).tlb = s.tlb := rfl
@[simp] theorem State.updPort_wakeBuf (s : State) (p : Nat) (f : PortState → PortState) : (s.updPort p f).wakeBuf = s.wakeBuf := rfl
@[simp] theorem State.updPort_images (s : State) (p : Nat) (f : PortState → PortState) : (s.updPort p f).images = s.images := rfl
@[simp] theorem State.updPort_imageId (s : State) (p : Nat) (f : PortState → PortState) : (s.updPort p f).imageId = s.imageId := rfl
@[simp] theorem State.updPort_boot (s : State) (p : Nat) (f : PortState → PortState) : (s.updPort p f).boot = s.boot := rfl
@[simp] theorem State.updPort_bootLog (s : State) (p : Nat) (f : PortState → PortState) : (s.updPort p f).bootLog = s.bootLog := rfl
@[simp] theorem State.updPort_fails (s : State) (p : Nat) (f : PortState → PortState) : (s.updPort p f).fails = s.fails := rfl
@[simp] theorem State.updPort_causes (s : State) (p : Nat) (f : PortState → PortState) : (s.updPort p f).causes = s.causes := rfl
@[simp] theorem State.updPort_throttle (s : State) (p : Nat) (f : PortState → PortState) : (s.updPort p f).throttle = s.throttle := rfl
@[simp] theorem State.updPort_notices (s : State) (p : Nat) (f : PortState → PortState) : (s.updPort p f).notices = s.notices := rfl
@[simp] theorem State.updPort_reports (s : State) (p : Nat) (f : PortState → PortState) : (s.updPort p f).reports = s.reports := rfl
@[simp] theorem State.updPort_serdex (s : State) (p : Nat) (f : PortState → PortState) : (s.updPort p f).serdex = s.serdex := rfl
@[simp] theorem State.updPort_spans (s : State) (p : Nat) (f : PortState → PortState) : (s.updPort p f).spans = s.spans := rfl
@[simp] theorem State.updPort_windows (s : State) (p : Nat) (f : PortState → PortState) : (s.updPort p f).windows = s.windows := rfl
@[simp] theorem State.updPort_homeReds (s : State) (p : Nat) (f : PortState → PortState) : (s.updPort p f).homeReds = s.homeReds := rfl
@[simp] theorem State.updPort_repair (s : State) (p : Nat) (f : PortState → PortState) : (s.updPort p f).repair = s.repair := rfl
@[simp] theorem State.updPort_nodes (s : State) (p : Nat) (f : PortState → PortState) : (s.updPort p f).nodes = s.nodes := rfl
@[simp] theorem State.updPort_retained (s : State) (p : Nat) (f : PortState → PortState) : (s.updPort p f).retained = s.retained := rfl
@[simp] theorem State.updPort_remote (s : State) (p : Nat) (f : PortState → PortState) : (s.updPort p f).remote = s.remote := rfl
@[simp] theorem State.updPort_failed (s : State) (p : Nat) (f : PortState → PortState) : (s.updPort p f).failed = s.failed := rfl
@[simp] theorem State.updPort_downSw (s : State) (p : Nat) (f : PortState → PortState) : (s.updPort p f).downSw = s.downSw := rfl
@[simp] theorem State.updPort_gangs (s : State) (p : Nat) (f : PortState → PortState) : (s.updPort p f).gangs = s.gangs := rfl
@[simp] theorem State.updPort_unseen (s : State) (p : Nat) (f : PortState → PortState) : (s.updPort p f).unseen = s.unseen := rfl
@[simp] theorem State.updPort_update (s : State) (p : Nat) (f : PortState → PortState) : (s.updPort p f).update = s.update := rfl
@[simp] theorem State.updPort_redId (s : State) (p : Nat) (f : PortState → PortState) : (s.updPort p f).redId = s.redId := rfl
@[simp] theorem State.updPort_finished (s : State) (p : Nat) (f : PortState → PortState) : (s.updPort p f).finished = s.finished := rfl
@[simp] theorem State.updPort_answers (s : State) (p : Nat) (f : PortState → PortState) : (s.updPort p f).answers = s.answers := rfl
@[simp] theorem State.updPort_hosted (s : State) (p : Nat) (f : PortState → PortState) : (s.updPort p f).hosted = s.hosted := rfl
@[simp] theorem State.updPort_dbg (s : State) (p : Nat) (f : PortState → PortState) : (s.updPort p f).dbg = s.dbg := rfl

/-! ## State.updSerdex -/

@[simp] theorem State.updSerdex_turn (s : State) (p : Nat) (f : SerdexState → SerdexState) : (s.updSerdex p f).turn = s.turn := rfl
@[simp] theorem State.updSerdex_clock (s : State) (p : Nat) (f : SerdexState → SerdexState) : (s.updSerdex p f).clock = s.clock := rfl
@[simp] theorem State.updSerdex_free (s : State) (p : Nat) (f : SerdexState → SerdexState) : (s.updSerdex p f).free = s.free := rfl
@[simp] theorem State.updSerdex_cur (s : State) (p : Nat) (f : SerdexState → SerdexState) : (s.updSerdex p f).cur = s.cur := rfl
@[simp] theorem State.updSerdex_site (s : State) (p : Nat) (f : SerdexState → SerdexState) : (s.updSerdex p f).site = s.site := rfl
@[simp] theorem State.updSerdex_mem (s : State) (p : Nat) (f : SerdexState → SerdexState) : (s.updSerdex p f).mem = s.mem := rfl
@[simp] theorem State.updSerdex_poison (s : State) (p : Nat) (f : SerdexState → SerdexState) : (s.updSerdex p f).poison = s.poison := rfl
@[simp] theorem State.updSerdex_poisonW (s : State) (p : Nat) (f : SerdexState → SerdexState) : (s.updSerdex p f).poisonW = s.poisonW := rfl
@[simp] theorem State.updSerdex_threads (s : State) (p : Nat) (f : SerdexState → SerdexState) : (s.updSerdex p f).threads = s.threads := rfl
@[simp] theorem State.updSerdex_elems (s : State) (p : Nat) (f : SerdexState → SerdexState) : (s.updSerdex p f).elems = s.elems := rfl
@[simp] theorem State.updSerdex_units (s : State) (p : Nat) (f : SerdexState → SerdexState) : (s.updSerdex p f).units = s.units := rfl
@[simp] theorem State.updSerdex_cores (s : State) (p : Nat) (f : SerdexState → SerdexState) : (s.updSerdex p f).cores = s.cores := rfl
@[simp] theorem State.updSerdex_clusters (s : State) (p : Nat) (f : SerdexState → SerdexState) : (s.updSerdex p f).clusters = s.clusters := rfl
@[simp] theorem State.updSerdex_regions (s : State) (p : Nat) (f : SerdexState → SerdexState) : (s.updSerdex p f).regions = s.regions := rfl
@[simp] theorem State.updSerdex_homes (s : State) (p : Nat) (f : SerdexState → SerdexState) : (s.updSerdex p f).homes = s.homes := rfl
@[simp] theorem State.updSerdex_decrs (s : State) (p : Nat) (f : SerdexState → SerdexState) : (s.updSerdex p f).decrs = s.decrs := rfl
@[simp] theorem State.updSerdex_net (s : State) (p : Nat) (f : SerdexState → SerdexState) : (s.updSerdex p f).net = s.net := rfl
@[simp] theorem State.updSerdex_ctl (s : State) (p : Nat) (f : SerdexState → SerdexState) : (s.updSerdex p f).ctl = s.ctl := rfl
@[simp] theorem State.updSerdex_queues (s : State) (p : Nat) (f : SerdexState → SerdexState) : (s.updSerdex p f).queues = s.queues := rfl
@[simp] theorem State.updSerdex_ports (s : State) (p : Nat) (f : SerdexState → SerdexState) : (s.updSerdex p f).ports = s.ports := rfl
@[simp] theorem State.updSerdex_vds (s : State) (p : Nat) (f : SerdexState → SerdexState) : (s.updSerdex p f).vds = s.vds := rfl
@[simp] theorem State.updSerdex_groups (s : State) (p : Nat) (f : SerdexState → SerdexState) : (s.updSerdex p f).groups = s.groups := rfl
@[simp] theorem State.updSerdex_tlb (s : State) (p : Nat) (f : SerdexState → SerdexState) : (s.updSerdex p f).tlb = s.tlb := rfl
@[simp] theorem State.updSerdex_wakeBuf (s : State) (p : Nat) (f : SerdexState → SerdexState) : (s.updSerdex p f).wakeBuf = s.wakeBuf := rfl
@[simp] theorem State.updSerdex_images (s : State) (p : Nat) (f : SerdexState → SerdexState) : (s.updSerdex p f).images = s.images := rfl
@[simp] theorem State.updSerdex_imageId (s : State) (p : Nat) (f : SerdexState → SerdexState) : (s.updSerdex p f).imageId = s.imageId := rfl
@[simp] theorem State.updSerdex_boot (s : State) (p : Nat) (f : SerdexState → SerdexState) : (s.updSerdex p f).boot = s.boot := rfl
@[simp] theorem State.updSerdex_bootLog (s : State) (p : Nat) (f : SerdexState → SerdexState) : (s.updSerdex p f).bootLog = s.bootLog := rfl
@[simp] theorem State.updSerdex_fails (s : State) (p : Nat) (f : SerdexState → SerdexState) : (s.updSerdex p f).fails = s.fails := rfl
@[simp] theorem State.updSerdex_causes (s : State) (p : Nat) (f : SerdexState → SerdexState) : (s.updSerdex p f).causes = s.causes := rfl
@[simp] theorem State.updSerdex_throttle (s : State) (p : Nat) (f : SerdexState → SerdexState) : (s.updSerdex p f).throttle = s.throttle := rfl
@[simp] theorem State.updSerdex_notices (s : State) (p : Nat) (f : SerdexState → SerdexState) : (s.updSerdex p f).notices = s.notices := rfl
@[simp] theorem State.updSerdex_reports (s : State) (p : Nat) (f : SerdexState → SerdexState) : (s.updSerdex p f).reports = s.reports := rfl
@[simp] theorem State.updSerdex_spans (s : State) (p : Nat) (f : SerdexState → SerdexState) : (s.updSerdex p f).spans = s.spans := rfl
@[simp] theorem State.updSerdex_windows (s : State) (p : Nat) (f : SerdexState → SerdexState) : (s.updSerdex p f).windows = s.windows := rfl
@[simp] theorem State.updSerdex_homeReds (s : State) (p : Nat) (f : SerdexState → SerdexState) : (s.updSerdex p f).homeReds = s.homeReds := rfl
@[simp] theorem State.updSerdex_repair (s : State) (p : Nat) (f : SerdexState → SerdexState) : (s.updSerdex p f).repair = s.repair := rfl
@[simp] theorem State.updSerdex_nodes (s : State) (p : Nat) (f : SerdexState → SerdexState) : (s.updSerdex p f).nodes = s.nodes := rfl
@[simp] theorem State.updSerdex_retained (s : State) (p : Nat) (f : SerdexState → SerdexState) : (s.updSerdex p f).retained = s.retained := rfl
@[simp] theorem State.updSerdex_remote (s : State) (p : Nat) (f : SerdexState → SerdexState) : (s.updSerdex p f).remote = s.remote := rfl
@[simp] theorem State.updSerdex_failed (s : State) (p : Nat) (f : SerdexState → SerdexState) : (s.updSerdex p f).failed = s.failed := rfl
@[simp] theorem State.updSerdex_downSw (s : State) (p : Nat) (f : SerdexState → SerdexState) : (s.updSerdex p f).downSw = s.downSw := rfl
@[simp] theorem State.updSerdex_gangs (s : State) (p : Nat) (f : SerdexState → SerdexState) : (s.updSerdex p f).gangs = s.gangs := rfl
@[simp] theorem State.updSerdex_unseen (s : State) (p : Nat) (f : SerdexState → SerdexState) : (s.updSerdex p f).unseen = s.unseen := rfl
@[simp] theorem State.updSerdex_update (s : State) (p : Nat) (f : SerdexState → SerdexState) : (s.updSerdex p f).update = s.update := rfl
@[simp] theorem State.updSerdex_redId (s : State) (p : Nat) (f : SerdexState → SerdexState) : (s.updSerdex p f).redId = s.redId := rfl
@[simp] theorem State.updSerdex_finished (s : State) (p : Nat) (f : SerdexState → SerdexState) : (s.updSerdex p f).finished = s.finished := rfl
@[simp] theorem State.updSerdex_answers (s : State) (p : Nat) (f : SerdexState → SerdexState) : (s.updSerdex p f).answers = s.answers := rfl
@[simp] theorem State.updSerdex_hosted (s : State) (p : Nat) (f : SerdexState → SerdexState) : (s.updSerdex p f).hosted = s.hosted := rfl
@[simp] theorem State.updSerdex_dbg (s : State) (p : Nat) (f : SerdexState → SerdexState) : (s.updSerdex p f).dbg = s.dbg := rfl

/-! ## State.updElem -/

@[simp] theorem State.updElem_turn (s : State) (r a : Nat) (f : ElemState → ElemState) : (s.updElem r a f).turn = s.turn := rfl
@[simp] theorem State.updElem_clock (s : State) (r a : Nat) (f : ElemState → ElemState) : (s.updElem r a f).clock = s.clock := rfl
@[simp] theorem State.updElem_free (s : State) (r a : Nat) (f : ElemState → ElemState) : (s.updElem r a f).free = s.free := rfl
@[simp] theorem State.updElem_cur (s : State) (r a : Nat) (f : ElemState → ElemState) : (s.updElem r a f).cur = s.cur := rfl
@[simp] theorem State.updElem_site (s : State) (r a : Nat) (f : ElemState → ElemState) : (s.updElem r a f).site = s.site := rfl
@[simp] theorem State.updElem_mem (s : State) (r a : Nat) (f : ElemState → ElemState) : (s.updElem r a f).mem = s.mem := rfl
@[simp] theorem State.updElem_poison (s : State) (r a : Nat) (f : ElemState → ElemState) : (s.updElem r a f).poison = s.poison := rfl
@[simp] theorem State.updElem_poisonW (s : State) (r a : Nat) (f : ElemState → ElemState) : (s.updElem r a f).poisonW = s.poisonW := rfl
@[simp] theorem State.updElem_threads (s : State) (r a : Nat) (f : ElemState → ElemState) : (s.updElem r a f).threads = s.threads := rfl
@[simp] theorem State.updElem_units (s : State) (r a : Nat) (f : ElemState → ElemState) : (s.updElem r a f).units = s.units := rfl
@[simp] theorem State.updElem_cores (s : State) (r a : Nat) (f : ElemState → ElemState) : (s.updElem r a f).cores = s.cores := rfl
@[simp] theorem State.updElem_clusters (s : State) (r a : Nat) (f : ElemState → ElemState) : (s.updElem r a f).clusters = s.clusters := rfl
@[simp] theorem State.updElem_regions (s : State) (r a : Nat) (f : ElemState → ElemState) : (s.updElem r a f).regions = s.regions := rfl
@[simp] theorem State.updElem_homes (s : State) (r a : Nat) (f : ElemState → ElemState) : (s.updElem r a f).homes = s.homes := rfl
@[simp] theorem State.updElem_decrs (s : State) (r a : Nat) (f : ElemState → ElemState) : (s.updElem r a f).decrs = s.decrs := rfl
@[simp] theorem State.updElem_net (s : State) (r a : Nat) (f : ElemState → ElemState) : (s.updElem r a f).net = s.net := rfl
@[simp] theorem State.updElem_ctl (s : State) (r a : Nat) (f : ElemState → ElemState) : (s.updElem r a f).ctl = s.ctl := rfl
@[simp] theorem State.updElem_queues (s : State) (r a : Nat) (f : ElemState → ElemState) : (s.updElem r a f).queues = s.queues := rfl
@[simp] theorem State.updElem_ports (s : State) (r a : Nat) (f : ElemState → ElemState) : (s.updElem r a f).ports = s.ports := rfl
@[simp] theorem State.updElem_vds (s : State) (r a : Nat) (f : ElemState → ElemState) : (s.updElem r a f).vds = s.vds := rfl
@[simp] theorem State.updElem_groups (s : State) (r a : Nat) (f : ElemState → ElemState) : (s.updElem r a f).groups = s.groups := rfl
@[simp] theorem State.updElem_tlb (s : State) (r a : Nat) (f : ElemState → ElemState) : (s.updElem r a f).tlb = s.tlb := rfl
@[simp] theorem State.updElem_wakeBuf (s : State) (r a : Nat) (f : ElemState → ElemState) : (s.updElem r a f).wakeBuf = s.wakeBuf := rfl
@[simp] theorem State.updElem_images (s : State) (r a : Nat) (f : ElemState → ElemState) : (s.updElem r a f).images = s.images := rfl
@[simp] theorem State.updElem_imageId (s : State) (r a : Nat) (f : ElemState → ElemState) : (s.updElem r a f).imageId = s.imageId := rfl
@[simp] theorem State.updElem_boot (s : State) (r a : Nat) (f : ElemState → ElemState) : (s.updElem r a f).boot = s.boot := rfl
@[simp] theorem State.updElem_bootLog (s : State) (r a : Nat) (f : ElemState → ElemState) : (s.updElem r a f).bootLog = s.bootLog := rfl
@[simp] theorem State.updElem_fails (s : State) (r a : Nat) (f : ElemState → ElemState) : (s.updElem r a f).fails = s.fails := rfl
@[simp] theorem State.updElem_causes (s : State) (r a : Nat) (f : ElemState → ElemState) : (s.updElem r a f).causes = s.causes := rfl
@[simp] theorem State.updElem_throttle (s : State) (r a : Nat) (f : ElemState → ElemState) : (s.updElem r a f).throttle = s.throttle := rfl
@[simp] theorem State.updElem_notices (s : State) (r a : Nat) (f : ElemState → ElemState) : (s.updElem r a f).notices = s.notices := rfl
@[simp] theorem State.updElem_reports (s : State) (r a : Nat) (f : ElemState → ElemState) : (s.updElem r a f).reports = s.reports := rfl
@[simp] theorem State.updElem_serdex (s : State) (r a : Nat) (f : ElemState → ElemState) : (s.updElem r a f).serdex = s.serdex := rfl
@[simp] theorem State.updElem_spans (s : State) (r a : Nat) (f : ElemState → ElemState) : (s.updElem r a f).spans = s.spans := rfl
@[simp] theorem State.updElem_windows (s : State) (r a : Nat) (f : ElemState → ElemState) : (s.updElem r a f).windows = s.windows := rfl
@[simp] theorem State.updElem_homeReds (s : State) (r a : Nat) (f : ElemState → ElemState) : (s.updElem r a f).homeReds = s.homeReds := rfl
@[simp] theorem State.updElem_repair (s : State) (r a : Nat) (f : ElemState → ElemState) : (s.updElem r a f).repair = s.repair := rfl
@[simp] theorem State.updElem_nodes (s : State) (r a : Nat) (f : ElemState → ElemState) : (s.updElem r a f).nodes = s.nodes := rfl
@[simp] theorem State.updElem_retained (s : State) (r a : Nat) (f : ElemState → ElemState) : (s.updElem r a f).retained = s.retained := rfl
@[simp] theorem State.updElem_remote (s : State) (r a : Nat) (f : ElemState → ElemState) : (s.updElem r a f).remote = s.remote := rfl
@[simp] theorem State.updElem_failed (s : State) (r a : Nat) (f : ElemState → ElemState) : (s.updElem r a f).failed = s.failed := rfl
@[simp] theorem State.updElem_downSw (s : State) (r a : Nat) (f : ElemState → ElemState) : (s.updElem r a f).downSw = s.downSw := rfl
@[simp] theorem State.updElem_gangs (s : State) (r a : Nat) (f : ElemState → ElemState) : (s.updElem r a f).gangs = s.gangs := rfl
@[simp] theorem State.updElem_unseen (s : State) (r a : Nat) (f : ElemState → ElemState) : (s.updElem r a f).unseen = s.unseen := rfl
@[simp] theorem State.updElem_update (s : State) (r a : Nat) (f : ElemState → ElemState) : (s.updElem r a f).update = s.update := rfl
@[simp] theorem State.updElem_redId (s : State) (r a : Nat) (f : ElemState → ElemState) : (s.updElem r a f).redId = s.redId := rfl
@[simp] theorem State.updElem_finished (s : State) (r a : Nat) (f : ElemState → ElemState) : (s.updElem r a f).finished = s.finished := rfl
@[simp] theorem State.updElem_answers (s : State) (r a : Nat) (f : ElemState → ElemState) : (s.updElem r a f).answers = s.answers := rfl
@[simp] theorem State.updElem_hosted (s : State) (r a : Nat) (f : ElemState → ElemState) : (s.updElem r a f).hosted = s.hosted := rfl
@[simp] theorem State.updElem_dbg (s : State) (r a : Nat) (f : ElemState → ElemState) : (s.updElem r a f).dbg = s.dbg := rfl

/-! ## State.updUnit -/

@[simp] theorem State.updUnit_turn (s : State) (r a : Nat) (f : UnitState → UnitState) : (s.updUnit r a f).turn = s.turn := rfl
@[simp] theorem State.updUnit_clock (s : State) (r a : Nat) (f : UnitState → UnitState) : (s.updUnit r a f).clock = s.clock := rfl
@[simp] theorem State.updUnit_free (s : State) (r a : Nat) (f : UnitState → UnitState) : (s.updUnit r a f).free = s.free := rfl
@[simp] theorem State.updUnit_cur (s : State) (r a : Nat) (f : UnitState → UnitState) : (s.updUnit r a f).cur = s.cur := rfl
@[simp] theorem State.updUnit_site (s : State) (r a : Nat) (f : UnitState → UnitState) : (s.updUnit r a f).site = s.site := rfl
@[simp] theorem State.updUnit_mem (s : State) (r a : Nat) (f : UnitState → UnitState) : (s.updUnit r a f).mem = s.mem := rfl
@[simp] theorem State.updUnit_poison (s : State) (r a : Nat) (f : UnitState → UnitState) : (s.updUnit r a f).poison = s.poison := rfl
@[simp] theorem State.updUnit_poisonW (s : State) (r a : Nat) (f : UnitState → UnitState) : (s.updUnit r a f).poisonW = s.poisonW := rfl
@[simp] theorem State.updUnit_threads (s : State) (r a : Nat) (f : UnitState → UnitState) : (s.updUnit r a f).threads = s.threads := rfl
@[simp] theorem State.updUnit_elems (s : State) (r a : Nat) (f : UnitState → UnitState) : (s.updUnit r a f).elems = s.elems := rfl
@[simp] theorem State.updUnit_cores (s : State) (r a : Nat) (f : UnitState → UnitState) : (s.updUnit r a f).cores = s.cores := rfl
@[simp] theorem State.updUnit_clusters (s : State) (r a : Nat) (f : UnitState → UnitState) : (s.updUnit r a f).clusters = s.clusters := rfl
@[simp] theorem State.updUnit_regions (s : State) (r a : Nat) (f : UnitState → UnitState) : (s.updUnit r a f).regions = s.regions := rfl
@[simp] theorem State.updUnit_homes (s : State) (r a : Nat) (f : UnitState → UnitState) : (s.updUnit r a f).homes = s.homes := rfl
@[simp] theorem State.updUnit_decrs (s : State) (r a : Nat) (f : UnitState → UnitState) : (s.updUnit r a f).decrs = s.decrs := rfl
@[simp] theorem State.updUnit_net (s : State) (r a : Nat) (f : UnitState → UnitState) : (s.updUnit r a f).net = s.net := rfl
@[simp] theorem State.updUnit_ctl (s : State) (r a : Nat) (f : UnitState → UnitState) : (s.updUnit r a f).ctl = s.ctl := rfl
@[simp] theorem State.updUnit_queues (s : State) (r a : Nat) (f : UnitState → UnitState) : (s.updUnit r a f).queues = s.queues := rfl
@[simp] theorem State.updUnit_ports (s : State) (r a : Nat) (f : UnitState → UnitState) : (s.updUnit r a f).ports = s.ports := rfl
@[simp] theorem State.updUnit_vds (s : State) (r a : Nat) (f : UnitState → UnitState) : (s.updUnit r a f).vds = s.vds := rfl
@[simp] theorem State.updUnit_groups (s : State) (r a : Nat) (f : UnitState → UnitState) : (s.updUnit r a f).groups = s.groups := rfl
@[simp] theorem State.updUnit_tlb (s : State) (r a : Nat) (f : UnitState → UnitState) : (s.updUnit r a f).tlb = s.tlb := rfl
@[simp] theorem State.updUnit_wakeBuf (s : State) (r a : Nat) (f : UnitState → UnitState) : (s.updUnit r a f).wakeBuf = s.wakeBuf := rfl
@[simp] theorem State.updUnit_images (s : State) (r a : Nat) (f : UnitState → UnitState) : (s.updUnit r a f).images = s.images := rfl
@[simp] theorem State.updUnit_imageId (s : State) (r a : Nat) (f : UnitState → UnitState) : (s.updUnit r a f).imageId = s.imageId := rfl
@[simp] theorem State.updUnit_boot (s : State) (r a : Nat) (f : UnitState → UnitState) : (s.updUnit r a f).boot = s.boot := rfl
@[simp] theorem State.updUnit_bootLog (s : State) (r a : Nat) (f : UnitState → UnitState) : (s.updUnit r a f).bootLog = s.bootLog := rfl
@[simp] theorem State.updUnit_fails (s : State) (r a : Nat) (f : UnitState → UnitState) : (s.updUnit r a f).fails = s.fails := rfl
@[simp] theorem State.updUnit_causes (s : State) (r a : Nat) (f : UnitState → UnitState) : (s.updUnit r a f).causes = s.causes := rfl
@[simp] theorem State.updUnit_throttle (s : State) (r a : Nat) (f : UnitState → UnitState) : (s.updUnit r a f).throttle = s.throttle := rfl
@[simp] theorem State.updUnit_notices (s : State) (r a : Nat) (f : UnitState → UnitState) : (s.updUnit r a f).notices = s.notices := rfl
@[simp] theorem State.updUnit_reports (s : State) (r a : Nat) (f : UnitState → UnitState) : (s.updUnit r a f).reports = s.reports := rfl
@[simp] theorem State.updUnit_serdex (s : State) (r a : Nat) (f : UnitState → UnitState) : (s.updUnit r a f).serdex = s.serdex := rfl
@[simp] theorem State.updUnit_spans (s : State) (r a : Nat) (f : UnitState → UnitState) : (s.updUnit r a f).spans = s.spans := rfl
@[simp] theorem State.updUnit_windows (s : State) (r a : Nat) (f : UnitState → UnitState) : (s.updUnit r a f).windows = s.windows := rfl
@[simp] theorem State.updUnit_homeReds (s : State) (r a : Nat) (f : UnitState → UnitState) : (s.updUnit r a f).homeReds = s.homeReds := rfl
@[simp] theorem State.updUnit_repair (s : State) (r a : Nat) (f : UnitState → UnitState) : (s.updUnit r a f).repair = s.repair := rfl
@[simp] theorem State.updUnit_nodes (s : State) (r a : Nat) (f : UnitState → UnitState) : (s.updUnit r a f).nodes = s.nodes := rfl
@[simp] theorem State.updUnit_retained (s : State) (r a : Nat) (f : UnitState → UnitState) : (s.updUnit r a f).retained = s.retained := rfl
@[simp] theorem State.updUnit_remote (s : State) (r a : Nat) (f : UnitState → UnitState) : (s.updUnit r a f).remote = s.remote := rfl
@[simp] theorem State.updUnit_failed (s : State) (r a : Nat) (f : UnitState → UnitState) : (s.updUnit r a f).failed = s.failed := rfl
@[simp] theorem State.updUnit_downSw (s : State) (r a : Nat) (f : UnitState → UnitState) : (s.updUnit r a f).downSw = s.downSw := rfl
@[simp] theorem State.updUnit_gangs (s : State) (r a : Nat) (f : UnitState → UnitState) : (s.updUnit r a f).gangs = s.gangs := rfl
@[simp] theorem State.updUnit_unseen (s : State) (r a : Nat) (f : UnitState → UnitState) : (s.updUnit r a f).unseen = s.unseen := rfl
@[simp] theorem State.updUnit_update (s : State) (r a : Nat) (f : UnitState → UnitState) : (s.updUnit r a f).update = s.update := rfl
@[simp] theorem State.updUnit_redId (s : State) (r a : Nat) (f : UnitState → UnitState) : (s.updUnit r a f).redId = s.redId := rfl
@[simp] theorem State.updUnit_finished (s : State) (r a : Nat) (f : UnitState → UnitState) : (s.updUnit r a f).finished = s.finished := rfl
@[simp] theorem State.updUnit_answers (s : State) (r a : Nat) (f : UnitState → UnitState) : (s.updUnit r a f).answers = s.answers := rfl
@[simp] theorem State.updUnit_hosted (s : State) (r a : Nat) (f : UnitState → UnitState) : (s.updUnit r a f).hosted = s.hosted := rfl
@[simp] theorem State.updUnit_dbg (s : State) (r a : Nat) (f : UnitState → UnitState) : (s.updUnit r a f).dbg = s.dbg := rfl

/-! ## State.writeNat -/

@[simp] theorem State.writeNat_turn (s : State) (p n v : Nat) : (s.writeNat p n v).turn = s.turn := rfl
@[simp] theorem State.writeNat_clock (s : State) (p n v : Nat) : (s.writeNat p n v).clock = s.clock := rfl
@[simp] theorem State.writeNat_free (s : State) (p n v : Nat) : (s.writeNat p n v).free = s.free := rfl
@[simp] theorem State.writeNat_cur (s : State) (p n v : Nat) : (s.writeNat p n v).cur = s.cur := rfl
@[simp] theorem State.writeNat_site (s : State) (p n v : Nat) : (s.writeNat p n v).site = s.site := rfl
@[simp] theorem State.writeNat_poison (s : State) (p n v : Nat) : (s.writeNat p n v).poison = s.poison := rfl
@[simp] theorem State.writeNat_poisonW (s : State) (p n v : Nat) : (s.writeNat p n v).poisonW = s.poisonW := rfl
@[simp] theorem State.writeNat_threads (s : State) (p n v : Nat) : (s.writeNat p n v).threads = s.threads := rfl
@[simp] theorem State.writeNat_elems (s : State) (p n v : Nat) : (s.writeNat p n v).elems = s.elems := rfl
@[simp] theorem State.writeNat_units (s : State) (p n v : Nat) : (s.writeNat p n v).units = s.units := rfl
@[simp] theorem State.writeNat_cores (s : State) (p n v : Nat) : (s.writeNat p n v).cores = s.cores := rfl
@[simp] theorem State.writeNat_clusters (s : State) (p n v : Nat) : (s.writeNat p n v).clusters = s.clusters := rfl
@[simp] theorem State.writeNat_regions (s : State) (p n v : Nat) : (s.writeNat p n v).regions = s.regions := rfl
@[simp] theorem State.writeNat_homes (s : State) (p n v : Nat) : (s.writeNat p n v).homes = s.homes := rfl
@[simp] theorem State.writeNat_decrs (s : State) (p n v : Nat) : (s.writeNat p n v).decrs = s.decrs := rfl
@[simp] theorem State.writeNat_net (s : State) (p n v : Nat) : (s.writeNat p n v).net = s.net := rfl
@[simp] theorem State.writeNat_ctl (s : State) (p n v : Nat) : (s.writeNat p n v).ctl = s.ctl := rfl
@[simp] theorem State.writeNat_queues (s : State) (p n v : Nat) : (s.writeNat p n v).queues = s.queues := rfl
@[simp] theorem State.writeNat_ports (s : State) (p n v : Nat) : (s.writeNat p n v).ports = s.ports := rfl
@[simp] theorem State.writeNat_vds (s : State) (p n v : Nat) : (s.writeNat p n v).vds = s.vds := rfl
@[simp] theorem State.writeNat_groups (s : State) (p n v : Nat) : (s.writeNat p n v).groups = s.groups := rfl
@[simp] theorem State.writeNat_tlb (s : State) (p n v : Nat) : (s.writeNat p n v).tlb = s.tlb := rfl
@[simp] theorem State.writeNat_wakeBuf (s : State) (p n v : Nat) : (s.writeNat p n v).wakeBuf = s.wakeBuf := rfl
@[simp] theorem State.writeNat_images (s : State) (p n v : Nat) : (s.writeNat p n v).images = s.images := rfl
@[simp] theorem State.writeNat_imageId (s : State) (p n v : Nat) : (s.writeNat p n v).imageId = s.imageId := rfl
@[simp] theorem State.writeNat_boot (s : State) (p n v : Nat) : (s.writeNat p n v).boot = s.boot := rfl
@[simp] theorem State.writeNat_bootLog (s : State) (p n v : Nat) : (s.writeNat p n v).bootLog = s.bootLog := rfl
@[simp] theorem State.writeNat_fails (s : State) (p n v : Nat) : (s.writeNat p n v).fails = s.fails := rfl
@[simp] theorem State.writeNat_causes (s : State) (p n v : Nat) : (s.writeNat p n v).causes = s.causes := rfl
@[simp] theorem State.writeNat_throttle (s : State) (p n v : Nat) : (s.writeNat p n v).throttle = s.throttle := rfl
@[simp] theorem State.writeNat_notices (s : State) (p n v : Nat) : (s.writeNat p n v).notices = s.notices := rfl
@[simp] theorem State.writeNat_reports (s : State) (p n v : Nat) : (s.writeNat p n v).reports = s.reports := rfl
@[simp] theorem State.writeNat_serdex (s : State) (p n v : Nat) : (s.writeNat p n v).serdex = s.serdex := rfl
@[simp] theorem State.writeNat_spans (s : State) (p n v : Nat) : (s.writeNat p n v).spans = s.spans := rfl
@[simp] theorem State.writeNat_windows (s : State) (p n v : Nat) : (s.writeNat p n v).windows = s.windows := rfl
@[simp] theorem State.writeNat_homeReds (s : State) (p n v : Nat) : (s.writeNat p n v).homeReds = s.homeReds := rfl
@[simp] theorem State.writeNat_repair (s : State) (p n v : Nat) : (s.writeNat p n v).repair = s.repair := rfl
@[simp] theorem State.writeNat_nodes (s : State) (p n v : Nat) : (s.writeNat p n v).nodes = s.nodes := rfl
@[simp] theorem State.writeNat_retained (s : State) (p n v : Nat) : (s.writeNat p n v).retained = s.retained := rfl
@[simp] theorem State.writeNat_remote (s : State) (p n v : Nat) : (s.writeNat p n v).remote = s.remote := rfl
@[simp] theorem State.writeNat_failed (s : State) (p n v : Nat) : (s.writeNat p n v).failed = s.failed := rfl
@[simp] theorem State.writeNat_downSw (s : State) (p n v : Nat) : (s.writeNat p n v).downSw = s.downSw := rfl
@[simp] theorem State.writeNat_gangs (s : State) (p n v : Nat) : (s.writeNat p n v).gangs = s.gangs := rfl
@[simp] theorem State.writeNat_unseen (s : State) (p n v : Nat) : (s.writeNat p n v).unseen = s.unseen := rfl
@[simp] theorem State.writeNat_update (s : State) (p n v : Nat) : (s.writeNat p n v).update = s.update := rfl
@[simp] theorem State.writeNat_redId (s : State) (p n v : Nat) : (s.writeNat p n v).redId = s.redId := rfl
@[simp] theorem State.writeNat_finished (s : State) (p n v : Nat) : (s.writeNat p n v).finished = s.finished := rfl
@[simp] theorem State.writeNat_answers (s : State) (p n v : Nat) : (s.writeNat p n v).answers = s.answers := rfl
@[simp] theorem State.writeNat_hosted (s : State) (p n v : Nat) : (s.writeNat p n v).hosted = s.hosted := rfl
@[simp] theorem State.writeNat_dbg (s : State) (p n v : Nat) : (s.writeNat p n v).dbg = s.dbg := rfl

/-! ## State.updMe -/

@[simp] theorem State.updMe_turn (s : State) (f : ThreadState → ThreadState) : (s.updMe f).turn = s.turn := rfl
@[simp] theorem State.updMe_clock (s : State) (f : ThreadState → ThreadState) : (s.updMe f).clock = s.clock := rfl
@[simp] theorem State.updMe_free (s : State) (f : ThreadState → ThreadState) : (s.updMe f).free = s.free := rfl
@[simp] theorem State.updMe_cur (s : State) (f : ThreadState → ThreadState) : (s.updMe f).cur = s.cur := rfl
@[simp] theorem State.updMe_site (s : State) (f : ThreadState → ThreadState) : (s.updMe f).site = s.site := rfl
@[simp] theorem State.updMe_mem (s : State) (f : ThreadState → ThreadState) : (s.updMe f).mem = s.mem := rfl
@[simp] theorem State.updMe_poison (s : State) (f : ThreadState → ThreadState) : (s.updMe f).poison = s.poison := rfl
@[simp] theorem State.updMe_poisonW (s : State) (f : ThreadState → ThreadState) : (s.updMe f).poisonW = s.poisonW := rfl
@[simp] theorem State.updMe_elems (s : State) (f : ThreadState → ThreadState) : (s.updMe f).elems = s.elems := rfl
@[simp] theorem State.updMe_units (s : State) (f : ThreadState → ThreadState) : (s.updMe f).units = s.units := rfl
@[simp] theorem State.updMe_cores (s : State) (f : ThreadState → ThreadState) : (s.updMe f).cores = s.cores := rfl
@[simp] theorem State.updMe_clusters (s : State) (f : ThreadState → ThreadState) : (s.updMe f).clusters = s.clusters := rfl
@[simp] theorem State.updMe_regions (s : State) (f : ThreadState → ThreadState) : (s.updMe f).regions = s.regions := rfl
@[simp] theorem State.updMe_homes (s : State) (f : ThreadState → ThreadState) : (s.updMe f).homes = s.homes := rfl
@[simp] theorem State.updMe_decrs (s : State) (f : ThreadState → ThreadState) : (s.updMe f).decrs = s.decrs := rfl
@[simp] theorem State.updMe_net (s : State) (f : ThreadState → ThreadState) : (s.updMe f).net = s.net := rfl
@[simp] theorem State.updMe_ctl (s : State) (f : ThreadState → ThreadState) : (s.updMe f).ctl = s.ctl := rfl
@[simp] theorem State.updMe_queues (s : State) (f : ThreadState → ThreadState) : (s.updMe f).queues = s.queues := rfl
@[simp] theorem State.updMe_ports (s : State) (f : ThreadState → ThreadState) : (s.updMe f).ports = s.ports := rfl
@[simp] theorem State.updMe_vds (s : State) (f : ThreadState → ThreadState) : (s.updMe f).vds = s.vds := rfl
@[simp] theorem State.updMe_groups (s : State) (f : ThreadState → ThreadState) : (s.updMe f).groups = s.groups := rfl
@[simp] theorem State.updMe_tlb (s : State) (f : ThreadState → ThreadState) : (s.updMe f).tlb = s.tlb := rfl
@[simp] theorem State.updMe_wakeBuf (s : State) (f : ThreadState → ThreadState) : (s.updMe f).wakeBuf = s.wakeBuf := rfl
@[simp] theorem State.updMe_images (s : State) (f : ThreadState → ThreadState) : (s.updMe f).images = s.images := rfl
@[simp] theorem State.updMe_imageId (s : State) (f : ThreadState → ThreadState) : (s.updMe f).imageId = s.imageId := rfl
@[simp] theorem State.updMe_boot (s : State) (f : ThreadState → ThreadState) : (s.updMe f).boot = s.boot := rfl
@[simp] theorem State.updMe_bootLog (s : State) (f : ThreadState → ThreadState) : (s.updMe f).bootLog = s.bootLog := rfl
@[simp] theorem State.updMe_fails (s : State) (f : ThreadState → ThreadState) : (s.updMe f).fails = s.fails := rfl
@[simp] theorem State.updMe_causes (s : State) (f : ThreadState → ThreadState) : (s.updMe f).causes = s.causes := rfl
@[simp] theorem State.updMe_throttle (s : State) (f : ThreadState → ThreadState) : (s.updMe f).throttle = s.throttle := rfl
@[simp] theorem State.updMe_notices (s : State) (f : ThreadState → ThreadState) : (s.updMe f).notices = s.notices := rfl
@[simp] theorem State.updMe_reports (s : State) (f : ThreadState → ThreadState) : (s.updMe f).reports = s.reports := rfl
@[simp] theorem State.updMe_serdex (s : State) (f : ThreadState → ThreadState) : (s.updMe f).serdex = s.serdex := rfl
@[simp] theorem State.updMe_spans (s : State) (f : ThreadState → ThreadState) : (s.updMe f).spans = s.spans := rfl
@[simp] theorem State.updMe_windows (s : State) (f : ThreadState → ThreadState) : (s.updMe f).windows = s.windows := rfl
@[simp] theorem State.updMe_homeReds (s : State) (f : ThreadState → ThreadState) : (s.updMe f).homeReds = s.homeReds := rfl
@[simp] theorem State.updMe_repair (s : State) (f : ThreadState → ThreadState) : (s.updMe f).repair = s.repair := rfl
@[simp] theorem State.updMe_nodes (s : State) (f : ThreadState → ThreadState) : (s.updMe f).nodes = s.nodes := rfl
@[simp] theorem State.updMe_retained (s : State) (f : ThreadState → ThreadState) : (s.updMe f).retained = s.retained := rfl
@[simp] theorem State.updMe_remote (s : State) (f : ThreadState → ThreadState) : (s.updMe f).remote = s.remote := rfl
@[simp] theorem State.updMe_failed (s : State) (f : ThreadState → ThreadState) : (s.updMe f).failed = s.failed := rfl
@[simp] theorem State.updMe_downSw (s : State) (f : ThreadState → ThreadState) : (s.updMe f).downSw = s.downSw := rfl
@[simp] theorem State.updMe_gangs (s : State) (f : ThreadState → ThreadState) : (s.updMe f).gangs = s.gangs := rfl
@[simp] theorem State.updMe_unseen (s : State) (f : ThreadState → ThreadState) : (s.updMe f).unseen = s.unseen := rfl
@[simp] theorem State.updMe_update (s : State) (f : ThreadState → ThreadState) : (s.updMe f).update = s.update := rfl
@[simp] theorem State.updMe_redId (s : State) (f : ThreadState → ThreadState) : (s.updMe f).redId = s.redId := rfl
@[simp] theorem State.updMe_finished (s : State) (f : ThreadState → ThreadState) : (s.updMe f).finished = s.finished := rfl
@[simp] theorem State.updMe_answers (s : State) (f : ThreadState → ThreadState) : (s.updMe f).answers = s.answers := rfl
@[simp] theorem State.updMe_hosted (s : State) (f : ThreadState → ThreadState) : (s.updMe f).hosted = s.hosted := rfl
@[simp] theorem State.updMe_dbg (s : State) (f : ThreadState → ThreadState) : (s.updMe f).dbg = s.dbg := rfl

/-! ## State.advance -/

@[simp] theorem State.advance_turn (s : State) : (s.advance).turn = s.turn := rfl
@[simp] theorem State.advance_clock (s : State) : (s.advance).clock = s.clock := rfl
@[simp] theorem State.advance_free (s : State) : (s.advance).free = s.free := rfl
@[simp] theorem State.advance_cur (s : State) : (s.advance).cur = s.cur := rfl
@[simp] theorem State.advance_site (s : State) : (s.advance).site = s.site := rfl
@[simp] theorem State.advance_mem (s : State) : (s.advance).mem = s.mem := rfl
@[simp] theorem State.advance_poison (s : State) : (s.advance).poison = s.poison := rfl
@[simp] theorem State.advance_poisonW (s : State) : (s.advance).poisonW = s.poisonW := rfl
@[simp] theorem State.advance_elems (s : State) : (s.advance).elems = s.elems := rfl
@[simp] theorem State.advance_units (s : State) : (s.advance).units = s.units := rfl
@[simp] theorem State.advance_cores (s : State) : (s.advance).cores = s.cores := rfl
@[simp] theorem State.advance_clusters (s : State) : (s.advance).clusters = s.clusters := rfl
@[simp] theorem State.advance_regions (s : State) : (s.advance).regions = s.regions := rfl
@[simp] theorem State.advance_homes (s : State) : (s.advance).homes = s.homes := rfl
@[simp] theorem State.advance_decrs (s : State) : (s.advance).decrs = s.decrs := rfl
@[simp] theorem State.advance_net (s : State) : (s.advance).net = s.net := rfl
@[simp] theorem State.advance_ctl (s : State) : (s.advance).ctl = s.ctl := rfl
@[simp] theorem State.advance_queues (s : State) : (s.advance).queues = s.queues := rfl
@[simp] theorem State.advance_ports (s : State) : (s.advance).ports = s.ports := rfl
@[simp] theorem State.advance_vds (s : State) : (s.advance).vds = s.vds := rfl
@[simp] theorem State.advance_groups (s : State) : (s.advance).groups = s.groups := rfl
@[simp] theorem State.advance_tlb (s : State) : (s.advance).tlb = s.tlb := rfl
@[simp] theorem State.advance_wakeBuf (s : State) : (s.advance).wakeBuf = s.wakeBuf := rfl
@[simp] theorem State.advance_images (s : State) : (s.advance).images = s.images := rfl
@[simp] theorem State.advance_imageId (s : State) : (s.advance).imageId = s.imageId := rfl
@[simp] theorem State.advance_boot (s : State) : (s.advance).boot = s.boot := rfl
@[simp] theorem State.advance_bootLog (s : State) : (s.advance).bootLog = s.bootLog := rfl
@[simp] theorem State.advance_fails (s : State) : (s.advance).fails = s.fails := rfl
@[simp] theorem State.advance_causes (s : State) : (s.advance).causes = s.causes := rfl
@[simp] theorem State.advance_throttle (s : State) : (s.advance).throttle = s.throttle := rfl
@[simp] theorem State.advance_notices (s : State) : (s.advance).notices = s.notices := rfl
@[simp] theorem State.advance_reports (s : State) : (s.advance).reports = s.reports := rfl
@[simp] theorem State.advance_serdex (s : State) : (s.advance).serdex = s.serdex := rfl
@[simp] theorem State.advance_spans (s : State) : (s.advance).spans = s.spans := rfl
@[simp] theorem State.advance_windows (s : State) : (s.advance).windows = s.windows := rfl
@[simp] theorem State.advance_homeReds (s : State) : (s.advance).homeReds = s.homeReds := rfl
@[simp] theorem State.advance_repair (s : State) : (s.advance).repair = s.repair := rfl
@[simp] theorem State.advance_nodes (s : State) : (s.advance).nodes = s.nodes := rfl
@[simp] theorem State.advance_retained (s : State) : (s.advance).retained = s.retained := rfl
@[simp] theorem State.advance_remote (s : State) : (s.advance).remote = s.remote := rfl
@[simp] theorem State.advance_failed (s : State) : (s.advance).failed = s.failed := rfl
@[simp] theorem State.advance_downSw (s : State) : (s.advance).downSw = s.downSw := rfl
@[simp] theorem State.advance_gangs (s : State) : (s.advance).gangs = s.gangs := rfl
@[simp] theorem State.advance_unseen (s : State) : (s.advance).unseen = s.unseen := rfl
@[simp] theorem State.advance_update (s : State) : (s.advance).update = s.update := rfl
@[simp] theorem State.advance_redId (s : State) : (s.advance).redId = s.redId := rfl
@[simp] theorem State.advance_finished (s : State) : (s.advance).finished = s.finished := rfl
@[simp] theorem State.advance_answers (s : State) : (s.advance).answers = s.answers := rfl
@[simp] theorem State.advance_hosted (s : State) : (s.advance).hosted = s.hosted := rfl
@[simp] theorem State.advance_dbg (s : State) : (s.advance).dbg = s.dbg := rfl

/-! ## State.goto -/

@[simp] theorem State.goto_turn (s : State) (q : Word) : (s.goto q).turn = s.turn := rfl
@[simp] theorem State.goto_clock (s : State) (q : Word) : (s.goto q).clock = s.clock := rfl
@[simp] theorem State.goto_free (s : State) (q : Word) : (s.goto q).free = s.free := rfl
@[simp] theorem State.goto_cur (s : State) (q : Word) : (s.goto q).cur = s.cur := rfl
@[simp] theorem State.goto_site (s : State) (q : Word) : (s.goto q).site = s.site := rfl
@[simp] theorem State.goto_mem (s : State) (q : Word) : (s.goto q).mem = s.mem := rfl
@[simp] theorem State.goto_poison (s : State) (q : Word) : (s.goto q).poison = s.poison := rfl
@[simp] theorem State.goto_poisonW (s : State) (q : Word) : (s.goto q).poisonW = s.poisonW := rfl
@[simp] theorem State.goto_elems (s : State) (q : Word) : (s.goto q).elems = s.elems := rfl
@[simp] theorem State.goto_units (s : State) (q : Word) : (s.goto q).units = s.units := rfl
@[simp] theorem State.goto_cores (s : State) (q : Word) : (s.goto q).cores = s.cores := rfl
@[simp] theorem State.goto_clusters (s : State) (q : Word) : (s.goto q).clusters = s.clusters := rfl
@[simp] theorem State.goto_regions (s : State) (q : Word) : (s.goto q).regions = s.regions := rfl
@[simp] theorem State.goto_homes (s : State) (q : Word) : (s.goto q).homes = s.homes := rfl
@[simp] theorem State.goto_decrs (s : State) (q : Word) : (s.goto q).decrs = s.decrs := rfl
@[simp] theorem State.goto_net (s : State) (q : Word) : (s.goto q).net = s.net := rfl
@[simp] theorem State.goto_ctl (s : State) (q : Word) : (s.goto q).ctl = s.ctl := rfl
@[simp] theorem State.goto_queues (s : State) (q : Word) : (s.goto q).queues = s.queues := rfl
@[simp] theorem State.goto_ports (s : State) (q : Word) : (s.goto q).ports = s.ports := rfl
@[simp] theorem State.goto_vds (s : State) (q : Word) : (s.goto q).vds = s.vds := rfl
@[simp] theorem State.goto_groups (s : State) (q : Word) : (s.goto q).groups = s.groups := rfl
@[simp] theorem State.goto_tlb (s : State) (q : Word) : (s.goto q).tlb = s.tlb := rfl
@[simp] theorem State.goto_wakeBuf (s : State) (q : Word) : (s.goto q).wakeBuf = s.wakeBuf := rfl
@[simp] theorem State.goto_images (s : State) (q : Word) : (s.goto q).images = s.images := rfl
@[simp] theorem State.goto_imageId (s : State) (q : Word) : (s.goto q).imageId = s.imageId := rfl
@[simp] theorem State.goto_boot (s : State) (q : Word) : (s.goto q).boot = s.boot := rfl
@[simp] theorem State.goto_bootLog (s : State) (q : Word) : (s.goto q).bootLog = s.bootLog := rfl
@[simp] theorem State.goto_fails (s : State) (q : Word) : (s.goto q).fails = s.fails := rfl
@[simp] theorem State.goto_causes (s : State) (q : Word) : (s.goto q).causes = s.causes := rfl
@[simp] theorem State.goto_throttle (s : State) (q : Word) : (s.goto q).throttle = s.throttle := rfl
@[simp] theorem State.goto_notices (s : State) (q : Word) : (s.goto q).notices = s.notices := rfl
@[simp] theorem State.goto_reports (s : State) (q : Word) : (s.goto q).reports = s.reports := rfl
@[simp] theorem State.goto_serdex (s : State) (q : Word) : (s.goto q).serdex = s.serdex := rfl
@[simp] theorem State.goto_spans (s : State) (q : Word) : (s.goto q).spans = s.spans := rfl
@[simp] theorem State.goto_windows (s : State) (q : Word) : (s.goto q).windows = s.windows := rfl
@[simp] theorem State.goto_homeReds (s : State) (q : Word) : (s.goto q).homeReds = s.homeReds := rfl
@[simp] theorem State.goto_repair (s : State) (q : Word) : (s.goto q).repair = s.repair := rfl
@[simp] theorem State.goto_nodes (s : State) (q : Word) : (s.goto q).nodes = s.nodes := rfl
@[simp] theorem State.goto_retained (s : State) (q : Word) : (s.goto q).retained = s.retained := rfl
@[simp] theorem State.goto_remote (s : State) (q : Word) : (s.goto q).remote = s.remote := rfl
@[simp] theorem State.goto_failed (s : State) (q : Word) : (s.goto q).failed = s.failed := rfl
@[simp] theorem State.goto_downSw (s : State) (q : Word) : (s.goto q).downSw = s.downSw := rfl
@[simp] theorem State.goto_gangs (s : State) (q : Word) : (s.goto q).gangs = s.gangs := rfl
@[simp] theorem State.goto_unseen (s : State) (q : Word) : (s.goto q).unseen = s.unseen := rfl
@[simp] theorem State.goto_update (s : State) (q : Word) : (s.goto q).update = s.update := rfl
@[simp] theorem State.goto_redId (s : State) (q : Word) : (s.goto q).redId = s.redId := rfl
@[simp] theorem State.goto_finished (s : State) (q : Word) : (s.goto q).finished = s.finished := rfl
@[simp] theorem State.goto_answers (s : State) (q : Word) : (s.goto q).answers = s.answers := rfl
@[simp] theorem State.goto_hosted (s : State) (q : Word) : (s.goto q).hosted = s.hosted := rfl
@[simp] theorem State.goto_dbg (s : State) (q : Word) : (s.goto q).dbg = s.dbg := rfl

/-! ## State.pushOp -/

@[simp] theorem State.pushOp_turn (s : State) (o : ThreadOp) : (s.pushOp o).turn = s.turn := rfl
@[simp] theorem State.pushOp_clock (s : State) (o : ThreadOp) : (s.pushOp o).clock = s.clock := rfl
@[simp] theorem State.pushOp_free (s : State) (o : ThreadOp) : (s.pushOp o).free = s.free := rfl
@[simp] theorem State.pushOp_cur (s : State) (o : ThreadOp) : (s.pushOp o).cur = s.cur := rfl
@[simp] theorem State.pushOp_site (s : State) (o : ThreadOp) : (s.pushOp o).site = s.site := rfl
@[simp] theorem State.pushOp_mem (s : State) (o : ThreadOp) : (s.pushOp o).mem = s.mem := rfl
@[simp] theorem State.pushOp_poison (s : State) (o : ThreadOp) : (s.pushOp o).poison = s.poison := rfl
@[simp] theorem State.pushOp_poisonW (s : State) (o : ThreadOp) : (s.pushOp o).poisonW = s.poisonW := rfl
@[simp] theorem State.pushOp_elems (s : State) (o : ThreadOp) : (s.pushOp o).elems = s.elems := rfl
@[simp] theorem State.pushOp_units (s : State) (o : ThreadOp) : (s.pushOp o).units = s.units := rfl
@[simp] theorem State.pushOp_cores (s : State) (o : ThreadOp) : (s.pushOp o).cores = s.cores := rfl
@[simp] theorem State.pushOp_clusters (s : State) (o : ThreadOp) : (s.pushOp o).clusters = s.clusters := rfl
@[simp] theorem State.pushOp_regions (s : State) (o : ThreadOp) : (s.pushOp o).regions = s.regions := rfl
@[simp] theorem State.pushOp_homes (s : State) (o : ThreadOp) : (s.pushOp o).homes = s.homes := rfl
@[simp] theorem State.pushOp_decrs (s : State) (o : ThreadOp) : (s.pushOp o).decrs = s.decrs := rfl
@[simp] theorem State.pushOp_net (s : State) (o : ThreadOp) : (s.pushOp o).net = s.net := rfl
@[simp] theorem State.pushOp_ctl (s : State) (o : ThreadOp) : (s.pushOp o).ctl = s.ctl := rfl
@[simp] theorem State.pushOp_queues (s : State) (o : ThreadOp) : (s.pushOp o).queues = s.queues := rfl
@[simp] theorem State.pushOp_ports (s : State) (o : ThreadOp) : (s.pushOp o).ports = s.ports := rfl
@[simp] theorem State.pushOp_vds (s : State) (o : ThreadOp) : (s.pushOp o).vds = s.vds := rfl
@[simp] theorem State.pushOp_groups (s : State) (o : ThreadOp) : (s.pushOp o).groups = s.groups := rfl
@[simp] theorem State.pushOp_tlb (s : State) (o : ThreadOp) : (s.pushOp o).tlb = s.tlb := rfl
@[simp] theorem State.pushOp_wakeBuf (s : State) (o : ThreadOp) : (s.pushOp o).wakeBuf = s.wakeBuf := rfl
@[simp] theorem State.pushOp_images (s : State) (o : ThreadOp) : (s.pushOp o).images = s.images := rfl
@[simp] theorem State.pushOp_imageId (s : State) (o : ThreadOp) : (s.pushOp o).imageId = s.imageId := rfl
@[simp] theorem State.pushOp_boot (s : State) (o : ThreadOp) : (s.pushOp o).boot = s.boot := rfl
@[simp] theorem State.pushOp_bootLog (s : State) (o : ThreadOp) : (s.pushOp o).bootLog = s.bootLog := rfl
@[simp] theorem State.pushOp_fails (s : State) (o : ThreadOp) : (s.pushOp o).fails = s.fails := rfl
@[simp] theorem State.pushOp_causes (s : State) (o : ThreadOp) : (s.pushOp o).causes = s.causes := rfl
@[simp] theorem State.pushOp_throttle (s : State) (o : ThreadOp) : (s.pushOp o).throttle = s.throttle := rfl
@[simp] theorem State.pushOp_notices (s : State) (o : ThreadOp) : (s.pushOp o).notices = s.notices := rfl
@[simp] theorem State.pushOp_reports (s : State) (o : ThreadOp) : (s.pushOp o).reports = s.reports := rfl
@[simp] theorem State.pushOp_serdex (s : State) (o : ThreadOp) : (s.pushOp o).serdex = s.serdex := rfl
@[simp] theorem State.pushOp_spans (s : State) (o : ThreadOp) : (s.pushOp o).spans = s.spans := rfl
@[simp] theorem State.pushOp_windows (s : State) (o : ThreadOp) : (s.pushOp o).windows = s.windows := rfl
@[simp] theorem State.pushOp_homeReds (s : State) (o : ThreadOp) : (s.pushOp o).homeReds = s.homeReds := rfl
@[simp] theorem State.pushOp_repair (s : State) (o : ThreadOp) : (s.pushOp o).repair = s.repair := rfl
@[simp] theorem State.pushOp_nodes (s : State) (o : ThreadOp) : (s.pushOp o).nodes = s.nodes := rfl
@[simp] theorem State.pushOp_retained (s : State) (o : ThreadOp) : (s.pushOp o).retained = s.retained := rfl
@[simp] theorem State.pushOp_remote (s : State) (o : ThreadOp) : (s.pushOp o).remote = s.remote := rfl
@[simp] theorem State.pushOp_failed (s : State) (o : ThreadOp) : (s.pushOp o).failed = s.failed := rfl
@[simp] theorem State.pushOp_downSw (s : State) (o : ThreadOp) : (s.pushOp o).downSw = s.downSw := rfl
@[simp] theorem State.pushOp_gangs (s : State) (o : ThreadOp) : (s.pushOp o).gangs = s.gangs := rfl
@[simp] theorem State.pushOp_unseen (s : State) (o : ThreadOp) : (s.pushOp o).unseen = s.unseen := rfl
@[simp] theorem State.pushOp_update (s : State) (o : ThreadOp) : (s.pushOp o).update = s.update := rfl
@[simp] theorem State.pushOp_redId (s : State) (o : ThreadOp) : (s.pushOp o).redId = s.redId := rfl
@[simp] theorem State.pushOp_finished (s : State) (o : ThreadOp) : (s.pushOp o).finished = s.finished := rfl
@[simp] theorem State.pushOp_answers (s : State) (o : ThreadOp) : (s.pushOp o).answers = s.answers := rfl
@[simp] theorem State.pushOp_hosted (s : State) (o : ThreadOp) : (s.pushOp o).hosted = s.hosted := rfl
@[simp] theorem State.pushOp_dbg (s : State) (o : ThreadOp) : (s.pushOp o).dbg = s.dbg := rfl

/-! ## State.send -/

@[simp] theorem State.send_turn (s : State) (src r : Nat) (k : Token) (l : Past) : (s.send src r k l).turn = s.turn := rfl
@[simp] theorem State.send_clock (s : State) (src r : Nat) (k : Token) (l : Past) : (s.send src r k l).clock = s.clock := rfl
@[simp] theorem State.send_free (s : State) (src r : Nat) (k : Token) (l : Past) : (s.send src r k l).free = s.free := rfl
@[simp] theorem State.send_cur (s : State) (src r : Nat) (k : Token) (l : Past) : (s.send src r k l).cur = s.cur := rfl
@[simp] theorem State.send_site (s : State) (src r : Nat) (k : Token) (l : Past) : (s.send src r k l).site = s.site := rfl
@[simp] theorem State.send_mem (s : State) (src r : Nat) (k : Token) (l : Past) : (s.send src r k l).mem = s.mem := rfl
@[simp] theorem State.send_poison (s : State) (src r : Nat) (k : Token) (l : Past) : (s.send src r k l).poison = s.poison := rfl
@[simp] theorem State.send_poisonW (s : State) (src r : Nat) (k : Token) (l : Past) : (s.send src r k l).poisonW = s.poisonW := rfl
@[simp] theorem State.send_threads (s : State) (src r : Nat) (k : Token) (l : Past) : (s.send src r k l).threads = s.threads := rfl
@[simp] theorem State.send_elems (s : State) (src r : Nat) (k : Token) (l : Past) : (s.send src r k l).elems = s.elems := rfl
@[simp] theorem State.send_units (s : State) (src r : Nat) (k : Token) (l : Past) : (s.send src r k l).units = s.units := rfl
@[simp] theorem State.send_cores (s : State) (src r : Nat) (k : Token) (l : Past) : (s.send src r k l).cores = s.cores := rfl
@[simp] theorem State.send_clusters (s : State) (src r : Nat) (k : Token) (l : Past) : (s.send src r k l).clusters = s.clusters := rfl
@[simp] theorem State.send_regions (s : State) (src r : Nat) (k : Token) (l : Past) : (s.send src r k l).regions = s.regions := rfl
@[simp] theorem State.send_homes (s : State) (src r : Nat) (k : Token) (l : Past) : (s.send src r k l).homes = s.homes := rfl
@[simp] theorem State.send_decrs (s : State) (src r : Nat) (k : Token) (l : Past) : (s.send src r k l).decrs = s.decrs := rfl
@[simp] theorem State.send_ctl (s : State) (src r : Nat) (k : Token) (l : Past) : (s.send src r k l).ctl = s.ctl := rfl
@[simp] theorem State.send_queues (s : State) (src r : Nat) (k : Token) (l : Past) : (s.send src r k l).queues = s.queues := rfl
@[simp] theorem State.send_ports (s : State) (src r : Nat) (k : Token) (l : Past) : (s.send src r k l).ports = s.ports := rfl
@[simp] theorem State.send_vds (s : State) (src r : Nat) (k : Token) (l : Past) : (s.send src r k l).vds = s.vds := rfl
@[simp] theorem State.send_groups (s : State) (src r : Nat) (k : Token) (l : Past) : (s.send src r k l).groups = s.groups := rfl
@[simp] theorem State.send_tlb (s : State) (src r : Nat) (k : Token) (l : Past) : (s.send src r k l).tlb = s.tlb := rfl
@[simp] theorem State.send_wakeBuf (s : State) (src r : Nat) (k : Token) (l : Past) : (s.send src r k l).wakeBuf = s.wakeBuf := rfl
@[simp] theorem State.send_images (s : State) (src r : Nat) (k : Token) (l : Past) : (s.send src r k l).images = s.images := rfl
@[simp] theorem State.send_imageId (s : State) (src r : Nat) (k : Token) (l : Past) : (s.send src r k l).imageId = s.imageId := rfl
@[simp] theorem State.send_boot (s : State) (src r : Nat) (k : Token) (l : Past) : (s.send src r k l).boot = s.boot := rfl
@[simp] theorem State.send_bootLog (s : State) (src r : Nat) (k : Token) (l : Past) : (s.send src r k l).bootLog = s.bootLog := rfl
@[simp] theorem State.send_fails (s : State) (src r : Nat) (k : Token) (l : Past) : (s.send src r k l).fails = s.fails := rfl
@[simp] theorem State.send_causes (s : State) (src r : Nat) (k : Token) (l : Past) : (s.send src r k l).causes = s.causes := rfl
@[simp] theorem State.send_throttle (s : State) (src r : Nat) (k : Token) (l : Past) : (s.send src r k l).throttle = s.throttle := rfl
@[simp] theorem State.send_notices (s : State) (src r : Nat) (k : Token) (l : Past) : (s.send src r k l).notices = s.notices := rfl
@[simp] theorem State.send_reports (s : State) (src r : Nat) (k : Token) (l : Past) : (s.send src r k l).reports = s.reports := rfl
@[simp] theorem State.send_serdex (s : State) (src r : Nat) (k : Token) (l : Past) : (s.send src r k l).serdex = s.serdex := rfl
@[simp] theorem State.send_spans (s : State) (src r : Nat) (k : Token) (l : Past) : (s.send src r k l).spans = s.spans := rfl
@[simp] theorem State.send_windows (s : State) (src r : Nat) (k : Token) (l : Past) : (s.send src r k l).windows = s.windows := rfl
@[simp] theorem State.send_homeReds (s : State) (src r : Nat) (k : Token) (l : Past) : (s.send src r k l).homeReds = s.homeReds := rfl
@[simp] theorem State.send_repair (s : State) (src r : Nat) (k : Token) (l : Past) : (s.send src r k l).repair = s.repair := rfl
@[simp] theorem State.send_nodes (s : State) (src r : Nat) (k : Token) (l : Past) : (s.send src r k l).nodes = s.nodes := rfl
@[simp] theorem State.send_retained (s : State) (src r : Nat) (k : Token) (l : Past) : (s.send src r k l).retained = s.retained := rfl
@[simp] theorem State.send_remote (s : State) (src r : Nat) (k : Token) (l : Past) : (s.send src r k l).remote = s.remote := rfl
@[simp] theorem State.send_failed (s : State) (src r : Nat) (k : Token) (l : Past) : (s.send src r k l).failed = s.failed := rfl
@[simp] theorem State.send_downSw (s : State) (src r : Nat) (k : Token) (l : Past) : (s.send src r k l).downSw = s.downSw := rfl
@[simp] theorem State.send_gangs (s : State) (src r : Nat) (k : Token) (l : Past) : (s.send src r k l).gangs = s.gangs := rfl
@[simp] theorem State.send_unseen (s : State) (src r : Nat) (k : Token) (l : Past) : (s.send src r k l).unseen = s.unseen := rfl
@[simp] theorem State.send_update (s : State) (src r : Nat) (k : Token) (l : Past) : (s.send src r k l).update = s.update := rfl
@[simp] theorem State.send_redId (s : State) (src r : Nat) (k : Token) (l : Past) : (s.send src r k l).redId = s.redId := rfl
@[simp] theorem State.send_finished (s : State) (src r : Nat) (k : Token) (l : Past) : (s.send src r k l).finished = s.finished := rfl
@[simp] theorem State.send_answers (s : State) (src r : Nat) (k : Token) (l : Past) : (s.send src r k l).answers = s.answers := rfl
@[simp] theorem State.send_hosted (s : State) (src r : Nat) (k : Token) (l : Past) : (s.send src r k l).hosted = s.hosted := rfl
@[simp] theorem State.send_dbg (s : State) (src r : Nat) (k : Token) (l : Past) : (s.send src r k l).dbg = s.dbg := rfl

/-! ## ThreadState.setReg and ThreadState.setBusy -/

@[simp] theorem ThreadState.setReg_pc (x : ThreadState) (r : Reg) (v : Word) (p : Bool) : (x.setReg r v p).pc = x.pc := by
  unfold ThreadState.setReg; split <;> rfl
@[simp] theorem ThreadState.setReg_level (x : ThreadState) (r : Reg) (v : Word) (p : Bool) : (x.setReg r v p).level = x.level := by
  unfold ThreadState.setReg; split <;> rfl
@[simp] theorem ThreadState.setReg_busy (x : ThreadState) (r : Reg) (v : Word) (p : Bool) : (x.setReg r v p).busy = x.busy := by
  unfold ThreadState.setReg; split <;> rfl
@[simp] theorem ThreadState.setReg_ops (x : ThreadState) (r : Reg) (v : Word) (p : Bool) : (x.setReg r v p).ops = x.ops := by
  unfold ThreadState.setReg; split <;> rfl
@[simp] theorem ThreadState.setReg_uimask (x : ThreadState) (r : Reg) (v : Word) (p : Bool) : (x.setReg r v p).uimask = x.uimask := by
  unfold ThreadState.setReg; split <;> rfl
@[simp] theorem ThreadState.setReg_uient (x : ThreadState) (r : Reg) (v : Word) (p : Bool) : (x.setReg r v p).uient = x.uient := by
  unfold ThreadState.setReg; split <;> rfl
@[simp] theorem ThreadState.setReg_uepc (x : ThreadState) (r : Reg) (v : Word) (p : Bool) : (x.setReg r v p).uepc = x.uepc := by
  unfold ThreadState.setReg; split <;> rfl
@[simp] theorem ThreadState.setReg_umask (x : ThreadState) (r : Reg) (v : Word) (p : Bool) : (x.setReg r v p).umask = x.umask := by
  unfold ThreadState.setReg; split <;> rfl
@[simp] theorem ThreadState.setReg_inui (x : ThreadState) (r : Reg) (v : Word) (p : Bool) : (x.setReg r v p).inui = x.inui := by
  unfold ThreadState.setReg; split <;> rfl
@[simp] theorem ThreadState.setReg_run (x : ThreadState) (r : Reg) (v : Word) (p : Bool) : (x.setReg r v p).run = x.run := by
  unfold ThreadState.setReg; split <;> rfl
@[simp] theorem ThreadState.setReg_tagwin (x : ThreadState) (r : Reg) (v : Word) (p : Bool) : (x.setReg r v p).tagwin = x.tagwin := by
  unfold ThreadState.setReg; split <;> rfl
@[simp] theorem ThreadState.setReg_hrank (x : ThreadState) (r : Reg) (v : Word) (p : Bool) : (x.setReg r v p).hrank = x.hrank := by
  unfold ThreadState.setReg; split <;> rfl
@[simp] theorem ThreadState.setReg_fedge (x : ThreadState) (r : Reg) (v : Word) (p : Bool) : (x.setReg r v p).fedge = x.fedge := by
  unfold ThreadState.setReg; split <;> rfl
@[simp] theorem ThreadState.setReg_msquota (x : ThreadState) (r : Reg) (v : Word) (p : Bool) : (x.setReg r v p).msquota = x.msquota := by
  unfold ThreadState.setReg; split <;> rfl
@[simp] theorem ThreadState.setReg_wdlim (x : ThreadState) (r : Reg) (v : Word) (p : Bool) : (x.setReg r v p).wdlim = x.wdlim := by
  unfold ThreadState.setReg; split <;> rfl
@[simp] theorem ThreadState.setReg_thlim (x : ThreadState) (r : Reg) (v : Word) (p : Bool) : (x.setReg r v p).thlim = x.thlim := by
  unfold ThreadState.setReg; split <;> rfl
@[simp] theorem ThreadState.setReg_uipend (x : ThreadState) (r : Reg) (v : Word) (p : Bool) : (x.setReg r v p).uipend = x.uipend := by
  unfold ThreadState.setReg; split <;> rfl
@[simp] theorem ThreadState.setReg_lastf (x : ThreadState) (r : Reg) (v : Word) (p : Bool) : (x.setReg r v p).lastf = x.lastf := by
  unfold ThreadState.setReg; split <;> rfl
@[simp] theorem ThreadState.setBusy_regs (x : ThreadState) (r : Reg) (on : Bool) : (x.setBusy r on).regs = x.regs := by
  unfold ThreadState.setBusy; split <;> rfl
@[simp] theorem ThreadState.setBusy_pc (x : ThreadState) (r : Reg) (on : Bool) : (x.setBusy r on).pc = x.pc := by
  unfold ThreadState.setBusy; split <;> rfl
@[simp] theorem ThreadState.setBusy_level (x : ThreadState) (r : Reg) (on : Bool) : (x.setBusy r on).level = x.level := by
  unfold ThreadState.setBusy; split <;> rfl
@[simp] theorem ThreadState.setBusy_poison (x : ThreadState) (r : Reg) (on : Bool) : (x.setBusy r on).poison = x.poison := by
  unfold ThreadState.setBusy; split <;> rfl
@[simp] theorem ThreadState.setBusy_ops (x : ThreadState) (r : Reg) (on : Bool) : (x.setBusy r on).ops = x.ops := by
  unfold ThreadState.setBusy; split <;> rfl
@[simp] theorem ThreadState.setBusy_uimask (x : ThreadState) (r : Reg) (on : Bool) : (x.setBusy r on).uimask = x.uimask := by
  unfold ThreadState.setBusy; split <;> rfl
@[simp] theorem ThreadState.setBusy_uient (x : ThreadState) (r : Reg) (on : Bool) : (x.setBusy r on).uient = x.uient := by
  unfold ThreadState.setBusy; split <;> rfl
@[simp] theorem ThreadState.setBusy_uepc (x : ThreadState) (r : Reg) (on : Bool) : (x.setBusy r on).uepc = x.uepc := by
  unfold ThreadState.setBusy; split <;> rfl
@[simp] theorem ThreadState.setBusy_umask (x : ThreadState) (r : Reg) (on : Bool) : (x.setBusy r on).umask = x.umask := by
  unfold ThreadState.setBusy; split <;> rfl
@[simp] theorem ThreadState.setBusy_inui (x : ThreadState) (r : Reg) (on : Bool) : (x.setBusy r on).inui = x.inui := by
  unfold ThreadState.setBusy; split <;> rfl
@[simp] theorem ThreadState.setBusy_run (x : ThreadState) (r : Reg) (on : Bool) : (x.setBusy r on).run = x.run := by
  unfold ThreadState.setBusy; split <;> rfl
@[simp] theorem ThreadState.setBusy_tagwin (x : ThreadState) (r : Reg) (on : Bool) : (x.setBusy r on).tagwin = x.tagwin := by
  unfold ThreadState.setBusy; split <;> rfl
@[simp] theorem ThreadState.setBusy_hrank (x : ThreadState) (r : Reg) (on : Bool) : (x.setBusy r on).hrank = x.hrank := by
  unfold ThreadState.setBusy; split <;> rfl
@[simp] theorem ThreadState.setBusy_fedge (x : ThreadState) (r : Reg) (on : Bool) : (x.setBusy r on).fedge = x.fedge := by
  unfold ThreadState.setBusy; split <;> rfl
@[simp] theorem ThreadState.setBusy_msquota (x : ThreadState) (r : Reg) (on : Bool) : (x.setBusy r on).msquota = x.msquota := by
  unfold ThreadState.setBusy; split <;> rfl
@[simp] theorem ThreadState.setBusy_wdlim (x : ThreadState) (r : Reg) (on : Bool) : (x.setBusy r on).wdlim = x.wdlim := by
  unfold ThreadState.setBusy; split <;> rfl
@[simp] theorem ThreadState.setBusy_thlim (x : ThreadState) (r : Reg) (on : Bool) : (x.setBusy r on).thlim = x.thlim := by
  unfold ThreadState.setBusy; split <;> rfl
@[simp] theorem ThreadState.setBusy_uipend (x : ThreadState) (r : Reg) (on : Bool) : (x.setBusy r on).uipend = x.uipend := by
  unfold ThreadState.setBusy; split <;> rfl
@[simp] theorem ThreadState.setBusy_lastf (x : ThreadState) (r : Reg) (on : Bool) : (x.setBusy r on).lastf = x.lastf := by
  unfold ThreadState.setBusy; split <;> rfl

/-! ## What the named parts read as -/

section
variable (s : State)

@[simp] theorem State.thread_setThread (t : Nat) (x : ThreadState) : (s.setThread t x).thread t = x := by
  simp [State.thread, State.setThread]
theorem State.thread_setThread_other {t u : Nat} (x : ThreadState) (h : u ≠ t) : (s.setThread t x).thread u = s.thread u := by
  simp [State.thread, State.setThread, Sparse.atD_put_other _ _ _ h]
@[simp] theorem State.thread_updThread (t : Nat) (f : ThreadState → ThreadState) :
    (s.updThread t f).thread t = f (s.thread t) := by simp [State.updThread]
theorem State.thread_updThread_other {t u : Nat} (f : ThreadState → ThreadState) (h : u ≠ t) :
    (s.updThread t f).thread u = s.thread u := by simp [State.updThread, State.thread_setThread_other _ _ h]
@[simp] theorem State.core_updCore (c : Nat) (f : CoreState → CoreState) : (s.updCore c f).core c = f (s.core c) := by
  simp [State.core, State.updCore]
@[simp] theorem State.cluster_updCluster (c : Nat) (f : ClusterState → ClusterState) :
    (s.updCluster c f).cluster c = f (s.cluster c) := by simp [State.cluster, State.updCluster]
@[simp] theorem State.region_updRegion (r : Nat) (f : RegionState → RegionState) :
    (s.updRegion r f).region r = f (s.region r) := by simp [State.region, State.updRegion]
theorem State.region_updRegion_other {r q : Nat} (f : RegionState → RegionState) (h : q ≠ r) :
    (s.updRegion r f).region q = s.region q := by
  simp [State.region, State.updRegion, Sparse.atD_put_other _ _ _ h]
@[simp] theorem State.vd_updVd (v : Nat) (f : VdState → VdState) : (s.updVd v f).vd v = f (s.vd v) := by
  simp [State.vd, State.updVd]
@[simp] theorem State.queue_updQueue (q : Nat) (f : QueueState → QueueState) : (s.updQueue q f).queue q = f (s.queue q) := by
  simp [State.queue, State.updQueue]
@[simp] theorem State.port_updPort (p : Nat) (f : PortState → PortState) : (s.updPort p f).port p = f (s.port p) := by
  simp [State.port, State.updPort]
@[simp] theorem State.serdexPort_updSerdex (p : Nat) (f : SerdexState → SerdexState) :
    (s.updSerdex p f).serdexPort p = f (s.serdexPort p) := by simp [State.serdexPort, State.updSerdex]
@[simp] theorem State.elem_updElem (r a : Nat) (f : ElemState → ElemState) : (s.updElem r a f).elem r a = f (s.elem r a) := by
  simp [State.elem, State.updElem]
@[simp] theorem State.region_updElem (r a q : Nat) (f : ElemState → ElemState) : (s.updElem r a f).region q = s.region q := rfl
@[simp] theorem State.region_updThread (t q : Nat) (f : ThreadState → ThreadState) : (s.updThread t f).region q = s.region q := rfl
@[simp] theorem State.me_updMe (f : ThreadState → ThreadState) : (s.updMe f).me = f s.me := by
  simp [State.me, State.updMe]
@[simp] theorem State.me_advance : s.advance.me = { s.me with pc := s.me.pc + 4 } := by simp [State.advance]
@[simp] theorem State.vdOfCluster_updThread (t c : Nat) (f : ThreadState → ThreadState) :
    (s.updThread t f).vdOfCluster c = s.vdOfCluster c := rfl

end

/-! ## Registers -/

@[simp] theorem ThreadState.reg_zero (x : ThreadState) : x.reg 0 = 0 := rfl
@[simp] theorem ThreadState.setReg_zero (x : ThreadState) (v : Word) (p : Bool) : x.setReg 0 v p = x := rfl

/-- A register reads as the value written to it, g0 as 0 (R272). -/
theorem ThreadState.reg_setReg_same (x : ThreadState) (r : Reg) (v : Word) (p : Bool) :
    (x.setReg r v p).reg r = if r = 0 then 0 else v := by
  by_cases h : r = 0#5
  · subst h; rfl
  · simp [ThreadState.reg, ThreadState.setReg, h]

/-- A write of one register leaves the others. -/
theorem ThreadState.reg_setReg_other (x : ThreadState) {r q : Reg} (v : Word) (p : Bool) (h : q ≠ r) :
    (x.setReg r v p).reg q = x.reg q := by
  have hn : q.toNat ≠ r.toNat := fun e => h (BitVec.eq_of_toNat_eq e)
  by_cases h0 : r = 0#5
  · subst h0; rfl
  · simp [ThreadState.reg, ThreadState.setReg, h0, Sparse.atD_put_other _ _ _ hn]

end Sys2Proof.Machine
end

