-- ==== Sys2Proof/Laws/Thread.lean ====
section
/-! SUPPORT. What the shared operations of a thread's instructions do (Machine/Ops.lean): the waits, the writes of a
register, the frames of the checks. -/
namespace Sys2Proof.Machine
open Sys2Proof.Claims

variable {s : State}

/-! ## Registers and their poison bits -/

theorem ThreadState.poisoned_setReg_same (x : ThreadState) (r : Reg) (v : Word) (p : Bool) :
    (x.setReg r v p).poisoned r = (r != 0 && p) := by
  by_cases h : r = 0
  · subst h; rfl
  · have hr : r.toNat < 32 := r.isLt
    simp only [ThreadState.poisoned, ThreadState.setReg]
    rw [if_neg h]
    cases p <;> simp [hr]

theorem ThreadState.poisoned_setReg_other (x : ThreadState) {r q : Reg} (v : Word) (p : Bool) (hq : q ≠ r) :
    (x.setReg r v p).poisoned q = x.poisoned q := by
  have hn : q.toNat ≠ r.toNat := fun e => hq (BitVec.eq_of_toNat_eq e)
  by_cases h : r = 0
  · subst h; rfl
  · have h2 : q.toNat < 32 := q.isLt
    have key : (1#32 <<< r.toNat).getLsbD q.toNat = false := by simp [h2]; omega
    simp only [ThreadState.poisoned, ThreadState.setReg]
    rw [if_neg h]
    cases p
    · simp only [Bool.false_eq_true, if_false, BitVec.getLsbD_and, BitVec.getLsbD_not, key, h2]; simp
    · simp only [if_true, BitVec.getLsbD_or, key, Bool.or_false]

/-- A write of a register changes the register and its poison bit alone. -/
theorem ThreadState.setReg_eq (x : ThreadState) (d : Reg) (v : Word) (p : Bool) :
    x.setReg d v p = { x with regs := (x.setReg d v p).regs, poison := (x.setReg d v p).poison } := by
  unfold ThreadState.setReg; split <;> rfl

/-! ## Waits and checks (R273, R274) -/

theorem State.waits_eq_false {rs : List Reg} (h : Idle s rs) : s.waits rs = false := by
  simp only [State.waits, List.any_eq_false]
  intro r hr
  simp [h r hr]

theorem State.waits_eq_true {rs : List Reg} (h : ¬ Idle s rs) : s.waits rs = true := by
  by_contra hw
  refine h fun r hr => ?_
  simp only [State.waits, List.any_eq_true, not_exists, not_and, Bool.not_eq_true] at hw
  exact hw r hr

theorem State.poisonedAny_eq_false {rs : List Reg} (h : Clean s rs) : s.poisonedAny rs = false := by
  simp only [State.poisonedAny, List.any_eq_false]
  intro r hr
  simp [h r hr]

theorem State.poisonedAny_eq_true {rs : List Reg} (h : ¬ Clean s rs) : s.poisonedAny rs = true := by
  by_contra hw
  refine h fun r hr => ?_
  simp only [State.poisonedAny, List.any_eq_true, not_exists, not_and, Bool.not_eq_true] at hw
  exact hw r hr

/-- The frame of the register checks, for registers that are idle and clean. -/
theorem State.withRegs_ok {used clean : List Reg} {k : Unit → Out} (h : Idle s used) (hc : Clean s clean) :
    s.withRegs used clean k = k () := by
  simp [State.withRegs, State.waits_eq_false h, State.poisonedAny_eq_false hc]

theorem State.withRegs_poison {used clean : List Reg} {k : Unit → Out} (h : Idle s used) (hc : ¬ Clean s clean) :
    s.withRegs used clean k = s.trap fcPoison 0 := by
  simp [State.withRegs, State.waits_eq_false h, State.poisonedAny_eq_true hc]

theorem State.withRegs_waits {used clean : List Reg} {k : Unit → Out} (h : ¬ Idle s used) :
    s.withRegs used clean k = .next s := by
  simp [State.withRegs, State.waits_eq_true h]

theorem State.room_ok {n : Nat} {k : Unit → Out} (h : n < 64) : s.room n k = k () := by
  simp [State.room]; omega

theorem State.supervisor_ok {k : Unit → Out} (h : s.me.level ≠ 0) : s.supervisor k = k () := by
  simp only [State.supervisor]; rw [if_neg h]

/-! ## Writing a result (R275) -/

theorem onlyMe_updMe (s : State) (f : ThreadState → ThreadState) : OnlyMe s (s.updMe f) :=
  ⟨rfl, fun _ => rfl, fun _ hk => State.thread_updThread_other s f hk⟩

theorem onlyMe_trans {s t u : State} (h : OnlyMe s t) (g : OnlyMe t u) : OnlyMe s u := by
  have hc : t.cur = s.cur := by rw [h.rest]
  refine ⟨?_, fun a => (g.bytes a).trans (h.bytes a), fun k hk => (g.others k (by rw [hc]; exact hk)).trans (h.others k hk)⟩
  rw [g.rest, h.rest]

/-- A result: what `State.result` and `State.alu` leave. -/
theorem wrote_result (s : State) (d : Reg) (v : Word) (p : Bool) :
    Wrote s (s.updMe fun x => x.setReg d v p).advance d v p (s.me.pc + 4) := by
  have hme : (s.updMe fun x => x.setReg d v p).advance.me = { s.me.setReg d v p with pc := s.me.pc + 4 } := by simp
  refine ⟨onlyMe_trans (onlyMe_updMe s _) (onlyMe_updMe _ _), ?_, ?_, ?_, ?_, ?_, ?_⟩
  · rw [hme]
  · rw [hme]; exact ThreadState.reg_setReg_same s.me d v p
  · rw [hme]; exact ThreadState.poisoned_setReg_same s.me d v p
  · intro q hq; rw [hme]; exact ThreadState.reg_setReg_other s.me v p hq
  · intro q hq; rw [hme]; exact ThreadState.poisoned_setReg_other s.me v p hq
  · rw [hme, ThreadState.setReg_eq s.me]

/-- What the ALU frame does: it waits for its registers, or completes with the OR of the sources' poison bits. -/
theorem State.alu_completes {d : Reg} {srcs : List Reg} {v : Word} (h : Idle s (d :: srcs)) :
    ∃ u, s.alu d srcs v = .next u ∧ Wrote s u d v (srcs.any s.me.poisoned) (s.me.pc + 4) := by
  refine ⟨_, ?_, wrote_result s d v _⟩
  simp only [State.alu, State.waits_eq_false h]
  rfl

theorem State.alu_waits {d : Reg} {srcs : List Reg} {v : Word} (h : ¬ Idle s (d :: srcs)) : s.alu d srcs v = .next s := by
  simp [State.alu, State.waits_eq_true h]

theorem State.result_completes (s : State) (d : Reg) (v : Word) :
    ∃ u, s.result d v = .next u ∧ Wrote s u d v false (s.me.pc + 4) := ⟨_, rfl, wrote_result s d v false⟩

theorem went_goto (s : State) (q : Word) : Went s (s.goto q) q :=
  ⟨onlyMe_updMe s _, by simp [State.goto]⟩

theorem went_advance (s : State) : Went s s.advance (s.me.pc + 4) :=
  ⟨onlyMe_updMe s _, by simp⟩

end Sys2Proof.Machine
end

