-- ==== Sys2Proof/Laws/Access.lean ====
section
/-! SUPPORT. What the issue and the end of a thread's operations do (Machine/ThreadMem.lean, Machine/ThreadTile.lean). -/
namespace Sys2Proof.Machine
open Sys2Proof.Claims

theorem ThreadState.isBusy_setBusy_same (x : ThreadState) (r : Reg) (on : Bool) :
    (x.setBusy r on).isBusy r = (r != 0 && on) := by
  by_cases h : r = 0
  · subst h; rfl
  · have hr : r.toNat < 32 := r.isLt
    simp only [ThreadState.isBusy, ThreadState.setBusy]
    rw [if_neg h]
    cases on <;> simp [hr]

theorem ThreadState.isBusy_setBusy_other (x : ThreadState) {r q : Reg} (on : Bool) (hq : q ≠ r) :
    (x.setBusy r on).isBusy q = x.isBusy q := by
  have hn : q.toNat ≠ r.toNat := fun e => hq (BitVec.eq_of_toNat_eq e)
  by_cases h : r = 0
  · subst h; rfl
  · have h2 : q.toNat < 32 := q.isLt
    have key : (1#32 <<< r.toNat).getLsbD q.toNat = false := by simp [h2]; omega
    simp only [ThreadState.isBusy, ThreadState.setBusy]
    rw [if_neg h]
    cases on
    · simp only [Bool.false_eq_true, if_false, BitVec.getLsbD_and, BitVec.getLsbD_not, key, h2]; simp
    · simp only [if_true, BitVec.getLsbD_or, key, Bool.or_false]

theorem ThreadState.setBusy_eq (x : ThreadState) (r : Reg) (on : Bool) :
    x.setBusy r on = { x with busy := (x.setBusy r on).busy } := by
  unfold ThreadState.setBusy; split <;> rfl

/-- The frame of an access that passes its checks. -/
theorem State.access_ok {s : State} {a : Word} {n : Nat} {ks : List Kind} {clean : List Reg} {k : Nat → State → Out}
    {p : Nat} {aper : Nat → Option Nat} (ha : a.toNat % n = 0) (hp : ∃ t, s.locateAll s.whoMe a ks = .ok p t)
    (hc : Clean s clean) (h0 : aper p = none) (h1 : s.blocked s.whoMe.vd p n = false)
    (h2 : s.divertWait s.whoMe.vd a.toNat = false) :
    s.access a n ks clean k aper = k p (s.fillTlb s.whoMe a) := by
  obtain ⟨t, ht⟩ := hp
  simp [State.access, ha, ht, State.poisonedAny_eq_false hc, h0, h1, h2]

/-- A translation that is cached changes the cache alone (R315). -/
theorem State.fillTlb_eq (s : State) (w : Who) (a : Word) : s.fillTlb w a = { s with tlb := (s.fillTlb w a).tlb } := by
  unfold State.fillTlb
  dsimp only
  split
  · rfl
  · split
    · rfl
    · split <;> rfl

/-- What the issue of an operation leaves (R274, R292). -/
theorem State.pushOp_done (s : State) (o : ThreadOp) :
    let u := (s.pushOp o).advance
    u.me = { s.me with pc := s.me.pc + 4, busy := (s.me.setBusy o.dest true).busy, ops := s.me.ops ++ [o] } ∧
      OnlyMe s u := by
  refine ⟨?_, onlyMe_trans (onlyMe_updMe s _) (onlyMe_updMe _ _)⟩
  rw [State.me_advance, State.pushOp, State.me_updMe, ThreadState.setBusy_eq]

/-- What the end of operation `k` of a thread leaves (R274, R275, R292). -/
theorem State.endOp_ended (s : State) {t k : Nat} {o : ThreadOp} (v : Word) (p : Bool)
    (h : (s.thread t).ops[k]? = some o) : Ended s (s.endOp t k v p) t k o.dest v p := by
  have hu : (s.endOp t k v p).thread t =
      { (s.thread t).setReg o.dest v p with busy := ((s.thread t).setReg o.dest v p |>.setBusy o.dest false).busy,
                                            ops := (s.thread t).ops.eraseIdx k } := by
    rw [State.endOp, State.thread_updThread, h]
    dsimp only
    rw [ThreadState.setBusy_eq]
  refine ⟨by rw [hu], ?_, ?_, ?_, ?_, ?_, ?_, ?_, ?_⟩
  · rw [hu]; exact ThreadState.reg_setReg_same _ _ _ _
  · rw [hu]; exact ThreadState.poisoned_setReg_same _ _ _ _
  · rw [hu]
    have := ThreadState.isBusy_setBusy_same ((s.thread t).setReg o.dest v p) o.dest false
    simpa [ThreadState.isBusy] using this
  · intro q hq; rw [hu]; exact ThreadState.reg_setReg_other _ _ _ hq
  · intro q hq; rw [hu]
    have := ThreadState.isBusy_setBusy_other ((s.thread t).setReg o.dest v p) false hq
    rw [ThreadState.isBusy] at this ⊢
    rw [this, ThreadState.isBusy, ThreadState.setReg_busy, ThreadState.isBusy]
  · intro q hq; rw [hu]; exact ThreadState.poisoned_setReg_other _ _ _ hq
  · intro j hj; exact State.thread_updThread_other s _ hj
  · rw [hu, ThreadState.setReg_eq]

/-- An operation that need wait for none before it may be performed (R285). -/
theorem ThreadState.mayPerform_of {s : State} {t k p n : Nat} {o : ThreadOp} (h : (s.thread t).ops[k]? = some o)
    (hr : o.range = some (p, n)) (hm : MayGo s t k o p n) : (s.thread t).mayPerform k = true := by
  simp only [ThreadState.mayPerform, h, hr, Bool.not_eq_true', List.any_eq_false]
  intro y hy
  obtain ⟨j, hj, rfl⟩ := List.mem_iff_getElem.mp hy
  have hjk : j < k := by simp at hj; omega
  have hj' : j < (s.thread t).ops.length := by simp at hj; omega
  have hget : (s.thread t).ops[j]? = some ((s.thread t).ops.take k)[j] := by
    simp [List.getElem_take]
  obtain ⟨h0, h1⟩ := hm j _ hjk hget
  set y := ((s.thread t).ops.take k)[j] with hydef
  cases hr' : y.range with
  | none => simp [ThreadOp.acq, ThreadOp.touches, hr', h0]
  | some q =>
    obtain ⟨q, m⟩ := q
    obtain ⟨h2, h3⟩ := h1 q m hr'
    simp [ThreadOp.acq, ThreadOp.touches, hr', h0, overlap]
    omega

end Sys2Proof.Machine
end

