-- ==== Sys2Proof/Laws/Order.lean ====
section
/-! SUPPORT. What the operations of the memory model do: which fields they change, what an agent reads of its own and of acquired
writes, and what an access that waits for a sleeping device changes. -/
namespace Sys2Proof.Machine

variable {s : State} {x : Agent} {p n sc : Nat} {l : Past}

/-! ## Frames: only the notes on writes change -/

theorem State.noteWrite_eq (s : State) (x : Agent) (sc p n v : Nat) (rel : List Release) :
    s.noteWrite x sc p n v rel = { s with unseen := (s.noteWrite x sc p n v rel).unseen } := rfl
theorem State.releaseAt_eq (s : State) (x : Agent) (l : Past) (sc : Nat) :
    s.releaseAt x l sc = { s with unseen := (s.releaseAt x l sc).unseen } := rfl
theorem State.releaseIf_eq (s : State) (o : Nat) (x : Agent) (l : Past) (sc : Nat) :
    s.releaseIf o x l sc = { s with unseen := (s.releaseIf o x l sc).unseen } := by
  unfold State.releaseIf; split <;> rfl
theorem State.learn_eq (s : State) (x : Agent) (l : Past) : s.learn x l = { s with unseen := (s.learn x l).unseen } := by
  unfold State.learn; split <;> rfl
theorem State.acquireFrom_eq (s : State) (x : Agent) (sc : Nat) (rel : List Release) :
    s.acquireFrom x sc rel = { s with unseen := (s.acquireFrom x sc rel).unseen } := by
  unfold State.acquireFrom
  generalize (rel.filter _) = l
  induction l generalizing s with
  | nil => rfl
  | cons y l ih =>
    rw [List.foldl_cons, ih (s.learn x y.past)]
    rw [State.learn_eq s x y.past]
theorem State.acquireAt_eq (s : State) (x : Agent) (sc p n : Nat) :
    s.acquireAt x sc p n = { s with unseen := (s.acquireAt x sc p n).unseen } := State.acquireFrom_eq _ _ _ _
theorem State.noteRead_eq (s : State) (x : Agent) (p n : Nat) :
    s.noteRead x p n = { s with unseen := (s.noteRead x p n).unseen } := by
  unfold State.noteRead; dsimp only; split <;> rfl
theorem State.fenceAt_eq (s : State) (o : Nat) (x : Agent) (l : Past) (sc : Nat) :
    s.fenceAt o x l sc = { s with unseen := (s.fenceAt o x l sc).unseen } := by
  unfold State.fenceAt
  dsimp only
  split <;> split <;> first | rfl | (rw [State.acquireFrom_eq]; rfl) | rw [State.acquireFrom_eq]
theorem State.settleWrites_eq (s : State) (f : Unseen → Bool) :
    s.settleWrites f = { s with unseen := (s.settleWrites f).unseen } := rfl
theorem State.storeBy_eq (s : State) (x : Agent) (sc p n v : Nat) (rel : List Release) :
    s.storeBy x sc p n v rel =
      { s with mem := (s.writeNat p n v).mem, unseen := (s.noteWrite x sc p n (v % 256 ^ n) rel).unseen,
               poison := (s.memWrite p n v).poison } := by
  unfold State.storeBy State.memWrite; dsimp only; split <;> rfl

/-! ## What is read -/

/-- Where an agent must see every write to the bytes, it reads the newest bytes. -/
theorem State.seenNat_known (h : ∀ u ∈ s.unseen, overlap (u.p, u.n) (p, n) = true → s.mustSee x u = true) :
    s.seenNat x p n = s.readNat p n := by
  have e : s.mayMiss x p n = [] := List.filter_eq_nil_iff.mpr fun u hu => by
    cases ho : overlap (u.p, u.n) (p, n) <;> simp [h u hu, ho]
  simp [State.seenNat, e]

theorem State.seenNat_settled (h : s.unseen = []) (x : Agent) (p n : Nat) : s.seenNat x p n = s.readNat p n :=
  State.seenNat_known (by simp [h])

theorem Agent.covers_self (x : Agent) : x.covers x = true := by simp [Agent.covers]
theorem Agent.meets_self (x : Agent) : x.meets x = true := by simp [Agent.meets, Agent.covers_self]

/-- The writes of an agent are known to it (R385). -/
theorem Unseen.known_own {h : Unseen} (e : h.who = x) : h.known x = true := by simp [Unseen.known, e, Agent.meets_self]

/-- An agent must see what happens before what it does, and what is performed at a scope in which it lies (R385, R387). -/
theorem State.mustSee_known {h : Unseen} (k : h.known x = true) : s.mustSee x h = true := by simp [State.mustSee, k]
theorem State.mustSee_performed {h : Unseen} {y : Agent} {k : Nat} (hy : (y, k) ∈ h.scopes) (hl : s.liesIn x k y = true) :
    s.mustSee x h = true := by
  have : (h.scopes.any fun y => s.liesIn x y.2 y.1) = true := List.any_eq_true.mpr ⟨(y, k), hy, hl⟩
  simp [State.mustSee, this]

/-- What an agent knows it still knows after any release. -/
theorem Unseen.known_released {h : Unseen} (y : Agent) (k : h.known x = true) : (h.released y sc).known x = true := by
  unfold Unseen.released; split <;> simpa [Unseen.known] using k

/-- A release performs the agent's own writes at its scope (R188). -/
theorem State.performed_releaseAt {h : Unseen} (hu : h ∈ s.unseen) (hw : h.who.meets x = true) :
    h.released x sc ∈ (s.releaseAt x l sc).unseen :=
  List.mem_map.mpr ⟨h, hu, by simp [hw]⟩
theorem Unseen.mem_released (h : Unseen) (x : Agent) (sc : Nat) : (x, sc) ∈ (h.released x sc).scopes := by
  unfold Unseen.released; split
  · rename_i h; exact List.contains_iff_mem.mp h
  · simp

/-- An agent that learns of a past knows the writes in it (R384). -/
theorem State.known_learn {h : Unseen} (hu : h ∈ s.unseen) (hp : h.inPast l = true) :
    ∃ g ∈ (s.learn x l).unseen, g.known x = true ∧ g.p = h.p ∧ g.n = h.n ∧ g.new = h.new ∧ g.who = h.who := by
  have hl : l.isEmpty = false := by
    cases l with
    | nil => simp [Unseen.inPast] at hp
    | cons => rfl
  simp only [State.learn, hl, Bool.false_eq_true, if_false, State.learnIf]
  refine ⟨_, List.mem_map_of_mem hu, ?_⟩
  split
  · simp [Unseen.known, Agent.meets_self]
  · rename_i hc
    have hk : (h.who.covers x || h.seen.any fun y => y.1.covers x) = true := by
      cases e : (h.who.covers x || h.seen.any fun y => y.1.covers x) <;> simp_all
    refine ⟨?_, rfl, rfl, rfl, rfl⟩
    simp only [Unseen.known, Agent.meets, Bool.or_eq_true, List.any_eq_true] at hk ⊢
    rcases hk with h | ⟨y, hy, h⟩
    · exact .inl (.inl h)
    · exact .inr ⟨y, hy, .inl h⟩

/-! ## Accesses that wait (R347) -/

/-- A wake changes devices only. -/
theorem State.wake_eq (s : State) (v : Nat) : s.wake v = { s with vds := (s.wake v).vds } := by
  unfold State.wake; split <;> rfl
theorem State.rouse_eq (s : State) (vd p : Nat) : s.rouse vd p = { s with vds := (s.rouse vd p).vds } := by
  unfold State.rouse; split
  · split
    · exact State.wake_eq s _
    · rfl
  · rfl
/-- Nothing waits for an access to a place that no copy holds, of no sleeping device, and of this package. -/
theorem State.blocked_near {vd : Nat} (h : s.scoreHit p n = false) (hs : s.sleeper p = none) (hp : paSpace p < 1024) :
    s.blocked vd p n = false := by
  have hl : s.linkWait vd p 0 = false := by simp [State.linkWait, Nat.not_le.mpr hp]
  simp [State.blocked, h, hs, hl]

end Sys2Proof.Machine
end

