-- ==== Sys2Proof/Tests/Slice0.lean ====
section
/-! SUPPORT. The model's own tests: ill-formed terms that `Instr.wf` refuses, words written out from the encodings of the
spec, and for each statement a state and operands that meet its hypotheses. -/
namespace Sys2Proof.Tests
set_option Elab.async false
open Sys2Proof.Machine Sys2Proof.Claims

/-! ## Well-formedness (R41 to R45, R52 to R57, R2): an ill-formed term for each check -/

/-- No destination. -/
def dNone : Dest := ⟨false, false, 0, 0, 0, 0, 0⟩
/-- A destination: element, slot, port. -/
def dTo (e : BitVec 16) (slot : BitVec 5) (port : BitVec 2) : Dest := ⟨true, false, port, slot, e, 0, 0⟩
/-- A slot of rule 0 with one destination, element 1 slot 0 port 0, and output channel 0. -/
def slot1 (fn : BitVec 5) (arity : BitVec 2) (flags : BitVec 3) (const : BitVec 32) : Slot :=
  { fn := fn, fire := 0, amode := 0, bmode := 0, cmode := 0, arity := arity, flags := flags, out := 0,
    d0 := dTo 1 0 0, d1 := dNone, const := const }

theorem test_wf_immediates : Instr.wf (.slli 1 1 63) = true ∧ Instr.wf (.slli 1 1 64) = false ∧
    Instr.wf (.srli 1 1 64) = false ∧ Instr.wf (.srai 1 1 0x7FFF) = false ∧ Instr.wf (.apcvt 1 1 4) = true ∧
    Instr.wf (.apcvt 1 1 5) = false ∧ Instr.wf (.aptest 1 1 7) = false := by decide

theorem test_wf_accesses : Instr.wf (.ld 1 1 1 5 3 0) = true ∧ Instr.wf (.ld 1 1 2 0 0 0) = false ∧
    Instr.wf (.ld 1 1 0 6 0 0) = false ∧ Instr.wf (.ldu 1 1 0 0 3 0) = false ∧ Instr.wf (.ldu 1 1 0 0 2 0) = true ∧
    Instr.wf (.st 1 1 2 0 0 0) = true ∧ Instr.wf (.st 1 1 1 0 0 0) = false ∧ Instr.wf (.amo 1 1 1 6 3 0 2) = true ∧
    Instr.wf (.amo 1 1 1 7 0 0 3) = false ∧ Instr.wf (.amo 1 1 1 0 0 0 1) = false ∧ Instr.wf (.cas 1 1 1 0 7 3) = false ∧
    Instr.wf (.cas 1 1 1 0 0 1) = false := by decide

theorem test_wf_order : Instr.wf (.fence 1 0) = true ∧ Instr.wf (.fence 0 0) = false ∧ Instr.wf (.fence 3 6) = false ∧
    Instr.wf (.cflush 1 1 1) = true ∧ Instr.wf (.cflush 1 1 0) = false ∧ Instr.wf (.cinv 1 1 6) = false := by decide

theorem test_wf_system : Instr.wf (.sysrd 1 0x020) = true ∧ Instr.wf (.sysrd 1 0) = false ∧ Instr.wf (.sysrd 1 7) = false ∧
    Instr.wf (.syswr 1 0x001) = true ∧ Instr.wf (.syswr 1 0x020) = false ∧ Instr.wf (.syswr 1 0x010) = false ∧
    Instr.wf (.sysset 1 1 0x020) = false ∧ Instr.wf (.sysset 1 1 0x030) = true ∧ Instr.wf (.sysclr 1 1 0x052) = false := by decide

theorem test_wf_slots : slotOk (slot1 0 2 0 0) = true ∧ slotOk { slot1 0 2 0 0 with fire := 4 } = false ∧
    slotOk (slot1 0 0 0 0) = false ∧ slotOk { slot1 0 1 0 0 with bmode := 1 } = false ∧
    slotOk { slot1 0 2 0 0 with cmode := 1 } = false ∧ slotOk { slot1 0 2 0 0 with fire := 3 } = false ∧
    slotOk { slot1 0 2 0 0 with fire := 3, bmode := 2 } = true := by decide

theorem test_wf_destinations : destOk (dTo 95 31 3) = true ∧ destOk { dTo 1 0 0 with tagop := 6 } = false ∧
    destOk { dTo 1 0 0 with rsv := 1 } = false ∧ destOk (dTo 99 0 0) = false ∧ destOk (dTo 98 0 0) = true ∧
    destOk (dTo 98 1 0) = false ∧ destOk { dNone with port := 1 } = false ∧
    Instr.wf (.elemAdd { slot1 0 2 0 0 with d1 := dTo 104 0 0 }) = false := by decide

theorem test_wf_units : Instr.wf (.wfiWake 63) = true ∧ Instr.wf (.wfiWake 64) = false ∧ Instr.wf (.taskPlacement 4) = false ∧
    Instr.wf (.kstepTriggerArrival 95 2) = true ∧ Instr.wf (.kstepTriggerArrival 96 0) = false ∧
    Instr.wf (.accPerform 0 3) = false ∧ Instr.wf (.kstepApply 0 256) = false ∧ Instr.wf (.watchdog 256) = false ∧
    Instr.wf (.refill 0 96) = false ∧ Instr.wf (.refill 0 65536) = false ∧ Instr.wf (.loopgenEmit 0 0 32) = false ∧
    Instr.wf (.copy 2047) = true ∧ Instr.wf (.copy 2048) = false ∧ Instr.wf (.streamPortDelivery 512) = false ∧
    Instr.wf (.linkDown 40) = false ∧ Instr.wf (.laneStop 39 4) = false ∧ Instr.wf (.wakeMiss 1024) = false ∧
    Instr.wf (.predictorHint 2) = false ∧ Instr.wf (.shallocServe 3 16) = false ∧ Instr.wf (.routeRewrite 128) = false := by decide

/-! ## Decoding: words written out from the encodings of R42 to R44 and R51 to R55 -/

theorem test_decode_register_forms :
    -- op 1 (ADD), gd 3, ga 1, gb 2: 0000001 00011 00001 00010 0^10
    decodeWord 0b00000010001100001000100000000000 = .ok (.add 3 1 2) ∧
    -- op 19 (CLZ), gd 31, ga 30
    decodeWord 0b00100111111111110000000000000000 = .ok (.clz 31 30) ∧
    -- op 5 (DIV) with a bit of the unused field set
    decodeWord 0b00001010001100001000100000000001 = .error .reservedField := by decide

theorem test_decode_immediates : decodeWord 0x30E07FFC = .ok (.addi 14 0 (-4)) ∧
    decodeWord 0x38E70038 = .ok (.slli 14 14 56) ∧ decodeWord 0x40600020 = .ok (.ldhi 6 0x20) := by decide

theorem test_decode_branches : decodeWord 0x48527FFE = .ok (.bt 5 1 (-2)) ∧ decodeWord 0x4AC69005 = .ok (.bc 12 13 1 5) ∧
    decodeWord 0x4C407FFD = .ok (.bdec 4 (-3)) ∧ decodeWord 0x4E100004 = .ok (.jrel 1 4) ∧
    decodeWord 0x50008000 = .ok (.jind 0 1 0) := by decide

theorem test_decode_accesses : decodeWord 0x60713302 = .ok (.ld 7 2 1 4 3 2) ∧
    decodeWord 0x669428F3 = .ok (.amo 9 8 10 1 3 4 3) ∧ decodeWord 0x6A005000 = .ok (.fence 2 4) := by decide

theorem test_decode_waits_and_tasks : decodeWord 0x78000FC7 = .ok (.waitc 7 7 0 7) ∧
    -- op 63 (TASKJOIN), gd 5, ga 6, gb 7
    decodeWord 0b01111110010100110001110000000000 = .ok (.taskjoin 5 6 7) ∧
    -- op 82, bit 14 set: UIMASK.ENT; op 82 with an immediate: UIMASK
    decodeWord 0b10100100001000011100000000000000 = .ok (.uimaskEnt 2 3) ∧
    decodeWord 0b10100100001000011000000000111111 = .ok (.uimask 2 3 0x3F) := by decide

theorem test_decode_system : decodeWord 0b10110000000100000000000000010000 = .ok (.sysrd 1 0x010) ∧
    decodeWord 0b10110010000000001000000000010000 = .ok (.tstatWrite 1) ∧
    decodeWord 0b10110010000000001000000000000001 = .ok (.syswr 1 1) ∧ decodeWord 0xBA000000 = .ok .eret ∧
    decodeWord 0xBA000001 = .error .reservedField ∧ decodeWord 0 = .error .reservedOp ∧
    decodeWord 0xFFFFFFFF = .error .reservedOp := by decide

/-- The worked example of DFASTEP: the planes of its slot. -/
theorem test_decode_slot : decodeSlot 0x41080200 0x0000000080002200 0x28C = .ok (.dfastep
    { fn := 1, fire := 0, amode := 0, bmode := 0, cmode := 0, arity := 2, flags := 0, out := 0,
      d0 := ⟨true, false, 0, 0, 0x44, 0, 0⟩, d1 := dNone, const := 0x28C }) := by decide

theorem test_decode_slot_empty : decodeSlot 0 0 0 = .error .emptySlot ∧ decodeSlot 0xFF000000 0 0 = .error .reservedOp := by decide

/-! ## Witnesses: states and operands that meet the hypotheses of the statements -/

/-- A device of all four clusters and of every channel group it needs. -/
def dev0 : VdState := { live := true, clusters := [0, 1, 2, 3] }
/-- Thread 0 at machine level with the registers given. -/
def mach (rs : Sparse Word) : State := { threads := [(0, { regs := rs, pc := 0x1000 })], vds := [(0, dev0)] }
/-- Thread 0 changed. -/
def with0 (s : State) (f : ThreadState → ThreadState) : State := s.updThread 0 f
/-- Thread 0 at a level. -/
def atLevel (l : BitVec 2) (rs : Sparse Word) : State := with0 (mach rs) fun x => { x with level := l }
/-- An address in the scratchpad of core 0 (aperture 0xFD). -/
def pad (o : Nat) : Word := BitVec.ofNat 64 (0xFD * 2 ^ 56 + o)
def padP (o : Nat) : Nat := pa (spScratch 0) o

theorem idle_of {s : State} {rs : List Reg} (h : (rs.all fun r => !s.me.isBusy r) = true) : Idle s rs := by
  intro r hr; simpa using List.all_eq_true.mp h r hr
theorem clean_of {s : State} {rs : List Reg} (h : (rs.all fun r => !s.me.poisoned r) = true) : Clean s rs := by
  intro r hr; simpa using List.all_eq_true.mp h r hr

theorem witness_register_forms : (aluResult (mach []) (.add 31 2 3)).isSome = true ∧ Idle (mach []) [31, 2, 3] ∧
    (immResult (mach []) (.slli 0 2 63)).isSome = true ∧ Idle (mach []) [0, 2] :=
  ⟨by decide, idle_of (by decide), by decide, idle_of (by decide)⟩

theorem witness_divisions : (divResult (mach [(2, 7)]) (.div 1 2 3)).isSome = true ∧ Idle (mach [(2, 7)]) [1, 2, 3] ∧
    (mach [(2, 7)]).g 3 = 0 ∧ (mach [(3, 7)]).g 3 ≠ 0 ∧ (divResult (mach [(3, 7)]) (.remu 1 2 3)).isSome = true :=
  ⟨by decide, idle_of (by decide), by decide, by decide, by decide⟩


theorem not_idle_of {s : State} {r : Reg} (h : s.me.isBusy r = true) (rs : List Reg) (hr : r ∈ rs) : ¬ Idle s rs :=
  fun i => by simp [i r hr] at h
theorem not_clean_of {s : State} {r : Reg} (h : s.me.poisoned r = true) (rs : List Reg) (hr : r ∈ rs) : ¬ Clean s rs :=
  fun i => by simp [i r hr] at h

/-- Register g1 busy. -/
def busy1 : State := with0 (mach []) fun x => { x with busy := 2 }
/-- Register g1 poisoned. -/
def poison1 : State := with0 (mach []) fun x => { x with poison := 2 }

theorem witness_failed_checks_registers :
    ((aluResult busy1 (.add 1 2 3)).isSome = true ∧ ¬ Idle busy1 [1, 2, 3]) ∧
    ((divResult busy1 (.div 2 1 3)).isSome = true ∧ ¬ Idle busy1 [2, 1, 3]) ∧ 63 < (64 : BitVec 15).toNat ∧
    (Idle poison1 [1] ∧ ¬ Clean poison1 [1]) ∧ (Idle poison1 [2, 1] ∧ ¬ Clean poison1 [2, 1]) ∧
    (Idle poison1 [2, 1] ∧ ¬ Clean poison1 [1] ∧ (BitVec.ofInt 64 ((poison1.g 1).toInt + (4 : BitVec 15).toInt)).toNat % 4 = 0) :=
  ⟨⟨by decide, not_idle_of (r := 1) (by decide) _ (by simp)⟩, ⟨by decide, not_idle_of (r := 1) (by decide) _ (by simp)⟩, by decide,
   ⟨idle_of (by decide), not_clean_of (r := 1) (by decide) _ (by simp)⟩, ⟨idle_of (by decide), not_clean_of (r := 1) (by decide) _ (by simp)⟩,
   idle_of (by decide), not_clean_of (r := 1) (by decide) _ (by simp), by decide⟩

theorem witness_failed_checks_operands : (Idle (mach [(1, 16)]) [1] ∧ Clean (mach [(1, 16)]) [1] ∧ 16 ≤ ((mach [(1, 16)]).g 1).toNat) ∧
    (Idle (mach [(1, 2)]) [3, 1] ∧ Clean (mach [(1, 2)]) [1] ∧ ((mach [(1, 2)]).g 1).toNat % 4 ≠ 0) ∧ (mach []).me.inui = false :=
  ⟨⟨idle_of (by decide), clean_of (by decide), by decide⟩, ⟨idle_of (by decide), clean_of (by decide), by decide⟩, by decide⟩

theorem witness_failed_checks_levels : sysLevels (0x007 : BitVec 15).toNat = none ∧ sysLevels (0x020 : BitVec 15).toNat = some (1, none) ∧
    (sysLevels (0x003 : BitVec 15).toNat = some (1, some 1) ∧ (atLevel 0 []).me.level.toNat < 1) ∧ (atLevel 0 []).me.level = 0 := by decide

theorem witness_branches : Idle (mach [(1, 1)]) [2, 1] ∧ Clean (mach [(1, 1)]) [2, 1] ∧ TestHolds 6 ((mach [(1, 1)]).g 1) ∧
    ¬ TestHolds 0 ((mach [(1, 1)]).g 1) ∧ CompareHolds 2 ((mach [(1, 1)]).g 2) ((mach [(1, 1)]).g 1) ∧
    ¬ CompareHolds 0 ((mach [(1, 1)]).g 2) ((mach [(1, 1)]).g 1) ∧
    (BitVec.ofInt 64 (((mach [(1, 1)]).g 1).toInt + (4 : BitVec 15).toInt)).toNat % 4 ≠ 0 ∧
    (BitVec.ofInt 64 (((mach [(1, 1)]).g 1).toInt + (-1 : BitVec 15).toInt)).toNat % 4 = 0 :=
  ⟨idle_of (by decide), clean_of (by decide), by unfold TestHolds; decide, by unfold TestHolds; decide, .inr (.inr (.inl (by decide))),
   by unfold CompareHolds; simp; decide, by decide, by decide⟩

/-- g1 holds an address of the commons, g2 one that is not aligned. -/
def acc : State := mach [(1, 0x2000), (2, 0x2001)]

theorem witness_access_issues : ∃ x p, accessOf acc (.ld 3 1 0 0 3 (-1)) = some x ∧ Idle acc x.used ∧ acc.me.loads < 64 ∧ x.store = false ∧
    x.addr.toNat % x.bytes = 0 ∧ At acc x p ∧ Clean acc x.clean ∧ acc.blocked acc.whoMe.vd p x.bytes = false ∧
    acc.divertWait acc.whoMe.vd x.addr.toNat = false ∧ isMgmt p = false ∧ isFarMgmt p = false :=
  ⟨_, pa spCommons 0x1FF8, rfl, idle_of (by decide), by decide, rfl, by decide, ⟨1, by rfl⟩, clean_of (by decide), by decide, by rfl, by decide,
   by decide⟩

/-- g1 holds the scratchpad's first address, whose bytes an outstanding record covers. -/
def padAcc : State := { mach [(1, pad 0)] with cores := [(0, { scoreboard := [{ lo := padP 0, hi := padP 64, queue := 0 }] })] }

theorem witness_access_traps : ((accessOf acc (.amo 3 2 1 6 3 0 3)).map fun x => x.addr.toNat % x.bytes) = some 1 ∧
    (∃ x, accessOf (atLevel 1 []) (.st 3 0 2 0 3 0) = some x ∧ x.addr.toNat % x.bytes = 0 ∧
      (atLevel 1 []).locateAll (atLevel 1 []).whoMe x.addr x.does = .fault 0x06) ∧
    (∃ x p, accessOf poison1 (.cas 3 1 2 0 0 3) = some x ∧ At poison1 x p ∧ ¬ Clean poison1 x.clean) ∧
    (∃ x, accessOf padAcc (.ld 3 1 0 0 3 0) = some x ∧ x.addr.toNat % x.bytes = 0 ∧ At padAcc x (padP 0) ∧ Clean padAcc x.clean ∧
      padAcc.scoreHit (padP 0) x.bytes = true ∧ padAcc.sleeper (padP 0) = none) :=
  ⟨by decide, ⟨_, rfl, by decide, by rfl⟩, ⟨_, pa spCommons 0, rfl, ⟨1, by rfl⟩, not_clean_of (r := 1) (by decide) _ (by simp)⟩,
   ⟨_, rfl, by decide, ⟨3, by rfl⟩, clean_of (by decide), by decide, by decide⟩⟩


/-- Thread 0 has one outstanding operation. -/
def op1 (k : ThreadOpKind) : State := with0 (mach []) fun x => { x with ops := [{ kind := k, dest := 3, ord := 0, scope := 0 }] }

theorem mayGo_first (s : State) (t : Nat) (o : ThreadOp) (p n : Nat) : MayGo s t 0 o p n := fun j _ h => absurd h (by omega)
/-- An operation of thread 0 that stands alone, on commons or a core storage that is awake. -/
def opOf (k : ThreadOpKind) : ThreadOp := { kind := k, dest := 3, ord := 0, scope := 0 }
theorem can_perform {k : ThreadOpKind} {p n : Nat} (ha : (op1 k).asleep ((op1 k).vdOfThread 0) (opOf k) = none)
    (hl : (op1 k).lost ((op1 k).vdOfThread 0) (opOf k) = none) : CanPerform (op1 k) 0 0 (opOf k) p n :=
  ⟨by decide, rfl, mayGo_first _ _ _ _ _, by rfl, ha, hl⟩

theorem witness_performed_loads_and_stores :
    (CanPerform (op1 (.load 0 8 true)) 0 0 (opOf (.load 0 8 true)) 0 8 ∧
      (op1 (.load 0 8 true)).marked ((op1 (.load 0 8 true)).vdOfThread 0) 0 = false ∧
      (op1 (.load 0 8 true)).mayMiss (.thread 0) 0 8 = []) ∧
    (CanPerform (op1 (.store (pa 2 0x2001) 1 7)) 0 0 (opOf (.store (pa 2 0x2001) 1 7)) (pa 2 0x2001) 1 ∧
      Safe (op1 (.store (pa 2 0x2001) 1 7)) ∧
      (op1 (.store (pa 2 0x2001) 1 7)).reach ((op1 (.store (pa 2 0x2001) 1 7)).vdOfThread 0) (pa 2 0x2001) ≠ .dead ∧
      isMgmt (pa 2 0x2001) = false ∧ isFarMgmt (pa 2 0x2001) = false) :=
  ⟨⟨can_perform (by decide) (by decide), by decide, by decide⟩, can_perform (by decide) (by decide), by unfold Safe; decide, by decide, by decide,
   by decide⟩

theorem witness_performed_atomics :
    CanPerform (op1 (.amo 6 0 4 9)) 0 0 (opOf (.amo 6 0 4 9)) 0 4 ∧ Safe (op1 (.amo 6 0 4 9)) ∧
    (op1 (.amo 6 0 4 9)).reach ((op1 (.amo 6 0 4 9)).vdOfThread 0) 0 ≠ .dead ∧ (op1 (.amo 6 0 4 9)).poisoned 0 = false ∧
    isMgmt 0 = false ∧ isMgmt (0 + 4 - 1) = false ∧
    CanPerform (op1 (.cas 0 8 9 0)) 0 0 (opOf (.cas 0 8 9 0)) 0 8 :=
  ⟨can_perform (by decide) (by decide), by unfold Safe; decide, by decide, by decide, by decide, by decide, can_perform (by decide) (by decide)⟩

/-- Control block of thread 0: vectors and frames of supervisor and machine level. -/
def tcbMem (v1 : Nat) : List Host.Cell :=
  Memory.writeN (Memory.writeN (Memory.writeN (Memory.writeN [] (tcb 0) 8 v1) (tcb 0 + 8) 8 0x4000) (tcb 0 + 0x10) 8 (pad 0x200).toNat)
    (tcb 0 + 0x18) 8 0x8000
/-- Thread 0 at a level, with that block. -/
def trapAt (l : BitVec 2) (v1 : Nat) : State := { atLevel l [] with mem := tcbMem v1 }

theorem witness_traps_enter : Safe (trapAt 0 (pad 0x100).toNat) ∧ NoBreaks (trapAt 0 (pad 0x100).toNat) ∧
    CanEnter (trapAt 0 (pad 0x100).toNat) 0 1 (pad 0x100) (padP 0x200) ∧ ((trapAt 0 (pad 0x100).toNat).thread 0).released = true ∧
    ((trapAt 1 0).thread 0).level.toNat < 2 ∧ CanEnter (trapAt 1 0) 0 2 0x4000 (pa spCommons 0x8000) :=
  ⟨by unfold Safe; decide, rfl, ⟨by decide, by decide, by decide, by decide, ⟨padP 0x100, 3, by rfl⟩, ⟨3, by rfl⟩⟩, by decide, by decide,
   ⟨by decide, by decide, by decide, by decide, ⟨pa spCommons 0x4000, 1, by rfl⟩, ⟨1, by rfl⟩⟩⟩

theorem witness_traps_escalate : ((trapAt 0 0).thread 0).level = 0 ∧ (trapAt 0 0).readNat (tcb 0) 8 = 0 ∧ ((trapAt 0 0).thread 0).released = true ∧
    (trapAt 0 (pad 0x102).toNat).readNat (tcb 0) 8 % 4 ≠ 0 ∧ CanEnter (trapAt 0 0) 0 2 0x4000 (pa spCommons 0x8000) ∧
    ((mach []).thread 0).level = 2 :=
  ⟨by decide, by decide, by decide, by decide, ⟨by decide, by decide, by decide, by decide, ⟨pa spCommons 0x4000, 1, by rfl⟩, ⟨1, by rfl⟩⟩, by decide⟩

/-- Thread 0 at supervisor level with a store that is still to be performed. -/
def trapOps : State := with0 (trapAt 1 0) fun x => { x with ops := [opOf (.store 0 8 0)] }
theorem witness_traps_behind_stores : Safe trapOps ∧ NoBreaks trapOps ∧ (trapOps.thread 0).level.toNat < 2 ∧ (trapOps.thread 0).released = false ∧
    CanEnter trapOps 0 2 0x4000 (pa spCommons 0x8000) :=
  ⟨by unfold Safe; decide, rfl, by decide, by decide,
   ⟨by decide, by decide, by decide, by decide, ⟨pa spCommons 0x4000, 1, by rfl⟩, ⟨1, by rfl⟩⟩⟩

theorem witness_fetches : (mach []).turn = .thread 0 ∧ (atLevel 1 []).resolve (atLevel 1 []).whoMe (atLevel 1 []).me.pc .fetch = .fault 0x06 ∧
    (∃ p x, ({ mach [] with poison := [pa spCommons 0x1000 / 64] } : State).resolve (mach []).whoMe (mach []).me.pc .fetch = .ok p x ∧
      ({ mach [] with poison := [pa spCommons 0x1000 / 64] } : State).poisoned p = true) :=
  ⟨rfl, by rfl, ⟨pa spCommons 0x1000, 1, by rfl, by decide⟩⟩

theorem witness_eret : (atLevel 0 []).me.level = 0 ∧ (trapAt 1 0).readNat (tcb 0 + 0x10) 8 = (pad 0x200).toNat ∧
    (trapAt 1 0).resolve (trapAt 1 0).whoMe (BitVec.ofNat 64 ((trapAt 1 0).readNat (tcb 0 + 0x10) 8)) .rd = .ok (padP 0x200) 3 ∧
    (trapAt 1 0).readNat (padP 0x200 + 8) 1 < 1 ∧ (trapAt 1 0).readNat (padP 0x200) 8 % 4 = 0 ∧
    1 ≤ ({ trapAt 1 0 with mem := Memory.writeN (tcbMem 0) (padP 0x208) 1 1 } : State).readNat (padP 0x200 + 8) 1 ∧
    (∀ o ∈ (trapAt 1 0).me.ops, o.touches (padP 0x200) 64 = false) ∧ (opOf (.store 0 8 0)).touches (padP 0x200) 64 = false :=
  ⟨by decide, by decide, by rfl, by decide, by decide, by decide, by decide, by decide⟩

/-- Thread 0 at user level with a pending bit that its mask leaves open. -/
def ui : State := with0 (mach [(1, 15)]) fun x => { x with level := 0, uient := 0x40, uipend := 0x20, uimask := 0x20 }

theorem witness_user_interrupts : (Idle ui [2, 1] ∧ Clean ui [1] ∧ (ui.g 1).toNat < 16) ∧ (Idle (mach []) [2, 1] ∧ ((mach []).g 1).toNat % 4 = 0) ∧
    (with0 ui fun x => { x with inui := true }).me.inui = true ∧
    ((ui.thread 0).run = .running ∧ (ui.thread 0).level = 0 ∧ (ui.thread 0).inui = false ∧ (ui.thread 0).uient ≠ 0 ∧
      ∃ k < 6, (ui.thread 0).uipend.getLsbD k = true ∧ (ui.thread 0).uimask.getLsbD k = true) :=
  ⟨⟨idle_of (by decide), clean_of (by decide), by decide⟩, ⟨idle_of (by decide), by decide⟩, by decide, by decide, by decide, by decide, by decide,
   5, by decide, by decide, by decide⟩

theorem witness_fences : ¬ ((2 ≤ (3 : BitVec 2).toNat ∧ ∃ o ∈ (mach []).me.ops, o.range ≠ none) ∨
      ((3 : BitVec 2).toNat % 2 = 1 ∧ 0 < (mach []).me.loads)) ∧
    (∃ o ∈ (op1 (.store 0 1 0)).me.ops, o.range ≠ none) ∧ 0 < (op1 (.amo 0 0 4 0)).me.loads ∧
    (∃ o ∈ (op1 (.frame 0 0 0 0 0)).me.ops, o.range ≠ none) := by decide

theorem witness_waitge : (Idle acc [3, 1, 4] ∧ Clean acc [1] ∧ acc.me.ops = [] ∧ (acc.g 1).toNat % 8 = 0 ∧
      acc.locate acc.whoMe (acc.g 1) .rd = .ok (pa spCommons 0x2000) 1 ∧ acc.blocked acc.whoMe.vd (pa spCommons 0x2000) 8 = false ∧
      acc.divertWait acc.whoMe.vd (acc.g 1).toNat = false ∧ acc.marked (acc.vdOfThread 0) (pa spCommons 0x2000) = false) ∧
    (acc.g 4).toNat ≤ acc.readNat (pa spCommons 0x2000) 8 ∧ acc.readNat (pa spCommons 0x2000) 8 < (acc.g 2).toNat :=
  ⟨⟨idle_of (by decide), clean_of (by decide), by decide, by decide, by rfl, by decide, by rfl, by decide⟩, by decide, by decide⟩

/-- Thread 0 waits. -/
def waiting (r : RunState) : State := with0 (mach []) fun x => { x with run := r }

theorem witness_waitge_satisfy :
    ((waiting (.waitge 3 0 0 0)).thread 0).run = .waitge 3 0 0 0 ∧ (waiting (.waitge 3 0 0 0)).blocked 0 0 8 = false ∧
    (waiting (.waitge 3 0 0 1)).marked ((waiting (.waitge 3 0 0 1)).vdOfThread 0) 0 = false ∧
    (waiting (.waitge 3 0 0 1)).readNat 0 8 < (1 : Word).toNat ∧
    ({ waiting (.waitge 3 0 0 1) with poison := [0] } : State).marked 0 0 = true := by decide

theorem witness_waitc : ((mach []).me.loads ≤ 0 ∧ (mach []).me.stores ≤ 0 ∧ (mach []).me.copies ≤ 6 ∧ (mach []).me.tiles ≤ 1) ∧
    ¬ (op1 (.load 0 1 true)).me.loads ≤ 0 ∧ ((waiting (.waitc 7 7 0 7)).thread 0).run = .waitc 7 7 0 7 ∧
    ¬ ((op1 (.copy 0 0)).thread 0).copies ≤ 0 := by decide

theorem witness_wfi : (∃ k < 6, ui.me.uipend.getLsbD k = true ∧ (ui.me.level = 0 → ui.me.uimask.getLsbD k = true)) ∧
    (¬ ∃ k < 6, (mach []).me.uipend.getLsbD k = true ∧ ((mach []).me.level = 0 → (mach []).me.uimask.getLsbD k = true)) ∧
    ((waiting .wfi).thread 0).run = .wfi := by decide

theorem witness_aperture_forms : Idle (mach [(1, 0xFD00000017000000)]) [2, 1] ∧ (1 : BitVec 3).toNat ≤ 4 ∧
    ((mach [(1, 0xFD00000017000000)]).g 1).toNat / 2 ^ 56 = 0xFD ∧ ((mach [(1, 0xFD00000017000000)]).g 1).toNat / 2 ^ 29 % 2 ^ 27 = 0 ∧
    ((mach [(1, 0xFD00000017000000)]).g 1).toNat / 2 ^ 21 % 8 = 0 ∧ ((mach [(1, 0xFD00000017000000)]).g 1).toNat / 2 ^ 24 % 32 < 24 :=
  ⟨idle_of (by decide), by decide, by decide, by decide, by decide, by decide⟩

theorem witness_system_reads : sysLevels (0x005 : BitVec 15).toNat = some (1, some 1) ∧
    (threadReg (atLevel 1 []).me (0x005 : BitVec 15).toNat).isSome = true ∧ 1 ≤ (atLevel 1 []).me.level.toNat ∧ Idle (atLevel 1 []) [2] :=
  ⟨by decide, by decide, by decide, idle_of (by decide)⟩

/-- Thread 0 at user level, g1 at the limit of MSQUOTA and g2 above it, g3 within the pending bits. -/
def sysSt : State := atLevel 0 [(1, 64), (2, 65), (3, 63)]

theorem witness_system_writes : (threadReg sysSt.me 4).isSome = true ∧ Idle sysSt [5, 1] ∧ Clean sysSt [1] ∧
    (setThreadReg sysSt.me 4 (sysSt.g 1)).isSome = true ∧ setThreadReg sysSt.me 4 (sysSt.g 2) = none ∧
    (setThreadReg sysSt.me 4 ((0x40 &&& fieldBits 4) ||| sysSt.g 1)).isSome = true ∧
    setThreadReg sysSt.me 4 ((0x40 &&& fieldBits 4) ||| sysSt.g 2) = none ∧
    (setThreadReg sysSt.me 4 (0x40 &&& fieldBits 4 &&& ~~~(sysSt.g 3))).isSome = true ∧
    setThreadReg sysSt.me 4 (0x40 &&& fieldBits 4 &&& ~~~(sysSt.g 1)) = none ∧ (sysSt.g 3).toNat < 64 :=
  ⟨by decide, idle_of (by decide), clean_of (by decide), by decide, by decide, by decide, by decide, by decide, by decide, by decide⟩

theorem witness_predictor_write : Idle (mach [(1, 3)]) [1] ∧ Clean (mach [(1, 3)]) [1] ∧ (mach [(1, 3)]).me.level ≠ 0 ∧
    (mach [(1, 3)]).vdOfThread 0 ≠ noVd ∧ ((mach [(1, 3)]).g 1).toNat < 4 ∧
    (({ mach [(1, 3)] with vds := [(0, { dev0 with xptab := 64 })] } : State).vd 0).xptab ≠ 0 ∧
    ((mach [(1, 3)]).g 1).toNat % 2 = 1 ∧ ((mach [(1, 3)]).vd 0).xptab = 0 :=
  ⟨idle_of (by decide), clean_of (by decide), by decide, by decide, by decide, by decide, by decide, by decide⟩

/-- Storage of core 0's scratchpad holds a record wherever the aperture of the cluster reaches it. -/
theorem record_pad (s : State) (hv : s.vds = [(0, dev0)]) (hp : s.poison = []) : RecordAt s (hwWho 0 0) (pad 0) (padP 0) where
  aligned := by decide
  plain := by decide +kernel
  clean := by intro o _; simp [State.poisoned, hp]
  place := by
    intro m hs o ho _ k
    cases s; simp only at hv hp; subst hv hp
    interval_cases o <;> exact ⟨3, rfl⟩
theorem record_pad64 (s : State) (hv : s.vds = [(0, dev0)]) (hp : s.poison = []) : RecordAt s (hwWho 0 0) (pad 64) (padP 64) where
  aligned := by decide
  plain := by decide +kernel
  clean := by intro o _; simp [State.poisoned, hp]
  place := by
    intro m hs o ho _ k
    cases s; simp only at hv hp; subst hv hp
    interval_cases o <;> exact ⟨3, rfl⟩

/-- Numbers written to memory: place, bytes, value. -/
def putAll (m : List Host.Cell) : List (Nat × Nat × Nat) → List Host.Cell
  | [] => m
  | (a, n, v) :: r => putAll (Memory.writeN m a n v) r
/-- Thread 0 at supervisor level with registers, and a record at the scratchpad's first line: state word, predecessors,
successors, region. -/
def taskSt (rs : Sparse Word) (word preds succ region : Nat) : State :=
  { atLevel 1 rs with mem := putAll [] [(padP 0, 4, word), (padP 4, 4, preds), (padP 8, 8, succ), (padP 16, 8, region)] }

/-- An expert record with a predecessor, and one without that has a region. -/
def pub1 : State := taskSt [(1, pad 0)] 0x40 1 0 0
def pub2 : State := taskSt [(1, pad 0)] 0x70 0 0 0x1000

theorem witness_taskpub : Safe pub1 ∧ RecordAt pub1 (homeWho pub1 (pub1.g 1)) (pub1.g 1) (padP 0) ∧ pub1.me.ops = [] ∧
    Idle pub1 [2, 1] ∧ Clean pub1 [1] ∧ pub1.homeOf 0 (pub1.g 1) = none ∧ pub1.tileWaiting 0 0 (pub1.g 1) = false ∧ WordOf pub1 (padP 0) 0 ∧
    pub1.readNat (padP 0) 4 < 2 ^ 16 ∧ pub1.readNat (padP 0) 4 / 2 ^ 6 % 2 = 1 ∧ pub1.readNat (padP 0 + 4) 4 ≠ 0 :=
  ⟨by unfold Safe; decide, record_pad _ rfl rfl, rfl, idle_of (by decide), clean_of (by decide), by decide, by decide,
   by unfold WordOf; decide, by decide, by decide, by decide⟩

theorem witness_taskpub_ready : WordOf pub2 (padP 0) 0 ∧ pub2.readNat (padP 0) 4 / 2 ^ 6 % 2 = 1 ∧ pub2.readNat (padP 0 + 4) 4 = 0 ∧
    pub2.readNat (padP 0 + 0x10) 8 ≠ 0 ∧ RecordAt pub2 (homeWho pub2 (pub2.g 1)) (pub2.g 1) (padP 0) :=
  ⟨by unfold WordOf; decide, by decide, by decide, by decide, record_pad _ rfl rfl⟩

/-- A running record whose region has a stopped slot. -/
def faultSt : State :=
  { taskSt [(1, pad 0)] 3 0 0 0 with regions := [(0, { live := true, vd := 0, task := some (pad 0) })], elems := [(0, { stopped := [0] })] }

theorem witness_etrig_taskres : (WordOf (taskSt [(1, pad 0)] 3 0 0 0) (padP 0) 3 ∧ (taskSt [(1, pad 0)] 3 0 0 0).readNat (padP 0 + 8) 8 = 0 ∧
      ((taskSt [(1, pad 0)] 3 0 0 0).cluster 0).succs = [] ∧ (taskSt [(1, pad 0)] 3 0 0 0).faultStands 0 (pad 0) = false ∧
      faultSt.faultStands 0 (faultSt.g 1) = true) ∧
    ((taskSt [(1, pad 0), (2, 1)] 7 0 0 0).g 2 = 1 ∧ WordOf (taskSt [(1, pad 0), (2, 1)] 7 0 0 0) (padP 0) 7 ∧
      RecordAt (taskSt [(1, pad 0), (2, 1)] 7 0 0 0) (homeWho (taskSt [(1, pad 0), (2, 1)] 7 0 0 0) (pad 0)) (pad 0) (padP 0)) ∧
    ((taskSt [(1, pad 0)] 5 0 0 0).g 2 = 0 ∧ WordOf (taskSt [(1, pad 0)] 5 0 0 0) (padP 0) 5) :=
  ⟨⟨by unfold WordOf; decide, by decide, by decide, by decide, by decide⟩, ⟨by decide, by unfold WordOf; decide, record_pad _ rfl rfl⟩,
   by decide, by unfold WordOf; decide⟩

/-- A running predecessor with a successor block at the second line, and one that is faulted. -/
def join1 : State := taskSt [(1, pad 0), (2, 0x1000), (4, 8)] 3 0 (pad 64).toNat 0

theorem witness_taskjoin : Idle join1 [3, 1, 2] ∧ Clean join1 [1, 2] ∧ (join1.g 2).toNat % 64 = 0 ∧ (join1.g 4).toNat % 64 ≠ 0 ∧
    join1.me.ops = [] ∧ RecordAt join1 (homeWho join1 (join1.g 1)) (join1.g 1) (padP 0) ∧ WordOf join1 (padP 0) 3 ∧ Safe join1 ∧
    join1.readNat (padP 0 + 8) 8 ≠ 0 ∧ RecordAt join1 (homeWho join1 (join1.g 1)) (BitVec.ofNat 64 (join1.readNat (padP 0 + 8) 8)) (padP 64) ∧
    join1.readNat (padP 64) 8 = 0 ∧ WordOf (taskSt [(1, pad 0)] 6 0 0 0) (padP 0) 6 :=
  ⟨idle_of (by decide), clean_of (by decide), by decide, by decide, by decide, record_pad _ rfl rfl, by unfold WordOf; decide,
   by unfold Safe; decide, by decide, record_pad64 _ rfl rfl, by decide, by unfold WordOf; decide⟩

/-- Queue 0 of the device, idle or running with its tail in the scratchpad; g1 a record, g2 the queue, g3 not aligned,
g4 too large, g5 a queue of no device. -/
def chainSt (run : Bool) : State :=
  { mach [(1, 0x2000), (3, 0x2001), (4, 1024), (5, 1023)] with
    vds := [(0, { dev0 with queues := [0] })], queues := [(0, { bound := true, run := run, tail := pad 0 })] }

theorem witness_chain : Ready (chainSt false) [6, 1, 2] [1, 2] ∧ ((chainSt false).g 2).toNat < 2 ^ 10 ∧ ((chainSt false).g 1).toNat % 64 = 0 ∧
    2 ^ 10 ≤ ((chainSt false).g 4).toNat ∧ ((chainSt false).g 3).toNat % 64 ≠ 0 ∧ (chainSt false).me.copies < 64 ∧
    (chainSt false).me.acquiring = false ∧
    (chainSt false).queueVd (1024 * (clusterOfThread 0 / 2) + 64 * (1023 % 16) + 1023 / 16) ≠ some ((chainSt false).vdOfThread 0) ∧
    (chainSt false).queueVd 0 = some ((chainSt false).vdOfThread 0) ∧ ((chainSt false).queue 0).bound = true ∧
    ((chainSt false).queue 0).run = false ∧ ((chainSt false).queue 0).stopped = false :=
  ⟨⟨idle_of (by decide), clean_of (by decide)⟩, by decide, by decide, by decide, by decide, by decide, by decide, by decide, by decide,
   by decide, by decide, by decide⟩

theorem witness_chain_running : Safe (chainSt true) ∧ ((chainSt true).queue 0).run = true ∧
    (chainSt true).resolve ((chainSt true).queueWho 0) (((chainSt true).queue 0).tail + 8) .wr = .ok (padP 8) 3 :=
  ⟨by unfold Safe; decide, by decide, by rfl⟩

/-- Region 0 of the device on core 0, running, with one configuration. -/
def reg0 : RegionState :=
  { live := true, vd := 0, status := .running, cores := [0], confs := [{ image := 0, extents := [1, 1, 1, 1], depth := 1 }] }
/-- g1 names region 0, g2 a locator of element 95 and slot 31, g3 a value; g4 a locator of element 96. -/
def constSt : State :=
  { mach [(2, 95 * 128 + 31 * 4), (3, 0xFFFFFFFF), (4, 96 * 128)] with regions := [(0, reg0)] }

theorem witness_rgnconst : Ready constSt [3, 1, 2] [3, 1, 2] ∧ NamesRegion constSt (constSt.g 1) 0 ∧
    ¬ (2 ^ 32 ≤ (constSt.g 3).toNat ∨ 2 ^ 23 ≤ (constSt.g 2).toNat ∨
      (constSt.region 0).cores.length ≤ (constSt.g 2).toNat / 2 ^ 14 % 2 ^ 9 ∨ 96 ≤ (constSt.g 2).toNat / 2 ^ 7 % 2 ^ 7 ∨
      (constSt.region 0).confs.length ≤ (constSt.g 2).toNat % 4) ∧ (constSt.region 0).status ≠ .loading ∧
    96 ≤ (constSt.g 4).toNat / 2 ^ 7 % 2 ^ 7 :=
  ⟨⟨idle_of (by decide), clean_of (by decide)⟩, ⟨by decide, by decide, by decide, by decide⟩, by decide, by decide, by decide⟩

theorem witness_vdquery : Idle (mach [(3, 2), (4, 3), (5, 1024), (6, 1)]) [7, 1, 3] ∧ (mach []).vdOfThread 0 < 1024 ∧ 3 ≤ ((mach [(4, 3)]).g 4).toNat ∧
    2 ^ 10 ≤ ((mach [(5, 1024)]).g 5).toNat ∧ ((mach []).g 1).toNat = (mach []).vdOfThread 0 ∧ ((mach []).vd 0).live = true ∧
    (mach []).g 1 = 0 ∧ (mach [(6, 1)]).g 6 = 1 ∧ (mach [(3, 2)]).g 3 = 2 :=
  ⟨idle_of (by decide), by decide, by decide, by decide, by decide, by decide, by decide, by decide, by decide⟩

/-- Regions 0 and 1 of the device on core 0: 0 active and drained, 1 swapped out; g1 names region 1, g2 a core mask, g3 is 1. -/
def tileSt (status : RStatus) : State :=
  { mach [(1, 1), (2, 1), (3, 1), (4, pad 0)] with
    regions := [(0, { reg0 with status := status, drained := true }), (1, { reg0 with activeNow := false })] }

theorem witness_tile_issue : (tileSt .running).me.tiles < 64 ∧ Ready (tileSt .running) [5, 6, 1] [6, 1] ∧ (tileSt .running).g 6 = 0 ∧
    (tileSt .running).g 1 ≠ 0 ∧ ((tileSt .running).g 1).toNat ≤ 2 ^ 32 ∧ 1 ≤ (5 : BitVec 3).toNat ∧ (5 : BitVec 3).toNat ≤ 5 ∧
    (tileSt .running).me.level ≠ 0 ∧ ((tileSt .running).g 1).toNat < 2 ∧ ((tileSt .running).g 6).toNat = (tileSt .running).vdOfThread 0 ∧
    ((tileSt .running).vd 0).live = true ∧ ((tileSt .running).vd 0).mode = .active ∧
    (({ tileSt .running with vds := [(0, { dev0 with mode := .dormant })] } : State).vd 0).mode = .dormant :=
  ⟨by decide, ⟨idle_of (by decide), clean_of (by decide)⟩, by decide, by decide, by decide, by decide, by decide, by decide, by decide,
   by decide, by decide, by decide, by decide⟩

theorem witness_tile_issue_regions : NamesRegion (tileSt .running) ((tileSt .running).g 6) 0 ∧
    NamesRegion (tileSt .running) ((tileSt .running).g 1) 1 ∧
    ((tileSt .loaded).region 0).status ≠ .running ∧ ((tileSt .loaded).region 0).rank ≤ (tileSt .loaded).me.hrank.toNat % 8 ∧
    ((tileSt .running).region 0).activeNow = true ∧ ((tileSt .running).region 1).activeNow = false ∧
    ((tileSt .running).region 1).status ≠ .loading ∧ ((tileSt .running).region 1).cores = ((tileSt .running).region 0).cores :=
  ⟨⟨by decide, by decide, by decide, by decide⟩, ⟨by decide, by decide, by decide, by decide⟩, by decide, by decide, by decide, by decide,
   by decide, by decide⟩

/-- The length of an image is a constant of Config without a value: an image of one line fits a scratchpad. -/
theorem witness_tile_issue_save (h : Config.imageLen 0 = 64) : ((tileSt .running).g 4).toNat % 4096 = 0 ∧
    ((tileSt .running).region 0).drained = true ∧
    (tileSt .running).areaFault (hwWho 0 0) ((tileSt .running).g 4).toNat .wr (Config.imageLen (tileSt .running).imageId) = none := by
  refine ⟨by decide, by decide, ?_⟩
  show (tileSt .running).areaFault (hwWho 0 0) ((tileSt .running).g 4).toNat .wr (Config.imageLen 0) = none
  rw [h]; rfl

/-- A saved image of the device, of no bytes. -/
def img0 : SavedImage :=
  { id := 0, vd := 0, area := pad 0, len := 0, region := reg0, rid := 0, elems := [], units := [], accs := [], bytes := [], journal := [],
    watches := [], salloc := [], marks := [], words := [], issue := [], pool := [], net := [], ctl := [] }
/-- A region descriptor in the scratchpad's first two lines with its list behind it: one core, one configuration. -/
def descMem : List Host.Cell := putAll [] [(padP 0, 8, (pad 0x100).toNat), (padP 0x18, 2, 1), (padP 0x1B, 1, 1)]
def loadSt : State := { mach [(1, pad 0), (2, 1)] with images := [img0], mem := descMem }

theorem witness_tile_issue_restore : (loadSt.g 1).toNat % 4096 = 0 ∧ (loadSt.g 2).toNat < 2 ^ 24 ∧
    loadSt.resolve (hwWho 0 0) (loadSt.g 1) .rd = .ok (padP 0) 3 ∧ loadSt.imageAt (hwWho 0 0) (loadSt.g 1) = some img0 ∧
    img0.vd = loadSt.vdOfThread 0 ∧ ((List.range 24).countP fun k => (loadSt.g 2).getLsbD k) = img0.region.cores.length :=
  ⟨by decide, by decide, by rfl, by rfl, by decide, by decide⟩

theorem witness_tile_issue_load : ((loadSt.readDesc (hwWho 0 0) (loadSt.g 1)).toOption.map fun x => (x.declEdge, x.rank)) = some (0, 0) ∧
    loadSt.descCores (hwWho 0 0) (loadSt.g 1) = .ok 1 ∧ ((List.range 24).countP fun k => (loadSt.g 2).getLsbD k) = 1 ∧
    loadSt.freePlace (clusterOfThread 0) = some 0 ∧ loadSt.me.fedge = 0 ∧
    ∀ p < 64, (({ loadSt with regions := (List.range 64).map fun p => (p, { live := true }) } : State).region (64 * 0 + p)).live = true :=
  ⟨by decide +kernel, by rfl, by decide, by rfl, by decide, by decide +kernel⟩

/-- An outstanding tile operation of thread 0 with region 0 as given. -/
def tileOp1 (o : TileOp) (x : RegionState) : State := { op1 (.tile o) with regions := [(0, x)] }

theorem witness_tile_performed : (((tileOp1 (.rgnkill 0) reg0).thread 0).ops[0]?).map (·.kind) = some (.tile (.rgnkill 0)) ∧
    ((tileOp1 (.rgnkill 0) reg0).region (0 % 256)).live = true ∧ (tileOp1 (.rgnkill 0) reg0).rid (0 % 256) = 0 ∧
    ((tileOp1 (.rgnkill 0) reg0).region 0).status ≠ .loading ∧
    (((tileOp1 (.rgnkill 0) { reg0 with status := .loading, task := some 0x40 }).region 0).status = .loading ∧
      ((tileOp1 (.rgnkill 0) { reg0 with status := .loading, task := some 0x40 }).region 0).task ≠ none) ∧
    (((tileOp1 (.rgndrain 0) { reg0 with drained := true }).region 0).status = .running ∧
      ((tileOp1 (.rgndrain 0) { reg0 with drained := true }).region 0).drained = true) ∧
    ((tileOp1 (.rgndrain 0) { reg0 with frozenEnd := true }).region 0).frozenEnd = true ∧
    ((tileOp1 (.rgndrain 0) { reg0 with frozenEnd := true }).region 0).drained = false ∧
    ((tileOp1 (.rgndrain 0) { reg0 with draining := true }).region 0).draining = true ∧
    (((tileOp1 (.rgnstart 0 0) { reg0 with status := .loaded, loadFault := 0x12 }).region 0).status = .loaded ∧
      ((tileOp1 (.rgnstart 0 0) { reg0 with status := .loaded, loadFault := 0x12 }).region 0).load = none) := by decide

theorem witness_tile_performed_caches : (((op1 (.tile (.tlbinv true 0))).thread 0).ops[0]?).map (·.kind) = some (.tile (.tlbinv true 0)) ∧
    (∀ j y, j < 0 → ((op1 (.tile (.tlbinv true 0))).thread 0).ops[j]? = some y → y.isStore = false ∧ y.isLoad = false ∧ y.isFrame = false) ∧
    (op1 (.tile (.tlbinv true 0))).repair = [] ∧
    (((op1 (.tile (.cflush true 0 64 1))).thread 0).ops[0]?).map (·.kind) = some (.tile (.cflush true 0 64 1)) :=
  ⟨by decide, fun _ _ h => absurd h (by omega), by decide, by decide⟩

/-! ## Witnesses: elements -/

/-- A token of a kind with a payload, for a port of slot 0. -/
def tokOn (kind : BitVec 4) (port : Nat) (pay : Word) : Token :=
  { rsv := 0, net := false, last := false, kind := kind, dest := 0, port := BitVec.ofNat 2 port, slot := 0, chan := 0, seq := 0, ctx := 0,
    iter := 0, payload := pay }
/-- Entries of the matching store with stamps from `n` on: kind, port, payload. -/
def entsFrom : Nat → List (BitVec 4 × Nat × Word) → List (Nat × MsEntry)
  | _, [] => []
  | n, (k, p, v) :: r => (p, { tok := tokOn k p v, stamp := n, pend := false }) :: entsFrom (n + 1) r
/-- Slot 0 of element `a` of region 0 fires with the set given: kind, port, payload. Every channel entry is the reset value (INT64). -/
def elK (a : Nat) (l : List (BitVec 4 × Nat × Word)) : State :=
  { mach [] with
    regions := [(0, { reg0 with cores := [0, 1] })]
    site := { r := 0, a := a, slot := 0, ents := entsFrom 0 l }
    elems := [(a, { store := (entsFrom 0 l).map (·.2), stamp := l.length })] }
/-- The same with data tokens. -/
def el (a : Nat) (l : List (Nat × Word)) : State := elK a (l.map fun q => (0, q.1, q.2))

theorem poisonAt_clean (x : Site) (h : (x.ents.all fun e => e.2.tok.kind != 7) = true) (hl : x.lats = []) (k : Nat) :
    x.poisonAt k = false := by
  unfold Site.poisonAt Site.fed Site.entry
  cases hf : x.ents.find? fun e => e.1 == k with
  | none => simp [hl]
  | some q =>
    obtain ⟨i, m⟩ := q
    have := List.all_eq_true.mp h _ (List.mem_of_find?_eq_some hf)
    simpa using this
theorem canFire_of {s : State} {w : Slot} (ha : s.site.a < 65536) (h : (s.site.ents.all fun e => e.2.tok.kind != 7) = true)
    (hl : s.site.lats = []) (hw : w.fire ≠ 2) : CanFire s w := ⟨ha, poisonAt_clean _ h hl, fun e => absurd e hw⟩

theorem witness_compute : computeOf (.elemAdd (slot1 0 2 0 0)) = some (slot1 0 2 0 0, cAdd) ∧
    CanFire (el 0 [(0, 7), (1, 5)]) (slot1 0 2 0 0) ∧ cAdd ((el 0 [(0, 7), (1, 5)]).fin (slot1 0 2 0 0)) = .val 12 0 false ∧
    ∃ l, tokensOf (el 0 [(0, 7), (1, 5)]) (slot1 0 2 0 0) .both ((el 0 [(0, 7), (1, 5)]).out (slot1 0 2 0 0) (BitVec.ofNat 64 12)) = some l :=
  ⟨rfl, canFire_of (by decide) (by decide) rfl (by decide), by decide +kernel, _, rfl⟩

/-- The slot of the worked example of DFASTEP. -/
def dfaSlot : Slot := { slot1 1 2 0 0x28C with d0 := dTo 0x44 0 0 }

theorem witness_dfastep : CanFire (el 63 [(0, 0x51), (1, 0x80)]) dfaSlot ∧ Shape dfaSlot [2] (List.range 24) [0] ∧
    (((el 63 [(0, 0x51), (1, 0x80)]).fin dfaSlot).a.raw % 2 ^ 32 * 256 + ((el 63 [(0, 0x51), (1, 0x80)]).fin dfaSlot).b.raw % 256) * 2 < 2 ^ 41 ∧
    64 ≤ dfaSlot.d0.elem.toNat % 128 ∧ dfaSlot.d0.elem.toNat % 128 < 80 ∧ dfaSlot.const.toNat < 2 ^ 23 ∧
    ∃ l, tokensOf (el 63 [(0, 0x51), (1, 0x80)]) dfaSlot .d0 { (el 63 [(0, 0x51), (1, 0x80)]).out dfaSlot 0 with kind := 2 } = some l :=
  ⟨canFire_of (by decide) (by decide) rfl (by decide), by unfold Shape; decide, by decide +kernel, by decide, by decide, by decide, _, rfl⟩

theorem witness_integer_lane : WholeWords ((el 0 [(0, 7), (1, 5)]).fin (slot1 1 2 0 0)) 2 ∧ WholeWords ((el 0 [(0, 7)]).fin (slot1 0 1 0 0)) 1 ∧
    WholeWords ((el 0 [(0, 7), (1, 5), (2, 1)]).fin (slot1 0 3 0 0)) 3 :=
  ⟨⟨rfl, rfl, by decide +kernel, rfl, rfl⟩, ⟨rfl, rfl, by decide +kernel, rfl, rfl⟩, ⟨rfl, rfl, by decide +kernel, rfl, rfl⟩⟩

/-- ADD whose output channel 1 is INT32. -/
def i32out : State := (el 0 [(0, 7), (1, 5)]).updElem 0 0 fun e => e.updBank fun b => { b with chans := [(1, 1)] }

theorem witness_bad_forms : cAdd ((el 0 [(0, 7)]).fin (slot1 0 1 0 0)) = .illegal ∧
    CanFire i32out { slot1 0 2 0 0 with out := 1 } ∧ cAdd (i32out.fin { slot1 0 2 0 0 with out := 1 }) = .malformed :=
  ⟨by decide +kernel, canFire_of (by decide) (by decide) rfl (by decide), by decide +kernel⟩

theorem witness_poison_at_elements : cAdd ((elK 0 [(7, 0, 9), (0, 1, 5)]).fin (slot1 0 2 0 0)) ≠ .illegal ∧
    (∀ k ∈ controlPorts (.elemAdd (slot1 0 2 0 0)), (elK 0 [(7, 0, 9), (0, 1, 5)]).site.poisonAt k = false) ∧
    (elK 0 [(7, 0, 9), (0, 1, 5)]).site.firstPoison = some 9 ∧
    (∃ l, tokensOf (elK 0 [(7, 0, 9), (0, 1, 5)]) (slot1 0 2 0 0) .both
      { (elK 0 [(7, 0, 9), (0, 1, 5)]).out (slot1 0 2 0 0) 9 with kind := 7 } = some l) ∧
    (2 ∈ controlPorts (.sel (slot1 0 3 0 0)) ∧ (elK 0 [(0, 0, 1), (0, 1, 2), (7, 2, 9)]).site.poisonAt 2 = true ∧
      cSel ((elK 0 [(0, 0, 1), (0, 1, 2), (7, 2, 9)]).fin (slot1 0 3 0 0)) ≠ .illegal) :=
  ⟨by decide +kernel, by decide, by decide, ⟨_, rfl⟩, by decide, by decide, by decide +kernel⟩

theorem witness_flow : (CanFire (el 95 [(0, 7), (1, 1)]) (slot1 0 2 0 0) ∧ Shape (slot1 0 2 0 0) [2] [0] [0] ∧
      ((inputOf (el 95 [(0, 7), (1, 1)]) (slot1 0 2 0 0)).op 0).fmt.lanes = (inputOf (el 95 [(0, 7), (1, 1)]) (slot1 0 2 0 0)).out.fmt.lanes ∧
      (∃ l, tokensOf (el 95 [(0, 7), (1, 1)]) (slot1 0 2 0 0) .d0 ((el 95 [(0, 7), (1, 1)]).out (slot1 0 2 0 0) 7) = some l) ∧
      (∃ l, tokensOf (el 95 [(0, 7), (1, 1)]) (slot1 0 2 0 0) .d1 ((el 95 [(0, 7), (1, 1)]).out (slot1 0 2 0 0) 7) = some l)) ∧
    (CanFire (el 0 [(1, 7)]) { slot1 0 2 0 0 with fire := 1 } ∧ Shape { slot1 0 2 0 0 with fire := 1 } [1, 2, 3] [0] [0] ∧
      (el 0 [(1, 7)]).site.ents = (1, { tok := tokOn 0 1 7, stamp := 0, pend := false }) :: [] ∧
      ((inputOf (el 0 [(1, 7)]) { slot1 0 2 0 0 with fire := 1 }).op 1).fmt.lanes =
        (inputOf (el 0 [(1, 7)]) { slot1 0 2 0 0 with fire := 1 }).out.fmt.lanes) ∧
    (CanFire (el 0 [(0, 7)]) (slot1 1 1 1 5) ∧ Shape (slot1 1 1 1 5) [1] [0, 1] [0, 1] ∧ Shape (slot1 0 1 1 0) [1, 2, 3] [0] [0, 1] ∧
      Shape (slot1 0 1 0 0) [1] [0] [0] ∧ (inputOf (el 0 [(0, 7)]) (slot1 0 1 0 0)).out.fmt = .i64) :=
  ⟨⟨canFire_of (by decide) (by decide) rfl (by decide), by unfold Shape; decide, by decide +kernel, ⟨_, rfl⟩, ⟨_, rfl⟩⟩,
   ⟨canFire_of (by decide) (by decide) rfl (by decide), by unfold Shape; decide, rfl, by decide +kernel⟩,
   ⟨canFire_of (by decide) (by decide) rfl (by decide), by unfold Shape; decide, by unfold Shape; decide, by unfold Shape; decide, by decide +kernel⟩⟩

/-- A slot of rule 2. -/
def gateSlot (flags : BitVec 3) : Slot := { slot1 0 2 flags 0 with fire := 2 }

theorem witness_gates : Shape (gateSlot 0) [1, 2] [0] [0, 1] ∧ (el 0 [(0, 7), (1, 1), (3, 0)]).site.fed 3 = some (0, 0, false) ∧
    ((0 : Word) ≠ 0 ↔ (gateSlot 0).flags = 1) ∧ ¬ ((0 : Word) ≠ 0 ↔ (gateSlot 1).flags = 1) ∧
    (∀ k, (el 0 [(0, 7), (1, 1), (3, 0)]).site.poisonAt k = false) ∧
    ((inputOf (el 0 [(0, 7), (1, 1), (3, 0)]) (gateSlot 1)).op 0).fmt.lanes =
      (inputOf (el 0 [(0, 7), (1, 1), (3, 0)]) (gateSlot 1)).out.fmt.lanes ∧
    cAdd ((el 0 [(0, 7), (1, 1), (3, 0)]).fin (gateSlot 0)) ≠ .illegal :=
  ⟨by unfold Shape; decide, by decide, by decide, by decide, poisonAt_clean _ (by decide) rfl, by decide +kernel, by decide +kernel⟩

/-- Slot 0 of element 0 fires under context 3, a child of context 0 at iteration 9; context 2 is free and context 1 bound. -/
def ctxSt (l : List (Nat × Word)) : State :=
  let s := el 0 l
  { s with
    regions := [(0, { reg0 with cores := [0, 1], ctxs := [(1, { bound := true }), (3, { bound := true, iter := 9 })] })]
    site := { s.site with tag := mkTag 3 5 } }

theorem witness_contexts : CanFire (ctxSt [(0, 1), (1, 3)]) (slot1 0 2 0 0) ∧ ctxBound ((ctxSt [(0, 1), (1, 0x30007)]).region 0) 3 = true ∧
    (0x30007 : Nat) < 2 ^ 28 ∧ (3 : Nat) < 16 ∧
    (∃ k, childOf ((ctxSt [(0, 1)]).region 0) (mkTag 0 9) = some k) ∧
    childOf ((ctxSt [(0, 1)]).region 0) (ctxSt [(0, 1)]).site.tag = none ∧ ctxBound ((ctxSt [(0, 1)]).region 0) 2 = false ∧
    (∀ j < 2, ctxBound ((ctxSt [(0, 1)]).region 0) j = true) ∧
    parentTag ((ctxSt [(0, 1)]).region 0) (tagCtx (ctxSt [(0, 1)]).site.tag) = some (mkTag 0 9) ∧
    payOf (inputOf (ctxSt [(0, 1)]) (slot1 0 1 0 0)) 0 = 1 ∧
    (∀ k < 256, ctxBound ({ ctxs := (List.range 256).map fun k => (k, { bound := true, iter := 7 }) } : RegionState) k = true) ∧
    childOf ({ ctxs := (List.range 256).map fun k => (k, { bound := true, iter := 7 }) } : RegionState) (mkTag 0 8) = none :=
  ⟨canFire_of (by decide) (by decide) rfl (by decide), by decide, by decide, by decide, ⟨3, by decide⟩, by decide, by decide, by decide, by decide,
   by decide +kernel, by decide +kernel, by decide +kernel⟩

theorem witness_binding : CanFire (el 63 [(0, 4)]) (slot1 31 1 0 0) ∧ payOf (inputOf (el 63 [(0, 4)]) (slot1 31 1 0 0)) 0 < 2 ^ 32 ∧
    Shape (slot1 31 1 0 0) [1] (List.range 32) [0] ∧ Shape (slot1 15 1 0 0) [1] (List.range 16) [0] ∧
    (Chan.ofBits? (payOf (inputOf (el 63 [(0, 4)]) (slot1 31 1 0 0)) 0)).isSome = true ∧
    ((inputOf (el 63 [(0, 4)]) (slot1 31 1 0 0)).op 0).fmt.lanes = (inputOf (el 63 [(0, 4)]) (slot1 31 1 0 0)).out.fmt.lanes :=
  ⟨canFire_of (by decide) (by decide) rfl (by decide), by decide +kernel, by unfold Shape; decide, by unfold Shape; decide, by decide +kernel,
   by decide +kernel⟩

/-- The set of `el` with the last bit set, and the state of the element changed. -/
def elLast (a : Nat) (l : List (Nat × Word)) : State := { el a l with site := { (el a l).site with last := true } }
def elWith (s : State) (f : ElemState → ElemState) : State := s.updElem s.site.r s.site.a f

theorem witness_loops : CanFire (el 0 [(0, 0x300000002)]) (slot1 0 1 0 0) ∧ Shape (slot1 0 1 0 0) [1, 2] [0] [0] ∧
    ((el 0 [(0, 0x300000002)]).site.entry 0).map (·.tok.kind.toNat) = some 0 ∧
    ((inputOf (el 0 [(0, 0x300000002)]) (slot1 0 1 0 0)).op 0).fmt.lanes = (inputOf (el 0 [(0, 0x300000002)]) (slot1 0 1 0 0)).out.fmt.lanes ∧
    payOf (inputOf (el 0 [(0, 0x300000002)]) (slot1 0 1 0 0)) 0 / 2 ^ 32 = 3 ∧
    payOf (inputOf (el 0 [(0, 0x300000002)]) (slot1 0 1 0 0)) 0 % 2 ^ 32 = 2 ∧
    (∃ l, tokensOf (el 0 [(0, 7)]) { slot1 0 1 0 0 with d0 := dTo 1 0 3 } .d0
      { (el 0 [(0, 7)]).out { slot1 0 1 0 0 with d0 := dTo 1 0 3 } 0 with kind := 6 } = some l) ∧
    ((inputOf (el 0 [(0, 7)]) { slot1 0 1 0 0 with d0 := dTo 1 0 3 }).op 0).fmt.lanes =
      (inputOf (el 0 [(0, 7)]) { slot1 0 1 0 0 with d0 := dTo 1 0 3 }).out.fmt.lanes :=
  ⟨canFire_of (by decide) (by decide) rfl (by decide), by unfold Shape; decide, by decide, by decide +kernel, by decide +kernel, by decide +kernel, ⟨_, rfl⟩,
   by decide +kernel⟩

/-- An open accumulation of slot 0 under context 0. -/
def accum0 (last : Bool) : State :=
  elWith (if last then elLast 0 [(0, 7)] else el 0 [(0, 7)]) fun e =>
    { e with accums := [{ slot := 0, ctx := 0, it0 := 0, next := 0, seq := 0, value := 5, poison := none }] }

theorem witness_accum : CanFire (el 0 [(1, 5)]) (slot1 1 2 0 0) ∧ Shape (slot1 1 2 0 0) [2] [0, 1] [0] ∧
    (inputOf (el 0 [(1, 5)]) (slot1 1 2 0 0)).out.fmt.cls ≠ .raw ∧
    (inputOf (el 0 [(1, 5)]) (slot1 1 2 0 0)).b.fmt = (inputOf (el 0 [(1, 5)]) (slot1 1 2 0 0)).out.fmt ∧
    CanFire (accum0 false) (slot1 1 2 0 0) ∧
    (((accum0 false).elem 0 0).accums.find? (fun z => z.slot == 0 && z.ctx.toNat == tagCtx (accum0 false).site.tag)).isSome = true ∧
    (inputOf (accum0 false) (slot1 1 2 0 0)).a.fmt.cls = (inputOf (accum0 false) (slot1 1 2 0 0)).out.fmt.cls ∧
    (inputOf (accum0 false) (slot1 1 2 0 0)).a.fmt.lanes = (inputOf (accum0 false) (slot1 1 2 0 0)).out.fmt.lanes ∧
    (inputOf (accum0 false) (slot1 1 2 0 0)).out.fmt.cls ≠ .raw ∧
    (accum0 false).site.last = false ∧ (accum0 true).site.last = true ∧
    (∃ l, tokensOf (accum0 true) (slot1 1 2 0 0) .both { (accum0 true).out (slot1 1 2 0 0) 12 with last := false } = some l) :=
  ⟨canFire_of (by decide) (by decide) rfl (by decide), by unfold Shape; decide, by decide +kernel, by decide +kernel,
   canFire_of (by decide) (by decide) rfl (by decide), by decide, by decide +kernel, by decide +kernel, by decide +kernel, by decide, by decide, ⟨_, rfl⟩⟩

/-- A row's token whose channel 1 is FP32; the row keeps 1 entry. -/
def rowSt (last : Bool) : State :=
  let s := if last then elLast 0 [(0, 0x3F800000)] else el 0 [(0, 0x3F800000)]
  let e : List (Nat × MsEntry) := [(0, { tok := { tokOn 0 0 0x3F800000 with chan := 1 }, stamp := 0, pend := false })]
  elWith { s with site := { s.site with ents := e } } fun x => x.updBank fun b => { b with chans := [(1, 4)] }
def row0 : RowSel := { slot := 0, tag := 0, taken := 0, lanes := 0, elems := [], dead := false }

theorem witness_rows : CanFire (rowSt false) (slot1 0 1 0 1) ∧ Shape (slot1 0 1 0 1) [1] [0, 1] [0, 1] ∧
    ((rowSt false).elem 0 0).rows = [] ∧ rowBad (inputOf (rowSt false) (slot1 0 1 0 1)) (slot1 0 1 0 1) row0 = false ∧
    (rowSt true).site.last = true ∧ (rowSt false).site.last = false ∧
    ∃ f g : Emission → List Flight, ∀ q, q.kind = 0 → q.tag = (rowSt true).site.tag →
      tokenTo (rowSt true) (slot1 0 1 0 1).d0 q = some (f q) ∧ tokenTo (rowSt true) (slot1 0 1 0 1).d1 q = some (g q) := by
  refine ⟨canFire_of (by decide) (by decide) rfl (by decide), by unfold Shape; decide, by decide, by decide +kernel, by decide, by decide,
    fun q => (tokenTo (rowSt true) (slot1 0 1 0 1).d0 q).getD [], fun _ => [], fun q _ _ => ⟨?_, by rfl⟩⟩
  simp [tokenTo, slot1, dTo, applyTagOp]

theorem witness_merging : (el 0 [(0, 3), (1, 4)]).site.ents = [(0, { tok := tokOn 0 0 3, stamp := 0, pend := false }),
      (1, { tok := tokOn 0 1 4, stamp := 1, pend := false })] ∧ Shape (slot1 1 2 0 0) [2] [0, 1] [0] ∧
    (tokOn 0 0 3).kind ≠ 7 ∧ (tokOn 0 0 3).payload.toNat % 2 ^ 32 ≠ 0xFFFFFFFF ∧
    mergeOf ((el 0 [(0, 3), (1, 4)]).elem 0 0) 0 0 =
      { slot := 0, tag := 0, lastA := none, lastB := none, endA := false, endB := false, stopped := false } ∧
    (tokOn 0 0 3).payload.toNat % 2 ^ 32 < (tokOn 0 1 4).payload.toNat % 2 ^ 32 ∧
    (tokOn 0 0 4).payload.toNat % 2 ^ 32 = (tokOn 0 1 (0x700000004)).payload.toNat % 2 ^ 32 ∧
    (∃ l, tokensOf (el 0 [(0, 3), (1, 4)]) (slot1 1 2 0 0) .d0 ((el 0 [(0, 3), (1, 4)]).out (slot1 1 2 0 0) 3) = some l) ∧
    (∃ l, tokensOf (el 0 [(0, 3), (1, 4)]) (slot1 1 2 0 0) .d1 ((el 0 [(0, 3), (1, 4)]).out (slot1 1 2 0 0) 3) = some l) ∧
    (∀ k < 2, ((inputOf (el 0 [(0, 3), (1, 4)]) (slot1 1 2 0 0)).op k).fmt.lanes = (inputOf (el 0 [(0, 3), (1, 4)]) (slot1 1 2 0 0)).out.fmt.lanes) :=
  ⟨rfl, by unfold Shape; decide, by decide, by decide, by decide, by decide, by decide, ⟨_, rfl⟩, ⟨_, rfl⟩, by decide +kernel⟩

/-- The device holds port 0 of die 0, full or not, and queue 0; region 0 runs task 0x40 or none. -/
def sysEl (l : List (Nat × Word)) (n : Nat) (task : Option Word) : State :=
  let s := el 0 l
  { s with
    vds := [(0, { dev0 with ports := [0], queues := [0] })]
    regions := [(0, { reg0 with task := task })]
    ports := [(0, { fifo := List.replicate n { vd := 0, r := none, tok := tokOn 0 0 0 } })]
    queues := [(0, { bound := true })]
    cores := [(0, { watches := List.replicate (n / 32) { r := 0, elem := 0, slot := 0, tag := 0, seq := 0, last := false, addr := 0,
                                                          target := 0, scope := 0, d0 := dNone, d1 := dNone, chan := 0 } })] }
/-- A slot without destinations. -/
def slot0 (fn : BitVec 5) (arity : BitVec 2) (const : BitVec 32) : Slot := { slot1 fn arity 0 const with d0 := dNone }

theorem witness_system_ports : CanFire (sysEl [(0, 7)] 0 none) (slot0 0 1 0) ∧ Shape (slot0 0 1 0) [1] [0] [0] ∧
    (sysEl [(0, 7)] 0 none).portOf ((sysEl [(0, 7)] 0 none).region 0).vd 0 (1 : BitVec 32).toNat = none ∧
    (sysEl [(0, 7)] 0 none).portOf ((sysEl [(0, 7)] 0 none).region 0).vd 0 (0 : BitVec 32).toNat = some 0 ∧
    (sysEl [(0, 7)] 0 none).portTakes 0 = true ∧ (sysEl [(0, 7)] 256 none).portTakes 0 = false :=
  ⟨canFire_of (by decide) (by decide) rfl (by decide), by unfold Shape; decide, by decide, by decide, by decide +kernel, by decide +kernel⟩

theorem witness_system_elements : (Shape (slot1 1 1 0 0x7FFF) [1] [1] [0] ∧ (0x7FFF : BitVec 32).toNat < 2 ^ 15 ∧
      ((inputOf (sysEl [(0, 7)] 0 none) (slot1 1 1 0 0x7FFF)).op 0).fmt.lanes = (inputOf (sysEl [(0, 7)] 0 none) (slot1 1 1 0 0x7FFF)).out.fmt.lanes) ∧
    (Shape (slot1 5 1 0 0) [1] [1, 2, 3, 4, 5] [0] ∧ ((sysEl [(0, 7)] 0 none).region 0).task = none ∧
      ((sysEl [(0, 7)] 0 (some 0x40)).region 0).task = some 0x40 ∧ ((sysEl [(0, 7)] 0 (some 0x40)).region 0).triggered = false) ∧
    (((sysEl [(0, 7)] 0 none).region 0).lead = none ∧ ((sysEl [(0, 7)] 0 none).region 0).doneRecv = false ∧
      (({ sysEl [(0, 7)] 0 none with regions := [(0, { reg0 with doneRecv := true })] } : State).region 0).doneRecv = true ∧
      (({ sysEl [(0, 7)] 0 none with regions := [(0, { reg0 with lead := some 1 })] } : State).region 0).lead ≠ none) ∧
    (((sysEl [(0, 7), (1, 8)] 0 none).core 0).watches.length < 8 ∧ 8 ≤ ((sysEl [(0, 7), (1, 8)] 256 none).core 0).watches.length ∧
      CanFire (sysEl [(0, 7), (1, 8)] 256 none) (slot1 1 2 0 0)) ∧
    (isEngineGate (dTo 103 0 0) = true ∧ (sysEl [(0, 64)] 0 none).queueVd 0 = some ((sysEl [(0, 64)] 0 none).region 0).vd ∧
      ((sysEl [(0, 64)] 0 none).queue 0).bound = true ∧ ((sysEl [(0, 64)] 0 none).queue 0).run = false ∧
      payOf (inputOf (sysEl [(0, 64)] 0 none) (slot1 0 1 0 0)) 0 % 64 = 0) :=
  ⟨⟨by unfold Shape; decide, by decide, by decide +kernel⟩, ⟨by unfold Shape; decide, by decide, by decide, by decide⟩,
   ⟨by decide, by decide, by decide, by decide⟩, ⟨by decide, by decide +kernel, canFire_of (by decide) (by decide) rfl (by decide)⟩, by decide, by decide, by decide, by decide, by decide +kernel⟩

theorem witness_memory_elements : CanFire (el 79 [(0, 0x40), (1, 8), (2, 1)]) (slot1 3 3 5 7) ∧
    ((el 79 [(0, 0x40), (1, 8), (2, 1)]).elem 0 79).queue.length < 64 ∧ (el 79 [(0, 0x40), (1, 8), (2, 1)]).site.kindA ∈ [0, 3] ∧
    Shape (slot1 31 1 5 7) [1] (List.range 32) (List.range 6) ∧
    AddressPort (el 79 [(0, 0x40)]) (slot1 31 1 5 7) 0x40 0x40 (.dests (slot1 31 1 5 7).d0 (slot1 31 1 5 7).d1 (slot1 31 1 5 7).out) ∧
    AddressPort (elK 79 [(2, 0, 0x40)]) (slot1 31 1 5 7) 0x40 0x40 (.cont 0 0 0 0) ∧
    ((inputOf (el 79 [(0, 0)]) (slot1 3 1 0 0)).op 0).fmt.cls = .int ∧ ((inputOf (el 79 [(0, 0)]) (slot1 3 1 0 0)).op 0).fmt.lanes * 8 ≤ 8 ∧
    redFmtOk ((inputOf (el 79 [(0, 0), (1, 1), (2, 0)]) (slot1 3 3 0 0)).op 1).fmt ((3 : Nat) < 2) 8 = true ∧
    payOf (inputOf (el 79 [(0, 0x40), (1, 8), (2, 1)]) (slot1 3 3 5 7)) 2 < 2 ^ 16 ∧ Shape (slot1 12 1 5 0) [1] [4, 8, 12] (List.range 6) :=
  ⟨canFire_of (by decide) (by decide) rfl (by decide), by decide, by decide, by unfold Shape; decide, .inl ⟨by decide, by decide, rfl, rfl⟩,
   .inr ⟨by decide, by decide, by decide, _, rfl, rfl⟩, by decide +kernel, by decide +kernel, by decide +kernel, by decide +kernel,
   by unfold Shape; decide⟩

theorem witness_aperture_elements : (∃ l, tokensOf (el 64 [(0, 0)]) (slot1 4 1 1 7) .both ((el 64 [(0, 0)]).out (slot1 4 1 1 7) 0) = some l) ∧
    Shape (slot1 4 1 1 7) [1] (List.range 5) [1] ∧ Shape (slot1 4 1 0 0) [1] (List.range 5) [0] ∧ (slot1 4 1 1 7).fire ≠ 1 :=
  ⟨⟨_, rfl⟩, by unfold Shape; decide, by unfold Shape; decide, by decide⟩

/-- Context 0 holds an open demand fibre; all four are taken. -/
def fibre0 : StreamCtx := { kind := .fibDemand, slot := 0, tag := 0, seq := 0, dst := .cont 0 0 0 0, base := 0, begun := true }
def fibSt : State := elWith (el 64 [(0, 0)]) fun e => { e with ctxs := [(0, fibre0), (1, fibre0), (2, fibre0), (3, fibre0)] }

theorem witness_streams : CanFire (el 64 [(0, 0)]) (slot1 0 1 0 7) ∧ freeStream ((el 64 [(0, 0)]).elem 0 64) = some 0 ∧
    Shape (slot1 0 1 0 7) [1, 2] [0] [0] ∧ payOf (inputOf (el 64 [(0, 0)]) (slot1 0 1 0 7)) 0 < 2 ^ 32 ∧
    CanFire fibSt (slot1 0 1 0 0) ∧ freeStream (fibSt.elem 0 64) = none ∧
    fibSt.fibreOf (payOf (inputOf fibSt (slot1 0 1 0 0)) 0) = some fibre0 ∧ payOf (inputOf fibSt (slot1 0 1 0 0)) 0 < 4 :=
  ⟨canFire_of (by decide) (by decide) rfl (by decide), by decide, by unfold Shape; decide, by decide +kernel,
   canFire_of (by decide) (by decide) rfl (by decide), by decide, by decide +kernel, by decide +kernel⟩

/-- ACC.CHK of accumulator 255 for engine 2. -/
def chkSlot : Slot := { slot1 0 1 0 0 with d0 := dTo 98 0 0 }

theorem witness_matrix_elements : engineOf (inputOf (el 63 [(0, 255)]) chkSlot) (.accChk chkSlot) = some (chkSlot, .accChk) ∧
    CanFire (el 63 [(0, 255)]) chkSlot ∧ portOfMx chkSlot 63 = some 2 ∧
    (engineOf (inputOf (el 63 [(0, 255), (1, 0)]) { slot1 0 2 0 0 with d0 := dTo 98 0 0 })
      (.sclLd { slot1 0 2 0 0 with d0 := dTo 98 0 0 })).isSome = true :=
  ⟨by decide +kernel, canFire_of (by decide) (by decide) rfl (by decide), by decide, by decide +kernel⟩

/-- Element 63 with every channel 0 of one format. -/
def mxEl (fmt : BitVec 32) (l : List (Nat × Word)) : State := elWith (el 63 l) fun e => e.updBank fun b => { b with chans := [(0, fmt)] }
/-- A slot whose dest0 is engine 0. -/
def mxSlot (arity : BitVec 2) (flags : BitVec 3) (const : BitVec 32) : Slot := { slot1 0 arity flags const with d0 := dTo 96 0 0 }

theorem witness_matrix_forms :
    (engineOf (inputOf (mxEl 9 [(0, 0), (1, 0)]) (mxSlot 2 0 0)) (.mma (mxSlot 2 0 0))).isSome = true ∧
    (engineOf (inputOf (mxEl 9 [(0, 0), (1, 0)]) (mxSlot 2 1 0)) (.mmaZ (mxSlot 2 1 0))).isSome = true ∧
    (engineOf (inputOf (mxEl 4 [(0, 0x1FFF)]) (mxSlot 1 1 0)) (.accRd (mxSlot 1 1 0))).isSome = true ∧
    (engineOf (inputOf (mxEl 4 [(0, 255), (1, 0)]) (mxSlot 2 1 0)) (.accWr (mxSlot 2 1 0))).isSome = true ∧
    (engineOf (inputOf (mxEl 9 [(0, 255), (1, 0), (2, 0)]) (mxSlot 3 0 8)) (.accCvt (mxSlot 3 0 8))).isSome = true ∧
    (engineOf (inputOf (mxEl 0 [(0, 255)]) (mxSlot 1 0 31)) (.accVfy (mxSlot 1 0 31))).isSome = true ∧
    (engineOf (inputOf (mxEl 0 [(0, 255)]) (mxSlot 1 0 0)) (.accFix (mxSlot 1 0 0))).isSome = true ∧ portOfMx (mxSlot 1 0 0) 63 = some 0 := by
  decide +kernel

/-- A tile of region 0 in cluster 0, and a partition of the device. -/
def tile0 : Tile :=
  { core := 0, gran := 0, size := 1, gen := 0, state := .opened, count := 1, expert := false, shares := [0, 0, 0, 0], readers := [], part := 0,
    vd := 0, region := 0, rank := 0, fedge := 0, task := none, reading := 0, claims := [] }
def shelfSt (l : List (Nat × Word)) : State :=
  { el 64 l with
    regions := [(0, { reg0 with peek := true, readers := [64, 0, 0, 0] })]
    clusters := [(0, { tiles := [tile0], parts := [(0, { live := true, vd := 0 }), (15, { live := true, vd := 0 })] })] }

theorem witness_shelf_elements : (CanFire (shelfSt [(0, 0x10002)]) (slot1 0 1 0 15) ∧ (15 : BitVec 32).toNat < 16 ∧
      payOf (inputOf (shelfSt [(0, 0x10002)]) (slot1 0 1 0 15)) 0 < 2 ^ 20 ∧ payOf (inputOf (shelfSt [(0, 0x10002)]) (slot1 0 1 0 15)) 0 % 2 ^ 16 ≠ 0 ∧
      (Sparse.atD ((shelfSt [(0, 0x10002)]).cluster 0).parts (15 : BitVec 32).toNat {}).live = true) ∧
    (CanFire (shelfSt [(0, 2), (1, 2)]) (slot1 0 2 0 0) ∧
      ((List.range 4).map fun i => payOf (inputOf (shelfSt [(0, 2), (1, 2)]) (slot1 0 2 0 0)) 1 / 2 ^ (16 * i) % 2 ^ 16).sum = 2 ∧
      ∀ i < 4, payOf (inputOf (shelfSt [(0, 2), (1, 2)]) (slot1 0 2 0 0)) 1 / 2 ^ (16 * i) % 2 ^ 16 ≠ 0 →
        ((((shelfSt [(0, 2), (1, 2)]).region 0).readers[i]?).getD 0) ≠ 0) ∧
    (handleOk (payOf (inputOf (shelfSt [(0, 1)]) (slot1 0 1 0 0)) 0) = true ∧ tileOf ((shelfSt [(0, 1)]).cluster 0) 1 = none ∧
      tileOf ((shelfSt [(0, 0)]).cluster 0) 0 = some tile0 ∧ tile0.region = (shelfSt [(0, 0)]).rid 0 ∧ ((shelfSt [(0, 0)]).elem 0 64).queue = []) ∧
    (freeStream ((shelfSt [(0, 0)]).elem 0 64) = some 0 ∧ ((shelfSt [(0, 0)]).region 0).peek = true ∧
      payOf (inputOf (shelfSt [(0, 0), (1, 0x10001FE)]) (slot1 1 2 0 0)) 1 % 2 ^ 13 + (payOf (inputOf (shelfSt [(0, 0), (1, 0x10001FE)]) (slot1 1 2 0 0)) 1 / 2 ^ 16 % 2 + 1) ≤
        512 * hSize 0) :=
  ⟨⟨canFire_of (by decide) (by decide) rfl (by decide), by decide, by decide +kernel, by decide +kernel, by decide⟩,
   ⟨canFire_of (by decide) (by decide) rfl (by decide), by decide +kernel, by decide +kernel⟩,
   ⟨by decide +kernel, by decide, by decide, by decide, by decide⟩, by decide, by decide, by decide +kernel⟩

/-! ## Witnesses: copy engines -/

/-- A device whose page table maps the first GiB to the commons, for all uses. -/
def devP : VdState := { dev0 with root := BitVec.ofNat 64 (2 ^ 62 + 0x10000 + 1), queues := [0, 64], ports := [0, 1] }
def ptes : List (Nat × Nat × Nat) := [(pa spCommons 0x10000, 8, 2 ^ 62 + 0x11000 + 1), (pa spCommons 0x11000, 8, 2 ^ 62 + 0x3F)]
/-- The device runs queue 0 at a record in core 0's scratchpad: kind and body words. -/
def recSt (kind w0 w1 w2 w3 : Nat) : State :=
  { mach [] with
    vds := [(0, devP)]
    queues := [(0, { bound := true, run := true, cur := pad 0, tail := pad 0, begun := true }), (64, { bound := true })]
    mem := putAll [] (ptes ++ [(padP 0, 1, kind), (padP 1, 1, 1), (padP 32, 8, w0), (padP 40, 8, w1), (padP 48, 8, w2), (padP 56, 8, w3)]) }
def recD (s : State) : Nat := s.readNat (padP 0) 64
/-- The checks of `AtRecord`, as one decision. -/
def atRec (s : State) (kind : Nat) : Bool :=
  s.queueRuns 0 && decide (s.fetchRec 0 = .inl (recD s)) && recD s % 256 == kind && recFault (recD s) == none &&
    bodyFault (recD s) (s.queue 0).cur.toNat == none && !(s.queue 0).fin && !(s.queue 0).acted
theorem atRecord_of {s : State} {kind : Nat} (h : atRec s kind = true) : AtRecord s 0 (recD s) kind := by
  simp only [atRec, Bool.and_eq_true, beq_iff_eq, decide_eq_true_eq, Bool.not_eq_true'] at h
  exact ⟨by decide, h.1.1.1.1.1.1, h.1.1.1.1.1.2, h.1.1.1.1.2, h.1.1.1.2, h.1.1.2, h.1.2, h.2⟩
def isGo : Eng → Bool
  | .go _ => true
  | _ => false
def isFault : Eng → Bool
  | .fault _ _ => true
  | _ => false

/-- COPY of two lines from the scratchpad to the commons; the first line of the destination. -/
def copySt : State := recSt 1 (pad 0x100).toNat 0x2000 128 0
def copySeg : Seg := { dst := 0x2000, len := 128, src := .copy (pad 0x100).toNat, red := none }

/-- The record with a completion counter in the scratchpad. -/
def countedSt : State := let s := copySt
  { s with mem := putAll s.mem [(padP 1, 1, 0x41), (padP 16, 8, (pad 0x400).toNat)] }

/-- One granule of the destination, and the second line of `copySeg`. -/
def halfSeg : Seg := { copySeg with len := 32 }
def leftIs {α β : Type} [BEq α] (x : α ⊕ β) (l : α) : Bool :=
  match x with
  | .inl a => a == l
  | .inr _ => false
theorem eq_of_leftIs {α β : Type} [BEq α] [LawfulBEq α] {x : α ⊕ β} {l : α} (h : leftIs x l = true) : x = .inl l := by
  cases x with
  | inl a => rw [eq_of_beq h]
  | inr b => exact absurd h (by simp [leftIs])

theorem canMove_of {s : State} {g : Seg} {x : Nat × Nat} {p t : Nat} (hr : g.red.isSome = true → s.poisoned p = false)
    (hp : s.epPlace 0 g.dst x.1 (x.2 - x.1) .wr false = .ok p t)
    (hs : leftIs (s.srcBytes 0 g.src x.1 (x.2 - x.1)) (List.replicate 32 (0, none)) = true) : CanMove s 0 g false x :=
  ⟨p, t, _, hp, hr, eq_of_leftIs hs, by intro b hb; rw [List.eq_of_mem_replicate hb]⟩

theorem copySt_body : atBody copySt 0 (recD copySt) = copySt := by
  unfold atBody; rw [if_pos (Or.inl (by decide))]

theorem witness_copy : AtRecord copySt 0 (recD copySt) 1 ∧
    (recW (recD copySt) 0 = (pad 0x100).toNat ∧ recW (recD copySt) 1 = 0x2000 ∧ recW (recD copySt) 2 = 128) ∧ copySeg.lines = 2 ∧
    (copySt.queue 0).done < copySeg.lines ∧ ¬ loadsLayout (recD copySt) ∧ Safe copySt ∧ recAction (recD copySt) = 0 ∧
    copySt.epPlace 0 copySeg.dst 0 1 .wr false = .ok (pa spCommons 0x2000) 1 ∧ 1024 ≤ paSpace (pa spCommons 0x2000) + 1024 ∧
    paSpace (pa spCommons 0x2000) < 16 ∧ copySt.epDiverted 0 copySeg.dst (copySeg.lo 0) = false ∧
    copySt.epDiverted 0 (pad 0x100).toNat (copySeg.lo 0) = false ∧
    pieces copySeg 0 = [(0, 32), (32, 64)] ∧ (copySt.queue 0).half = none ∧
    ((copySt.updQueue 0 fun x => { x with half := some 1 }).queue 0).half = some 1 ∧ pieces halfSeg 0 = [(0, 32)] ∧
    isGo (copySt.doLine 0 halfSeg 0 false) = true ∧ isFault (copySt.doLine 0 { halfSeg with src := .copy (2 ^ 60) } 0 false) = true :=
  ⟨atRecord_of (by decide +kernel), by decide +kernel, by decide, by decide, by unfold loadsLayout; decide +kernel, by unfold Safe; decide +kernel,
   by decide +kernel⟩

theorem witness_copy_pieces : CanMove copySt 0 copySeg false (0, 32) ∧ CanMove copySt 0 copySeg false (32, 64) ∧ CanMove copySt 0 halfSeg false (0, 32) :=
  ⟨canMove_of (fun h => by cases h) (p := pa spCommons 0x2000) (t := 1) (by decide +kernel) (by decide +kernel),
   canMove_of (fun h => by cases h) (p := pa spCommons 0x2020) (t := 1) (by decide +kernel) (by decide +kernel),
   canMove_of (fun h => by cases h) (p := pa spCommons 0x2000) (t := 1) (by decide +kernel) (by decide +kernel)⟩

/-- A queue without a list of its own, at a record of a completion counter that no diverted value holds. -/
theorem witness_copy_ends : EndsNow copySt 0 (recD copySt) ∧ (∀ u d, recAction d = 0 → EndsNow u 0 d) ∧
    EndsNow countedSt 0 (recD countedSt) ∧ recAction (recD countedSt) = 1 :=
  ⟨fun h => absurd h (by decide +kernel), fun u d h h' => by omega, fun _ => by decide +kernel, by decide +kernel⟩

theorem witness_record_kinds : atRec (recSt 3 0 0x2000 64 7) 3 = true ∧ atRec (recSt 4 (pad 0x100).toNat 0xFF000000C0000000 64 0) 4 = true ∧
    atRec (recSt 5 (pad 0x100).toNat 0x2000 (pad 0x200).toNat (8 + 2 ^ 24)) 5 = true ∧ atRec (recSt 6 (pad 0x100).toNat 0x2000 64 0) 6 = true ∧
    recAction (recD (recSt 3 0 0x2000 0 7)) = 0 ∧
    (recSt 3 0 0x2000 0 7).resolve ((recSt 3 0 0x2000 0 7).queueWho 0) ((recSt 3 0 0x2000 0 7).queue 0).cur .wr = .ok (padP 0) 3 := by
  decide +kernel

theorem witness_other_records : (atRec (recSt 10 0 0 0 0) 10 = true) ∧
    (atRec (recSt 8 (pad 0x100).toNat 1 0 0) 8 = true ∧
      (recSt 8 (pad 0x100).toNat 1 0 0).epPlace 0 (pad 0x100).toNat 0 8 .rd false = .ok (padP 0x100) 3 ∧
      (recSt 8 (pad 0x100).toNat 1 0 0).readNat (padP 0x100) 8 < recW (recD (recSt 8 (pad 0x100).toNat 1 0 0)) 1 ∧
      recW (recD (recSt 8 (pad 0x100).toNat 0 0 0)) 1 ≤ (recSt 8 (pad 0x100).toNat 0 0 0).readNat (padP 0x100) 8) ∧
    (atRec (recSt 9 (pad 0x100).toNat 1 0 0) 9 = true ∧ ((recSt 9 (pad 0x100).toNat 1 0 0).appendQueue (.queue 0) 64 (pad 0x100) 0).isOk = true) ∧
    (atRec (recSt 7 (pad 0x100).toNat (pad 0x200).toNat 0 1) 7 = true) ∧
    (atRec (recSt 7 (pad 0x100).toNat (pad 0x200).toNat 64 1) 7 = true ∧
      ((recSt 7 (pad 0x100).toNat (pad 0x200).toNat 64 1).bcastAt 0 (recD (recSt 7 (pad 0x100).toNat (pad 0x200).toNat 64 1)) 1 0 1) = .noMore ∧
      ((recSt 7 (pad 0x100).toNat (pad 0x200).toNat 64 1).bcastAt 0 (recD (recSt 7 (pad 0x100).toNat (pad 0x200).toNat 64 1)) 1 0 0) = .line 0 0 ∧
      isGo ((recSt 7 (pad 0x100).toNat (pad 0x200).toNat 32 1).doLine 0 { dst := 0, len := 32, src := .copy (pad 0x100).toNat, red := none } 0 false) = true) ∧
    ((recSt 0 0 0 0 0).fetchRec 0 == .inl (recD (recSt 0 0 0 0 0))) = true ∧ recD (recSt 0 0 0 0 0) % 256 = 0 ∧
    recFault (recD (recSt 0 0 0 0 0)) = some 0x1C ∧ recFault (recD (recSt 11 0 0 0 0)) = some 0x1C := by decide +kernel

/-- STREAM of two tokens from port 0 to port 1. -/
def streamSt : State :=
  { recSt 2 (0xFB * 2 ^ 56) (0xFB * 2 ^ 56 + 1) 32 0 with
    ports := [(0, { fifo := [{ vd := 0, r := none, tok := tokOn 0 0 7 }], bind := some 0 })], regions := [(0, reg0)] }

theorem witness_streams_and_ports : atRec streamSt 2 = true ∧ recW (recD streamSt) 0 / 2 ^ 9 = 0xFB * 2 ^ 47 ∧
    recW (recD streamSt) 1 / 2 ^ 9 = 0xFB * 2 ^ 47 ∧
    streamSt.portOf 0 0 (recW (recD streamSt) 0 % 512) = some 0 ∧ streamSt.portOf 0 0 (recW (recD streamSt) 1 % 512) = some 1 ∧
    streamSt.portTakes 1 = true ∧ streamSt.portFifo 0 = { vd := 0, r := none, tok := tokOn 0 0 7 } :: [] ∧
    (streamSt.queue 0).done + 1 < recW (recD streamSt) 2 / 16 ∧ (streamSt.port 0).bind = some 0 ∧ (streamSt.region 0).live = true := by
  decide +kernel

theorem witness_queue_registers : (copySt.queueVd 0).isSome = true ∧ (copySt.queue 0).bound = true ∧ (0x40 : Word).toNat % 64 = 0 ∧
    (copySt.queue 0).run = true ∧ (copySt.queueVd 64).isSome = true ∧ (copySt.queue 64).bound = true ∧ (copySt.queue 64).run = false ∧
    (4 : Word).getLsbD 2 = true := by decide

/-! ## Witnesses: steps of regions and elements -/

/-- A token is in flight to region 0, whose element 0 holds the opcode plane given in slot 0. -/
def netSt (op : BitVec 32) (t : Token) : State :=
  { mach [] with
    regions := [(0, reg0)], net := [{ src := 0, r := 0, tok := t }], elems := [(0, { confs := [(0, { planes := [(0, { op := op })] })] })] }

theorem witness_token_arrival : (netSt 0 (tokOn 0 0 7)).net[0]? = some { src := 0, r := 0, tok := tokOn 0 0 7 } ∧
    (netSt 0 (tokOn 0 0 7)).mayArrive 0 { src := 0, r := 0, tok := tokOn 0 0 7 } = true ∧
    (tokOn 0 0 7).dest.toNat / 128 < ((netSt 0 (tokOn 0 0 7)).region 0).cores.length ∧ assignedElem (tokOn 0 0 7).dest.toNat = true ∧
    hasTable (tokOn 0 0 7).dest.toNat = true ∧ (tokOn 0 0 7).kind ≠ 6 ∧ ((netSt 0 (tokOn 0 0 7)).elem 0 0).order = none ∧
    ((netSt 0 (tokOn 0 0 7)).elem 0 0).opcode 0 = 0 ∧ ((netSt 0x10000200 (tokOn 0 1 7)).elem 0 0).opcode 0 ≠ 0 ∧
    portUsed (((netSt 0x10000200 (tokOn 0 1 7)).elem 0 0).slotW 0) 1 = true ∧ slotMode (((netSt 0x10000200 (tokOn 0 1 7)).elem 0 0).slotW 0) 1 = 0 ∧
    ((netSt 0x10000200 (tokOn 0 1 7)).elem 0 0).store.length < ((netSt 0x10000200 (tokOn 0 1 7)).region 0).quota ∧
    slotMode (((netSt 0x10008200 (tokOn 0 0 7)).elem 0 0).slotW 0) 0 = 2 ∧ portUsed (((netSt 0x10008200 (tokOn 0 0 7)).elem 0 0).slotW 0) 0 = true ∧
    (Sparse.atD ((netSt 0x10008200 (tokOn 0 0 7)).elem 0 0).bank.latches 0 {}).valid = false ∧
    (netSt 0 (tokOn 0 0 7)).farElem 0 0 = false ∧ (netSt 0 (tokOn 0 0 7)).inputStalls 0 0 = false ∧
    ctxBound ((netSt 0 (tokOn 0 0 7)).region 0) 0 = true ∧ ctxBound ((netSt 0 (tokOn 0 0 7)).region 0) 5 = false := by decide +kernel

/-- A region with a core of package 3, which the device's port 32 joins; a token for that core is in flight. -/
def edgeTok : Token := { tokOn 0 0 7 with dest := 128 }
def edgeSt (stop : Bool) : State :=
  { netSt 0 edgeTok with
    regions := [(0, { reg0 with cores := [0, farCore 3 5] })]
    vds := [(0, { dev0 with serdex := [32] })]
    serdex := [(32, { up := true, nbr := 3, stopTx := [false, false, false, stop] })] }

theorem witness_edge_tokens : (edgeSt false).mayArrive 0 { src := 0, r := 0, tok := edgeTok } = true ∧
    (edgeSt false).farElem 0 edgeTok.dest.toNat = true ∧ farPackage ((edgeSt false).coreOf 0 edgeTok.dest.toNat) = 3 ∧
    (∀ b, (edgeSt b).edgePort ((edgeSt b).region 0).vd 3 = some 32) ∧ (edgeSt false).laneStopped 32 3 = false ∧
    (edgeSt true).laneStopped 32 3 = true := by
  refine ⟨by decide, by decide, by decide, fun b => ?_, by decide, by decide⟩
  have h : (edgeSt b).ownsSerdex ((edgeSt b).region 0).vd 32 = true ∧ ((edgeSt b).serdexPort 32).up = true ∧
      ((edgeSt b).serdexPort 32).nbr = 3 := by cases b <;> decide
  simp [State.edgePort, isTier, List.range, List.range.loop, h]

/-- An armed generator of slot 0 of element 0, as it stands after `j` iterations with those given live. -/
def gen0 (j : Nat) (live : List Nat) : LoopGen :=
  { slot := 0, ctx := 0, iter := 0, f := 3, n := 2, j := j, live := live, cap := 2, seq := 0, seed := none, poison := false }
def genSt (g : LoopGen) : State :=
  let s := netSt 0x54000100 { tokOn 6 3 0 with iter := 3 }
  { s with
    elems := [(0, { gens := [g], spill := [{ tok := tokOn 0 0 1, stamp := 0, pend := false }]
                    confs := [(0, { planes := [(0, { op := 0x54000100, route := BitVec.ofNat 64 (0x80000080 * (1 + 2 ^ 32)) })] })] })]
    ctl := [{ r := 0, elem := 0, ctx := 0, base := 3 }] }

theorem witness_generators : isRetire { tokOn 6 3 0 with iter := 3 } = true ∧
    (genSt (gen0 1 [3])).mayArrive 0 { src := 0, r := 0, tok := { tokOn 6 3 0 with iter := 3 } } = true ∧
    genOf ((genSt (gen0 1 [3])).elem 0 0) { tokOn 6 3 0 with iter := 3 } = some (gen0 1 [3]) ∧ genRetire (gen0 1 [3]) 0 3 = some (gen0 1 []) ∧
    ((genSt (gen0 1 [3])).elem 0 0).spill ≠ [] ∧ ((genSt (gen0 1 [3])).elem 0 0).store.length < ((genSt (gen0 1 [3])).region 0).quota ∧
    ((genSt (gen0 1 [3])).region 0).activeNow = true ∧ ((genSt (gen0 1 [3])).region 0).dbgStop = false ∧ (genSt (gen0 1 [3])).farElem 0 0 = false ∧
    (genSt (gen0 1 [3])).inputStalls 0 0 = false ∧ (genSt (gen0 1 [3])).ctl[0]? = some { r := 0, elem := 0, ctx := 0, base := 3 } ∧
    ((genSt (gen0 1 [3])).elem 0 0).gens.find? (fun g => g.slot == 0) = some (gen0 1 [3]) ∧ (genSt (gen0 1 [3])).regionGoes 0 = true ∧
    (gen0 1 [3]).j < (gen0 1 [3]).n ∧ (gen0 1 [3]).live.length < (gen0 1 [3]).cap ∧ ((genSt (gen0 1 [3])).region 0).inFlight < ((genSt (gen0 1 [3])).region 0).tagwin ∧
    (((genSt (gen0 1 [3])).elem 0 0).slotW 0).d0.valid = true ∧ (((genSt (gen0 1 [3])).elem 0 0).slotW 0).d0.tagop = 0 ∧
    (gen0 2 []).n ≤ (gen0 2 []).j ∧ (((genSt (gen0 2 [])).elem 0 0).slotW 0).d1.valid = true ∧
    ((genSt (gen0 1 [3])).elem 0 0).stopped.contains 0 = false := by decide +kernel

/-- Region 0 in a step that its sequencer has been told is done, with the extents given, its task, and its drain. -/
def stepSt (n : Nat) (task : Option Word) (drain stop : Bool) : State :=
  { mach [] with regions := [(0, { reg0 with inStep := true, doneRecv := true, stopFlag := stop, task := task, draining := drain,
                                             confs := [{ image := 0, extents := [n, 1, 1, 1], depth := 1 }] })] }

theorem witness_region_steps : (stepSt 1 (some 0x40) false true).stepDone 0 = true ∧ ((stepSt 1 (some 0x40) false true).region 0).stopFlag = true ∧
    ((stepSt 1 (some 0x40) false true).region 0).task.isSome = true ∧ (stepSt 2 none false false).stepDone 0 = true ∧
    nextStep ((stepSt 2 none false false).region 0).confs ((stepSt 2 none false false).region 0).point ((stepSt 2 none false false).region 0).conf =
      some ([1, 0, 0, 0], 0) ∧ (stepSt 2 none true false).stepDone 0 = true ∧ ((stepSt 2 none true false).region 0).draining = true ∧
    (∀ p ∈ (stepSt 2 none true false).elemsOf 0, p.2.ctxs = []) ∧ (stepSt 2 none true false).drainDone 0 = true := by decide +kernel

/-- Region 0 drains with a request in its memory element that is parked or not; element 0 has a switch to take. -/
def drainSt (parked : Bool) : State :=
  { mach [] with
    regions := [(0, { reg0 with draining := true })]
    elems := [(0, { order := some 1 }),
      (64, { queue := [{ slot := 0, tag := 0, seq := 0, last := false, op := .ld, base := 0, off := 0, size := 1, typed := false, order := 0, scope := 0,
                         dst := .cont 0 0 0 0, parked := parked, sent := false, id := 0 }] })] }

theorem witness_drains_and_switches : (drainSt true).drainDone 0 = false ∧ (drainSt true).frozen 0 = true ∧ (drainSt false).drainDone 0 = false ∧
    (drainSt false).frozen 0 = false ∧ ((drainSt true).elem 0 0).order = some 1 ∧ ((drainSt true).elem 0 0).store = [] ∧
    ((drainSt true).region 0).activeNow = true ∧ ((drainSt true).region 0).switching = false := by decide +kernel

/-- A post in flight to gateway 0 of region 0, whose mailbox is in the scratchpad. -/
def postTok : Token := { tokOn 0 0 5 with dest := 123 }
def postSt : State :=
  { netSt 0 postTok with regions := [(0, { reg0 with mbox := pad 0x40, gates := 0x0FFFFFFF })] }

theorem witness_gateways : Safe postSt ∧ postSt.mayArrive 0 { src := 0, r := 0, tok := postTok } = true ∧ isPost postTok = true ∧
    (postSt.region 0).gates.toNat / 2 ^ (8 * (postTok.dest.toNat % 128 - 120)) % 256 ≠ 0xFF ∧ (postSt.region 0).mbox ≠ 0 ∧
    postSt.resolve (hwWho (postSt.region 0).vd (0 / 64)) (BitVec.ofNat 64 ((postSt.region 0).mbox.toNat + 8 * (postTok.dest.toNat % 128 - 120))) .wr =
      .ok (padP 0x58) 3 ∧ postSt.poisoned (padP 0x58) = false ∧ postSt.farElem 0 postTok.dest.toNat = false ∧ isMgmt (padP 0x58) = false :=
  ⟨by unfold Safe; decide, by decide +kernel, by decide, by decide +kernel, by decide, by decide +kernel, by decide, by decide, by decide⟩

/-! ## Witnesses: requests -/

/-- Memory element 64 of region 0 holds one request; base register 0 points at the scratchpad, or nowhere. -/
def memReq (op : MemOp) (b : Nat) : MemReq :=
  { slot := 0, tag := 0, seq := 0, last := false, op := op, base := b, off := 8, size := 8, typed := false, order := 0, scope := 0,
    dst := .dests (dTo 1 0 0) dNone 0, parked := false, sent := false, id := 0 }
def memSt (op : MemOp) (b : Nat) : State :=
  { mach [] with regions := [(0, reg0)], elems := [(64, { queue := [memReq op b], stamp := 1 })] }
def perfKind : Perf → Nat
  | .stall => 0
  | .fault _ _ => 1
  | .done _ _ => 2
  | .sent _ => 3
  | .part _ _ _ _ => 4
/-- MLDT of one row of 32 bytes at the scratchpad's first line into the core's W-buffer; a contribution to a reduction of 2. -/
def mldtOp : MemOp := .mldt false 16 16 0
def redOp : MemOp := .red 0 2 false 0 5

theorem witness_memory_requests : (memSt .ld (pad 0).toNat).memGoes 0 64 = true ∧ ((memSt .ld (pad 0).toNat).elem 0 64).queue[0]? = some (memReq .ld (pad 0).toNat) ∧
    (memSt .ld (pad 0).toNat).mayIssue 0 64 0 = true ∧ perfKind ((memSt .ld (pad 0).toNat).perform 0 64 (memReq .ld (pad 0).toNat)) = 2 ∧
    perfKind ((memSt .ld (2 ^ 60)).perform 0 64 (memReq .ld (2 ^ 60))) = 1 ∧
    perfKind (({ memSt .ld (pad 0).toNat with cores := [(0, { scoreboard := [{ lo := padP 0, hi := padP 64, queue := 0 }] })] } : State).perform 0 64
      (memReq .ld (pad 0).toNat)) = 0 ∧
    (memSt .ld (pad 0).toNat).effAddr 0 64 false (pad 0).toNat 8 8 8 .rd = .ok (padP 8) 3 ∧
    (memSt .ld (pad 0).toNat).blocked 0 (padP 8) 8 = false ∧ (memSt .ld (pad 0).toNat).repair = [] ∧ (memSt .ld (pad 0).toNat).dbg.vd = none ∧
    (memSt .ld (pad 0).toNat).mayMiss ((memSt .ld (pad 0).toNat).elemAgent 0 64) (padP 8) 8 = [] ∧ isFarMgmt (padP 8) = false ∧
    perfKind ((memSt mldtOp (pad 0).toNat).perform 0 64 (memReq mldtOp (pad 0).toNat)) = 4 ∧
    perfKind ((memSt redOp (pad 0).toNat).perform 0 64 (memReq redOp (pad 0).toNat)) = 3 ∧
    Memory.wf (memSt (.st 5) (pad 0).toNat).mem = true ∧ ((memSt (.st 5) (pad 0).toNat).region 0).buffering = false ∧
    (memSt (.st 5) (pad 0).toNat).effAddr 0 64 false (pad 0).toNat 8 8 8 .wr = .ok (padP 8) 3 ∧
    (memSt .ld (pad 0).toNat).reach 0 (padP 8) ≠ .dead ∧ (memSt .ld (pad 0).toNat).regMarked 0 (padP 8) = false ∧ isMgmt (padP 8) = false := by
  decide +kernel

/-- A reply of slot 0; a store stream with an element to store; a watch; contributions to a reduction of 1 and of 2 terms. -/
def reply0 : MemReply := { stream := 0, slot := 0, tag := 0, outs := [] }
def store0 : StreamCtx :=
  { kind := .store, slot := 0, tag := 0, seq := 0, dst := .cont 0 0 0 0, base := 0, counts := [2], strides := [8], size := 8, stop := 2, begun := true }
def watch0 (target : Word) : Watch :=
  { r := 0, elem := 0, slot := 0, tag := 0, seq := 0, last := false, addr := pad 0, target := target, scope := 0, d0 := dTo 1 0 0, d1 := dNone, chan := 0 }
def red0 (n : Nat) : RedMsg :=
  { r := 0, elem := 64, slot := 0, tag := 0, seq := 0, dst := .cont 0 0 0 0, pa := padP 0, size := 8, x := 0, n := n, fadd := false, fmt := 0, val := 5,
    scope := 0, id := 0 }
def strSt : State :=
  { mach [] with
    regions := [(0, reg0)]
    elems := [(64, { replies := [reply0], ctxs := [(0, store0)], store := [{ tok := tokOn 0 1 9, stamp := 0, pend := false }] })]
    units := [(64, { mb := [(0, pad 0)] })]
    cores := [(0, { watches := [watch0 0, watch0 1] })]
    clusters := [(0, { redMsgs := [red0 1, red0 2] })] }

theorem witness_replies_and_streams : (strSt.elem 0 64).replies[0]? = some reply0 ∧ strSt.regionGoes 0 = true ∧
    Sparse.entry? (strSt.elem 0 64).ctxs 0 = some store0 ∧
    entryAt (entriesOf (strSt.elem 0 64) 0) 1 0 = some { tok := tokOn 0 1 9, stamp := 0, pend := false } ∧ store0.next < store0.stop ∧
    strSt.memGoes 0 64 = true ∧ strSt.mayStore 0 64 0 store0 = true ∧ (tokOn 0 1 9).kind ≠ 7 ∧ reply0.stream < 32 ∧
    strSt.blocked 0 (padP 0) 8 = false ∧ isMgmt (padP 0) = false ∧ isFarMgmt (padP 0) = false ∧ strSt.dbg.vd = none ∧ 0 ≤ streamOff store0 store0.next ∧ streamOff store0 store0.next < 2 ^ 41 ∧
    strSt.effAddr 0 64 false (strSt.mbOf 0 64 0) (streamOff store0 store0.next).toNat 8 8 .wr = .ok (padP 0) 3 ∧ strSt.reach 0 (padP 0) ≠ .dead ∧
    Memory.wf strSt.mem = true ∧ (strSt.region 0).buffering = false := by decide +kernel

theorem witness_reductions_and_watches : (strSt.cluster 0).redMsgs[0]? = some (red0 1) ∧ (strSt.cluster 0).redMsgs[1]? = some (red0 2) ∧
    (red0 2).x < (red0 2).n ∧ (∀ o ∈ (strSt.cluster 0).reds, overlap (o.pa, o.size) ((red0 1).pa, (red0 1).size) = false) ∧
    (strSt.cluster 0).reds.length < 256 ∧ Memory.wf strSt.mem = true ∧ (strSt.region 0).drained = false ∧ (strSt.region 0).frozenEnd = false ∧ (strSt.core 0).watches[0]? = some (watch0 0) ∧ (strSt.core 0).watches[1]? = some (watch0 1) ∧
    strSt.effAddr 0 0 false (watch0 0).addr.toNat 0 8 8 .rd = .ok (padP 0) 3 ∧ strSt.regMarked 0 (padP 0) = false ∧
    strSt.regRead 0 (padP 0) 8 < (watch0 1).target.toNat ∧ (watch0 0).target.toNat ≤ strSt.regRead 0 (padP 0) 8 := by decide +kernel

/-- A home whose table of open reductions is full, and none of them meets the contribution. -/
def fullReds : State :=
  let o : RedOpen := { pa := padP 64, size := 8, n := 2, fadd := false, fmt := 0, terms := [] }
  { strSt with clusters := [(0, { redMsgs := [red0 1], reds := List.replicate 256 o })] }
theorem witness_reductions_full : (fullReds.cluster 0).redMsgs[0]? = some (red0 1) ∧ 256 ≤ (fullReds.cluster 0).reds.length ∧
    (∀ o ∈ (fullReds.cluster 0).reds, overlap (o.pa, o.size) ((red0 1).pa, (red0 1).size) = false) := by decide +kernel

/-! ## Witnesses: engines and shelves -/

/-- An instruction of engine 0 of core 0 for accumulator 0: BF16 operands, A and B at the start of the core's buffers. -/
def mxCmd (op : MxOp) (a : Word) (seq : BitVec 4) : MxCmd :=
  { mx := 0, r := 0, elem := 0, slot := 0, tag := 0, seq := seq, op := op, a := a, b := 0x3E000000, c := 0, chA := 5, scA := 0, chB := 5, chOut := 0,
    scOut := 0, const := 0, outCh := 0, d1 := dNone, last := false }
/-- Core 0 with an issue port, a pool, and an open instance of accumulator 0 or none. -/
def mxSt (issue pool : List MxCmd) (opened : Bool) : State :=
  { mach [] with regions := [(0, reg0)], cores := [(0, { issue := issue, pool := pool, accs := [(0, { opened := opened })] })] }
/-- A k-step that opens, one that faults, ACC.CHK, and SCL.LD `.st`. -/
def kstep : MxCmd := mxCmd (.mma true false) 0x7E000000 0
def kfault : MxCmd := { kstep with b := 0x1E000000 }
def chk : MxCmd := mxCmd .accChk 0 0
def sclSt0 : MxCmd := mxCmd (.sclLd 2) 0 0
/-- How an attempt ends: 0 it stalls, 1 it faults, 2 it is done. -/
def mxEnd {α : Type} : Except (Option (Nat × Nat)) α → Nat
  | .error none => 0
  | .error (some _) => 1
  | .ok _ => 2

theorem witness_kstep_triggers : headOf ((mxSt [kstep] [] true).core 0) 0 = some kstep ∧ kstep.isMma = true ∧
    (mxSt [kstep] [] true).mxGoes kstep.r = true ∧ kstep.opens = true ∧ ((mxSt [kstep] [] true).accOf 0 kstep.acc).opened = true ∧
    ((mxSt [kstep] [] true).accOf 0 kstep.acc).tag = kstep.tag ∧ ((mxSt [kstep] [] false).accOf 0 kstep.acc).opened = false ∧
    poolFull ((mxSt [kstep] [] false).core 0) 0 = false ∧ (((mxSt [kstep] [] false).core 0).pool.filter fun y => y.mx == 0).length < 64 := by
  decide +kernel

/-- The same k-step for the open instance, one sequence later: it is held. -/
def kheld : MxCmd := mxCmd (.mma false false) 0x7E000000 1
theorem witness_held_triggers : headOf ((mxSt [kheld] [] true).core 0) 0 = some kheld ∧ kheld.opens = false ∧
    ((mxSt [kheld] [] true).accOf 0 kheld.acc).opened = true ∧ ((mxSt [kheld] [] true).accOf 0 kheld.acc).tag = kheld.tag ∧
    kheld.seq ≠ ((mxSt [kheld] [] true).accOf 0 kheld.acc).next ∧ ((mxSt [kheld] [] true).accOf 0 kheld.acc).held.getLsbD kheld.seq.toNat = false ∧
    (∀ y ∈ kheld :: ((mxSt [kheld] [] true).core 0).pool, ¬ (y.acc = kheld.acc ∧ y.opens = true ∧
      ((mxSt [kheld] [] true).accOf 0 kheld.acc).opened = true ∧ ((mxSt [kheld] [] true).accOf 0 kheld.acc).tag = y.tag)) := by decide +kernel

/-- The places of the k-step, and the k-step once it has read every line there. -/
def kpl : KPlaces := match (mxSt [] [kstep] false).kPlaces 0 kstep true with
  | .ok k => k
  | .error _ => { a := none, b := [], ablk := [], bblk := [], ba := [], bb := [] }
def kdone : MxCmd := { kstep with seen := kpl.lines.map fun l => { line := l, v := 0, bad := false } }

theorem witness_ksteps : nextK ((mxSt [] [kstep] false).core 0) 0 = some kstep ∧ (mxSt [] [kstep] false).mxGoes kstep.r = true ∧
    mxEnd ((mxSt [] [kstep] false).kPlaces 0 kstep (kstep.opens || !((mxSt [] [kstep] false).accOf 0 0).bands)) = 2 ∧
    (linesLeft kstep kpl.lines ≠ []) ∧ linesLeft kdone kpl.lines = [] ∧ nextK ((mxSt [] [kdone] false).core 0) 0 = some kdone ∧
    mxEnd ((mxSt [] [kfault] false).kPlaces 0 kfault (kfault.opens || !((mxSt [] [kfault] false).accOf 0 0).bands)) = 1 ∧
    mxEnd (({ mxSt [] [kstep] false with cores := [(0, { pool := [kstep], scoreboard := [{ lo := pa (spA 0) 0, hi := pa (spA 0) 64, queue := 0 }] })] } :
      State).kPlaces 0 kstep true) = 0 := by decide +kernel

theorem kpl_of : (mxSt [] [kdone] false).kPlaces 0 kdone true = .ok kpl := by rfl

theorem witness_ksteps_complete : Safe (mxSt [] [kdone] false) ∧ PlainReply kdone ∧ kdone.opens = true ∧
    (∀ l ∈ kpl.lines, ∃ y ∈ kdone.seen, y.line = l) ∧
    removeFirst (fun y => y == kdone) ((mxSt [] [kdone] false).core 0).pool = [] ∧
    (((mxSt [] [kdone] false).seenBy kdone).kRead 0 kdone true kpl).badA = [] ∧
    (((mxSt [] [kdone] false).seenBy kdone).kRead 0 kdone true kpl).badB = [] :=
  ⟨by unfold Safe; decide, .inl rfl, rfl, fun l hl => ⟨_, List.mem_map_of_mem hl, rfl⟩, by decide, by decide +kernel, by decide +kernel⟩

theorem witness_tile_sums : Safe (mxSt [] [] false) := by unfold Safe; decide

/-- SCL.LD `.data` of a line of the W-buffer, of an address that is not aligned, and after its one piece; ACC.WR `.el`. -/
def sclData0 : MxCmd := mxCmd (.sclLd 0) 0x3E000000 0
def sclData1 : MxCmd := { sclData0 with b := 0 }
def sclData2 : MxCmd := { sclData1 with a := 0x3E000001 }
def sclData3 (l : List MxPiece) : MxCmd := { sclData1 with pieces := some l }
def wrEl : MxCmd := mxCmd (.accWr true false) 0 0
/-- How an instruction begins: 3 where it writes no memory piece by piece. -/
def mxBeg : Option MxBegin → Nat
  | none => 3
  | some x => mxEnd x
/-- A copy record covers the W-buffer's first line. -/
def mxBlocked (c : MxCmd) : State :=
  { mxSt [c] [] false with cores := [(0, { issue := [c], scoreboard := [{ lo := pa (spW 0) 0, hi := pa (spW 0) 64, queue := 0 }] })] }

theorem witness_engine_performs : tileWaiting ((mxSt [chk] [] false).core 0) 0 = none ∧ headOf ((mxSt [chk] [] false).core 0) 0 = some chk ∧
    chk.isMma = false ∧ (mxSt [chk] [] false).mxGoes chk.r = true ∧ ((mxSt [chk] [] false).accOf 0 chk.acc).opened = false ∧
    chk.op = .accChk ∧ chk.pieces = none ∧ mxBeg ((mxSt [chk] [] false).beginMx 0 chk) = 3 ∧ PlainReply chk ∧
    mxEnd (((mxSt [chk] [] false).popMx 0 0).performMx 0 chk) = 2 ∧
    headOf ((mxSt [sclSt0] [] false).core 0) 0 = some sclSt0 ∧ sclSt0.op = .sclLd 2 ∧ headOf ((mxSt [wrEl] [] false).core 0) 0 = some wrEl ∧
    wrEl.op = .accWr true false ∧ wrEl.isMma = false ∧
    mxEnd ((mxSt [] [] false).performMx 0 { mxCmd (.accWr false false) 0 0 with b := 0x3E000001 }) = 1 ∧
    mxEnd ((mxBlocked { sclData1 with op := .accWr false false, chB := 4, b := 0x3E000000 }).performMx 0
      { sclData1 with op := .accWr false false, chB := 4, b := 0x3E000000 }) = 0 := by
  refine ⟨by decide +kernel, by decide +kernel, by decide +kernel, by decide +kernel, by decide +kernel, rfl, rfl, by decide +kernel, .inl rfl,
    by decide +kernel, by decide +kernel, rfl, by decide +kernel, rfl, by decide +kernel, by decide +kernel, by decide +kernel⟩

theorem witness_engine_pieces : mxBeg ((mxSt [sclData1] [] false).beginMx 0 sclData1) = 2 ∧ mxBeg ((mxSt [sclData2] [] false).beginMx 0 sclData2) = 1 ∧
    mxBeg ((mxBlocked sclData1).beginMx 0 sclData1) = 0 ∧ (sclData3 []).pieces = some [] ∧
    (sclData3 [{ p := pa (spScale 0) 0, n := 64, v := 0, bad := false }]).pieces ≠ some [] ∧
    headOf ((mxSt [sclData3 []] [] false).core 0) 0 = some (sclData3 []) := by decide +kernel

/-- A request for a tile of two granules of partition 0, which holds the first four of core 0. -/
def sreq0 : SReq :=
  { r := 0, elem := 0, slot := 0, tag := 0, seq := 0, last := false, dst := .dests (dTo 1 0 0) dNone 0, count := 1, size := 2, expert := false,
    shares := [0, 0, 0, 0], task := none }
def partSt (ceil starve : Nat) : State :=
  { mach [] with
    regions := [(0, { reg0 with wdlim := 1, partmask := 1 })]
    clusters := [(0, { parts := [(0, { live := true, vd := 0, ceil := ceil, queue := [sreq0], period := 1024, starve := starve })],
                       granules := [(0, { part := some 0 }), (1, { part := some 0 })] })] }

theorem witness_partitions : (Sparse.atD ((partSt 2 0).cluster 0).parts 0 {}).queue = sreq0 :: [] ∧
    (let t := (partSt 2 0).grow 0 0 ((partSt 2 0).reqCore sreq0) sreq0.size (Sparse.atD ((partSt 2 0).cluster 0).parts 0 {}).ceil
     (Sparse.atD (t.cluster 0).parts 0 {}).queue = sreq0 :: [] ∧ roomFor (t.cluster 0) 0 (t.reqCore sreq0) sreq0.size = some (0, 0)) ∧
    sreq0.elem ≠ 0xFFFF ∧ (partSt 2 0).partPeriod 0 0 = some 1024 ∧ (Sparse.atD ((partSt 2 0).cluster 0).parts 0 {}).starve < 1024 ∧
    1024 ≤ (Sparse.atD ((partSt 2 1024).cluster 0).parts 0 {}).starve ∧ 1024 ≤ (Sparse.atD ((partSt 2 0).cluster 0).parts 0 {}).period ∧
    2 * (Sparse.atD ((partSt 2 0).cluster 0).parts 0 {}).parkedC ≤ (Sparse.atD ((partSt 2 0).cluster 0).parts 0 {}).period ∧
    roomFor ((partSt 2 0).cluster 0) 0 ((partSt 2 0).reqCore sreq0) sreq0.size = some (0, 0) ∧ sreq0.dst = .dests (dTo 1 0 0) dNone 0 ∧
    (dTo 1 0 0).valid = true ∧ (dTo 1 0 0).tagop = 0 := by decide +kernel

/-- A pipeline of two stages, the first of two replicas; its partition's requests were parked for all of the period. -/
def pipe0 : Pipeline := { vd := 0, stages := [(0x40, [0, 1]), (0x80, [0])], parts := [0], expert := false }
def pipeSt : State :=
  let s := partSt 2 0
  s.updCluster 0 fun k => { k with pipes := [pipe0], parts := Sparse.upd k.parts 0 {} fun y => { y with parkedC := 1024 } }

theorem witness_pipelines : ((pipeSt.declaredPipes 0).map (pipeSt.settlePipe 0))[0]? = some pipe0 ∧ pipe0.parts.findIdx? (· == 0) = some 0 ∧
    pipe0.expert = false ∧ pipe0.vd = (Sparse.atD (pipeSt.cluster 0).parts 0 {}).vd ∧ 1 < stageWidth pipe0 0 ∧ 0 + 1 < pipe0.stages.length ∧
    (Sparse.atD (pipeSt.cluster 0).parts 0 {}).period < 2 * (Sparse.atD (pipeSt.cluster 0).parts 0 {}).parkedC ∧ pipeSt.partPeriod 0 0 = some 1024 := by
  refine ⟨?_, by decide, rfl, by decide, by decide, by decide, by decide, by decide +kernel⟩
  have h : (pipeSt.cluster 0).pipes = [pipe0] := rfl
  have h2 : pipeSt.settlePipe 0 pipe0 = pipe0 := rfl
  unfold State.declaredPipes
  rw [h]
  dsimp only
  split
  · simp [h2]
  · split <;> simp [h2]

/-- A shelf read of handle 0 in context 0, begun or not; the tile in a state and with a count. -/
def read0 (begun peek : Bool) : StreamCtx :=
  { kind := .shelf, slot := 0, tag := 0, seq := 0, dst := .dests (dTo 1 0 0) dNone 0, base := 0, stop := 2, peek := peek, begun := begun }
def readSt (y : StreamCtx) (l : List Tile) : State :=
  { shelfSt [] with elems := [(64, { ctxs := [(0, y)] })], clusters := [(0, { tiles := l, parts := [(0, { live := true, vd := 0 })] })] }
def readCase (s : State) (t : Tile) (peek : Bool) : Option Nat := readCheck t (s.region 0).vd (s.region 0).desc (!peek)

theorem witness_shelf_reads : Sparse.entry? ((readSt (read0 false true) []).elem 0 64).ctxs 0 = some (read0 false true) ∧
    (read0 false true).kind = .shelf ∧ (readSt (read0 false true) []).memGoes 0 64 = true ∧ (read0 false true).begun = false ∧
    tileOf ((readSt (read0 false true) []).cluster 0) 0 = none ∧
    tileOf ((readSt (read0 false true) [tile0]).cluster 0) 0 = some tile0 ∧ tile0.state = .opened ∧
    ({ tile0 with state := .sealed } : Tile).state ≠ .opened ∧
    readCase (readSt (read0 false true) []) { tile0 with state := .drained } false = some 0x0C ∧
    readCase (readSt (read0 false true) []) { tile0 with state := .sealed } true = none := by decide +kernel

theorem witness_shelf_words : (read0 true false).begun = true ∧
    (readSt (read0 true false) [tile0]).scoreHit (pa (spA 0) 0) 8 = false ∧
    ({ readSt (read0 true false) [tile0] with cores := [(0, { scoreboard := [{ lo := pa (spA 0) 0, hi := pa (spA 0) 64, queue := 0 }] })] } :
      State).scoreHit (pa (spA 0) 0) 8 = true ∧
    (((readSt (read0 true false) [tile0]).readAt 0 (pa (spA 0) 0) 8) == .inl 0) = true ∧ pa (spA 0) 0 < pa (spA 96) 0 ∧
    (readSt (read0 true false) [tile0]).regMarked 0 (pa (spA 0) 0) = false ∧ (readSt (read0 true false) [tile0]).memGoes 0 64 = true ∧ (read0 true false).next + 1 ≠ (read0 true false).stop ∧
    (dTo 1 0 0).valid = true ∧ (dTo 1 0 0).tagop = 0 ∧ (read0 true false).itstep = false := by decide +kernel

/-! ## Witnesses: task machines, schedulers and launch queues -/

/-- A decrement is on its way to the record at the scratchpad's first line. -/
def decrSt (word preds : Nat) : State := { taskSt [] word preds 0 0x1000 with decrs := [{ vd := 0, task := pad 0 }] }

theorem witness_decrements : (decrSt 2 0).decrs[0]? = some { vd := 0, task := pad 0 } ∧ Safe (decrSt 2 0) ∧
    RecordAt (decrSt 2 0) (hwWho 0 0) (pad 0) (padP 0) ∧
    (decrSt 2 0).homeCluster 0 ((((decrSt 2 0).vd 0).clusters.head?).getD 0) (pad 0) = 0 ∧ ¬ WordOf (decrSt 2 0) (padP 0) 1 :=
  ⟨rfl, by unfold Safe; decide, record_pad _ rfl rfl, by decide, by unfold WordOf; decide⟩

theorem witness_decrements_pending : WordOf (decrSt 1 2) (padP 0) 1 ∧ (decrSt 1 2).readNat (padP 0 + 4) 4 ≠ 1 ∧
    WordOf (decrSt 1 1) (padP 0) 1 ∧ (decrSt 1 1).readNat (padP 0 + 4) 4 = 1 ∧ (decrSt 1 1).tileWaiting 0 0 (pad 0) = false :=
  ⟨by unfold WordOf; decide, by decide, by unfold WordOf; decide, by decide, by decide⟩

/-- The task at the scratchpad's line 16 heads the ready queue of cluster 0; its descriptor is at the first line. -/
def placeSt (rank : Nat) (regions : Sparse RegionState) : State :=
  { mach [] with
    vds := [(0, { dev0 with pinned := true })], regions := regions,
    mem := putAll descMem [(padP 0x400, 4, 2), (padP 0x410, 8, (pad 0).toNat), (padP 0x1C, 1, rank)],
    clusters := [(0, { ready := [{ vd := 0, task := pad 0x400, prio := 0 }] })] }
def placeX (rank : Nat) : RegionState := (((placeSt rank []).readDesc (hwWho 0 0) (pad 0)).toOption).getD {}
def chkOk {α : Type} : Chk α → Bool
  | .ok _ => true
  | .error _ => false

theorem witness_placement : (placeSt 0 []).headTask 0 = some { vd := 0, task := pad 0x400, prio := 0 } ∧ (placeSt 0 []).vdRuns 0 = true ∧
    (placeSt 0 []).sliceOver 0 = false ∧ ((placeSt 0 []).hwRead (hwWho 0 0) ((pad 0x400).toNat + 0x10) 8).toOption = some (pad 0).toNat ∧
    chkOk ((placeSt 0 []).readDesc (hwWho 0 0) (pad 0)) = true ∧ ((placeSt 0 []).descCores (hwWho 0 0) (pad 0)).toOption = some 1 ∧
    (placeSt 0 []).coresFor 0 0 1 = some [0] ∧ (placeSt 0 []).freePlace 0 = some 0 ∧ (placeSt 0 []).stageRoom 0 0 (pad 0) = true ∧
    (placeX 0).rank ≤ ((placeSt 0 []).thread 0).hrank.toNat % 8 ∧ ((placeSt 0 []).homeOf 0 (pad 0x400)).isNone = true ∧
    (takeRegs (placeX 0) 0 ((placeSt 0 []).thread 0)).fedge = 0 ∧ (placeX 0).rank < 7 ∧
    ((placeSt 7 []).thread 0).hrank.toNat % 8 < (placeX 7).rank ∧
    ((placeSt 0 []).taskWord (hwWho 0 0) (pad 0x400)).toOption = some 2 ∧ ((mach []).taskWord (hwWho 0 0) (pad 0x400)).toOption = some 0 ∧
    ((placeSt 0 [(1, { reg0 with cores := List.range 24 })]).coresFor 0 0 1).orElse (fun _ =>
      (placeSt 0 [(1, { reg0 with cores := List.range 24 })]).spanCores 0 1) = none := by decide +kernel

/-- Region 0 awaits the completion counter of its task, at the scratchpad's first line. -/
def retireSt (ctr target : Nat) (keep : Bool) : State :=
  { taskSt [] 3 0 0 0x1000 with
    regions := [(0, { reg0 with task := some (pad 0), awaiting := true, keep := keep })],
    mem := putAll (taskSt [] 3 0 0 0x1000).mem [(padP 0x20, 8, ctr), (padP 0x28, 8, target)] }

theorem witness_retirement : ((retireSt 0 0 false).region 0).task = some (pad 0) ∧ ((retireSt 0 0 false).region 0).live = true ∧
    ((retireSt 0 0 false).region 0).awaiting = true ∧ (retireSt 0 0 false).homeCluster 0 0 (pad 0) = 0 ∧
    ((retireSt 0 0 false).counterMet (hwWho 0 0) (pad 0).toNat).toOption = some true ∧
    ((retireSt (pad 0x80).toNat 1 false).counterMet (hwWho 0 0) (pad 0).toNat).toOption = some false ∧
    ((retireSt 0 0 true).region 0).keep = true ∧ ((retireSt 0 0 false).region 0).keep = false ∧
    (retireSt 0 0 false).readNat (padP 0 + 8) 8 = 0 ∧ (retireSt 0 0 false).clusters = [] ∧
    (((retireSt 0 0 false).flushStores 0).taskWord (hwWho 0 0) (pad 0)).toOption = some 3 ∧ wordOk 3 = true ∧
    ((({ retireSt 0 0 false with mem := putAll (retireSt 0 0 false).mem [(padP 0, 4, 0x83)] } : State).flushStores 0).taskWord
      (hwWho 0 0) (pad 0)).toOption = some 0x83 ∧ wordOk 0x83 = false ∧ ((retireSt 0 0 false).region 0).storeBuf = [] ∧
    ((retireSt 0 0 false).region 0).storeClear = [] ∧ ((retireSt 0 0 false).region 0).storePoison = [] := by decide +kernel

theorem witness_retirement_record : Safe (retireSt 0 0 false) ∧ RecordAt (retireSt 0 0 false) (hwWho 0 0) (pad 0) (padP 0) ∧
    WordOf (retireSt 0 0 false) (padP 0) 3 :=
  ⟨by unfold Safe; decide, record_pad _ rfl rfl, by unfold WordOf; decide⟩

theorem witness_restart : restartable { reg0 with idem := true, task := some (pad 0), draining := true } = true := by decide

/-- A queue record at the scratchpad's first line with a ring of 16 places at line 4, and a number of slots that are taken. -/
def launchSt (tail n : Nat) : State :=
  { mach [] with
    vds := [(0, { dev0 with pinned := true })]
    mem := putAll [] [(padP 0, 8, (pad 0x100).toNat), (padP 8, 1, 4), (padP 0x18, 8, tail), (padP 0x100, 8, (pad 0x400).toNat + n % 2)]
    clusters := [(0, { slots := (List.range n).map fun i => { vd := 0, qaddr := pad (64 * i), prio := 0, nonPre := true, thread := 0 } })] }

theorem witness_notify : (({ launchSt 0 0 with clusters := [] } : State).launchQ 0 0 (pad 0)).toOption =
      some { vd := 0, qaddr := pad 0, prio := 0, nonPre := false, thread := 0 } ∧ ((launchSt 0 0).vd 0).live = true ∧
    ((launchSt 0 0).vd 0).dying = false ∧ ((launchSt 0 0).vd 0).mode = .active ∧ ((launchSt 0 0).vd 0).parked = false ∧
    ((launchSt 0 0).cluster 0).slots.length < 64 ∧ 64 ≤ ((launchSt 0 64).cluster 0).slots.length ∧
    (∀ y ∈ ((launchSt 0 64).cluster 0).slots, y.nonPre = true) ∧
    (∀ y ∈ ((launchSt 0 64).cluster 0).slots, ¬ (y.vd = 0 ∧ y.qaddr = pad 0x1000)) := by decide +kernel

theorem witness_consume : ((launchSt 0 1).cluster 0).slots[0]? = some { vd := 0, qaddr := pad 0, prio := 0, nonPre := true, thread := 0 } ∧
    (launchSt 0 1).vdRuns 0 = true ∧ ((launchSt 0 1).nextEntry (hwWho 0 0) (pad 0).toNat).toOption = some none ∧
    ((launchSt 0 1).cluster 0).deferred = [] ∧
    ((launchSt 1 1).nextEntry (hwWho 0 0) (pad 0).toNat).toOption = some (some ((pad 0x400).toNat + 1, 0)) ∧
    (((launchSt 1 1).publishEntry 0 { vd := 0, qaddr := pad 0, prio := 0, nonPre := true, thread := 0 } ((pad 0x400).toNat + 1)).map fun t =>
      chkOk (t.hwWrite (hwWho 0 0) ((pad 0).toNat + 0x10) 8 1)) = some true := by decide +kernel

/-- The dependence table of cluster 0 is full. -/
def fullSt : State :=
  { launchSt 1 2 with
    clusters := [(0, { deps := List.replicate 4097 { vd := 0, task := pad 0, lo := 0, len := 0, write := false } })] }

theorem witness_consume_waits : (fullSt.publishEntry 0 { vd := 0, qaddr := pad 0, prio := 0, nonPre := true, thread := 0 } (pad 0x400).toNat).isNone = true := by
  decide +kernel

/-! ## Witnesses: loads, slices, limits -/

/-- Region 0 loads an image at the scratchpad's first line, which has one record, for element 0: a channel entry, or none. -/
def imgSt (cnt conf : Nat) : State :=
  { mach [] with
    regions := [(0, { reg0 with status := .loading, confs := [{ image := pad 0, extents := [1, 1, 1, 1], depth := 1 }],
                                load := some { conf := conf, recn := 0, shadow := [(5, 0, {})], scales := [] } })]
    mem := putAll [] [(padP 0, 4, 1), (padP 4, 4, 1), (padP 64, 8, 0x10000 + cnt * 2 ^ 32)] }
def load0 (conf : Nat) : LoadSt := { conf := conf, recn := 0, shadow := [(5, 0, {})], scales := [] }

theorem witness_loads : ((imgSt 1 0).region 0).load = some (load0 0) ∧ ((imgSt 1 0).region 0).live = true ∧
    ((imgSt 1 0).region 0).status = .loading ∧ (load0 0).conf < ((imgSt 1 0).region 0).confs.length ∧
    ((imgSt 1 0).nextRecord ((imgSt 1 0).region 0) 0 (load0 0)).isRight = true ∧
    ((imgSt 0 0).nextRecord ((imgSt 0 0).region 0) 0 (load0 0)).isLeft = true ∧
    ((imgSt 1 1).region 0).confs.length ≤ (load0 1).conf ∧ ((imgSt 1 1).region 0).task = none ∧
    (load0 1).shadow = [(5, 0, {})] := by decide +kernel

theorem witness_preemption : reg0.live = true ∧ reg0.activeNow = true ∧ reg0.load = none ∧ reg0.dbgStop = false ∧ reg0.status = .running ∧
    reg0.drained = false ∧ reg0.frozenEnd = false ∧ ((tileSt .running).region 1).live = true ∧ ((tileSt .running).region 1).activeNow = false ∧
    ((tileSt .running).region 1).saved = false ∧ (mach []).shadowLoads 0 = [] ∧ (imgSt 1 0).shadowLoads 0 = [0] ∧
    ({ reg0 with dbgStop := true } : RegionState).dbgStop = true ∧ ((imgSt 1 0).region 0).load.isSome = true := by decide

/-- Device 0 with its slice over or not, parked or not, with region 0 drained or running. -/
def sliceSt (over1 parked drained : Bool) : State :=
  { mach [] with
    vds := [(0, { dev0 with sliceEnd := over1, slice := 1, parked := parked, nclusters := 4 })], regions := [(0, { reg0 with drained := drained })] }

/-- Device 0 is parked and asks for clusters; or it lacks more HBM groups than there are. -/
def lacking (n : Nat) : State :=
  { mach [] with vds := [(0, { dev0 with clusters := [], nclusters := n, parked := true, wclass := 2, ngroups := if n = 0 then 100 else 0 })] }

theorem witness_slices : ((sliceSt true false true).vd 0).live = true ∧ ((sliceSt true false true).vd 0).dying = false ∧
    ((sliceSt true false true).vd 0).mode = .active ∧ (sliceSt true false true).sliceOver 0 = true ∧
    (sliceSt true false true).collapseReady 0 = true ∧ (sliceSt true false false).collapseReady 0 = false ∧
    ((sliceSt false true true).vd 0).parked = true ∧ ((sliceSt false true true).wakeClusters 0).isSome = true ∧
    (({ sliceSt false true true with vds := [(0, { dev0 with clusters := [], nclusters := 5, parked := true })] } : State).wakeClusters 0).isNone = true ∧
    (((sliceSt false true true).wakeGroups 0).bind fun g => g.wakeClusters 0).isSome = true ∧
    (((lacking 5).wakeGroups 0).bind fun g => g.wakeClusters 0).isNone = true ∧ ((lacking 0).wakeGroups 0).isNone = true ∧
    ((lacking 0).vd 0).parked = true ∧ (sliceSt false true true).sliceOver 0 = false := by
  decide +kernel

theorem witness_limits : 1024 * 1 ≤ ({ reg0 with wdlim := 1, thlim := 1, eligible := 1024, throttledC := 1024 } : RegionState).eligible ∧
    reg0.wdlim = 0 ∧ reg0.thlim = 0 ∧ reg0.throttled = false ∧ dev0.pinned = false := by decide

/-! ## Witnesses: devices -/

/-- A VD record at commons 0x20000, one cluster, class 2, a share of 2 MiB with the root table, or a reserved byte set. -/
def vdRec (bad : Nat) : List (Nat × Nat × Nat) :=
  let p := pa spCommons 0x20000
  [(p + 2, 1, 1), (p + 3, 1, 2), (p + 5, 1, bad), (p + 8, 8, 0x200000), (p + 0x18, 8, 2 ^ 62 + 0x10000 + 1), (p + 0x29, 1, 5)]
def vdRecSt (bad : Nat) : State := { mem := putAll [] (vdRec bad) }

theorem witness_creation : Safe (vdRecSt 0) ∧ (vdRecSt 0).vdRecordOk (pa spCommons 0x20000) = true ∧
    (vdRecSt 1).vdRecordOk (pa spCommons 0x20000) = false ∧ (vdRecSt 0).readNat (pa spCommons 0x20000 + 0x18) 8 / 2 ^ 62 = 1 ∧
    (vdRecSt 0).readNat (pa spCommons 0x20000 + 8) 8 ≠ 0 ∧
    commonsOk ((vdRecSt 0).readNat (pa spCommons 0x20000 + 0x18) 8 / 2 ^ 12 % 2 ^ 36 * 2 ^ 12) = true ∧ ((vdRecSt 0).vd 0).live = false ∧
    (vdRecSt 0).readNat (pa spCommons 0x20000 + 2) 1 ≤ (vdRecSt 0).openClusters.length ∧
    (vdRecSt 0).readNat (pa spCommons 0x20000 + 4) 1 ≤ (vdRecSt 0).openGroups.length ∧
    (vdRecSt 0).readNat (pa spCommons 0x20000 + 0x2A) 2 = 0 ∧ (vdRecSt 0).readNat (pa spCommons 0x20000 + 0x2C) 1 = 0 ∧ 0 < Config.vdCount ∧
    ((vdRecSt 0).readNat (pa spCommons 0x20000 + 3) 1 % 4 == 3) = false ∧ (vdRecSt 0).readNat (pa spCommons 0x20000 + 8) 8 = 0x200000 :=
  ⟨by unfold Safe; decide +kernel, by decide +kernel⟩

theorem witness_creation_place : placeOf 1 Config.pod Config.package 0 0x20000 = .ok (pa spCommons 0x20000) 1 ∧
    (vdRecSt 0).sharePlaces 0x200000 (some 0x10000) ≠ [] := by
  refine ⟨?_, by decide +kernel⟩
  have h : commonsOk 0x20000 = true := rfl
  simp [placeOf, h]

/-- Device 0 in a mode with two permitted wakers, one region or none. -/
def modeSt (m : VdMode) (f : VdState → VdState) : State :=
  { mach [] with vds := [(0, f { dev0 with mode := m, wakers := [(3, 7)], idle := 1, idleC := 3600000, nclusters := 4 })] }

theorem witness_destruction : ((modeSt .active id).vd 0).live = true ∧ ((modeSt .active id).vd 0).dying = false ∧
    ((modeSt .active fun d => { d with dying := true }).vd 0).dying = true ∧
    (modeSt .active fun d => { d with dying := true }).windowsQuiet 0 = true := by decide +kernel

theorem witness_wakes : (modeSt .dormant id).mayWake 0 (.vd 3 7) = true ∧ (modeSt .dormant id).mayWake 0 (.vd 3 8) = false ∧
    ((modeSt .dormant id).vd 0).mode = .dormant ∧ ((modeSt .collapsing id).vd 0).mode = .collapsing ∧ ((modeSt .active id).vd 0).mode = .active ∧
    ((modeSt .active id).vd 0).parked = false ∧ ((modeSt .active id).vd 0).idle ≠ 0 ∧
    ((modeSt .active id).vd 0).idle * Config.cyclesPerMs ≤ ((modeSt .active id).vd 0).idleC ∧ (modeSt .active id).regionsOf 0 = [] ∧
    (({ modeSt .active id with threads := (List.range 64).map fun t => (t, { run := .wfi }) } : State).idleVd 0) = true ∧
    (modeSt .collapsing id).collapseReady 0 = true ∧
    ({ modeSt .collapsing id with regions := [(0, reg0)] } : State).collapseReady 0 = false := by decide +kernel

theorem witness_wake_ends : ((modeSt .waking id).endWake 0).isSome = true ∧ ((modeSt .waking id).vd 0).images = [] ∧
    ((modeSt .waking id).vd 0).launchQs = [] ∧ ((modeSt .waking fun d => { d with nclusters := 5 }).endWake 0).isNone = true ∧
    ((modeSt .waking id).vd 0).missed = false ∧ boundPassed 1 0 7200001 = true ∧ boundPassed 1 0 7200000 = false := by decide +kernel

/-! ## Witnesses: predictor, boot, errors -/

/-- A token of device 0 heads the predictor port of die 0; the device's control register. -/
def predSt (pay : Word) (xpred : BitVec 32) : State :=
  { mach [] with
    vds := [(0, { dev0 with xpred := xpred, observed := [(9, 3, 4)] })], ports := [(255, { fifo := [{ vd := 0, r := some 0, tok := tokOn 0 0 pay }] })] }

theorem witness_predictor : (predSt 0x90407 1).routerHead 0 = some (0, 0, 0x90407) ∧ 0x90407 / 2 ^ 14 % 4 = 0 ∧
    ((predSt 0x90407 1).vd 0).xpred.toNat % 4 = 1 ∧ ((predSt 0x90407 1).vd 0).live = true ∧ ((predSt 0x90407 0).vd 0).xpred.toNat % 4 ≠ 1 ∧
    (predSt 0x4407 3).routerHead 0 = some (0, 0, 0x4407) ∧ 0x4407 / 2 ^ 14 % 4 = 1 ∧ ((predSt 0x4407 3).vd 0).xpred.toNat % 4 = 3 ∧
    ((predSt 0x4407 1).vd 0).xpred.toNat % 4 ≠ 3 ∧ ((predSt 0 0).vd 0).observed = [(9, 3, 4)] := by decide +kernel

theorem witness_boot : ({ State.reset with boot := .minimal } : State).boot = .minimal ∧ State.reset.boot ∈ [BootStage.rom, .mgmt, .pkg, .bextex] ∧
    (default : BootImage).poisoned = false ∧ (default : BootImage).wellFormed = false ∧
    ({ (default : BootImage) with wellFormed := true, claimed := 1 } : BootImage).claimed ≠ (default : BootImage).digest ∧
    ({ (default : BootImage) with reported := some 3 } : BootImage).reported = some 3 := by decide

/-- Verification and the fused version are constants of Config without a value; where one accepts an image and the other is
at most 1, an image of version 1 meets the premises of the start of its stage, and one of version 0 those of its failure. -/
theorem witness_boot_images (h : Config.mldsaVerify Config.keyDigest 0 0 = true) (hv : Config.fusedVersion = 1) :
    Config.mldsaVerify Config.keyDigest (default : BootImage).digest (default : BootImage).signature = true ∧
    ({ (default : BootImage) with version := 0 } : BootImage).version < Config.fusedVersion ∧
    Config.fusedVersion ≤ ({ (default : BootImage) with version := 1 } : BootImage).version ∧ (default : BootImage).reported = none :=
  ⟨h, by simp [hv], by simp [hv], rfl⟩

/-- Element 0 of region 0 holds an entry, a spill record and a latch. -/
def eccSt : State :=
  let m : MsEntry := { tok := tokOn 0 0 5, stamp := 0, pend := false }
  { mach [] with elems := [(0, { store := [m], spill := [m], confs := [(0, { latches := [(1, { valid := true })] })] })] }

theorem witness_errors : lineStorage (pa spCommons 0x40) = true ∧ lineStorage (padP 0) = true ∧
    (eccSt.elem 0 0).store[0]? = some { tok := tokOn 0 0 5, stamp := 0, pend := false } ∧
    (eccSt.elem 0 0).spill[0]? = some { tok := tokOn 0 0 5, stamp := 0, pend := false } ∧
    (Sparse.atD (Sparse.atD (eccSt.elem 0 0).confs 0 {}).latches (4 * 0 + 1) {}).valid = true ∧
    (Sparse.entry? (eccSt.elem 0 0).confs 0).isSome = true := by decide +kernel

/-! ## Witnesses: links and remote accesses -/

/-- Port 5 is up; device 0 owns port 0 of die 0; a flit of lane 3 to it. -/
def linkSt (retries : Nat) : State :=
  { mach [] with vds := [(0, { dev0 with ports := [0], commonsLen := 0x1000 })], serdex := [(5, { up := true, retries := retries })] }
def flit0 (good : Bool) : Flit :=
  { lane := 3, ftype := 0, count := 1, tokens := [tokOn 0 0 1, tokOn 0 0 2], pkg := Config.package, pod := Config.pod, srcVd := 9,
    msg := .stream 0 0, line := false, good := good }

theorem witness_flits : ((linkSt 0).serdexPort 5).up = true ∧ (flit0 false).good = false ∧ ((linkSt 0).serdexPort 5).retries < 8 ∧
    8 ≤ ((linkSt 8).serdexPort 5).retries ∧ ({ flit0 true with count := 4 } : Flit).formOk = false ∧ ((linkSt 0).serdexPort 5).rx = [] ∧
    (flit0 true).count + 1 = (flit0 true).tokens.length ∧ (flit0 true).tokens.length ≤ 4 ∧ ((linkSt 0).vd 0).live = true ∧
    ((linkSt 0).vd 0).dying = false ∧ 0 ∈ ((linkSt 0).vd 0).ports ∧ ((linkSt 0).vd 0).mode = .active ∧ (linkSt 0).wakeBuf = [] ∧
    ((linkSt 0).port 0).fifo.length + (flit0 true).tokens.length ≤ 256 := by decide
theorem witness_flits_here : (flit0 true).lane = 3 ∧ (flit0 true).good = true ∧ (flit0 true).ftype = 0 ∧ (flit0 true).msg = .stream 0 0 ∧
    (flit0 true).line = false ∧ (flit0 true).pkg = Config.package ∧ (flit0 true).pod = Config.pod := ⟨rfl, rfl, rfl, rfl, rfl, rfl, rfl⟩
theorem witness_trained : isTier 5 = false := by simp [isTier]

/-- A span of device 0 of this package and device 7 of package 3 of its pod; this package's member owns every port. -/
def span0 : Span :=
  { num := 0, id := 1, edge := false, submitted := [], active := true, left := [],
    members := [{ pkg := Config.package, vd := 0, ports := 0xFFFFFFFF, pod := Config.pod }, { pkg := 3, vd := 7, ports := 1, pod := Config.pod }] }
def spanSt (rs : List RemoteReq) : State := { linkSt 0 with spans := [span0], remote := rs }
def rem0 (k : RemoteKind) : RemoteReq := { pod := Config.pod, pkg := 3, vd := 7, die := 0, pa := 0x40, size := 8, kind := k }
/-- That access, with device 0 in a mode, its requester listed or not, and something held for it or not. -/
def remSt (k : RemoteKind) (m : VdMode) (listed held : Bool) : State :=
  { spanSt [rem0 k] with
    vds := [(0, { dev0 with commonsLen := 0x1000, mode := m, wakers := if listed then [(3, 7)] else [] })]
    wakeBuf := if held then [(0, .remote (rem0 .load))] else [] }

theorem span_of (rs : List RemoteReq) : (spanSt rs).spanOf 0 = some span0 := by
  simp [State.spanOf, spanSt, span0, List.range, List.range.loop]

theorem witness_remote (k : RemoteKind) : Safe (remSt k .active true false) ∧ (remSt k .active true false).remote[0]? = some (rem0 k) ∧
    (remSt k .active true false).remote.take 0 = [] ∧ isMgmt (pa spCommons (rem0 k).pa) = false ∧
    isMgmt (pa spCommons Config.mgmtBase) = true ∧ (remSt k .active true false).shareOwner (rem0 k).pa (rem0 k).size = some 0 ∧
    ((remSt k .active true false).vd 0).dying = false ∧ (remSt k .active true false).poisoned (pa spCommons 0x40) = false :=
  ⟨by unfold Safe; rfl, rfl, rfl, (show isMgmt (pa spCommons 0x40) = false by decide), by decide, rfl, rfl, rfl⟩
theorem witness_remote_kinds : requestOk (rem0 .load) = true ∧ requestOk (rem0 (.store 5)) = true ∧ requestOk (rem0 (.atomic 0 5 0)) = true ∧
    requestOk { rem0 .load with pa := 0x41 } = false := ⟨rfl, rfl, rfl, rfl⟩
theorem witness_remote_modes (k : RemoteKind) :
    (∀ m l h, ((remSt k m l h).vd 0).mode = m ∧ (remSt k m l h).mayWake 0 (.vd (rem0 k).pkg (rem0 k).vd) = l) ∧
    (remSt k .active true false).holds 0 = false ∧ (remSt k .active true true).holds 0 = true ∧
    (remSt k .active true false).placeDiverted (pa spCommons 0x40) = false ∧ (remSt k .dormant true false).holdRoom 0 = true ∧
    ({ spanSt [] with wakeBuf := List.replicate 512 (0, .remote default) } : State).holdRoom 0 = false :=
  ⟨fun m l h => ⟨rfl, by cases l <;> rfl⟩, rfl, rfl, rfl, rfl, by decide +kernel⟩

theorem witness_remote_span (k : RemoteKind) : (rem0 k).pod = Config.pod ∧ (spanSt [rem0 k]).spanJoins (rem0 k).pkg (rem0 k).vd 0 = true ∧
    (linkSt 0).spanJoins 3 7 0 = false := by
  refine ⟨rfl, ?_, by decide⟩
  simp only [State.spanJoins, span_of]
  by_cases h : 3 = Config.package <;> simp [Span.indexOf, span0, rem0, List.range, List.range.loop, h]

/-- Serdex port 5 holds a token of device 0 and is bound to port 0 of device 0 of this package, or of package `k`. -/
def bindOf (pkg pod : Nat) : Word := BitVec.ofNat 64 (pkg * 2 ^ 19 + pod * 2 ^ 27)
def tok0 : PortTok := { vd := 0, r := none, tok := tokOn 0 0 1 }
def bindSt (up : Bool) (b : Word) : State := { spanSt [] with serdex := [(5, { up := up, fifo := [tok0], bind := some b })] }

theorem bindOf_toNat (p q : Nat) (hp : p < 2 ^ 8) (hq : q < 2 ^ 4) : (bindOf p q).toNat = p * 2 ^ 19 + q * 2 ^ 27 := by
  unfold bindOf
  rw [BitVec.toNat_ofNat, Nat.mod_eq_of_lt]
  simp only [Nat.reducePow] at *
  omega
theorem bindOf_fields (p q n : Nat) (hp : p < 2 ^ 8) (hq : q < 2 ^ 4) (h : n = p * 2 ^ 19 + q * 2 ^ 27) :
    n / 2 ^ 19 % 2 ^ 8 = p ∧ n / 2 ^ 27 % 2 ^ 4 = q ∧ n / 2 ^ 31 % 2 ^ 10 = 0 ∧ 256 * (n / 2 ^ 41 % 2) + n / 2 ^ 42 % 2 ^ 8 = 0 := by
  simp only [Nat.reducePow] at *
  refine ⟨?_, ?_, ?_, ?_⟩ <;> omega

/-- This package's index and pod have no value: those that fit their fields are met here (R358). -/
theorem witness_serdex_delivery (hp : Config.package < 2 ^ 8) (hq : Config.pod < 2 ^ 4) (n : Nat)
    (hn : n = (bindOf Config.package Config.pod).toNat) :
    n / 2 ^ 19 % 2 ^ 8 = Config.package ∧ n / 2 ^ 27 % 2 ^ 4 = Config.pod ∧ n / 2 ^ 31 % 2 ^ 10 = 0 ∧
    256 * (n / 2 ^ 41 % 2) + n / 2 ^ 42 % 2 ^ 8 = 0 :=
  bindOf_fields _ _ n hp hq (hn.trans (bindOf_toNat _ _ hp hq))
theorem witness_serdex_token (up : Bool) (b : Word) : ((bindSt up b).serdexPort 5).bind = some b ∧
    ((bindSt up b).serdexPort 5).fifo = tok0 :: [] ∧ (bindSt up b).ports = [] ∧ (bindSt up b).wakeBuf = [] ∧
    ((bindSt up b).vd 0).live = true ∧ ((bindSt up b).vd 0).dying = false ∧ 0 ∈ ((bindSt up b).vd 0).ports ∧
    ((bindSt up b).vd 0).mode = .active := ⟨rfl, rfl, rfl, rfl, rfl, rfl, by simp [bindSt, spanSt, linkSt, State.vd, Sparse.atD, Sparse.entry?], rfl⟩

theorem witness_serdex_routes (hp : Config.package = 0) (hq : Config.pod = 0) :
    ¬ ((bindOf 3 0).toNat / 2 ^ 19 % 2 ^ 8 = Config.package ∧ (bindOf 3 0).toNat / 2 ^ 27 % 2 ^ 4 = Config.pod) ∧
    (bindSt true (bindOf 3 0)).routed 0 0 3 = true ∧ (bindSt true (bindOf 3 0)).routed 0 0 4 = false ∧
    ((bindSt true (bindOf 3 0)).serdexPort 5).stopTx = [false, false, false, false] ∧ ((bindSt false (bindOf 3 0)).serdexPort 5).up = false := by
  have h : (bindSt true (bindOf 3 0)).spanOf 0 = some span0 := by
    simp [State.spanOf, bindSt, spanSt, span0, List.range, List.range.loop]
  refine ⟨by rw [hp]; decide, ?_, ?_, by decide, by decide⟩ <;>
    simp [State.routed, h, Span.onPackage, span0, List.range, List.range.loop, hp, hq]

theorem live_port (up : Bool) (b : Word) : (bindSt up b).livePort 0 5 = up := by
  have h : (bindSt up b).spanOf 0 = some span0 := by simp [State.spanOf, bindSt, spanSt, span0, List.range, List.range.loop]
  have hu : ((bindSt up b).serdexPort 5).up = up := rfl
  have hd : (bindSt up b).downSw = [] := rfl
  simp [State.livePort, State.ownsSerdex, h, hu, hd, span0]
theorem witness_serdex_links (up : Bool) (b : Word) : (bindSt up b).livePort 0 5 = up ∧ (bindSt up b).laneStopped 5 3 = false ∧
    (bindSt up b).streamLink 0 5 Config.pod = (if up then some 5 else none) := by
  have hs : (bindSt up b).laneStopped 5 3 = false := rfl
  refine ⟨live_port up b, hs, ?_⟩
  cases up <;> simp [State.streamLink, live_port, hs]

/-! ## Witnesses: reductions in windows -/

/-- Window 0 of span 0: 64 bytes of the scratchpad at 0x40 of device 0, two FP32 terms. -/
def win0 : Window :=
  { num := 0, span := 0, vd := 0, base := pad 0x40, len := 64, terms := 2, fmt := 4, dbl := false, intAdd := false, home := 0, handler := 0,
    closing := false }
def node0 (lo m : Nat) : RedNode :=
  { win := 0, addr := (pad 0x40).toNat, lo := lo, m := m, val := 0x3F800000, srcs := [], retx := false, terms := 2, fmt := 4, size := 4,
    fadd := true }
def nodeSt (l : List SwNode) : State := { mach [] with windows := [win0], nodes := l }
def atSw (d : RedNode) : SwNode := { sw := 1, node := d, home := false }
def atHome (d : RedNode) : SwNode := { sw := 1, node := d, home := true }
/-- A contribution of this package to that location, sent over switch 1. -/
def kept0 (acked : Option Word) : Retained :=
  { id := 0, sw := 1, win := 0, addr := pad 0x40, x := 0, val := 5, msg := { red0 2 with pa := pa spCommons 0x40 }, acked := acked,
    retx := false }
def src0 : RedSrc := { pkg := 3, x := 0, id := 9 }
/-- The home port with a node of one source, which finished before or not; a window that closes or not. -/
def homeSt (done closing : Bool) : State :=
  { nodeSt [atHome { node0 0 1 with srcs := [src0] }] with
    windows := [{ win0 with closing := closing }], finished := if done then [(3, 9)] else [] }

theorem witness_switches : (nodeSt [atSw (node0 0 1), atSw (node0 1 1)]).windowOf 0 = some win0 ∧
    joinable win0.terms (node0 0 1) (node0 1 1) = true ∧ joinable win0.terms (node0 0 1) (node0 0 1) = false ∧
    sameFields (node0 0 1) (node0 1 1) = true ∧ sameFields (node0 0 1) { node0 1 1 with size := 8 } = false ∧
    (atSw (node0 0 1)).sw = 1 ∧ (atSw (node0 0 1)).home = false ∧ (node0 0 1).retx = false := by decide +kernel

theorem witness_home_nodes : Safe (homeSt false false) ∧ (atHome (node0 0 1)).home = true ∧
    (src0.pkg, src0.id) ∈ (homeSt true false).finished ∧ (src0.pkg, src0.id) ∉ (homeSt false false).finished ∧
    ((homeSt false false).vd win0.vd).mode = .active ∧ (homeSt false false).divertWait win0.vd (node0 0 1).addr = false ∧
    (node0 0 1).addr < 2 ^ 64 ∧ (homeSt false false).homeTakes (node0 0 1) = true ∧ (homeSt false false).fitsWindow win0 (node0 0 1) = true ∧
    (homeSt false false).fitsWindow win0 (node0 1 2) = false ∧ (homeSt false false).homeReds = [] ∧ (homeSt false false).repair = [] ∧
    ((homeSt false true).windowOf 0).map (·.closing) = some true ∧ ((homeSt false false).windowOf 0).map (·.closing) = some false ∧
    ¬ ((node0 0 1).lo = 0 ∧ (node0 0 1).m = win0.terms) ∧ ((node0 0 2).lo = 0 ∧ (node0 0 2).m = win0.terms) ∧
    (nodeSt [atHome (node0 0 2)]).homePlace win0 (node0 0 2).addr = some (padP 0x40) ∧
    ({ nodeSt [atHome (node0 0 1)] with windows := [] } : State).windowOf (node0 0 1).win = none ∧ (node0 0 1).srcs = [] :=
  ⟨by unfold Safe; decide, by decide +kernel⟩
def diverted0 : Diverted := { win := 9, addr := 0, tok := tokOn 0 0 0, val := 0, srcs := [] }
theorem witness_home_waits : ({ homeSt false false with repair := List.replicate 256 diverted0 } : State).homeTakes (node0 0 1) = false := by
  decide +kernel

theorem witness_acknowledgements : (kept0 (some 1)).acked = some 1 ∧ (kept0 none).acked = none ∧ (kept0 none).win < 2 ^ 40 ∧
    (kept0 none).sw = 1 ∧ (kept0 none).sw ≠ 2 ∧ (mach []).retained = [] := by decide +kernel

/-- In pod 0, the contribution's path for a member that owns port 1, which is up. -/
def pathSt : State := { spanSt [] with serdex := [(1, { up := true })] }
theorem witness_rewrite_path (hq : Config.pod = 0) : pathSt.pathPort (pathSt.region (kept0 none).msg.r).vd
    (pkgOf (kept0 none).msg.pa / 256) (paOff (kept0 none).msg.pa) = some 1 := by
  have h : pathSt.spanOf 0 = some span0 := by simp [State.spanOf, pathSt, spanSt, span0, List.range, List.range.loop]
  have hv : (pathSt.region (kept0 none).msg.r).vd = 0 := rfl
  have hk : pkgOf (kept0 none).msg.pa / 256 = 0 := by decide +kernel
  have ho : paOff (kept0 none).msg.pa = 0x40 := by decide +kernel
  have hl : pathSt.livePort 0 1 = true := by
    have hu : (pathSt.serdexPort 1).up = true := rfl
    have hd : pathSt.downSw = [] := rfl
    simp only [State.livePort, State.ownsSerdex, h, hu, hd]
    simp [span0]
  rw [hv, hk, ho]
  unfold State.pathPort
  simp only [hq, beq_self_eq_true, if_true]
  have hr : (List.range 32).map (fun i => (0x40 / 64 + i) % 32) = 1 :: ((List.range 31).map fun i => (2 + i) % 32) := by decide
  rw [hr, List.find?_cons, hl]

theorem witness_windows_busy : ({ modeSt .active (fun d => { d with dying := true }) with
    windows := [win0], homeReds := [{ win := 0, addr := pad 0x40, nodes := [] }] } : State).windowsQuiet 0 = false := by decide +kernel

/-! ## Witnesses: firmware services -/

/-- Thread 0 waits at machine level for a service: its frame is at commons 0x8000. The device has a queue and a port. -/
def svcSt (code : Nat) (g1 g2 : Word) : State :=
  { mach [] with
    threads := [(0, { regs := [(1, g1), (2, g2)], pc := 0x1000 })]
    vds := [(0, { dev0 with queues := [0], ports := [0] })]
    regions := [(1, reg0)]
    mem := putAll (tcbMem 0) [(pa spCommons 0x8000, 8, 0x2000), (pa spCommons 0x8008, 1, 1), (pa spCommons 0x8010, 1, fcIllegal),
      (pa spCommons 0x8018, 8, 2 ^ 63 + code)] }
/-- It asks for `code` with g1 and g2. -/
theorem asks_of {s : State} {c g1 g2 : Nat} (h : (s.serviceCode 0 == some c && ((s.thread 0).reg 1).toNat == g1 && ((s.thread 0).reg 2).toNat == g2) = true) :
    Asks s 0 c g1 g2 := by
  simp only [Bool.and_eq_true, beq_iff_eq] at h
  exact ⟨by decide, h.1.1, h.1.2, h.2⟩

theorem witness_services : (svcSt 0x7F0A 5 6).machineFrame 0 = some (pa spCommons 0x8000) ∧ Asks (svcSt 0x7F0A 5 6) 0 0x7F0A 5 6 ∧
    (0x7F0A < 0x7F00 ∨ 0x7F09 < 0x7F0A) :=
  ⟨by decide +kernel, asks_of (by decide +kernel), by decide⟩

/-- A span record at the scratchpad's line 16 with this one member; a window record at line 20. -/
def spanRec : State :=
  { svcSt 0x7F00 (pad 0x400) 0 with
    mem := putAll (svcSt 0x7F00 (pad 0x400) 0).mem [(padP 0x400, 2, 1), (padP 0x408, 8, 1), (padP 0x440, 8, 2 ^ 18)] }
def span1 : Span :=
  { num := 0, id := 1, edge := false, members := [{ pkg := 0, vd := 0, ports := 1, pod := 0 }], submitted := [], active := false, left := [] }

theorem witness_span_record : Asks spanRec 0 0x7F00 (pad 0x400).toNat 0 ∧ spanRec.recordAt 0 (spanRec.vdOfThread 0) (pad 0x400).toNat = some (hwWho 0 0) ∧
    spanRec.readSpan (hwWho 0 0) (pad 0x400).toNat = some span1 ∧ spanRec.spans = [] ∧
    (svcSt 0x7F00 1 0).recordAt 0 0 1 = none ∧ (svcSt 0x7F00 (pad 0x400) 0).readSpan (hwWho 0 0) (pad 0x400).toNat = none :=
  ⟨asks_of (by decide +kernel), by decide +kernel, by decide +kernel, rfl, by decide +kernel, by decide +kernel⟩

/-- Where the package is number 0 of pod 0, and the pod holds it, the member exists. -/
theorem witness_span_members (hp : Config.package = 0) (hq : Config.pod = 0) (h : Config.podHolds 0 0 = true) :
    (∀ m ∈ span1.members, spanRec.memberExists m = true) ∧ span1.indexOf Config.pod Config.package (spanRec.vdOfThread 0) = some 0 ∧
    ({ spanRec with spans := [span1] } : State).spanReady { span1 with submitted := [0] } = true ∧ span1.active = false := by
  have hv : spanRec.vdOfThread 0 = 0 := by decide
  have hl : (spanRec.vd 0).live = true ∧ (spanRec.vd 0).dying = false := by decide
  refine ⟨fun m hm => ?_, by rw [hv]; simp [Span.indexOf, span1, hp, hq, List.range, List.range.loop],
    by simp [State.spanReady, State.spanOf, span1, hp, hq, List.range, List.range.loop], rfl⟩
  simp only [span1, List.mem_singleton] at hm
  subst hm
  simp [State.memberExists, hp, hq, h, hl]

/-- A device in a span asks for a window: its record is at the scratchpad's line 20. -/
def winRec (op : Nat) : State :=
  { svcSt 0x7F01 (pad 0x500) 0 with
    spans := [span0]
    mem := putAll (svcSt 0x7F01 (pad 0x500) 0).mem [(padP 0x500, 8, 0x40000), (padP 0x508, 8, 64), (padP 0x510, 2, 1), (padP 0x512, 1, 4),
      (padP 0x513, 1, op)] }

theorem witness_winopen : Asks (winRec 0) 0 0x7F01 (pad 0x500).toNat 0 ∧ (winRec 0).recordAt 0 0 (pad 0x500).toNat = some (hwWho 0 0) ∧
    ((winRec 0).field (hwWho 0 0) (pad 0x500).toNat 8 = some 0x40000 ∧ (winRec 0).field (hwWho 0 0) ((pad 0x500).toNat + 8) 8 = some 64 ∧
    (winRec 0).field (hwWho 0 0) ((pad 0x500).toNat + 0x10) 2 = some 1 ∧ (winRec 0).field (hwWho 0 0) ((pad 0x500).toNat + 0x12) 1 = some 4 ∧
    (winRec 0).field (hwWho 0 0) ((pad 0x500).toNat + 0x13) 1 = some 0 ∧ (winRec 4).field (hwWho 0 0) ((pad 0x500).toNat + 0x13) 1 = some 4 ∧
    (winRec 0).field (hwWho 0 0) ((pad 0x500).toNat + 0x14) 1 = some 0 ∧ (winRec 0).field (hwWho 0 0) ((pad 0x500).toNat + 0x15) 3 = some 0 ∧
    (winRec 0).field (hwWho 0 0) ((pad 0x500).toNat + 0x18) 8 = some 0 ∧ (winRec 0).field (hwWho 0 0) ((pad 0x500).toNat + 0x20) 32 = some 0) ∧
    (winRec 0).windows = [] ∧ (winRec 0).vdOfThread 0 = 0 :=
  ⟨asks_of (by decide +kernel), by decide +kernel, by decide +kernel, rfl, by decide⟩

theorem span_of_member (s : State) (h : s.spans = [span0]) : s.spanOf 0 = some span0 ∧ span0.indexOf Config.pod Config.package 0 = some 0 := by
  constructor <;> simp [State.spanOf, Span.indexOf, h, span0, List.range, List.range.loop]

theorem witness_winopen_span : (winRec 0).spanOf ((winRec 0).vdOfThread 0) = some span0 ∧ 0 < span0.members.length ∧
    span0.indexOf Config.pod Config.package ((winRec 0).vdOfThread 0) = some 0 :=
  ⟨(span_of_member _ rfl).1, by decide, (span_of_member (winRec 0) rfl).2⟩

/-- A device asks to close window 0 of its span, or to leave the span; a reduction of the window is open or not. -/
def closeSt (code : Nat) (busy : Bool) (vd : Nat) : State :=
  { svcSt code 0 0 with
    spans := [span0], windows := [{ win0 with vd := vd }], homeReds := if busy then [{ win := 0, addr := pad 0x40, nodes := [] }] else [] }

theorem witness_winclose : Asks (closeSt 0x7F02 false 0) 0 0x7F02 0 0 ∧ (svcSt 0x7F02 0 0).spanOf 0 = none ∧
    (closeSt 0x7F02 false 0).windows.find? (fun w => w.span == span0.num && w.num == 0) = some win0 ∧
    (closeSt 0x7F02 false 0).windowBusy win0.num win0.span = false ∧ (closeSt 0x7F02 true 0).windowBusy win0.num win0.span = true ∧
    win0.vd = (closeSt 0x7F02 false 0).vdOfThread 0 ∧ ({ win0 with vd := 1 } : Window).vd ≠ (closeSt 0x7F02 false 1).vdOfThread 0 ∧
    Asks (closeSt 0x7F09 false 0) 0 0x7F09 0 0 ∧ Asks (svcSt 0x7F09 1 0) 0 0x7F09 1 0 ∧ (closeSt 0x7F09 false 0).windowsQuiet 0 = true ∧
    (closeSt 0x7F09 true 0).windowsQuiet 0 = false :=
  ⟨asks_of (by decide +kernel), rfl, by decide +kernel, by decide +kernel, by decide +kernel, by decide, by decide, asks_of (by decide +kernel),
   asks_of (by decide +kernel), by decide +kernel⟩

theorem witness_winclose_span (busy : Bool) : (closeSt 0x7F02 busy 0).spanOf 0 = some span0 ∧ (closeSt 0x7F09 busy 0).spanOf 0 = some span0 :=
  ⟨(span_of_member _ rfl).1, (span_of_member _ rfl).1⟩

/-- SBIND of Serdex port 5 to port 0 of device 7 of package 3. -/
def sbindSt : State := { svcSt 0x7F04 (BitVec.ofNat 64 (5 + 3 * 2 ^ 19 + 7 * 2 ^ 31)) 0 with spans := [span0] }

theorem witness_sbind (hq : Config.pod = 0) (hp : Config.package = 0) : Asks sbindSt 0 0x7F04 (5 + 3 * 2 ^ 19 + 7 * 2 ^ 31) 0 ∧
    Asks (svcSt 0x7F04 40 0) 0 0x7F04 40 0 ∧ (svcSt 0x7F04 5 0).ownsSerdex 0 5 = false ∧ sbindSt.ownsSerdex 0 5 = true ∧
    sbindSt.spanOf (sbindSt.vdOfThread 0) = some span0 ∧ (span0.indexOf 0 3 7).isSome = true := by
  have h : sbindSt.spanOf 0 = some span0 := (span_of_member _ rfl).1
  refine ⟨asks_of (by decide +kernel), asks_of (by decide +kernel), by decide, ?_, h, ?_⟩
  · simp only [State.ownsSerdex, h]; simp [span0]
  · simp [Span.indexOf, span0, hq, hp, List.range, List.range.loop]

theorem witness_qbind : Asks (svcSt 0x7F05 (2 ^ 13) 0x40) 0 0x7F05 (2 ^ 13) 0x40 ∧ Asks (svcSt 0x7F05 (2 ^ 14) 0) 0 0x7F05 (2 ^ 14) 0 ∧
    Asks (svcSt 0x7F05 1 0) 0 0x7F05 1 0 ∧ 64 ∉ ((svcSt 0x7F05 1 0).vd 0).queues ∧ 0 ∈ ((svcSt 0x7F05 0 0).vd 0).queues ∧
    ((2 ^ 13) / 2 ^ 13 = 1 ↔ 0x40 ≠ 0) ∧ (svcSt 0x7F05 0 0).vdOfCluster 0 = (svcSt 0x7F05 0 0).vdOfThread 0 ∧
    ((svcSt 0x7F05 0 0).queue 0).run = false ∧ ((svcSt 0x7F05 0 0).queue 0).stopped = false :=
  ⟨asks_of (by decide +kernel), asks_of (by decide +kernel), asks_of (by decide +kernel), by decide, by decide, by decide, by decide, by decide,
   by decide⟩

theorem witness_pbind : Asks (svcSt 0x7F06 0 1) 0 0x7F06 0 1 ∧ Asks (svcSt 0x7F06 255 0) 0 0x7F06 255 0 ∧ Asks (svcSt 0x7F06 1 0) 0 0x7F06 1 0 ∧
    1 ∉ ((svcSt 0x7F06 1 0).vd 0).ports ∧ 0 ∈ ((svcSt 0x7F06 0 0).vd 0).ports ∧
    ((svcSt 0x7F06 0 1).ridCheck ((svcSt 0x7F06 0 1).vdOfThread 0) (BitVec.ofNat 64 1)).toOption = some 1 :=
  ⟨asks_of (by decide +kernel), asks_of (by decide +kernel), asks_of (by decide +kernel), by decide, by decide, by decide⟩

/-- PART of partition 0 of cluster 0, which stands or not, with a queue or none. -/
def partReq (g1 g2 : Word) (l : Sparse Partition) : State := { svcSt 0x7F07 g1 g2 with clusters := [(0, { parts := l })] }
def part0 (q : List SReq) : Sparse Partition := [(0, { live := true, queue := q })]

theorem witness_part : Asks (partReq 0x40 0x20001 []) 0 0x7F07 0x40 0x20001 ∧ Asks (svcSt 0x7F07 0x100 0) 0 0x7F07 0x100 0 ∧
    Asks (partReq 0x40 0x10002 []) 0 0x7F07 0x40 0x10002 ∧ (0x10002 / 2 ^ 16 % 2 ^ 16 < 0x10002 % 2 ^ 16) ∧
    (Sparse.atD ((partReq 0x40 0x20001 []).cluster 0).parts 0 {}).live = false ∧ ((partReq 0x40 0x20001 []).cluster 0).parts = [] ∧
    (partReq 0 0 []).vdOfCluster 0 = (partReq 0 0 []).vdOfThread 0 ∧
    (Sparse.atD ((partReq 0 0 (part0 [])).cluster 0).parts 0 {}).live = true ∧ (Sparse.atD ((partReq 0 0 (part0 [])).cluster 0).parts 0 {}).vd = 0 ∧
    (Sparse.atD ((partReq 0 0 (part0 [])).cluster 0).parts 0 {}).queue = [] ∧ ((partReq 0 0 (part0 [])).cluster 0).tiles = [] ∧
    (Sparse.atD ((partReq 0xC0 0 (part0 [sreq0])).cluster 0).parts 0 {}).queue ≠ [] ∧ 0xC0 / 2 ^ 6 % 4 = 3 :=
  ⟨asks_of (by decide +kernel), asks_of (by decide +kernel), asks_of (by decide +kernel), by decide, by decide, by decide, by decide, by decide,
   by decide, by decide, by decide, by decide, by decide⟩
theorem witness_part_room : 1 ≤ (partReq 0x40 0x20001 []).plainCount 0 + (partReq 0x40 0x20001 []).assigned 0 0 := by decide +kernel

theorem witness_rlist : Asks (svcSt 0x7F08 0 (pad 0x400)) 0 0x7F08 0 (pad 0x400).toNat ∧ Asks (svcSt 0x7F08 4 0) 0 0x7F08 4 0 ∧
    (((svcSt 0x7F08 0 (pad 0x400)).hwWrite (hwWho 0 0) (pad 0x400).toNat 64 1).toOption.map fun a =>
      chkOk (a.hwWrite (hwWho 0 0) ((pad 0x400).toNat + 64) 64 0)) = some true :=
  ⟨asks_of (by decide +kernel), asks_of (by decide +kernel), by decide +kernel⟩

/-! ## Witnesses: gangs -/

/-- A gang of device 0 with one member on package 3, or on the spare's package. -/
def mem0 (spare : Option (Nat × Nat)) : GangMember :=
  { pkg := Config.package + 1, cluster := 0, pod := Config.pod, spare := spare, desc := 0, task := 0, image := 0x1000, prep := none, go := false,
    status := 4, region := none }
def gang0 (ph : GangPhase) (ms : List GangMember) : Gang :=
  { vd := 0, record := pad 0x600, bound := 1, handler := 0, members := ms, phase := ph, thread := none, since := 0 }
def gangSt (clock : Nat) (g : Gang) : State := { mach [] with clock := clock, gangs := [g] }

theorem witness_gang_late : (gangSt 0 (gang0 .prepare [mem0 none])).gangLate (gang0 .prepare [mem0 none]) = false ∧
    (gang0 .go [mem0 none]).loose = false ∧ ({ gang0 .go [] with loose := true } : Gang).loose = true := by decide +kernel
theorem witness_gang_acks : (gangSt 0 (gang0 .prepare [mem0 none])).gangs[0]? = some (gang0 .prepare [mem0 none]) ∧
    (gang0 .prepare [mem0 none]).members[0]? = some (mem0 none) ∧ (mem0 none).prep = none ∧ (mem0 none).go = false ∧
    (gangSt 0 (gang0 .go [mem0 none])).gangLate (gang0 .go [mem0 none]) = false ∧
    (gangSt 3600 (gang0 .go [mem0 none])).gangLate (gang0 .go [mem0 none]) = true ∧
    (gangSt 3600 (gang0 .prepare [mem0 none])).gangLate (gang0 .prepare [mem0 none]) = true :=
  ⟨rfl, rfl, rfl, rfl, by decide +kernel, by decide +kernel, by decide +kernel⟩

theorem witness_gang_members : (mem0 none).here = false ∧ (mach []).prepared (mem0 none) true = some true ∧
    (mach []).prepared (mem0 none) false = some false ∧
    (loadSt.updRegion 0 fun _ => { reg0 with status := .loading }).prepared { mem0 none with pkg := Config.package, region := some 0 } true = none := by
  refine ⟨by simp [mem0, GangMember.here], by simp [State.prepared, mem0, GangMember.here], by simp [State.prepared, mem0, GangMember.here], ?_⟩
  have h : ((loadSt.updRegion 0 fun _ => { reg0 with status := .loading }).region 0).status = .loading := by decide
  simp [State.prepared, mem0, GangMember.here, h]

theorem witness_gang_go : (∃ j z, j ≠ 0 ∧ (gang0 .go [mem0 none, mem0 none]).members[j]? = some z ∧ z.go = false) ∧
    (∀ j z, j ≠ 0 → (gang0 .go [mem0 none]).members[j]? = some z → z.go = true) ∧
    (∀ j z, j ≠ 0 → (gang0 .go [mem0 none, { mem0 none with go := true }]).members[j]? = some z → z.go = true) := by
  refine ⟨⟨1, mem0 none, by decide, rfl, rfl⟩, ?_, ?_⟩ <;> intro j z hj hz <;> rcases j with _ | _ | j <;> simp_all [gang0]
  rw [← hz]

theorem witness_gang_relaunch : (gang0 .go [mem0 none]).phase ≠ .aborted ∧
    (∀ m ∈ (gang0 .go [mem0 none]).members, ¬ 256 * m.pod + m.pkg ∈ (mach []).failed) ∧
    (∃ m ∈ (gang0 .go [mem0 none]).members, 256 * m.pod + m.pkg ∈ [256 * Config.pod + (Config.package + 1)] ∧ m.spare = none) ∧
    (mem0 (some (Config.pod, Config.package + 2))).image ≠ 0 ∧ (mem0 none).region = none ∧
    ¬ (Config.package + 2 = Config.package ∧ Config.pod = Config.pod) :=
  ⟨by decide, fun m _ h => by simp [mach] at h, ⟨mem0 none, by simp [gang0], by simp [mem0], rfl⟩, by decide, rfl, by omega⟩

/-- A thread asks for a gang of one member of package 3: its record is at the scratchpad's line 24. -/
def gangRec (l : List Gang) : State :=
  { svcSt 0x7F03 (pad 0x600) 0 with
    gangs := l, mem := putAll (svcSt 0x7F03 (pad 0x600) 0).mem [(padP 0x600, 2, 1), (padP 0x640, 8, 3)] }

theorem witness_gang_service : Asks (gangRec []) 0 0x7F03 (pad 0x600).toNat 0 ∧ (gangRec []).gangs = [] ∧
    (∃ g ∈ (gangRec [{ gang0 .prepare [] with thread := some 0 }]).gangs, g.thread = some 0) ∧
    (gangRec []).recordAt 0 0 (pad 0x600).toNat = some (hwWho 0 0) ∧ ((gangRec []).readGang (hwWho 0 0) 0 0 (pad 0x600).toNat).isSome = true ∧
    (gangRec []).spanOf 0 = none ∧ (svcSt 0x7F03 1 0).recordAt 0 0 1 = none :=
  ⟨asks_of (by decide +kernel), rfl, ⟨_, List.mem_singleton_self _, rfl⟩, by decide +kernel, by decide +kernel, rfl, by decide +kernel⟩

theorem witness_gang_span (hq : Config.pod = 0) : (({ gangRec [] with spans := [span0] } : State).spanOf 0) = some span0 ∧
    span0.onPackage 0 3 = true ∧ (((gangRec []).readGang (hwWho 0 0) 0 0 (pad 0x600).toNat).map fun g => g.members.map fun m => (m.pod, m.pkg)) = some [(0, 3)] :=
  ⟨(span_of_member _ rfl).1, by simp [Span.onPackage, span0, hq, List.range, List.range.loop], by decide +kernel⟩

/-! ## Witnesses: the debugger -/

/-- Element 0 of region 0 has ADD in slot 0, and both its operands in the matching store. -/
def fireSt : State :=
  let m := fun (p : Nat) => ({ tok := tokOn 0 p 7, stamp := p, pend := false } : MsEntry)
  { mach [] with
    regions := [(0, reg0)]
    elems := [(0, { store := [m 0, m 1], confs := [(0, { planes := [(0, { op := 0x10000200, route := 0x80000180, const := 5 })] })] })] }
def fire0 : Site := ((fireSt.nextFiring 0 0)).getD {}

/-- `ifepel` is attached to device 0, with a breakpoint. -/
def dbgSt (b : Brk) : State :=
  { fireSt with vds := [(0, { dev0 with debug := true })], dbg := { vd := some 0, breaks := [(1, b)], nextB := 2 } }

theorem witness_breakpoints : (dbgSt (.pc 0x1000)).dbg.vd = some 0 ∧ Sparse.entry? (dbgSt (.pc 0x1000)).dbg.breaks 1 = some (.pc 0x1000) ∧
    (dbgSt (.pc 0x1000)).dbgThread = some 5 ∧
    (({ dbgSt (.pc 0x1000) with threads := [(5, { pc := 0x1000 })] } : State).thread 5).pc = 0x1000 ∧
    ((dbgSt (.pc 0x1000)).thread 5).run = .running ∧ (dbgSt (.pc 0x1000)).dbg.tStop = false ∧ (dbgSt (.pc 0x1000)).dbg.tSkip ≠ some 0x1000 ∧
    (dbgSt (.pc 0x1000)).dbg.tSteps = none := by decide

theorem witness_fire_breakpoints : Sparse.entry? (dbgSt (.fire 0 0 0 none)).dbg.breaks 1 = some (.fire ((dbgSt (.fire 0 0 0 none)).region 0).desc 0 0 none) ∧
    (dbgSt (.fire 0 0 0 none)).dbgRegions 0 = [0] ∧ (dbgSt (.fire 0 0 0 none)).regionGoes 0 = true ∧
    ((dbgSt (.fire 0 0 0 none)).elemsOf 0).map (·.1) = [0] ∧ (dbgSt (.fire 0 0 0 none)).nextFiring 0 0 = some fire0 ∧ fire0.r = 0 ∧ fire0.a = 0 ∧
    fire0.slot = 0 ∧ ((dbgSt (.fire 0 0 0 none)).region 0).vd = 0 ∧ ((dbgSt (.fire 0 0 0 none)).region 0).dbgSkip = none := by decide +kernel

theorem witness_attached : Attached (dbgSt (.tag 3)) 0 ∧ (dev0.live = false ∨ dev0.debug = false) ∧ ((dbgSt (.tag 3)).vd 0).live = true ∧
    ((dbgSt (.tag 3)).vd 0).debug = true ∧ (dbgSt (.tag 3)).dbg.vd = some 0 := ⟨⟨by decide, by decide, by decide⟩, by decide, by decide, by decide, by decide⟩

/-- An image of nothing but its name, and one with a partition number that a cluster has not. -/
def image0 : Image := { (default : Image) with name := "a" }

theorem witness_loading : ((dbgSt (.tag 3)).loadImage 0 image0).isSome = true ∧
    ((dbgSt (.tag 3)).loadImage 0 { image0 with parts := [("p", 16, 0, 0)] }).isNone = true ∧
    (dbgSt (.tag 3)).lastImage 0 = none := by decide +kernel

/-- A region that stopped, a stop to report, a record held. -/
def stop0 : Stop := { kind := "fire", r := some 0, t := none, a := 0, slot := 0, tag := 0, cycle := 0, ev := none }
def stopSt : State := { dbgSt (.tag 3) with regions := [(0, { reg0 with dbgStop := true })] }
def taskLoading : State := { stopSt with regions := [(0, { reg0 with status := .loading, task := some (pad 0) })] }

theorem witness_kills : stopSt.killWaits 0 = false ∧ taskLoading.killWaits 0 = true := by decide

theorem witness_stops : stopSt.dbg.stops = [] ∧ (stopSt.region 0).live = true ∧ (stopSt.region 0).vd = 0 ∧ (stopSt.region 1).live = false ∧
    (stopSt.dbgRegions 0).find? (fun r => (stopSt.region r).dbgStop) = some 0 ∧ stopSt.dbg.hold = [] ∧ stopSt.dbg.latest = none ∧
    stopSt.stoppedOn 0 0 = true ∧ fireSt.stoppedOn 0 0 = false ∧ stopSt.accBusy 0 0 = false ∧ Safe stopSt ∧ fireSt.dbg.vd = none ∧
    ({ stopSt with dbg := { stopSt.dbg with stops := [stop0] } } : State).dbg.stops = stop0 :: [] ∧
    ({ stopSt with dbg := { stopSt.dbg with breaks := [] } } : State).dbg.breaks = [] :=
  ⟨by decide, by decide, by decide, by decide, by decide, by decide, by decide, by decide +kernel, by decide +kernel, by decide +kernel,
   by unfold Safe; decide, by decide, rfl, rfl⟩

theorem witness_shows : (stopSt.hwRead (stopSt.dbgWho 0) (pad 0x40).toNat 8).toOption = some 0 ∧
    (({ stopSt with elems := [] } : State).elem 0 0).store = [] ∧ (({ stopSt with elems := [] } : State).elem 0 0).spill = [] ∧ stopSt.net = [] ∧
    1 ≤ (9 : Word).toNat ∧ (9 : Word).toNat ≤ 64 ∧ (match stopSt.setSys 5 4 65 with | .error _ => true | .ok _ => false) = true := by decide +kernel

/-- The last image loaded has a task. -/
def taskImg : State :=
  { stopSt with dbg := { stopSt.dbg with images := [(0, { image0 with tasks := [default] })] } }
theorem witness_run : ((taskImg.lastImage 0).map fun im => im.tasks.length) = some 1 ∧ taskImg.dbg.todo = [] := by decide +kernel

theorem witness_release : ({ stopSt with dbg := { stopSt.dbg with hold := [{ endpoint := pad 0, ev := 0, vd := 0, cluster := 0, r := none, frozen := false }] } } :
    State).dbg.hold = [{ endpoint := pad 0, ev := 0, vd := 0, cluster := 0, r := none, frozen := false }] := rfl

/-! ## Witnesses: the step -/

/-- Thread 0 at machine level, with a word at its pc. -/
def stepTh (w : Nat) : State := { mach [(1, 7), (2, 8)] with mem := putAll [] [(pa spCommons 0x1000, 4, w)] }

theorem witness_thread_steps : (stepTh 0x02320C00).turn = .thread 0 ∧ ((stepTh 0x02320C00).thread 0).run = .running ∧
    (stepTh 0x02320C00).threadHeld 0 = false ∧ ((stepTh 0x02320C00).threadStop 0).isNone = true ∧
    (stepTh 0x02320C00).resolve ((stepTh 0x02320C00).whoOf 0) ((stepTh 0x02320C00).thread 0).pc .fetch = .ok (pa spCommons 0x1000) 1 ∧
    (stepTh 0x02320C00).poisoned (pa spCommons 0x1000) = false ∧
    (decodeBytes ((stepTh 0x02320C00).fetchBytes (pa spCommons 0x1000)) == .ok (.add 3 4 3, [])) = true ∧
    ((stepTh 0x02320C00).thread 0).interruptOpen = false ∧
    (decodeBytes ((stepTh 0).fetchBytes (pa spCommons 0x1000)) == .error .reservedOp) = true ∧
    ((waiting .wfi).thread 0).run ≠ .running := by decide +kernel

/-- Thread 0 at user level at 0x2000 of a device with a page table, with an open interrupt. -/
def userTh : State :=
  { ui with
    threads := [(0, { regs := [], pc := 0x2000, level := 0, uient := 0x40, uipend := 0x20, uimask := 0x20 })]
    vds := [(0, devP)], mem := putAll (putAll [] ptes) [(pa spCommons 0x2000, 4, 0x02320C00)] }
/-- Whether an instruction raises a trap. -/
def traps (s : State) (i : Instr) : Option Bool :=
  match exec i s with
  | .next u => some (trapped s u 0)
  | _ => none

theorem witness_interrupts : ({ userTh with turn := .thread 0 } : State).turn = .thread 0 ∧ (userTh.thread 0).interruptOpen = true ∧
    traps { userTh with cur := { t := 0, word := 0x02320C00 } } (.add 3 4 3) = some false ∧
    traps { userTh with cur := { t := 0, word := 0xB8000007 } } (.trap 7) = some true := by decide +kernel

theorem witness_element_steps : ({ fireSt with turn := .element 0 0 } : State).regionGoes 0 = true ∧ fireSt.nextFiring 0 0 = some fire0 ∧
    (fireSt.fireStop fire0).isNone = true ∧ ({ fireSt with site := fire0 } : State).badPlanes fire0 = false ∧
    (match decodeSlot ((fireSt.elem fire0.r fire0.a).planes fire0.slot).op ((fireSt.elem fire0.r fire0.a).planes fire0.slot).route
      ((fireSt.elem fire0.r fire0.a).planes fire0.slot).const with | .ok _ => true | .error _ => false) = true := by decide +kernel

/-- A queue stands at a record in the share of device 5, which sleeps and is in a span with the queue's device 0: its leaf names this
package, as number 0 of pod 0. -/
def spanQ : Span :=
  { span0 with members := [{ pkg := Config.package, vd := 0, ports := 0, pod := Config.pod }, { pkg := Config.package, vd := 5, ports := 0, pod := Config.pod }] }
def leafQ : Nat := 2 * 2 ^ 62 + 0x3F
def sleepQ : State :=
  { recSt 10 0 0 0 0 with
    vds := [(0, devP), (5, { live := true, mode := .dormant, commonsLo := 0, commonsLen := 0x10000 })], spans := [spanQ]
    queues := [(0, { bound := true, run := true, cur := BitVec.ofNat 64 (2 ^ 30), tail := 0 })]
    mem := putAll (recSt 10 0 0 0 0).mem [(pa spCommons 0x11008, 8, leafQ)] }
theorem witness_asleep (hp : Config.package = 0) (hq : Config.pod = 0) : sleepQ.queueRuns 0 = true ∧ sleepQ.recAsleep 0 = true := by
  refine ⟨by decide +kernel, ?_⟩
  have hw : sleepQ.queueWho 0 = { vd := 0, user := true, core := none, cluster := 0, machine := false } := by decide +kernel
  have hl : sleepQ.walk 0 (2 ^ 30) = .leaf leafQ 2 := by decide +kernel
  have ho : sleepQ.sharedBy 0 = some 5 := by decide +kernel
  have hs : sleepQ.spanOf 0 = some spanQ := by simp [State.spanOf, sleepQ, spanQ, span0, List.range, List.range.loop]
  have hx : sleepQ.spanShares 0 5 = true := by simp [State.spanShares, hs, Span.indexOf, spanQ, span0, List.range, List.range.loop]
  have hown : sleepQ.owned 0 2 0 0 0 0 = true := by simp [State.owned, ho, hx, hp, hq]
  have hpl : placeOf 2 0 0 0 0 = .ok (pa spCommons 0) 2 := by
    have h : commonsOk 0 = true := rfl
    simp [placeOf, h, hp, hq]
  have hsl : (sleepQ.sleeper (pa spCommons 0)).isSome = true := by decide +kernel
  have hr : sleepQ.resolve (sleepQ.queueWho 0) (sleepQ.queue 0).cur .rd = .ok (pa spCommons 0) 2 := by
    have hc : (sleepQ.queue 0).cur = BitVec.ofNat 64 (2 ^ 30) := rfl
    have ht : bitsOf (BitVec.ofNat 64 (2 ^ 30)).toNat 63 56 = 0 ∧ bitsOf (BitVec.ofNat 64 (2 ^ 30)).toNat 55 0 = 2 ^ 30 := by decide +kernel
    have hlf : sleepQ.leafOf 0 0 (2 ^ 30) = .leaf leafQ 2 := by
      have hc : sleepQ.cached 0 0 (2 ^ 30) = none := rfl
      simp only [State.leafOf, hc, hl]
    have hb : bitsOf leafQ 63 62 = 2 ∧ bitsOf leafQ 51 48 = 0 ∧ bitsOf leafQ 61 54 = 0 ∧ bitsOf leafQ 52 52 = 0 ∧
      leafPermits leafQ .rd true = true ∧ bitsOf leafQ 47 12 * 4096 + 2 ^ 30 % leafBytes leafQ 2 = 0 := by decide +kernel
    obtain ⟨b1, b2, b3, b4, b5, b6⟩ := hb
    have hd : dieOfCluster 0 = 0 := rfl
    rw [hw, hc]
    simp only [State.resolve, ht.1, ht.2, beq_self_eq_true, if_true, State.translate, hd, hlf, b1, b2, b3, b4, b5, b6, hown, hpl, hq]
    simp
  simp only [State.recAsleep, hr, hsl]

theorem witness_turns : ({ State.reset with boot := .minimal } : State).mayTurn (.thread 16) = false ∧
    ({ State.reset with boot := .minimal } : State).mayTurn (.thread 15) = true ∧ (mach []).boot ≠ .minimal ∧ (mach []).mayTurn (.thread 63) = true ∧
    (mach []).serviceCode 0 = none ∧ ((svcSt 0x7F0A 5 6).serviceCode 0).isSome = true := by decide +kernel

theorem witness_other_steps : (recSt 10 0 0 0 0).queueRuns 0 = true ∧ (recSt 10 0 0 0 0).recAsleep 0 = false ∧ isStep .coldReset = true ∧ State.reset.dbg.vd = none := by decide +kernel

/-! ## Witnesses: encodings and the invariant -/

theorem witness_encodings : (Instr.add 3 4 3).wf = true ∧ encodeWord (.add 3 4 3) = some 0x02320C00 ∧
    encodeSlot (.elemAdd (slot1 0 2 0 5)) = some (0x10000200, 0x80000080, 5) := by decide

/-- Reset is canonical, and the step of an idle thread answers. -/
theorem witness_canonical : Safe State.reset ∧ ∃ s', step { State.reset with threads := [(0, { run := .wfi })] } = .next s' :=
  ⟨by unfold Safe; decide, _, rfl⟩

/-! ## Witnesses: orders, far paths, and the forms of tasks and tile operations -/

/-- An operation of thread 0 with the order and scope given, alone in its list. -/
def ordOp (k : ThreadOpKind) (ord scope : Nat) : State :=
  with0 (mach []) fun x => { x with ops := [{ kind := k, dest := 3, ord := ord, scope := scope }] }

theorem witness_ordered_operations :
    CanPerform (ordOp (.load 0 8 true) 1 5) 0 0 { kind := .load 0 8 true, dest := 3, ord := 1, scope := 5 } 0 8 ∧
    CanPerform (ordOp (.store 0 8 7) 2 4) 0 0 { kind := .store 0 8 7, dest := 3, ord := 2, scope := 4 } 0 8 ∧
    CanPerform (ordOp (.amo 1 0 4 9) 3 2) 0 0 { kind := .amo 1 0 4 9, dest := 3, ord := 3, scope := 2 } 0 4 ∧
    CanPerform (ordOp (.frame (padP 0) 4 1 0 0) 2 2) 0 0 { kind := .frame (padP 0) 4 1 0 0, dest := 3, ord := 2, scope := 2 } (padP 0) 64 :=
  ⟨⟨by decide, rfl, mayGo_first _ _ _ _ _, by rfl, by decide, by decide⟩, ⟨by decide, rfl, mayGo_first _ _ _ _ _, by rfl, by decide, by decide⟩,
   ⟨by decide, rfl, mayGo_first _ _ _ _ _, by rfl, by decide, by decide⟩, ⟨by decide, rfl, mayGo_first _ _ _ _ _, by rfl, by decide, by decide⟩⟩

/-- The device's second GiB is a page of package 3 of pod 0; thread 0 stands there at supervisor level. -/
def farLeaf : Nat := 2 * 2 ^ 62 + 3 * 2 ^ 54 + 0x3F
def farSt : State :=
  { with0 (mach []) fun x => { x with level := 1, pc := BitVec.ofNat 64 (2 ^ 30) } with
    vds := [(0, devP)], mem := putAll [] (ptes ++ [(pa spCommons 0x11008, 8, farLeaf)]) }
def farPlace : Nat := pa (spRemote 0 3 0) 0

/-- Where this is package 0 of pod 0, that page lies in package 3's map. -/
theorem far_page (hp : Config.package = 0) (hq : Config.pod = 0) : farSt.resolve farSt.whoMe farSt.me.pc .fetch = .ok farPlace 2 := by
  have hw : farSt.whoMe = { vd := 0, user := false, core := none, cluster := 0, machine := false } := by decide +kernel
  have hc : farSt.me.pc = BitVec.ofNat 64 (2 ^ 30) := by decide +kernel
  have ht : bitsOf (BitVec.ofNat 64 (2 ^ 30)).toNat 63 56 = 0 ∧ bitsOf (BitVec.ofNat 64 (2 ^ 30)).toNat 55 0 = 2 ^ 30 := by decide +kernel
  have hl : farSt.walk 0 (2 ^ 30) = .leaf farLeaf 2 := by decide +kernel
  have hlf : farSt.leafOf 0 0 (2 ^ 30) = .leaf farLeaf 2 := by
    have h : farSt.cached 0 0 (2 ^ 30) = none := rfl
    simp only [State.leafOf, h, hl]
  have hb : bitsOf farLeaf 63 62 = 2 ∧ bitsOf farLeaf 51 48 = 0 ∧ bitsOf farLeaf 61 54 = 3 ∧ bitsOf farLeaf 52 52 = 0 ∧
    leafPermits farLeaf .fetch false = true ∧ bitsOf farLeaf 47 12 * 4096 + 2 ^ 30 % leafBytes farLeaf 2 = 0 := by decide +kernel
  obtain ⟨b1, b2, b3, b4, b5, b6⟩ := hb
  have hd : dieOfCluster 0 = 0 := rfl
  have hr : rowOk (Config.farCxl 0 3) 0 = true := rfl
  rw [hw, hc]
  simp only [State.resolve, ht.1, ht.2, beq_self_eq_true, if_true, State.translate, hd, hlf, b1, b2, b3, b4, b5, b6, State.owned, placeOf, hp, hq, hr,
    farPlace]
  simp

/-- The device is a member of a span with package 3, whose package works or has failed; without a span it has no route. -/
def farSpan (failed : Bool) : State := { farSt with spans := [span0], failed := if failed then [3] else [] }
theorem witness_far_fetches (hp : Config.package = 0) (hq : Config.pod = 0) : farSt.reach (farSt.vdOfThread farSt.cur.t) farPlace = .fault ∧
    (farSpan true).reach ((farSpan true).vdOfThread 0) farPlace = .dead ∧ (farSpan false).reach ((farSpan false).vdOfThread 0) farPlace = .far ∧
    farSt.sleeper farPlace = none ∧ (farSpan true).sleeper farPlace = none ∧
    ((waiting (.waitge 3 farPlace 0 1)).thread 0).run = .waitge 3 farPlace 0 1 ∧
    (waiting (.waitge 3 farPlace 0 1)).reach ((waiting (.waitge 3 farPlace 0 1)).vdOfThread 0) farPlace = .fault := by
  have hk : pkgOf farPlace = 3 ∧ paSpace farPlace ≥ 1024 := by decide +kernel
  have hs : ∀ b, (farSpan b).spanOf 0 = some span0 := fun b => by simp [State.spanOf, farSpan, span0, List.range, List.range.loop]
  have hv : ∀ b, (farSpan b).vdOfThread 0 = 0 := fun b => by cases b <;> decide
  have hr : ∀ b, (farSpan b).routed 0 0 3 = true := fun b => by
    simp [State.routed, hs, Span.onPackage, span0, List.range, List.range.loop, hp, hq]
  refine ⟨by decide +kernel, ?_, ?_, by decide +kernel, by decide +kernel, by decide, by decide +kernel⟩
  · rw [hv]; simp only [State.reach, hk.1, if_neg (Nat.not_lt.mpr hk.2)]
    rw [show (3 : Nat) / 256 = 0 from rfl, show (3 : Nat) % 256 = 3 from rfl, hr]; rfl
  · rw [hv]; simp only [State.reach, hk.1, if_neg (Nat.not_lt.mpr hk.2)]
    rw [show (3 : Nat) / 256 = 0 from rfl, show (3 : Nat) % 256 = 3 from rfl, hr]; rfl

/-- Thread 0 at supervisor level fetches from the share of its device, which sleeps. -/
def sleepSt : State :=
  { with0 (mach []) fun x => { x with level := 1, pc := 0x2000 } with
    vds := [(0, { devP with mode := .dormant, commonsLo := 0x2000, commonsLen := 0x1000 })], mem := putAll [] ptes }
theorem witness_sleeping_fetches : sleepSt.resolve sleepSt.whoMe sleepSt.me.pc .fetch = .ok (pa spCommons 0x2000) 1 ∧
    sleepSt.reach (sleepSt.vdOfThread 0) (pa spCommons 0x2000) = .here ∧ sleepSt.sleeper (pa spCommons 0x2000) = some 0 := by decide +kernel

/-- Thread 0 has read a value of a store of thread 1 that it need not see yet. -/
def seenSt : State :=
  { mach [] with unseen := [{ p := 0, n := 8, old := 0, new := 7, who := .thread 1, time := 0, scopes := [], seen := [], sync := [], reads := [.thread 0] }] }
theorem witness_fence_reads : (∃ h ∈ seenSt.unseen, h.n ≠ 0 ∧ (h.reads.any fun y => y.meets (.thread 0)) = true) ∧ seenSt.me.loads = 0 ∧
    seenSt.me.ops = [] ∧ seenSt.mayMiss (.thread 0) 0 8 ≠ [] := by decide +kernel

/-- g1 holds an address of the device's first GiB, g2 one beyond its pages; a page of HBM or of another package instead. -/
def pageSt (target : Nat) : State :=
  { mach [(1, 0x2000), (2, 0x80000000)] with
    vds := [(0, devP)], mem := putAll [] [(pa spCommons 0x10000, 8, 2 ^ 62 + 0x11000 + 1), (pa spCommons 0x11000, 8, target * 2 ^ 62 + 0x3F)] }
theorem witness_aperture_pages : (∀ k < 3, PageIn (pageSt k) (clusterOfThread 0) ((pageSt k).vdOfThread 0) ((pageSt k).g 1).toNat k) ∧
    Idle (pageSt 0) [3, 1] ∧ ¬ PageIn (pageSt 0) (clusterOfThread 0) ((pageSt 0).vdOfThread 0) ((pageSt 0).g 2).toNat 0 ∧
    ClusterForm ((mach [(1, 0xFD00000017000000)]).g 1).toNat := by
  refine ⟨fun k hk => ?_, idle_of (by decide), ?_, by unfold ClusterForm; decide⟩
  · interval_cases k
    · exact ⟨by decide, 0x3F, 2, by decide +kernel, by decide⟩
    · exact ⟨by decide, 2 ^ 62 + 0x3F, 2, by decide +kernel, by decide⟩
    · exact ⟨by decide, 2 * 2 ^ 62 + 0x3F, 2, by decide +kernel, by decide⟩
  · rintro ⟨-, e, l, h, -⟩
    have h2 : (pageSt 0).leafOf (dieOfCluster (clusterOfThread 0)) ((pageSt 0).vdOfThread 0) (((pageSt 0).g 2).toNat % 2 ^ 56) = .fault fcPageFault := by
      rfl
    rw [h2] at h; cases h

/-- g1 a table's address, g2 one that is not a multiple of 32, g3 an idle field, g4 a reserved bit, g5 pending bits. -/
def regSt : State := mach [(1, 64), (2, 65), (3, 5 * 2 ^ 24 + 7), (4, 8), (5, 63)]
theorem witness_system_registers : regSt.me.level ≠ 0 ∧ regSt.vdOfThread 0 ≠ noVd ∧ Idle regSt [6, 1] ∧ Clean regSt [1] ∧
    (regSt.g 1).toNat % 32 = 0 ∧ (regSt.g 2).toNat % 32 ≠ 0 ∧
    ((regSt.g 3).toNat < 2 ^ 32 ∧ (regSt.g 3).toNat / 2 ^ 8 % 2 ^ 6 = 0 ∧ (regSt.g 3).toNat / 2 ^ 3 % 2 = 0) ∧
    ¬ ((regSt.g 4).toNat < 2 ^ 32 ∧ (regSt.g 4).toNat / 2 ^ 8 % 2 ^ 6 = 0 ∧ (regSt.g 4).toNat / 2 ^ 3 % 2 = 0) ∧ (regSt.g 5).toNat < 64 :=
  ⟨by decide, by decide, idle_of (by decide), clean_of (by decide), by decide, by decide, by decide, by decide, by decide⟩

/-- A basic record that is EMPTY, with a tile set at the scratchpad's line 4 or none; the cluster's table holds a writer of its range. -/
def pubBasic (tiles : Bool) : State :=
  { taskSt [(1, pad 0)] 0 0 0 0 with
    mem := putAll (taskSt [(1, pad 0)] 0 0 0 0).mem (if tiles then [(padP 0x18, 8, (pad 0x100).toNat), (padP 0x100, 8, 0x4000),
      (padP 0x108, 8, 64)] else []) }
def tiles0 (tiles : Bool) : Option (Nat × Nat × Nat) :=
  (((pubBasic tiles).tileSet (homeWho (pubBasic tiles) ((pubBasic tiles).g 1)) ((pubBasic tiles).readNat (padP 0 + 0x18) 8)).toOption).map fun x =>
    (x.reads.length, x.writes.length, x.rd.length + x.wr.length)
theorem witness_basic_tasks : WordOf (pubBasic true) (padP 0) 0 ∧ (pubBasic true).readNat (padP 0) 4 / 2 ^ 6 % 2 = 0 ∧
    RecordAt (pubBasic true) (homeWho (pubBasic true) ((pubBasic true).g 1)) ((pubBasic true).g 1) (padP 0) ∧
    tiles0 false = some (0, 0, 0) ∧ tiles0 true = some (1, 0, 0) ∧ ((pubBasic true).cluster 0).deps = [] ∧
    (pubBasic true).tileWaiting 0 0 ((pubBasic true).g 1) = false ∧ (pubBasic true).homeOf 0 ((pubBasic true).g 1) = none :=
  ⟨by unfold WordOf; decide +kernel, by decide +kernel, record_pad _ rfl rfl, by decide +kernel, by decide +kernel, by decide, by decide, by decide⟩

/-- A future that is pending; a predecessor without a successor block; a retired one with its successor at the second line. -/
def future1 : State := taskSt [(1, pad 0)] 1 0 0 0
def join2 (st preds : Nat) : State :=
  { taskSt [(1, pad 0), (2, pad 64), (4, 0x1000)] st 0 0 0 with
    mem := putAll (taskSt [] st 0 0 0).mem [(padP 64, 4, 1), (padP 68, 4, preds), (padP 80, 8, 0x1000)] }
theorem witness_futures_and_joins : (future1.g 3 = 0 ∧ WordOf future1 (padP 0) 1 ∧ future1.readNat (padP 0 + 0x10) 8 = 0 ∧
      future1.readNat (padP 0 + 8) 8 = 0 ∧ (future1.cluster 0).succs = [] ∧ future1.clusters = []) ∧
    (WordOf (join2 3 1) (padP 0) 3 ∧ (join2 3 1).readNat (padP 0 + 8) 8 = 0) ∧
    (WordOf (join2 5 1) (padP 0) 5 ∧ (join2 5 1).homeCluster 0 0 ((join2 5 1).g 2) = 0 ∧ WordOf (join2 5 1) (padP 64) 1 ∧
      RecordAt (join2 5 1) (hwWho 0 0) ((join2 5 1).g 2) (padP 64) ∧ (join2 5 1).readNat (padP 64 + 4) 4 = 1 ∧
      (join2 5 2).readNat (padP 64 + 4) 4 ≠ 1 ∧ (join2 5 1).tileWaiting 0 0 ((join2 5 1).g 2) = false) ∧
    (({ join2 5 1 with homes := [{ (default : TaskHome) with vd := 0, task := 0x1000, cluster := 1 }] } : State).homeCluster 0 0 ((join2 5 1).g 4) ≠ 0) :=
  ⟨⟨by decide, by unfold WordOf; decide, by decide, by decide, by decide, by decide⟩, ⟨by unfold WordOf; decide +kernel, by decide +kernel⟩,
   ⟨by unfold WordOf; decide +kernel, by decide, by unfold WordOf; decide +kernel, record_pad64 _ rfl rfl, by decide +kernel, by decide +kernel,
    by decide⟩, by decide⟩

/-- The thread's own store to the tail's next field is still to be performed. -/
def chainWait : State := with0 (chainSt true) fun x => { x with ops := [opOf (.store (padP 8) 8 0)] }
theorem witness_chain_waits : (∃ o ∈ chainWait.me.ops, o.touches (padP 8) 8 = true) ∧ chainWait.me.acquiring = false ∧
    (∀ o ∈ (chainSt true).me.ops, o.touches (padP 8) 8 = false) := by decide +kernel

/-- An image's length holds a constant of Config without a value: an image of one line fits a scratchpad. -/
theorem witness_save_area (h : Config.imageLen 0 = 64) : ((tileSt .running).region 0).drained = true ∧
    (tileSt .running).areaFault (hwWho 0 0) ((tileSt .running).g 4).toNat .wr ((tileSt .running).imageSize 0) = none := by
  have hb : (tileSt .running).imageSize 0 = 64 := by
    have hi : (tileSt .running).imageId = 0 := rfl
    have hn : ((tileSt .running).region 0).cores.length = 1 := rfl
    have hs : spillRecords ((tileSt .running).elemsOf 0) = [] := rfl
    simp only [State.imageSize, imageBase, hi, hn, hs, h]; rfl
  refine ⟨by decide, ?_⟩
  rw [hb]; rfl

/-- A start of region 0 with the record at the scratchpad's first line; swaps, saves and restores. -/
def startOp (x : RegionState) : State :=
  { taskSt [] 2 0 0 0x1000 with
    threads := [(0, { ops := [{ kind := .tile (.rgnstart 0 (pad 0)), dest := 3, ord := 0, scope := 0 }] })], regions := [(0, x)] }
theorem witness_starts : ((startOp { reg0 with status := .loaded }).region (0 % 256)).load = none ∧
    ((startOp { reg0 with status := .loaded }).region 0).loadFault = 0 ∧ Safe (startOp { reg0 with status := .loaded }) ∧
    (startOp { reg0 with status := .loaded }).homeCluster 0 0 (pad 0) = 0 ∧
    RecordAt (startOp { reg0 with status := .loaded }) (hwWho 0 0) (pad 0) (padP 0) ∧ WordOf (startOp { reg0 with status := .loaded }) (padP 0) 2 ∧
    reg0.rank ≤ ((startOp { reg0 with status := .loaded }).thread 0).hrank.toNat % 8 ∧
    (startOp { reg0 with status := .loaded }).blocksOf reg0.vd reg0.desc = [] ∧
    ((startOp reg0).region 0).status = .running ∧
    (let x : RegionState := { reg0 with status := .loaded }
     (x.status ≠ .running ∧ ∃ q ∈ (startOp x).threads, ∃ y ∈ q.2.ops, ∃ a, y.kind = .tile (.rgnstart 0 a) ∧ a ≠ 0)) :=
  ⟨by decide, by decide, by unfold Safe; decide, by decide, record_pad _ rfl rfl, by unfold WordOf; decide, by decide, by decide +kernel, by decide,
   by decide, _, List.mem_singleton_self _, _, List.mem_singleton_self _, pad 0, rfl, by decide⟩

theorem witness_tile_operations : (((op1 (.tile (.rgnswap 0 1))).thread 0).ops[0]?).map (·.kind) = some (.tile (.rgnswap 0 1)) ∧
    ({ op1 (.tile (.rgnswap 0 1)) with regions := (tileSt .running).regions } : State).rid (1 % 256) = 1 ∧
    ((tileSt .running).region 1).live = true ∧ (0 % 256 ≠ 1 % 256) ∧
    (∀ e ∈ (tileOp1 (.rgnsave 0 (pad 0)) reg0).elems, e.1 / 65536 = 0 % 256 → ∀ q ∈ e.2.queue, q.sent = false) ∧
    loadSt.imageAt (hwWho (loadSt.vdOfThread 0) (clusterOfThread 0)) (pad 0) = some img0 ∧ loadSt.freePlace (clusterOfThread 0) = some 0 ∧
    loadSt.journalFits img0 = true ∧ loadSt.shelfFree (loadSt.vdOfThread 0) (clusterOfThread 0) img0 = true ∧
    ((tileOp1 (.rgnload 0 0 0) { reg0 with status := .loading }).region (0 % 256)).status = .loading ∧ noRid ≠ 0 ∧
    ((op1 (.tile (.vdsleep 0))).vd 0).live = true ∧ ((op1 (.tile (.vdsleep 0))).vd 0).mode = .active ∧
    ((op1 (.tile (.vdsleep 5))).vd 5).live = false := by
  refine ⟨by decide, by decide, by decide, by decide, by decide, by rfl, by rfl, by decide +kernel, by decide +kernel, by decide, by decide, by decide,
    by decide, by decide⟩

/-! ## Witnesses: lanes of compute elements -/

/-- A finite number has a denominator. -/
def Sane (v : Num) : Prop := ∀ s n d, v = .fin s n d → 0 < d
theorem sane_scaled (s : Bool) (m : Nat) (k : Int) : Sane (.ofScaled s m k) := by
  intro t n d h; unfold Num.ofScaled at h; split at h <;> cases h
  · omega
  · exact Nat.pow_pos (by omega)
theorem sane_code (f : Fmt) (c : Nat) : Sane (fmtValue f c).1 := by
  unfold fmtValue
  cases f <;> simp only <;> (repeat' split) <;> (try dsimp only) <;> first | exact sane_scaled _ _ _ | (intro s n d h; cases h)
theorem sane_mul {a b : Num} (ha : Sane a) (hb : Sane b) : Sane (a.mul b) := by
  intro s n d h
  unfold Num.mul at h
  split at h <;> (try split at h) <;> cases h
  exact Nat.mul_pos (ha _ _ _ rfl) (hb _ _ _ rfl)
theorem sane_block (c : Nat) : Sane (e3m5Value c) := by
  unfold e3m5Value
  simp only
  split <;> (try split) <;> first | exact sane_scaled _ _ _ | (intro s n d h; cases h; omega) | (intro s n d h; cases h)
theorem sane_lane (ch : Chan) (sg : Bool) (sc l c : Nat) : Sane (decodeLane ch sg sc l c).1 := by
  have hf : Sane (flushIn ch (fmtValue ch.fmt c)) := by
    have h : ∀ b : Bool, Sane (if b = true then .fin (fmtValue ch.fmt c).1.sign 0 1 else (fmtValue ch.fmt c).1) := fun b => by
      split
      · intro s n d h; cases h; omega
      · exact sane_code _ _
    exact h _
  have hv : Sane (if ch.fmt = .e2m1 then (flushIn ch (fmtValue ch.fmt c)).mul (blockScale sc l) else flushIn ch (fmtValue ch.fmt c)) := by
    split
    · refine sane_mul hf ?_; unfold blockScale; split <;> exact sane_block _
    · exact hf
  unfold decodeLane
  split
  · intro s n d h; cases h; omega
  · intro s n d h; cases h; omega
  · simp only
    split
    · exact sane_mul hv (sane_code _ _)
    · exact hv
/-- Operands that are codes are sound. -/
theorem sound_of {x : FireIn} (h : ∀ k, (x.op k).exact = none) : Sound x := by
  intro k i s n d hl
  unfold floatLane Opnd.lane at hl
  rw [h k] at hl
  exact sane_lane _ _ _ _ _ _ _ _ hl

/-- A firing of slot 0 of element 0 with data tokens, whose channel 0 has the format with the code given. -/
def lanesSt (fmt : BitVec 32) (l : List (Nat × Word)) : State := elWith (el 0 l) fun e => e.updBank fun b => { b with chans := [(0, fmt)] }
def lanesIn (fmt : BitVec 32) (w : Slot) (l : List (Nat × Word)) : FireIn := (lanesSt fmt l).fin w

theorem witness_lane_formats : LanesFit (lanesIn 3 (slot1 1 2 0 0) [(0, 0x80FF), (1, 0x0102)]) 2 .int 8 ∧
    LanesFit (lanesIn 3 (slot1 1 3 0 0) [(0, 1), (1, 2), (2, 3)]) 3 .int 8 ∧ LanesFit (lanesIn 2 (slot1 1 1 0 0) [(0, 0x8000)]) 1 .int 16 ∧
    LanesFit (lanesIn 10 (slot1 0 2 0 0) [(0, 1), (1, 2)]) 2 .raw 64 :=
  ⟨⟨rfl, rfl, by decide +kernel, by decide +kernel, rfl⟩, ⟨rfl, rfl, by decide +kernel, by decide +kernel, rfl⟩,
   ⟨rfl, rfl, by decide +kernel, by decide +kernel, rfl⟩, ⟨rfl, rfl, by decide +kernel, by decide +kernel, rfl⟩⟩

/-- FP32 operands of one, two and three ports, and an FP16 operand with an FP16 result. -/
def floatIn (w : Slot) (l : List (Nat × Word)) : FireIn := lanesIn 4 w l
theorem sound_float (w : Slot) (l : List (Nat × Word)) (h : ((List.range 3).all fun k => ((floatIn w l).op k).exact == none) = true)
    (hn : (floatIn w l).ops.length ≤ 3) : Sound (floatIn w l) := by
  refine sound_of fun k => ?_
  by_cases hk : k < 3
  · simpa using List.all_eq_true.mp h k (List.mem_range.mpr hk)
  · have : (floatIn w l).ops[k]? = none := List.getElem?_eq_none (by omega)
    unfold FireIn.op; rw [this]; rfl

theorem witness_float_lanes :
    (∀ n ∈ [1, 2, 3], let x := floatIn (slot1 0 (BitVec.ofNat 2 n) 0 0) ((List.range n).map fun k => (k, 0x3F800000C0000000))
      x.w.arity.toNat = n ∧ x.ops.length = n ∧ (∀ o ∈ x.ops, o.fmt.cls = .float ∧ o.fmt.lanes = x.out.fmt.lanes) ∧ x.out.fmt.cls = .float) ∧
    (∀ n ∈ [1, 2, 3], Sound (floatIn (slot1 0 (BitVec.ofNat 2 n) 0 0) ((List.range n).map fun k => (k, 0x3F800000C0000000)))) ∧
    ratOf (floatLane (floatIn (slot1 0 1 0 0) [(0, 0x3F800000C0000000)]) 0 0) = some (-2) ∧
    ratOf (floatLane (floatIn (slot1 0 1 0 0) [(0, 0x3F800000C0000000)]) 0 1) = some 1 := by
  refine ⟨by decide +kernel, fun n hn => ?_, by decide +kernel, by decide +kernel⟩
  simp only [List.mem_cons, List.not_mem_nil, or_false] at hn
  rcases hn with rfl | rfl | rfl <;> exact sound_float _ _ (by decide +kernel) (by decide +kernel)

/-- Conversion of FP32 to channel 1's format, which has as many lanes, fewer, or more; a comparison with its mask. -/
def convIn (fn : BitVec 5) (out : BitVec 32) (arity : BitVec 2) (fmt : BitVec 32) (l : List (Nat × Word)) : FireIn :=
  (elWith (el 0 l) fun e => e.updBank fun b => { b with chans := [(0, fmt), (1, out)] }).fin { slot1 fn arity 0 0 with out := 1 }
theorem witness_conversions :
    ((convIn 0 1 1 4 [(0, 7)]).a.fmt.lanes = (convIn 0 1 1 4 [(0, 7)]).out.fmt.lanes ∧ (convIn 0 1 1 4 [(0, 7)]).a.fmt.cls ≠ .raw ∧
      (convIn 0 1 1 4 [(0, 7)]).out.fmt.cls ≠ .raw) ∧
    ((convIn 1 0 1 4 [(0, 7)]).out.fmt.lanes < (convIn 1 0 1 4 [(0, 7)]).a.fmt.lanes ∧
      1 < (convIn 1 0 1 4 [(0, 7)]).a.fmt.lanes / (convIn 1 0 1 4 [(0, 7)]).out.fmt.lanes) ∧
    ((convIn 1 3 1 4 [(0, 7)]).a.fmt.lanes < (convIn 1 3 1 4 [(0, 7)]).out.fmt.lanes ∧
      1 < (convIn 1 3 1 4 [(0, 7)]).out.fmt.lanes / (convIn 1 3 1 4 [(0, 7)]).a.fmt.lanes) ∧
    ((convIn 8 4 1 1 [(0, 7)]).a.fmt.cls = .int ∧ (convIn 8 4 1 1 [(0, 7)]).a.fmt.lanes = (convIn 8 4 1 1 [(0, 7)]).out.fmt.lanes) ∧
    ((convIn 0 1 1 4 [(0, 7)]).out.fmt = .i32 ∧ (convIn 0 1 1 4 [(0, 7)]).w.fn = 0) ∧
    ((convIn 0 4 2 6 [(0, 7), (1, 8)]).b.fmt.lanes = (convIn 0 4 2 6 [(0, 7), (1, 8)]).a.fmt.lanes ∧
      (convIn 0 4 2 6 [(0, 7), (1, 8)]).a.fmt.lanes % (convIn 0 4 2 6 [(0, 7), (1, 8)]).out.fmt.lanes = 0 ∧
      (convIn 0 4 2 6 [(0, 7), (1, 8)]).ops.length = 2) ∧
    ((convIn 0 1 2 4 [(0, 7), (1, 8)]).out.fmt = .i32 ∧ (convIn 0 1 2 4 [(0, 7), (1, 8)]).a.fmt.lanes = 2) := by decide +kernel

theorem witness_selection_and_bytes :
    ((lanesIn 3 (slot1 0 3 0 0) [(0, 1), (1, 2), (2, 3)]).a.fmt = (lanesIn 3 (slot1 0 3 0 0) [(0, 1), (1, 2), (2, 3)]).out.fmt ∧
      (lanesIn 3 (slot1 0 3 0 0) [(0, 1), (1, 2), (2, 3)]).c.fmt.lanes = (lanesIn 3 (slot1 0 3 0 0) [(0, 1), (1, 2), (2, 3)]).out.fmt.lanes) ∧
    ((lanesIn 0 (slot1 0 3 0 0) [(0, 1), (1, 2), (2, 3)]).out.fmt = .i64 ∧ (lanesIn 10 (slot1 7 2 0 0) [(0, 1), (1, 2)]).out.fmt = .raw ∧
      (lanesIn 10 (slot1 7 2 0 0) [(0, 1), (1, 2)]).w.fn.toNat < 8) ∧
    ((∀ o ∈ (lanesIn 1 (slot1 5 2 0 0) [(0, 1), (1, 2)]).ops, o.fmt.cls = .int) ∧ (lanesIn 1 (slot1 5 2 0 0) [(0, 1), (1, 2)]).w.fn.toNat / 2 < 6 ∧
      (lanesIn 1 (slot1 5 2 0 0) [(0, 1), (1, 2)]).ops.length = 2) ∧
    (floatIn (slot1 12 2 0 0) [(0, 1), (1, 2)]).w.fn.toNat % 8 < 6 := by decide +kernel

/-- Without poison, SINK's lane count is that of its output channel; with poison the set is taken whatever it is. -/
theorem witness_sink : ((inputOf (el 0 [(0, 7)]) (slot1 0 1 0 0)).op 0).fmt.lanes = (inputOf (el 0 [(0, 7)]) (slot1 0 1 0 0)).out.fmt.lanes ∧
    (elK 0 [(7, 0, 9)]).site.firstPoison ≠ none ∧ (el 0 [(0, 7)]).site.firstPoison = none := by decide +kernel

/-! ## Witnesses: records, requests, engines and shelves that wait, join and end -/

/-- A record of two or one line whose queue has not begun it, with or without acquire. -/
def unbegun (s : State) (acq : Bool) : State :=
  { s with queues := (s.queues.map fun q => (q.1, { q.2 with begun := false })), mem := if acq then putAll s.mem [(padP 1, 1, 3)] else s.mem }
theorem witness_record_begins : atRec (unbegun copySt true) 1 = true ∧ ((unbegun copySt true).queue 0).begun = false ∧
    (recAcq (recD (unbegun copySt true)) = true ∨ recAcq (recD copySt) = true) := by decide +kernel

theorem witness_line_free : LineFree copySt 0 copySeg 0 ∧ LineFree copySt 0 halfSeg 0 := by unfold LineFree; decide +kernel

/-- REDUCE of a granule. -/
def reduceSt : State := recSt 6 (pad 0x100).toNat 0x2000 32 0
def reduceSeg : Seg := { dst := 0x2000, len := 32, src := .copy (pad 0x100).toNat, red := some (.i64, 0) }
theorem witness_reduce : segOf 0 (recD reduceSt) (.reduce 0) = some (6, reduceSeg, false) ∧ atRec reduceSt 6 = true ∧
    pieces reduceSeg 0 = [(0, 32)] ∧ reduceSt.poisoned (pa spCommons 0x2000) = false := by
  refine ⟨?_, by decide +kernel⟩
  have h : recW (recD reduceSt) 0 = (pad 0x100).toNat ∧ recW (recD reduceSt) 1 = 0x2000 ∧ recW (recD reduceSt) 2 = 32 ∧ recW (recD reduceSt) 3 = 0 := by
    decide +kernel
  simp only [segOf, h.1, h.2.1, h.2.2.1, h.2.2.2]
  rfl
theorem witness_reduce_moves : CanMove reduceSt 0 reduceSeg false (0, 32) :=
  canMove_of (fun _ => by decide +kernel) (p := pa spCommons 0x2000) (t := 1) (by decide +kernel) (by decide +kernel)

/-- COUNT at a counter that has reached its target; LINK of queue 0 to queue 64, idle, running, or of another device. -/
def countSt (target : Nat) : State := recSt 8 (pad 0x100).toNat target 0 0
theorem witness_count : atRec (countSt 0) 8 = true ∧ ((countSt 0).queue 0).begun = true ∧
    (countSt 0).epPlace 0 (pad 0x100).toNat 0 8 .rd false = .ok (padP 0x100) 3 ∧ (countSt 0).deadOrMarked 0 (padP 0x100) = false ∧
    (countSt 0).epDiverted 0 (pad 0x100).toNat 0 = false ∧ (countSt 0).mayMiss (.queue 0) (padP 0x100) 8 = [] ∧
    (countSt 0).seenNat (.queue 0) (padP 0x100) 8 < 1 ∧ recAction (recD (countSt 0)) = 0 := by decide +kernel
def linkTo (w1 : Nat) (run : Bool) : State :=
  let s := recSt 9 0x2000 w1 0 0
  { s with queues := s.queues.map fun q => if q.1 = 64 then (64, { q.2 with run := run, tail := pad 0x200 }) else q }
theorem witness_links : atRec (linkTo 1 false) 9 = true ∧ 1024 * (0 / 1024) + 64 * (1 % 16) + 1 / 16 = 64 ∧
    (linkTo 1 false).queueVd 64 = (linkTo 1 false).queueVd 0 ∧ ((linkTo 1 false).queue 64).bound = true ∧ ((linkTo 1 false).queue 64).run = false ∧
    ((linkTo 1 false).queue 64).stopped = false ∧ ((linkTo 1 true).queue 64).run = true ∧
    (linkTo 1 true).resolve ((linkTo 1 true).queueWho 64) (((linkTo 1 true).queue 64).tail + 8) .wr = .ok (padP 0x208) 3 ∧
    (linkTo 2 false).queueVd 128 ≠ (linkTo 2 false).queueVd 0 ∧ recAction (recD (linkTo 1 true)) ≠ 1 := by decide +kernel

/-- BCAST whose list cannot be read, and STREAM with a device that holds nothing back. -/
def bcastSt (list : Nat) : State := recSt 7 (pad 0x100).toNat list 32 1
theorem witness_bcast : atRec (bcastSt (pad 0x200).toNat) 7 = true ∧
    (bcastSt (pad 0x200).toNat).bcastAt 0 (recD (bcastSt (pad 0x200).toNat)) 1 0 0 = .line 0 0 ∧
    (match (bcastSt (2 ^ 60)).bcastAt 0 (recD (bcastSt (2 ^ 60))) 1 0 0 with | .fault _ _ => true | _ => false) = true ∧
    recW (recD (bcastSt (2 ^ 60))) 2 ≠ 0 ∧ (streamSt.queue 0).held = [] := by decide +kernel

/-- A repair entry holds a value for the line of the list. -/
def bcastWaits : State :=
  { bcastSt 0x2000 with
    windows := [{ num := 0, span := 0, vd := 0, base := 0x2000, len := 64, terms := 2, fmt := 4, dbl := false, intAdd := false, home := 0, handler := 0,
                  closing := false }]
    repair := [{ win := 0, addr := 0x2000, tok := tokOn 0 0 0, val := 0, srcs := [] }] }
theorem witness_bcast_waits : bcastWaits.bcastAt 0 (recD bcastWaits) 1 0 0 = .wait := by decide +kernel

/-- Requests with acquire and with release; a term joins an open reduction, ends it, or does not fit. -/
def ordReq (op : MemOp) (ord : Nat) : MemReq := { memReq op (pad 0).toNat with order := ord, scope := 2 }
theorem witness_ordered_requests : ({ memSt .ld (pad 0).toNat with elems := [(64, { queue := [ordReq .ld 1], stamp := 1 })] } : State).mayIssue 0 64 0 = true ∧
    ({ memSt .ld (pad 0).toNat with elems := [(64, { queue := [ordReq (.st 5) 2], stamp := 1 })] } : State).mayIssue 0 64 0 = true ∧
    ¬ (∀ x v, (ordReq .ld 1).op = .fibAdv x v) ∧ (∀ x, (ordReq .ld 1).op ≠ .fibEnd x) ∧ (∀ x v, (ordReq .ld 1).op ≠ .fibAdv x v) :=
  ⟨by decide +kernel, by decide +kernel, fun h => by simpa [ordReq, memReq] using h 0 0, fun x => by simp [ordReq, memReq], fun x v => by simp [ordReq, memReq]⟩

def openRed (n : Nat) : RedOpen := { pa := padP 0, size := 8, n := n, fadd := false, fmt := 0, terms := [(1, 7)] }
def redSt (n : Nat) : State := { strSt with clusters := [(0, { redMsgs := [red0 n], reds := [openRed n] })] }
def fitsRed (o : RedOpen) (m : RedMsg) : Bool :=
  o.pa == m.pa && o.size == m.size && o.n == m.n && o.fadd == m.fadd && o.fmt == m.fmt && (Sparse.entry? o.terms m.x).isNone
theorem witness_open_reductions : (∀ n ∈ [2, 3], ((redSt n).cluster 0).redMsgs[0]? = some (red0 n) ∧ (red0 n).x < (red0 n).n ∧
      ((redSt n).cluster 0).reds.find? (fun o => overlap (o.pa, o.size) ((red0 n).pa, (red0 n).size)) = some (openRed n) ∧
      fitsRed (openRed n) (red0 n) = true) ∧ (Sparse.put (openRed 2).terms (red0 2).x (red0 2).val).length = (red0 2).n ∧
    (Sparse.put (openRed 3).terms (red0 3).x (red0 3).val).length ≠ (red0 3).n ∧ fitsRed (openRed 2) (red0 3) = false := by decide +kernel

/-- SCL.LD `.data` has its line to read, has read it, or has an address that is no place; a piece in a tile that the region may write, or not. -/
def seenLine (c : MxCmd) (l : List Nat) : MxCmd := { c with seen := l.map fun k => { line := k, v := 0, bad := false } }
def linesOf (c : MxCmd) : List Nat := match (mxSt [c] [] false).mxLines 0 c with
  | .ok l => l
  | .error _ => []
theorem witness_engine_lines : linesLeft sclData1 (linesOf sclData1) ≠ [] ∧ mxEnd ((mxSt [sclData1] [] false).mxLines 0 sclData1) = 2 ∧
    linesLeft (seenLine sclData1 (linesOf sclData1)) (linesOf sclData1) = [] ∧ (seenLine sclData1 (linesOf sclData1)).pieces = none ∧
    mxEnd ((mxSt [] [] false).mxLines 0 { sclData1 with b := 0x3E000001 }) = 1 ∧ mxEnd ((mxBlocked sclData1).mxLines 0 sclData1) = 0 ∧
    (mxSt [] [] false).pieceOk 0 sclData1 { p := pa (spScale 0) 0, n := 64, v := 0, bad := false } = true ∧
    (shelfSt []).pieceOk 0 sclData1 { p := pa (spA 0) 0, n := 64, v := 0, bad := false } = true ∧
    ({ shelfSt [] with clusters := [(0, { tiles := [{ tile0 with state := .sealed }], granules := [(0, { part := some 0 })] })] } : State).pieceOk 0 sclData1
      { p := pa (spA 0) 0, n := 64, v := 0, bad := false } = false ∧
    (mxSt [] [] false).scoreHit (pa (spScale 0) 0) 64 = false := by decide +kernel

/-- A consuming read of a sealed tile, with its journal entry or with the table full; its last word, with a count to send. -/
def sealed0 : Tile := { tile0 with state := .sealed }
def lastRead (peek : Bool) : StreamCtx := { read0 true peek with next := 1, dst := .dests (dTo 1 0 0) (dTo 2 0 0) 0 }
theorem witness_shelf_ends : (∀ peek, readCase (readSt (read0 false peek) []) sealed0 peek = none) ∧ sealed0.state ≠ .opened ∧
    journalRoom ((readSt (read0 false false) [sealed0]).cluster 0) 0 0 = true ∧
    (∀ peek, (lastRead peek).next + 1 = (lastRead peek).stop ∧ (lastRead peek).begun = true ∧
      (lastRead peek).dst = .dests (dTo 1 0 0) (dTo 2 0 0) 0 ∧ (readSt (lastRead peek) [sealed0]).scoreHit (pa (spA 0) 8) 8 = false ∧
      (readSt (lastRead peek) [sealed0]).readAt 0 (pa (spA 0) 8) 8 = .inl 0 ∧ (readSt (lastRead peek) [sealed0]).memGoes 0 64 = true ∧
      tileOf ((readSt (lastRead peek) [sealed0]).cluster 0) 0 = some sealed0) ∧ sealed0.state ≠ .drained := by decide +kernel
def fullJournal (n : Nat) : ClusterState := { journal := List.replicate n { region := 1, handle := 0, entry := none, count := 1 } }
theorem journal_room (n : Nat) : journalRoom (fullJournal n) 0 0 = decide (n < 16384) := by
  have h : (fullJournal n).journal.any (fun j => j.region == 0 && j.handle == 0) = false := by
    rw [List.any_eq_false]; intro j hj; rw [List.eq_of_mem_replicate hj]; decide
  have hl : (fullJournal n).journal.length = n := List.length_replicate
  unfold journalRoom
  rw [h, hl, Bool.false_or]
theorem witness_journal_full : journalRoom (fullJournal 16384) 0 0 = false := by rw [journal_room]; decide

/-- A launch queue whose record is at the scratchpad's line 8, its ring at line 4 and its next task at the first line; an empty one that
may be pre-empted, with another queue that waits. -/
def lq0 (nonPre : Bool) : LaunchQ := { vd := 0, qaddr := pad 0x200, prio := 3, nonPre := nonPre, thread := 0 }
def consumeSt (tail preds : Nat) (nonPre : Bool) (deferred : List LaunchQ) : State :=
  { mach [] with
    vds := [(0, dev0)]
    mem := putAll [] [(padP 0, 4, 0x40), (padP 4, 4, preds), (padP 16, 8, 0x1000), (padP 0x200, 8, (pad 0x100).toNat), (padP 0x208, 1, 4),
      (padP 0x218, 8, tail), (padP 0x100, 8, (pad 0).toNat)]
    clusters := [(0, { slots := [lq0 nonPre], deferred := deferred })] }
theorem witness_launch : (∀ n, ((consumeSt 1 n true []).cluster 0).slots[0]? = some (lq0 true) ∧ (consumeSt 1 n true []).vds = [(0, dev0)] ∧
      (consumeSt 1 n true []).homeOf 0 (BitVec.ofNat 64 (pad 0).toNat) = none ∧ (consumeSt 1 n true []).tileWaiting 0 0 (pad 0) = false) ∧
    (consumeSt 1 0 true []).vdRuns 0 = true ∧ ((consumeSt 1 0 true []).nextEntry (hwWho 0 0) (pad 0x200).toNat).toOption = some (some ((pad 0).toNat, 0)) ∧
    WordOf (consumeSt 1 0 true []) (padP 0) 0 ∧ (consumeSt 1 0 true []).readNat (padP 0) 4 / 2 ^ 6 % 2 = 1 ∧ (lq0 true).prio < 4 ∧
    (consumeSt 1 0 true []).readNat (padP 0 + 4) 4 = 0 ∧ (consumeSt 1 1 true []).readNat (padP 0 + 4) 4 ≠ 0 ∧ isMgmt (padP 0x210) = false ∧
    padP 0 + 64 ≤ padP 0x210 ∧ (consumeSt 1 0 true []).readNat (padP 0) 4 < 2 ^ 16 ∧ Safe (consumeSt 1 0 true []) ∧
    ((consumeSt 0 0 false [lq0 true]).nextEntry (hwWho 0 0) (pad 0x200).toNat).toOption = some none ∧
    ((consumeSt 0 0 false [lq0 true]).cluster 0).deferred ≠ [] ∧ (lq0 false).nonPre = false ∧
    RecordAt (consumeSt 1 0 true []) (hwWho 0 0) (BitVec.ofNat 64 (pad 0).toNat) (padP 0) := by
  refine ⟨fun n => ⟨rfl, rfl, rfl, rfl⟩, by decide +kernel, by decide +kernel, by unfold WordOf; decide +kernel, by decide +kernel, by decide,
    by decide +kernel, by decide +kernel, by decide +kernel, by decide +kernel, by decide +kernel, by unfold Safe; decide +kernel, by decide +kernel,
    by decide, by decide, ?_⟩
  have h : BitVec.ofNat 64 (pad 0).toNat = pad 0 := by decide
  rw [h]; exact record_pad _ rfl rfl
theorem witness_launch_head (m : List Host.Cell) (hs : List TaskHome) :
    ({ consumeSt 1 0 true [] with mem := m, homes := hs } : State).resolve (hwWho 0 0) (BitVec.ofNat 64 ((pad 0x200).toNat + 0x10)) .wr =
      .ok (padP 0x210) 3 := rfl

/-- Region 0's load ends without a task, and it is no rerun. -/
theorem witness_load_ends : ((imgSt 1 1).region 0).rerun = false ∧ ((imgSt 1 1).region 0).task = none ∧ isFar ((imgSt 1 1).coreOf 0 5) = false := by
  decide +kernel

/-- The wake of a device is past its bound, and ends there; `w` of the statement is the device with its miss raised. -/
theorem witness_wake_misses : (((modeSt .waking id).missWake 0).endWake 0).isSome = true ∧ (((modeSt .waking id).missWake 0).vd 0).images = [] ∧
    (((modeSt .waking id).missWake 0).vd 0).launchQs = [] ∧ ((modeSt .waking fun d => { d with missed := true }).vd 0).missed = true := by
  decide +kernel

/-! ## Witnesses: experts' copies, replies, open reductions, partitions, images and fetches -/

/-- Under the expert control, and under the basic one with a pair learned before: the table is in the scratchpad, the expert's W-buffer
copy at its line 1, and the scoreboard of core 0 has `n` entries. -/
def expertSt (pay xpred n : Nat) : State :=
  { predSt (BitVec.ofNat 64 pay) (BitVec.ofNat 32 xpred) with
    vds := [(0, { dev0 with xpred := BitVec.ofNat 32 xpred, xptab := pad 0, learned := [{ layer := 4, i := 7, j := 7, n := 3 }] })]
    mem := putAll [] [(padP (32 * (1024 + 7) + 16), 8, 0x40), (padP (32 * (1024 + 7) + 24), 8, 64),
      (padP (32 * (1280 + 7) + 16), 8, 0x40), (padP (32 * (1280 + 7) + 24), 8, 64)]
    cores := [(0, { scoreboard := List.replicate n { lo := 0, hi := 0, queue := 0 } })] }
theorem witness_expert_room : (expertSt 0x4407 3 31).expertRoom 0 0 4 7 = true ∧ (expertSt 0x4407 3 32).expertRoom 0 0 4 7 = false ∧
    ((topNext ((expertSt 0x90407 1 31).vd 0).learned 4 7 4 (List.range 256)).all fun j => (expertSt 0x90407 1 31).expertRoom 0 0 5 j) = true ∧
    ((topNext ((expertSt 0x90407 1 32).vd 0).learned 4 7 4 (List.range 256)).any fun j => !(expertSt 0x90407 1 32).expertRoom 0 0 5 j) = true := by
  decide +kernel

/-- An access of a member, of another device, or none; its reply's lane stopped or not. -/
def replySt (stop : Bool) : State :=
  { spanSt [rem0 .load] with serdex := [(0, { up := true, stopTx := [false, stop, false, false] })] }
theorem witness_replies : (spanSt [rem0 .load]).spanOfFar Config.pod 3 7 = some span0 ∧ (spanSt []).spanOfFar Config.pod 3 8 = none ∧
    (replySt true).replyWait (rem0 .load) = true ∧ (replySt false).replyWait (rem0 .load) = false ∧ (spanSt [rem0 .load]).replyWait (rem0 .load) = false ∧
    (spanSt []).remote[0]? = none := by
  have h7 : (span0.indexOf Config.pod 3 7).isSome = true := by
    by_cases h : 3 = Config.package <;> simp [Span.indexOf, span0, List.range, List.range.loop, h]
  have h8 : (span0.indexOf Config.pod 3 8) = none := by simp [Span.indexOf, span0, List.range, List.range.loop]
  have hon : span0.onPackage Config.pod Config.package = true := by simp [Span.onPackage, span0, List.range, List.range.loop]
  have hs : ∀ s : State, s.spans = [span0] → s.spanOfFar Config.pod 3 7 = some span0 := fun s h => by
    simp [State.spanOfFar, h, h7, hon]; rfl
  have hn : (spanSt []).spanOfFar Config.pod 3 8 = none := by
    simp [State.spanOfFar, spanSt, h8]
  have ho : ∀ (s : State) (p : Nat), s.spans = [span0] → ((s.spanOfFar Config.pod 3 7).any fun sp =>
      sp.members.any fun m => m.pod == Config.pod && m.pkg == 3 && m.vd == 7 && m.ports.getLsbD p) = (1#40).getLsbD p := fun s p h => by
    rw [hs s h]; simp [span0]
  have hr : ∀ s : State, s.spans = [span0] → s.downSw = [] → s.replyPort (rem0 .load) =
      ((List.range 32).map fun i => (0x40 / 64 + i) % 32).find? fun p => (1#40).getLsbD p && (s.serdexPort p).up := fun s h hd => by
    unfold State.replyPort
    simp only [rem0, ho s _ h, hd]
    simp
  refine ⟨hs _ rfl, hn, ?_, ?_, ?_, rfl⟩
  · rw [State.replyWait, hr _ rfl rfl]; decide +kernel
  · rw [State.replyWait, hr _ rfl rfl]; decide +kernel
  · rw [State.replyWait, hr _ rfl rfl]; decide +kernel

/-- Device 0 sleeps or falls asleep; the home port has one open reduction with one node, of a window of `n` terms. -/
def homeMode (m : VdMode) : State := { homeSt false false with vds := [(0, { dev0 with mode := m })] }
def openHome (n : Nat) (x d : RedNode) : State :=
  { nodeSt [atHome d] with windows := [{ win0 with terms := n }], homeReds := [{ win := 0, addr := pad 0x40, nodes := [x] }] }
def ofTerms (n : Nat) (d : RedNode) : RedNode := { d with terms := n }
theorem witness_home_sleeps : (homeMode .dormant).holds win0.vd = true ∧ ((homeMode .dormant).vd win0.vd).dying = false ∧
    (homeMode .dormant).nodeListed win0 (node0 0 1) = true ∧ (homeMode .dormant).nodeListed win0 { node0 0 1 with srcs := [src0] } = false ∧
    ((homeMode .collapsing).vd win0.vd).mode = .collapsing ∧ (homeMode .collapsing).nodeListed win0 (node0 0 1) = true ∧
    (homeMode .dormant).holdRoom win0.vd = true ∧ (node0 0 1).srcs = [] := by
  refine ⟨by decide +kernel, by decide +kernel, by decide +kernel, ?_, by decide +kernel, by decide +kernel, by decide +kernel, rfl⟩
  have hr : (homeMode .dormant).retained = [] := rfl
  have hs : (homeMode .dormant).spans = [] := rfl
  simp [State.nodeListed, hr, hs, src0]

theorem witness_home_joins : (∀ n ∈ [2, 4], ∀ d ∈ [node0 0 1, node0 1 1, node0 2 1], (openHome n (node0 0 1) (ofTerms n d)).divertWait 0 (pad 0x40).toNat = false ∧
      (openHome n (node0 0 1) (ofTerms n d)).homeTakes (ofTerms n d) = true ∧ Safe (openHome n (node0 0 1) (ofTerms n d)) ∧
      (openHome n (node0 0 1) (ofTerms n d)).windowOf 0 = some { win0 with terms := n } ∧ (pad 0x40).toNat = (node0 0 1).addr) ∧
    (∀ d ∈ [node0 0 1, node0 1 1, node0 2 1], (openHome 4 (node0 0 1) (ofTerms 4 d)).fitsWindow { win0 with terms := 4 } (ofTerms 4 d) = true) ∧
    (openHome 2 (node0 0 1) (ofTerms 2 (node0 1 1))).fitsWindow { win0 with terms := 2 } (ofTerms 2 (node0 1 1)) = true ∧
    overlap (nodeRun (node0 0 1)) (nodeRun (node0 0 1)) = true ∧ overlap (nodeRun (node0 0 1)) (nodeRun (node0 1 1)) = false ∧
    overlap (nodeRun (node0 0 1)) (nodeRun (node0 2 1)) = false ∧ sharesSource (node0 0 1) (node0 0 1) = false ∧
    sharesSource { node0 0 1 with srcs := [src0] } { node0 0 1 with srcs := [src0] } = true ∧ joinable 4 (node0 0 1) (node0 2 1) = false ∧
    joinable 4 (node0 0 1) (node0 1 1) = true ∧ joinable 2 (node0 0 1) (node0 1 1) = true ∧
    ¬ (min (node0 0 1).lo (node0 1 1).lo = 0 ∧ (node0 0 1).m + (node0 1 1).m = 4) ∧ min (node0 0 1).lo (node0 1 1).lo = 0 ∧
    (node0 0 1).m + (node0 1 1).m = 2 ∧ (openHome 2 (node0 0 1) (ofTerms 2 (node0 1 1))).homePlace { win0 with terms := 2 } (pad 0x40).toNat =
      some (padP 0x40) := by unfold Safe; decide +kernel

/-- An acknowledgement from this pod or another, with the release of its final write; two contributions of one window; a failed spine. -/
theorem witness_contributions (h0 : Config.pod = 0) : pkgOf (kept0 (some 1)).msg.pa / 256 = Config.pod ∧
    ({ kept0 (some 1) with sync := [{ past := [], who := .port, scope := 5 }] } : Retained).sync = [{ past := [], who := .port, scope := 5 }] ∧
    (kept0 none).win = ({ kept0 none with id := 1, x := 1, sw := 2 } : Retained).win ∧ (kept0 (some 1)).acked.isSome = true := by
  rw [h0]; decide +kernel
theorem witness_contributions_far (h1 : Config.pod = 1) : pkgOf (kept0 (some 1)).msg.pa / 256 ≠ Config.pod := by rw [h1]; decide +kernel

/-- A span of this package's device alone opens its windows by their numbers; one with a member elsewhere, where that number is free. -/
theorem witness_windows_alone (hp : Config.package = 0) (hq : Config.pod = 0) :
    (∀ m ∈ span1.members, m.pod = Config.pod ∧ m.pkg = Config.package) ∧ (winRec 0).windows = [] ∧
    (∀ j < 0, ∃ x ∈ (winRec 0).windows, x.num = j) := ⟨by simp [span1, hp, hq], rfl, fun j h => absurd h (by omega)⟩
theorem witness_leave : ((closeSt 0x7F09 true 0).windows.length = 1) ∧ (closeSt 0x7F09 true 0).windowsQuiet 0 = false := by decide +kernel

/-- PBIND to a region of the device, of another device, or that does not live. -/
theorem witness_pbind_regions : ((svcSt 0x7F06 0 1).region 1).live = true ∧ (svcSt 0x7F06 0 1).rid (1 % 256) = 1 ∧
    ((svcSt 0x7F06 0 1).region 1).vd = (svcSt 0x7F06 0 1).vdOfThread 0 ∧
    (({ svcSt 0x7F06 0 1 with regions := [(1, { reg0 with vd := 3 })] } : State).region 1).vd ≠ (svcSt 0x7F06 0 1).vdOfThread 0 ∧
    ((svcSt 0x7F06 0 2).region 2).live = false := by decide +kernel

/-- PART of partition 0, which holds two granules, of another device's or of one that is not; the others' floors; no plain granule. -/
def gr0 : Sparse Granule := [(0, { part := some 0 }), (1, { part := some 0 })]
def partIn (g1 g2 : Word) (l : Sparse Partition) : State := { svcSt 0x7F07 g1 g2 with clusters := [(0, { parts := l, granules := gr0 })] }
theorem witness_partition_forms : (∀ l ∈ [[], part0 []], Claims.Listed ((partIn 0x80 0x20001 l).cluster 0) ∧
      (Sparse.atD ((partIn 0x80 0x20001 l).cluster 0).parts 0 {}).queue = [] ∧
      (∀ k ∈ partGrans ((partIn 0x80 0x20001 l).cluster 0) 0, k ∈ partFree ((partIn 0x80 0x20001 l).cluster 0) 0) ∧
      1 ≤ (partIn 0x80 0x20001 l).assigned 0 0) ∧ (partIn 0x80 0x20001 []).assigned 0 0 ≠ 0 ∧ (partReq 0x40 0x20001 []).assigned 0 0 = 0 ∧
    ((partIn 0x80 0x20001 [(0, { live := true, vd := 3 })]).cluster 0).parts ≠ [] ∧
    (Sparse.atD ((partIn 0x80 0x20001 [(0, { live := true, vd := 3 })]).cluster 0).parts 0 {}).vd ≠ 0 ∧
    24576 < [(1, ({ floor := 24576 } : Partition))].foldl (fun (n : Nat) (q : Nat × Partition) => if q.1 = 0 then n else n + q.2.floor) 0 + 1 ∧
    (svcSt 0x7F07 0x10 0).vdOfCluster 1 = 0 ∧ ({ svcSt 0x7F07 0x10 0 with vds := [(0, { dev0 with clusters := [0] })] } : State).vdOfCluster 1 ≠ 0 ∧
    0x80 / 2 ^ 6 % 4 = 2 ∧ ((partIn 0 0 (part0 [sreq0])).cluster 0).tiles = [] := by unfold Claims.Listed; decide +kernel
theorem witness_part_tiles : ∃ y ∈ ({ partIn 0 0 (part0 []) with clusters := [(0, { parts := part0 [], tiles := [tile0] })] } : State).cluster 0 |>.tiles,
    y.part = 0 := ⟨tile0, by decide, rfl⟩

/-- RLIST writes two lines of the scratchpad, and then the thread's frame still stands. -/
theorem witness_rlist_places (v : Nat) : Safe (svcSt 0x7F08 0 (pad 0x400)) ∧
    (svcSt 0x7F08 0 (pad 0x400)).resolve (hwWho 0 0) (BitVec.ofNat 64 (pad 0x400).toNat) .wr = .ok (padP 0x400) 3 ∧
    ((svcSt 0x7F08 0 (pad 0x400)).writeNat (padP 0x400) 64 v).resolve (hwWho 0 0) (BitVec.ofNat 64 ((pad 0x400).toNat + 64)) .wr = .ok (padP 0x440) 3 ∧
    isMgmt (padP 0x400) = false ∧ isMgmt (padP 0x440) = false :=
  ⟨by unfold Safe; decide +kernel, by decide +kernel, rfl, by decide +kernel, by decide +kernel⟩
theorem witness_rlist_frame : ((((svcSt 0x7F08 0 (pad 0x400)).writeNat (padP 0x400) 64 1).writeNat (padP 0x440) 64 0).machineFrame 0).isSome = true := by
  decide +kernel

/-- An image with a byte for the device's address 0x2000, which has a page. -/
def image1 : Image := { image0 with datas := [{ space := .commons, addr := 0x2000, bytes := [0xAB], deferred := false }] }
def debugLoad : State :=
  { mach [] with vds := [(0, { devP with debug := true, commonsLen := 0x20000 })], mem := putAll [] ptes, dbg := { vd := some 0, nextB := 2 } }
theorem writes_image1 : imageWrites image1 = [(0x2000, [0xAB])] := by decide +kernel
theorem frame_image1 (u : State) (hv : u.vds = debugLoad.vds) (h0 : Memory.readN u.mem (pa spCommons 0x10000) 8 = 2 ^ 62 + 0x11000 + 1)
    (h1 : Memory.readN u.mem (pa spCommons 0x11000) 8 = 2 ^ 62 + 0x3F) : u.framePlace 0 0x2000 = some (pa spCommons 0x2000) := by
  have hd : (u.vd 0).root.toNat = 2 ^ 62 + 0x10000 + 1 := by unfold State.vd; rw [hv]; decide +kernel
  have hb : u.sharedBy 0x2000 = some 0 := by unfold State.sharedBy; rw [hv]; decide +kernel
  have hr : rootOk (2 ^ 62 + 0x10000 + 1) = true := by decide +kernel
  have p0 : placeOf 1 Config.pod Config.package 0 0x10000 = .ok (pa spCommons 0x10000) 1 := rfl
  have p1 : placeOf 1 Config.pod Config.package 0 0x11000 = .ok (pa spCommons 0x11000) 1 := rfl
  have p2 : placeOf 1 Config.pod Config.package 0 0x2000 = .ok (pa spCommons 0x2000) 1 := rfl
  have l2 : u.lastEntry 0x2000 2 (2 ^ 62 + 0x11000 + 1) = some (pa spCommons 0x11000, 2 ^ 62 + 0x3F, 2) := by
    have b : bitsOf (2 ^ 62 + 0x11000 + 1) 63 62 = 1 ∧ bitsOf (2 ^ 62 + 0x11000 + 1) 52 52 = 0 ∧
      bitsOf (2 ^ 62 + 0x11000 + 1) 47 12 * 4096 + 8 * walkIndex 0x2000 (1 + 1) = 0x11000 ∧ bitOf (2 ^ 62 + 0x3F) 1 = true := by decide +kernel
    simp only [State.lastEntry, b.1, b.2.1, b.2.2.1, b.2.2.2, p1, h1, Bool.or_true, Bool.true_or, if_true]
  have l3 : u.lastEntry 0x2000 3 (2 ^ 62 + 0x10000 + 1) = some (pa spCommons 0x11000, 2 ^ 62 + 0x3F, 2) := by
    have b : bitsOf (2 ^ 62 + 0x10000 + 1) 63 62 = 1 ∧ bitsOf (2 ^ 62 + 0x10000 + 1) 52 52 = 0 ∧
      bitsOf (2 ^ 62 + 0x10000 + 1) 47 12 * 4096 + 8 * walkIndex 0x2000 (2 + 1) = 0x10000 ∧
      (!bitOf (2 ^ 62 + 0x11000 + 1) 0 || pteReserved (2 ^ 62 + 0x11000 + 1) || bitOf (2 ^ 62 + 0x11000 + 1) 6 || bitOf (2 ^ 62 + 0x11000 + 1) 1 ||
        decide (1 < bitsOf (2 ^ 62 + 0x11000 + 1) 63 62)) = false := by decide +kernel
    rw [State.lastEntry, b.1, b.2.1, b.2.2.1, p0]
    simp only [h0, b.2.2.2, l2]
    simp
  have b : bitsOf (2 ^ 62 + 0x3F) 63 62 = 1 ∧ bitsOf (2 ^ 62 + 0x3F) 52 52 = 0 ∧ bitsOf (2 ^ 62 + 0x3F) 47 12 * 4096 + 0x2000 % leafBytes (2 ^ 62 + 0x3F) 2 = 0x2000 ∧
    (!bitOf (2 ^ 62 + 0x3F) 1 || (2 == 3) || pteReserved (2 ^ 62 + 0x3F) || bitsOf (2 ^ 62 + 0x3F) 47 12 * 4096 % leafBytes (2 ^ 62 + 0x3F) 2 != 0 ||
      decide (1 < 1)) = false := by decide +kernel
  have ho : u.owned 0 1 Config.pod Config.package 0 0x2000 = true := by simp [State.owned, hb]
  have hp : u.pteOf 0 0x2000 = some (pa spCommons 0x11000, 2 ^ 62 + 0x3F, 2) := by
    unfold State.pteOf; rw [hd, hr]; exact l3
  unfold State.framePlace
  rw [hp]
  simp only [Option.bind_some, b.1, b.2.1, b.2.2.1, ho, p2]
  rw [b.2.2.2]
  rfl

theorem witness_image_places : HasPlaces debugLoad 0 image1 ∧ Safe debugLoad ∧ debugLoad.vdMeets 0 image1 = true ∧ blocksApart (coreBlocks image1) = true ∧
    debugLoad.blockOnShelf 0 image1 = false ∧ (debugLoad.vd 0).clusters ≠ [] ∧ image1.names = [] ∧ image1.parts = [] ∧ image1.ptes = [] ∧
    (∀ d ∈ image1.datas, d.deferred = false ∧ blockForm d = true) ∧ image1.regions = [] ∧ image1.tasks = [] := by
  refine ⟨fun w hw k hk => ?_, by unfold Safe; decide +kernel⟩
  rw [writes_image1] at hw
  obtain rfl := List.mem_singleton.mp hw
  obtain rfl : k = 0 := by simpa using hk
  refine ⟨pa spCommons 0x2000, fun u hu hr => ?_⟩
  have hf : debugLoad.framePlace 0 0x2000 = some (pa spCommons 0x2000) := frame_image1 _ rfl (by decide +kernel) (by decide +kernel)
  have hb : ∀ o, 0x10000 ≤ o → o < 0x20000 → Memory.read u.mem (pa spCommons o) = Memory.read debugLoad.mem (pa spCommons o) := fun o h1 h2 => by
    have hm : isMgmt (pa spCommons o) = false := by
      have h : (pa spCommons o) % 2 ^ 48 = o := by simp only [pa, spCommons]; omega
      have : ¬ Config.mgmtBase ≤ o := by have : Config.mgmtBase ≥ 0x20000 := by decide +kernel
                                         omega
      rw [isMgmt, paOff, h, decide_eq_false this, Bool.and_false]
    have := hr (pa spCommons o) (fun z hz j hj => by
      rw [writes_image1] at hz
      obtain rfl := List.mem_singleton.mp hz
      obtain rfl : j = 0 := by simpa using hj
      rw [Nat.add_zero, hf]
      simp only [pa, ne_eq, Option.some.injEq]
      omega)
    simpa [State.readByte, hm] using this
  refine frame_image1 u (by rw [hu]) ?_ ?_
  · rw [Memory.readN_congr (m' := debugLoad.mem) (fun k hk => ?_)]
    · decide +kernel
    · simpa only [pa, Nat.add_assoc] using hb (0x10000 + k) (by omega) (by omega)
  · rw [Memory.readN_congr (m' := debugLoad.mem) (fun k hk => ?_)]
    · decide +kernel
    · simpa only [pa, Nat.add_assoc] using hb (0x11000 + k) (by omega) (by omega)

/-- A thread fetches a word of a page or of the map; it may go by the step, or waits for a service. -/
theorem witness_fetch_turns : (stepTh 0x02320C00).fetchPlace 0 = .ok (pa spCommons 0x1000) 1 ∧
    (stepTh 0x02320C00).fetchMarked ((stepTh 0x02320C00).vdOfThread 0) (pa spCommons 0x1000) = false ∧ (stepTh 0x02320C00).inService 0 = false ∧
    (svcSt 0x7F0A 5 6).inService 0 = true ∧ ({ userTh with turn := .thread 0 } : State).fetchPlace 0 = .ok (pa spCommons 0x2000) 1 ∧
    ({ userTh with turn := .thread 0 } : State).fetchMarked 0 (pa spCommons 0x2000) = false ∧ ({ userTh with turn := .thread 0 } : State).inService 0 = false ∧
    (dbgSt (.pc 0x1000)).dbg.tSteps ≠ some 0 ∧ reg0.live = true := by decide +kernel

end Sys2Proof.Tests
end

section
/-! SUPPORT. What a turn of the machine does, one rule per way of moving (R13, R272, R300, R317, R354). -/
namespace Sys2Proof.Machine

variable {s : State} {t : Nat}

/-! ## The end of a turn -/

/-- What a step makes of the outcome of a turn: where the turn has a next state, `f` of it, and the end of the step. -/
def endTurn (o : Out) (f : State → State) : Out :=
  match o with
  | .next u => .next (finish (f u))
  | .fault x => .fault x
  | .refused x => .refused x

@[simp] theorem endTurn_next (u : State) (f : State → State) : endTurn (.next u) f = .next (finish (f u)) := rfl
@[simp] theorem endTurn_fault (x : Fault) (f : State → State) : endTurn (.fault x) f = .fault x := rfl
@[simp] theorem endTurn_refused (x : Refusal) (f : State → State) : endTurn (.refused x) f = .refused x := rfl

/-- Without the debugger, the end of a step draws the next turn and lets time pass. -/
theorem finish_undebugged (h : s.dbg.vd = none) :
    finish s = { s.tick (Config.elapsed s.free) with turn := Config.schedule s.free, free := s.free + 1 } := by
  have hs : s.settleDebug = s := by simp [State.settleDebug, h]
  simp only [finish, hs]
  rfl

/-! ## Whose turn it is -/

theorem step_of_not_mayTurn (h : s.mayTurn s.turn = false) : step s = .next (finish s) := by
  simp [step, stepTurn, h]

theorem step_thread (hm : s.mayTurn s.turn = true) (ht : s.turn = .thread t) : step s = endTurn (stepThread s t) id := by
  rw [ht] at hm
  simp only [step, stepTurn, ht, hm]
  rfl

theorem step_element {r a : Nat} (hm : s.mayTurn s.turn = true) (ht : s.turn = .element r a) :
    step s = endTurn (stepElement s r a) id := by
  rw [ht] at hm
  simp only [step, stepTurn, ht, hm]
  rfl

theorem step_engine {q : Nat} (hm : s.mayTurn s.turn = true) (ht : s.turn = .engine q) :
    step s = endTurn (stepEngine s q) id := by
  rw [ht] at hm
  simp only [step, stepTurn, ht, hm]
  rfl

theorem step_event {i : Instr} (hm : s.mayTurn s.turn = true) (ht : s.turn = .event i) :
    step s = endTurn (stepEvent s i) id := by
  rw [ht] at hm
  simp only [step, stepTurn, ht, hm]
  rfl

/-- Outside minimal mode every turn may be taken; in it, of the threads those of cluster 0 (R354). -/
theorem State.mayTurn_of_boot (x : Turn) (h : s.boot ≠ .minimal) : s.mayTurn x = true := by simp [State.mayTurn, h]
theorem State.mayTurn_thread_minimal (h : s.boot = .minimal) : s.mayTurn (.thread t) = true ↔ t < 16 := by
  simp [State.mayTurn, h]

/-! ## Threads -/

/-- Whether a thread issues at its turn (R272, R305, R362). -/
structure Issues (s : State) (t : Nat) : Prop where
  unit : t < 64
  run : (s.thread t).run = .running
  held : s.threadHeld t = false
  service : s.inService t = false
  stop : s.threadStop t = none

theorem stepThread_idle (h : t < 64) (hi : (s.thread t).run ≠ .running ∨ s.inService t = true) : stepThread s t = .next s := by
  have hu : ¬ 64 ≤ t := by omega
  rcases hi with hr | hs
  · simp [stepThread, hu, hr]
  · simp [stepThread, hu, hs]

/-- A thread that does not issue lets the turn pass, in minimal mode too. -/
theorem step_thread_idle (ht : s.turn = .thread t) (h : t < 64)
    (hi : (s.thread t).run ≠ .running ∨ s.inService t = true) : step s = .next (finish s) := by
  cases hm : s.mayTurn s.turn with
  | false => exact step_of_not_mayTurn hm
  | true => rw [step_thread hm ht, stepThread_idle h hi, endTurn_next, id]

/-- The turn of a thread that issues is its issue, which the debugger then notes. -/
theorem step_thread_issues (hm : s.mayTurn s.turn = true) (ht : s.turn = .thread t) (h : Issues s t) :
    step s = endTurn (issueThread s t) fun u => s.noteIssue u t (s.fetch t).2 := by
  have hu : ¬ 64 ≤ t := by have := h.unit; omega
  rw [step_thread hm ht]
  simp only [stepThread, hu, h.run, h.held, h.service, h.stop, bne_self_eq_false, Bool.or_self, if_false, Bool.false_eq_true]
  cases issueThread s t <;> rfl

section
variable {p x : Nat} (hp : s.fetchPlace t = .ok p x) (hf : s.fetchMarked (s.vdOfThread t) p = false)
include hp hf

/-- The fetch of a word that decodes, and of one that does not (R53, R273). -/
theorem State.fetch_ok {i : Instr} {l : List Byte} (hd : decodeBytes (s.fetchBytes p) = .ok (i, l)) :
    s.fetch t = (i, BitVec.ofNat 32 (s.readNat p 4)) := by
  simp [State.fetch, hp, hf, hd]
theorem State.fetch_error {e : Reject} (hd : decodeBytes (s.fetchBytes p) = .error e) :
    s.fetch t = (.illegalInstruction, BitVec.ofNat 32 (s.readNat p 4)) := by
  simp [State.fetch, hp, hf, hd]

end

section
variable {i : Instr} {word : BitVec 32} (hf : s.fetch t = (i, word))
include hf

/-- With no open interrupt a thread performs what it fetched. -/
theorem issueThread_closed (hi : (s.thread t).interruptOpen = false) :
    issueThread s t = exec i { s with cur := { t := t, word := word } } := by
  simp [issueThread, hf, hi]

/-- With one, it performs what it fetched where that traps, and takes the interrupt where it does not (R300). -/
theorem issueThread_open {u : State} (hi : (s.thread t).interruptOpen = true)
    (hu : exec i { s with cur := { t := t, word := word } } = .next u) :
    issueThread s t = if trapped s u t then .next u else exec (.userInterruptTake t) { s with cur := { t := t, word := word } } := by
  simp [issueThread, hf, hi, hu]

end

/-! ## Elements, queues and events -/

/-- A firing of a slot whose planes decode performs the slot's instruction (R101). -/
theorem fireSite_ok {x : Site} {i : Instr} (hb : ({ s with site := x } : State).badPlanes x = false)
    (hd : decodeSlot ((s.elem x.r x.a).planes x.slot).op ((s.elem x.r x.a).planes x.slot).route
      ((s.elem x.r x.a).planes x.slot).const = .ok i) : fireSite s x = exec i { s with site := x } := by
  have he : ({ s with site := x } : State).elem x.r x.a = s.elem x.r x.a := rfl
  simp [fireSite, hb, he, hd]

theorem step_element_fires {r a : Nat} {x : Site} (hm : s.mayTurn s.turn = true) (ht : s.turn = .element r a) (hr : r < 256)
    (ha : a < 65536) (hg : s.regionGoes r = true) (hx : s.nextFiring r a = some x) (hs : s.fireStop x = none) :
    step s = endTurn (fireSite s x) fun u => u.passFiring x := by
  have hu : (256 ≤ r || 65536 ≤ a) = false := by simp; omega
  rw [step_element hm ht]
  simp only [stepElement, hu, hg, hx, hs, Bool.not_true, Bool.false_eq_true, if_false]
  cases fireSite s x <;> rfl

/-- A queue that runs performs its record, or wakes the device whose memory it waits for (R317, R347). -/
theorem stepEngine_runs {q : Nat} (hq : q < 2048) (hr : s.queueRuns q = true) :
    stepEngine s q = if s.recAsleep q then .next (s.rouseRec q) else exec (s.recordInstr q) s := by
  have hu : ¬ 2048 ≤ q := by omega
  simp [stepEngine, hu, hr]

theorem stepEvent_enabled {i : Instr} (hi : isStep i = true) (hn : ∀ t, i ≠ .userInterruptTake t) : stepEvent s i = exec i s := by
  unfold stepEvent
  rw [if_neg (by simp [hi])]
  split
  · exact absurd rfl (hn _)
  · rfl

/-- Settles O55: each turn is one of the rules above. -/
theorem stepRunsTheDecodedInstruction : Obligations.StepRunsTheDecodedInstruction := by
  unfold Obligations.StepRunsTheDecodedInstruction
  intro andThen
  have hthen : andThen = endTurn := by funext o f; cases o <;> rfl
  clear_value andThen
  subst hthen
  refine ⟨fun s h => step_of_not_mayTurn h, fun s x h => State.mayTurn_of_boot x h, fun s t h => State.mayTurn_thread_minimal h,
    fun s t ht hu hs => step_thread_idle ht hu (.inr hs), ?decoded, ?illegal, fun s t ht hu hr => step_thread_idle ht hu (.inl hr),
    ?element, ?queue, ?event, ?time⟩
  case decoded =>
    intro s t p x i l ht hm hs hu hr hh hstop hp hf hd word s1
    have hfetch := State.fetch_ok hp hf hd
    rw [step_thread_issues hm ht ⟨hu, hr, hh, hs, hstop⟩]
    refine ⟨fun hi => by rw [issueThread_closed hfetch hi, hfetch], fun u hi hx => ?_⟩
    rw [issueThread_open hfetch hi hx, hfetch]
    exact ⟨fun htr => by rw [if_pos (show trapped s u t = true from htr)]; rfl,
      fun htr => by rw [if_neg (ne_true_of_eq_false (show trapped s u t = false from htr))]⟩
  case illegal =>
    intro s t p x e ht hm hs hu hr hh hstop hi hp hf hd word
    have hfetch := State.fetch_error hp hf hd
    rw [step_thread_issues hm ht ⟨hu, hr, hh, hs, hstop⟩, issueThread_closed hfetch hi, hfetch]
  case element =>
    intro s r a x i ht hm hr ha hg hx hs hb q hd
    rw [step_element_fires hm ht hr ha hg hx hs, fireSite_ok hb hd]
  case queue =>
    intro s q ht hm hq hr
    rw [step_engine hm ht, stepEngine_runs hq hr]
    exact ⟨fun h => by rw [if_neg (ne_true_of_eq_false h)], fun h => by rw [if_pos h, endTurn_next, id]⟩
  case event =>
    intro s i ht hm hi hn
    rw [step_event hm ht, stepEvent_enabled hi hn]
  case time =>
    intro s h
    rw [finish_undebugged h]
    exact ⟨rfl, rfl, rfl, rfl, rfl⟩

end Sys2Proof.Machine
end

section
/-! SUPPORT. A state in which the home port of a window does not keep an open reduction's node (R373): the refutation of the
statement about reductions in windows. -/
namespace Sys2Proof.Machine
open Sys2Proof.Claims

/-! ## A held node outside its window -/

/-- Window 0 of span 0: 64 bytes of the scratchpad of core 0, two FP32 terms, homed at device 0. -/
def twoTermWindow : Window :=
  { num := 0, span := 0, vd := 0, base := BitVec.ofNat 64 (0xFD * 2 ^ 56), len := 64, terms := 2, fmt := 4, dbl := false,
    intAdd := false, home := 0, handler := 0, closing := false }

/-- A node of that window's first location: `m` indices from `lo`. -/
def twoTermNode (lo m : Nat) : RedNode :=
  { win := 0, addr := 0xFD * 2 ^ 56, lo := lo, m := m, val := 0x3F800000, srcs := [], retx := false, terms := 2, fmt := 4,
    size := 4, fadd := true }

/-- The node that arrives at the home port: both terms of the window. -/
def completeNode : SwNode := { sw := 1, node := twoTermNode 0 2, home := true }

/-- The open reduction of the location. It holds a node of index 2 alone, where the window's indices are 0 and 1. -/
def strayReduction : HomeRed := { win := 0, addr := BitVec.ofNat 64 (0xFD * 2 ^ 56), nodes := [twoTermNode 2 1] }

/-- The home port with both. -/
def strayState : State :=
  { vds := [(0, { live := true, clusters := [0] })], windows := [twoTermWindow], homeReds := [strayReduction],
    nodes := [completeNode] }

theorem strayState_window : strayState.windowOf completeNode.node.win = some twoTermWindow := by decide +kernel

/-- Device 0 is awake. -/
theorem strayState_awake : strayState.holds twoTermWindow.vd = false ∧ (strayState.vd twoTermWindow.vd).mode = .active := by
  decide +kernel

/-- The home port takes the node that arrives. -/
theorem strayState_takes : strayState.divertWait twoTermWindow.vd completeNode.node.addr = false ∧
    strayState.homeTakes completeNode.node = true ∧ strayState.fitsWindow twoTermWindow completeNode.node = true := by decide +kernel

/-- The held node neither overlaps it nor is its sibling. -/
theorem strayNode_apart : overlap (nodeRun (twoTermNode 2 1)) (nodeRun completeNode.node) = false ∧
    joinable twoTermWindow.terms (twoTermNode 2 1) completeNode.node = false := by decide +kernel

/-- The model performs the final write of the node that arrives and closes the reduction, since that node alone covers the tree. -/
theorem homeNode_strayState : ∃ u, exec (.homeNode 0) strayState = .next u ∧ u.homeReds = [] ∧
    Memory.readN u.mem (pa (spScratch 0) 0) 4 = 0x3F800000 :=
  ⟨_, rfl, by decide +kernel, by decide +kernel⟩

/-- Refutes O49. The clause that an open reduction keeps a node which is no sibling of the one it holds asks of the held node only
that it is not empty. Where that node lies outside its window, as in `strayState`, one that arrives with all terms overlaps nothing
and completes the tree: the home port performs the final write, and no reduction stays open. -/
theorem not_reductionsInWindowsGoOn : ¬ Obligations.ReductionsInWindowsGoOn := by
  unfold Obligations.ReductionsInWindowsGoOn
  intro ⟨_, _, home, _⟩
  obtain ⟨hidle, hactive⟩ := strayState_awake
  obtain ⟨hdivert, htakes, hfits⟩ := strayState_takes
  obtain ⟨hover, hjoin⟩ := strayNode_apart
  have hsafe : Safe strayState := by unfold Safe; decide
  have hsleeps : ¬ ((strayState.vd twoTermWindow.vd).dying = false ∧ (strayState.holds twoTermWindow.vd = true ∨
      ((strayState.vd twoTermWindow.vd).mode = .collapsing ∧ strayState.nodeListed twoTermWindow completeNode.node = true))) := by
    simp [hidle, hactive]
  obtain ⟨_, _, taken⟩ := home strayState 0 completeNode twoTermWindow hsafe rfl rfl strayState_window
  obtain ⟨_, goesOn⟩ := taken (by simp [completeNode, twoTermNode]) hsleeps (by decide)
  obtain ⟨_, held, _⟩ := goesOn hdivert htakes
  obtain ⟨_, kept, _⟩ := held strayReduction (twoTermNode 2 1) hfits rfl rfl rfl rfl (by decide)
  obtain ⟨u, hu, hclosed, _⟩ := homeNode_strayState
  have hkept := hu.symm.trans (kept hover hjoin)
  injection hkept with hkept
  rw [hkept] at hclosed
  exact List.cons_ne_nil _ _ hclosed

end Sys2Proof.Machine
end

section
/-! SUPPORT. Entries removed from sparse tables, bytes outside the management aperture, and what a run of updates keeps. -/
namespace Sys2Proof

variable {α : Type}

/-! ## Removal from a sparse table -/

theorem Sparse.entry?_del_same (t : Sparse α) (k : Nat) : Sparse.entry? (Sparse.del t k) k = none := by
  induction t with
  | nil => rfl
  | cons e r ih =>
    by_cases h : e.1 = k
    · simp [Sparse.del, h, ih]
    · simp [Sparse.del, Sparse.entry?, h, ih]

theorem Sparse.entry?_del_other (t : Sparse α) {k j : Nat} (h : j ≠ k) :
    Sparse.entry? (Sparse.del t k) j = Sparse.entry? t j := by
  induction t with
  | nil => rfl
  | cons e r ih =>
    by_cases he : e.1 = k
    · simp [Sparse.del, Sparse.entry?, he, h.symm, ih]
    · simp [Sparse.del, Sparse.entry?, he, ih]

end Sys2Proof

namespace Sys2Proof.Machine

variable {s : State}

/-! ## Reads and writes outside the management aperture -/

theorem isMgmt_of_space {p : Nat} (h : paSpace p ≠ spCommons) : isMgmt p = false := by simp [isMgmt, h]

/-- Outside the aperture a byte reads as it is stored. -/
theorem State.readByte_of_space (s : State) {p : Nat} (h : paSpace p ≠ spCommons) : s.readByte p = Memory.read s.mem p := by
  simp [State.readByte, isMgmt_of_space h]

theorem State.readNat_of_space (s : State) {p n : Nat} (h : ∀ k < n, paSpace (p + k) ≠ spCommons) :
    s.readNat p n = Memory.readN s.mem p n := by
  induction n generalizing p with
  | zero => rfl
  | succ n ih =>
    rw [State.readNat, Memory.readN, s.readByte_of_space (p := p) (h 0 (by omega)), ih fun k hk => by
      rw [show p + 1 + k = p + (k + 1) by omega]; exact h (k + 1) (by omega)]

theorem Memory.readN_lt (m : List Host.Cell) (p n : Nat) : Memory.readN m p n < 256 ^ n := by
  induction n generalizing p with
  | zero => simp [Memory.readN]
  | succ n ih =>
    have hb := (Memory.read m p).isLt
    have hr := ih (p + 1)
    rw [Memory.readN, Nat.pow_succ]
    omega

/-- A store leaves what any byte beside it reads as. -/
theorem State.readByte_writeNat_other (hs : Safe s) {p n b : Nat} (x : Nat) (hb : b < p ∨ p + n ≤ b) :
    (s.writeNat p n x).readByte b = s.readByte b := by
  have hr : Memory.read (s.writeNat p n x).mem b = Memory.read s.mem b := Memory.read_writeN_other hs x hb
  have hv : ∀ d, (s.writeNat p n x).vdstate d = s.vdstate d := fun _ => rfl
  have hd : ∀ d, (s.writeNat p n x).vd d = s.vd d := fun _ => rfl
  simp only [State.readByte, hr, hv, hd]

/-! ## What a run of updates keeps -/

/-- A view of the state that each update keeps is kept by all of them. -/
theorem foldl_keeps {α β : Type} {f : State → α → State} (view : State → β) (h : ∀ s a, view (f s a) = view s) (l : List α) (s : State) :
    view (l.foldl f s) = view s := by
  induction l generalizing s with
  | nil => rfl
  | cons a l ih => rw [List.foldl_cons, ih, h]

theorem State.vd_congr {t : State} (h : t.vds = s.vds) (v : Nat) : t.vd v = s.vd v := by rw [State.vd, State.vd, h]

end Sys2Proof.Machine
end

section
/-! SUPPORT. What loads, pre-emption, time slices and the limits of a region do (R270, R324, R333, R337, R343, R357). -/
namespace Sys2Proof.Machine

variable {s : State} {r v : Nat}

/-! ## Loads (R323, R324) -/

theorem State.updRegion_congr {f g : RegionState → RegionState} (h : f (s.region r) = g (s.region r)) :
    s.updRegion r f = s.updRegion r g := by rw [State.updRegion, State.updRegion, h]

/-- The window bases that a region's elements take are state of their units. -/
theorem State.rebase_keeps {β : Type} (view : State → β) (h : ∀ (s : State) us, view { s with units := us } = view s) (s : State) (r : Nat) :
    view (s.rebase r) = view s := by
  simp only [State.rebase]
  split
  · exact h s _
  · rw [foldl_keeps view fun s k => foldl_keeps view (fun s i => h s _) _ s, h]

/-- So are the scales that a load writes. -/
theorem State.scales_keeps {β : Type} (view : State → β) (h : ∀ (s : State) us, view { s with units := us } = view s) (s : State) (r : Nat)
    (l : List (Nat × Nat × BitVec 32)) :
    view (l.foldl (fun s q => s.updUnit r q.1 fun u => { u with scale := Sparse.put u.scale q.2.1 q.2.2 }) s) = view s :=
  foldl_keeps view (fun s _ => h s _) l s

theorem State.applyScales_keeps {β : Type} (view : State → β) (h : ∀ (s : State) us, view { s with units := us } = view s)
    (hr : ∀ (s : State) rs, view { s with regions := rs } = view s) (s : State) (r : Nat) : view (s.applyScales r) = view s := by
  rw [State.applyScales, State.updRegion, hr, State.scales_keeps view h]

theorem State.region_applyScales (s : State) (r : Nat) : (s.applyScales r).region r = { s.region r with scales := [] } := by
  rw [State.applyScales, State.region_updRegion, State.scales_keeps (fun s => s.region r) fun _ _ => rfl]

theorem State.region_applyScales_other (s : State) {j : Nat} (h : j ≠ r) : (s.applyScales r).region j = s.region j := by
  rw [State.applyScales, State.region_updRegion_other _ _ h, State.scales_keeps (fun s => s.region j) fun _ _ => rfl]

/-- The elements of a region hold the configurations of a load. -/
def State.shadowed (s : State) (r : Nat) (l : LoadSt) : State :=
  (l.shadow.filter fun q => !isFar (s.coreOf r q.1)).foldl
    (fun s q => s.updElem r q.1 fun e => { e with confs := Sparse.put e.confs q.2.1 q.2.2 })
    { s with elems := s.elems.filter fun p => p.1 / 65536 != r }

/-- The region of a load that is over. -/
def State.loadedRegion (s : State) (r : Nat) (l : LoadSt) : State :=
  (s.shadowed r l).updRegion r fun x =>
    { x with status := .loaded, load := none, loadFault := 0, shadowValid := true, scales := l.scales,
             activeNow := (s.shadowed r l).coresIdle r ((s.shadowed r l).region r).cores }

theorem State.activate_eq (s : State) (r : Nat) (l : LoadSt) :
    s.activate r l = if (s.shadowed r l).coresIdle r ((s.shadowed r l).region r).cores then ((s.loadedRegion r l).applyScales r).rebase r
      else s.loadedRegion r l := rfl

/-- Activation writes elements, units and the region. -/
theorem State.activate_keeps {β : Type} (view : State → β) (hu : ∀ (s : State) us, view { s with units := us } = view s)
    (hr : ∀ (s : State) rs, view { s with regions := rs } = view s) (he : ∀ (s : State) es, view { s with elems := es } = view s)
    (s : State) (r : Nat) (l : LoadSt) : view (s.activate r l) = view s := by
  have hbase : view (s.loadedRegion r l) = view s := by
    rw [State.loadedRegion, State.updRegion, hr]
    exact Eq.trans (foldl_keeps view (fun t _ => by exact he t _) _ _) (he s _)
  rw [State.activate_eq]
  split
  · rw [State.rebase_keeps view hu, State.applyScales_keeps view hu hr, hbase]
  · exact hbase

theorem State.region_activate (s : State) (r : Nat) (l : LoadSt) : ((s.activate r l).region r).status = .loaded ∧
    ((s.activate r l).region r).load = none ∧ ((s.activate r l).region r).loadFault = 0 := by
  rw [State.activate_eq]
  split
  · rw [State.rebase_keeps (fun s => s.region r) fun _ _ => rfl, State.region_applyScales, State.loadedRegion, State.region_updRegion]
    exact ⟨rfl, rfl, rfl⟩
  · rw [State.loadedRegion, State.region_updRegion]
    exact ⟨rfl, rfl, rfl⟩

theorem State.region_activate_other (s : State) (l : LoadSt) {j : Nat} (h : j ≠ r) : (s.activate r l).region j = s.region j := by
  have hbase : (s.loadedRegion r l).region j = s.region j := by
    rw [State.loadedRegion, State.region_updRegion_other _ _ h]
    exact foldl_keeps (fun s => s.region j) (fun _ _ => by rfl) _ _
  rw [State.activate_eq]
  split
  · rw [State.rebase_keeps (fun s => s.region j) fun _ _ => rfl, State.region_applyScales_other _ h, hbase]
  · exact hbase

theorem State.elem_activate (s : State) (r : Nat) {l : LoadSt} {a c : Nat} {b : ConfBank} (hfar : isFar (s.coreOf r a) = false)
    (hl : l.shadow = [(a, c, b)]) : Sparse.atD ((s.activate r l).elem r a).confs c {} = b := by
  have hbase : Sparse.atD ((s.loadedRegion r l).elem r a).confs c {} = b := by
    show Sparse.atD ((s.shadowed r l).elem r a).confs c {} = b
    simp [State.shadowed, hl, hfar]
  rw [State.activate_eq]
  split
  · rwa [State.rebase_keeps (fun s => s.elem r a) fun _ _ => rfl,
      State.applyScales_keeps (fun s => s.elem r a) (fun _ _ => rfl) fun _ _ => rfl]
  · exact hbase

theorem State.readByte_activate (s : State) (r : Nat) (l : LoadSt) (p : Nat) : (s.activate r l).readByte p = s.readByte p :=
  State.activate_keeps (fun s => s.readByte p) (fun _ _ => rfl) (fun _ _ => rfl) (fun _ _ => rfl) s r l

/-! ## Parking a device at the end of its slice (R343) -/

theorem State.hwWrite_vds {w : Who} {a n x : Nat} {t : State} (h : s.hwWrite w a n x = .ok t) : t.vds = s.vds := by
  unfold State.hwWrite at h
  split at h
  · cases h
  · split at h
    · cases h
    · cases h; rfl

theorem State.pendQueue_vds (s : State) (v c : Nat) (q : Word) (on : Bool) : (s.pendQueue v c q on).vds = s.vds := by
  unfold State.pendQueue
  dsimp only
  split
  · rfl
  · split
    · exact State.hwWrite_vds ‹_›
    · rfl

theorem State.pinned_unmapSlots (s : State) (v : Nat) (pend : Bool) : ((s.unmapSlots v pend).vd v).pinned = (s.vd v).pinned := by
  have hq : ∀ (t : State) c q, (if t.queueFull v c q then t.pendQueue v c q true else t).vds = t.vds := fun t c q => by
    split
    · exact t.pendQueue_vds v c q true
    · rfl
  rw [State.unmapSlots, State.vd_updVd]
  refine Eq.trans (foldl_keeps (fun s => (s.vd v).pinned) (fun _ _ => by rfl) _ _) ?_
  split
  · exact congrArg VdState.pinned (State.vd_congr (foldl_keeps State.vds (fun t q => by exact hq t _ q.2.qaddr) _ _) v)
  · rfl

theorem State.saveRegion_vds (s : State) (r : Nat) (area : Word) : (s.saveRegion r area).vds = s.vds := by
  have hplace : ∀ t : State, (t.freePlaceOf r).vds = t.vds := fun t => by
    have hparked : (t.dropParked r).vds = t.vds := foldl_keeps State.vds (fun _ _ => by rfl) _ _
    show (t.dropWork r).vds = t.vds
    unfold State.dropWork
    dsimp only
    split
    · rw [State.rebase_keeps State.vds fun _ _ => rfl]
      exact hparked
    · exact hparked
  rw [State.saveRegion]
  refine (hplace _).trans ?_
  exact foldl_keeps State.vds (fun _ _ => by rfl) _ _

/-- Whether a device is parked, and whether it is pinned. -/
def State.parkedPinned (s : State) (v : Nat) : Bool × Bool := ((s.vd v).parked, (s.vd v).pinned)

/-- A device that is not pinned leaves its clusters. -/
theorem State.vd_parkVd (s : State) {v : Nat} (h : (s.vd v).pinned = false) :
    ((s.parkVd v).vd v).parked = true ∧ ((s.parkVd v).vd v).clusters = [] := by
  have hsaved : ∀ l : List Nat, (l.foldl (fun s r => s.saveRegion r 0) s).vds = s.vds := fun l =>
    foldl_keeps State.vds (fun t r => by exact t.saveRegion_vds r 0) l s
  unfold State.parkVd
  dsimp only
  generalize ht : State.scrubCores _ _ = t
  have hview : (t.vd v).parked = true ∧ (t.vd v).pinned = false := by
    have hfold : t.parkedPinned v = (true, (s.vd v).pinned) := by
      subst ht
      refine Eq.trans (foldl_keeps (State.parkedPinned · v) (fun _ _ => by rfl) _ _) ?_
      refine Eq.trans (foldl_keeps (State.parkedPinned · v)
        (fun _ _ => by exact foldl_keeps (State.parkedPinned · v) (fun _ _ => by rfl) _ _) _ _) ?_
      simp only [State.parkedPinned, State.vd_updVd]
      exact congrArg (fun d => (true, VdState.pinned d)) (State.vd_congr (hsaved _) v)
    exact ⟨congrArg Prod.fst hfold, (congrArg Prod.snd hfold).trans h⟩
  obtain ⟨hparked, hpinned⟩ := hview
  rw [if_neg (by simp [hpinned]), State.vd_updVd]
  exact ⟨hparked, rfl⟩

theorem State.vd_yieldGroups (s : State) (v : Nat) : ((s.yieldGroups v).vd v).parked = (s.vd v).parked ∧
    ((s.yieldGroups v).vd v).clusters = (s.vd v).clusters := by
  unfold State.yieldGroups
  split
  · rw [State.vd_updVd]
    exact ⟨rfl, rfl⟩
  · exact ⟨rfl, rfl⟩

theorem State.unparked_unpinned_of_sliceOver (h : s.sliceOver v = true) : (s.vd v).parked = false ∧ (s.vd v).pinned = false := by
  simp only [State.sliceOver, Bool.and_eq_true, Bool.not_eq_true'] at h
  obtain ⟨⟨⟨⟨_, hpinned⟩, hparked⟩, _⟩, _⟩ := h
  exact ⟨hparked, hpinned⟩

/-- What the end of a slice does with a device that is not parked. -/
theorem timeSliceExpiry_running (hv : v < Config.vdCount) (hdying : (s.vd v).dying = false) (hp : (s.vd v).parked = false) :
    exec (.timeSliceExpiry v) s =
    if !s.sliceOver v then .next s
    else if s.collapseReady v then .next ((s.unmapSlots v true |>.parkVd v).yieldGroups v) else .next (s.endSlice v) := by
  show execTimeSliceExpiry v s = _
  simp [execTimeSliceExpiry, Nat.not_le.mpr hv, hdying, hp]

section
variable (hv : v < Config.vdCount) (hlive : (s.vd v).live = true) (hdying : (s.vd v).dying = false) (hmode : (s.vd v).mode = .active)
  (hp : (s.vd v).parked = true)
include hv hlive hdying hmode hp

/-- A parked device waits for its groups and clusters. -/
theorem timeSliceExpiry_waits (hw : ((s.wakeGroups v).bind fun g => g.wakeClusters v) = none) :
    exec (.timeSliceExpiry v) s = .next s := by
  show execTimeSliceExpiry v s = _
  simp [execTimeSliceExpiry, Nat.not_le.mpr hv, hlive, hdying, hmode, hp, hw]

/-- Once they are free it goes on. -/
theorem timeSliceExpiry_unparks {cs : List Nat} {t : State} (hw : ((s.wakeGroups v).bind fun g => g.wakeClusters v) = some (cs, t)) :
    exec (.timeSliceExpiry v) s = .next ((t.updVd v fun d => { d with sliceAt := t.clock, sliceEnd := false }).unparkVd v cs) := by
  show execTimeSliceExpiry v s = _
  simp [execTimeSliceExpiry, Nat.not_le.mpr hv, hlive, hdying, hmode, hp, hw]

end

theorem timeSliceExpiry_parks (hv : v < Config.vdCount) (hdying : (s.vd v).dying = false) (ho : s.sliceOver v = true)
    (hr : s.collapseReady v = true) :
    ∃ u, exec (.timeSliceExpiry v) s = .next u ∧ (u.vd v).parked = true ∧ (u.vd v).clusters = [] := by
  obtain ⟨hp, hpinned⟩ := State.unparked_unpinned_of_sliceOver ho
  obtain ⟨hparked, hclusters⟩ := (s.unmapSlots v true).vd_parkVd ((s.pinned_unmapSlots v true).trans hpinned)
  obtain ⟨hp', hc'⟩ := ((s.unmapSlots v true).parkVd v).vd_yieldGroups v
  refine ⟨_, ?_, hp'.trans hparked, hc'.trans hclusters⟩
  rw [timeSliceExpiry_running hv hdying hp, ho, hr]
  rfl

/-! ## Loads and pre-emption requests -/

section
variable {l : LoadSt} (hr : r < 256) (hload : (s.region r).load = some l) (hlive : (s.region r).live = true)
  (hstatus : (s.region r).status = .loading)
include hr hload hlive hstatus

theorem configLoadRecord_takes (hl : l.conf < (s.region r).confs.length) {l' : LoadSt} {depth : Nat}
    (hn : s.nextRecord (s.region r) (r / 64) l = .inr (l', depth)) : exec (.configLoadRecord r) s = .next (s.updRegion r fun y =>
      { y with load := some l', confs := modifyAt (fun (e : ConfEntry) => { e with depth := depth }) y.confs l.conf }) := by
  show execConfigLoadRecord r s = _
  simp [execConfigLoadRecord, Nat.not_le.mpr hr, hload, hlive, hstatus, Nat.not_le.mpr hl, hn]

theorem configLoadRecord_fails (hl : l.conf < (s.region r).confs.length) {c i : Nat}
    (hn : s.nextRecord (s.region r) (r / 64) l = .inl (c, i)) : exec (.configLoadRecord r) s = .next (s.failLoad r c i) := by
  show execConfigLoadRecord r s = _
  simp [execConfigLoadRecord, Nat.not_le.mpr hr, hload, hlive, hstatus, Nat.not_le.mpr hl, hn]

theorem configLoadComplete_activates (hl : (s.region r).confs.length ≤ l.conf) (htask : (s.region r).task = none)
    (hrerun : (s.region r).rerun = false) : exec (.configLoadComplete r) s = .next (s.activate r l) := by
  show execConfigLoadComplete r s = _
  simp [execConfigLoadComplete, Nat.not_le.mpr hr, hload, hlive, hstatus, Nat.not_lt.mpr hl, htask, hrerun]

end

theorem preemptionRequest_live (hr : r < 256) (hlive : (s.region r).live = true) : exec (.preemptionRequest r) s =
    let t := (s.shadowLoads r).foldl State.abortLoad s
    if !(s.region r).activeNow || (s.region r).load.isSome then .next t
    else if (s.region r).dbgStop then .next (t.preemptStopped r)
    else if (s.region r).status == .running && !(s.region r).drained && !(s.region r).frozenEnd then .next (t.beginDrain r)
    else .next t := by
  show execPreemptionRequest r s = _
  simp [execPreemptionRequest, Nat.not_le.mpr hr, hlive]

/-! ## The limits of a region (R270, R357) -/

section
variable (hr : r < 256) (hlive : (s.region r).live = true)
include hr hlive

theorem watchdog_live : exec (.watchdog r) s =
    if (s.region r).wdlim == 0 || (s.region r).eligible < 1024 * (s.region r).wdlim then .next s
    else .next ((s.updRegion r fun y => { y with eligible := 0 }).raise r fcWatchdog noElem noSlot 0 0 0) := by
  show execWatchdog r s = _
  simp [execWatchdog, Nat.not_le.mpr hr, hlive]

theorem throttleStarve_live : exec (.throttleStarve r) s =
    if (s.region r).thlim == 0 || (s.region r).throttledC < 1024 * (s.region r).thlim then .next s
    else .next ((s.updRegion r fun y => { y with throttledC := 0 }).raise r fcThrottleStarve noElem noSlot 0 0 0) := by
  show execThrottleStarve r s = _
  simp [execThrottleStarve, Nat.not_le.mpr hr, hlive]

theorem powerThrottle_holds (hth : (s.region r).throttled = false) (hpin : (s.vd (s.region r).vd).pinned = false) :
    exec (.powerThrottle r) s = .next { s.updRegion r fun x => { x with throttled := true } with throttle := true } := by
  show execPowerThrottle r s = _
  simp [execPowerThrottle, Nat.not_le.mpr hr, hlive, hth, hpin]

theorem throttleLifted_lifts : ∃ u, exec (.throttleLifted r) s = .next u ∧ (u.region r).throttled = false ∧
    (∀ j, j ≠ r → u.region j = s.region j) ∧ u = { s with regions := u.regions, throttle := u.throttle } := by
  refine ⟨_, if_neg (Nat.not_le.mpr hr), ?_, fun j hj => State.region_updRegion_other s _ hj, rfl⟩
  refine (congrArg RegionState.throttled (s.region_updRegion r _)).trans ?_
  rw [if_pos hlive]

end

/-- Settles O45: each step by its own rule above. A parked device keeps no cluster since a slice is over for unpinned devices alone. -/
theorem loadsSlicesAndLimitsGoOn : Obligations.LoadsSlicesAndLimitsGoOn := by
  unfold Obligations.LoadsSlicesAndLimitsGoOn
  refine ⟨?load, ?preempt, ?abort, ?spill, ?slice, ?limits⟩
  case load =>
    intro s r l hr hload hlive hstatus
    refine ⟨fun hl => ⟨fun l' n hn => ?_, fun c i hf => ?_⟩, fun hl htask hrerun => ?_⟩
    · refine ⟨_, configLoadRecord_takes hr hload hlive hstatus hl hn, rfl, ?_, ?_, fun j hj => State.region_updRegion_other s _ hj⟩
      · rw [State.region_updRegion]
      · rw [State.region_updRegion]; exact hstatus
    · exact configLoadRecord_fails hr hload hlive hstatus hl hf
    · obtain ⟨hloaded, hnone, hfault⟩ := s.region_activate r l
      exact ⟨_, configLoadComplete_activates hr hload hlive hstatus hl htask hrerun, hloaded, hnone, hfault,
        fun a c b _ hfar hshadow => s.elem_activate r hfar hshadow, fun j hj => s.region_activate_other l hj, s.readByte_activate r l⟩
  case preempt =>
    intro s r hr hlive
    simp only [preemptionRequest_live hr hlive]
    refine ⟨fun h => if_pos (by simpa using h), fun hnow hload hstop => ?_, fun hnow hload hstop hrun hdrained hfrozen => ?_⟩
    · simp [hnow, hload, hstop]
    · simp only [hnow, hload, hstop, hrun, hdrained, hfrozen]
      refine ⟨rfl, fun hnone => ?_⟩
      rw [hnone]
      show Host.Outcome.next (s.beginDrain r) = _
      exact congrArg _ (State.updRegion_congr (by rw [hdrained]; rfl))
  case abort =>
    intro s r l hr hlive hload hstatus honly
    rw [preemptionRequest_live hr hlive, honly, hload, if_pos (by simp)]
    rfl
  case spill =>
    intro s r hr hlive hnow hsaved
    show execBankSpill r s = _
    simp [execBankSpill, Nat.not_le.mpr hr, hlive, hnow, hsaved]
  case slice =>
    intro s v hv hlive hdying hmode
    refine ⟨timeSliceExpiry_parks hv hdying, fun ho hr => ?_, fun ho hp => ?_, fun hp hg => ?_, fun g hp hg hc => ?_,
      fun g cs t hp hg hc => ?_⟩
    · obtain ⟨hp, _⟩ := State.unparked_unpinned_of_sliceOver ho
      rw [timeSliceExpiry_running hv hdying hp, ho, hr]
      rfl
    · rw [timeSliceExpiry_running hv hdying hp, ho]
      rfl
    · exact timeSliceExpiry_waits hv hlive hdying hmode hp (by rw [hg]; rfl)
    · exact timeSliceExpiry_waits hv hlive hdying hmode hp (by rw [hg]; exact hc)
    · exact timeSliceExpiry_unparks hv hlive hdying hmode hp (by rw [hg]; exact hc)
  case limits =>
    intro s r hr hlive
    refine ⟨fun h0 hlim => ?_, fun h => ?_, fun h0 hlim => ?_, fun h => ?_, powerThrottle_holds hr hlive, throttleLifted_lifts hr hlive⟩
    · rw [watchdog_live hr hlive, if_neg (by simp [h0, Nat.not_lt.mpr hlim])]
      rfl
    · rw [watchdog_live hr hlive, if_pos (by simpa using h)]
    · rw [throttleStarve_live hr hlive, if_neg (by simp [h0, Nat.not_lt.mpr hlim])]
      rfl
    · rw [throttleStarve_live hr hlive, if_pos (by simpa using h)]

end Sys2Proof.Machine
end

section
/-! SUPPORT. A state in which a page of the device's memory is the management aperture, so that a byte that the loader writes there
does not read back (R31, R341, R346): the refutation of the statement about the debugger. -/
namespace Sys2Proof.Machine
open Sys2Proof.Claims

/-! ## A page in the management aperture -/

/-- Device 0 has debug permission. Its level-3 table stands at 0x1000 of the HBM of die 0, its level-2 table at 0x2000; the first
entry there is a leaf that maps addresses from 0 on to the management aperture, which begins with the device's own block. -/
def apertureMapped : State :=
  { vds := [(0, { live := true, debug := true, clusters := [0], root := 0x1001 })],
    mem := Memory.writeN (Memory.writeN [] 0x1000 8 0x2001) 0x2000 8 (2 ^ 62 + Config.mgmtBase + 3) }

/-- The same with `ifepel` attached to the device. -/
def apertureAttached : State := { apertureMapped with dbg := { vd := some 0 } }

/-- The first byte of the block of device 0 in the management aperture (R346). -/
def blockByte : Nat := pa spCommons Config.mgmtBase

/-- An image of one byte for address 0. -/
def oneByteImage : Image :=
  { name := "byte", regions := [], datas := [{ space := .hbm, addr := 0, bytes := [1], deferred := false }], tasks := [], parts := [],
    names := [], ptes := [], clusters := 0, hbmgroups := 0, commons := 0, wakeclass := 0, pinned := false }

/-- The tables stand in HBM, outside the aperture. -/
theorem readByte_hbm (u : State) {q : Nat} (h : q < 2 ^ 48) : u.readByte q = Memory.read u.mem q :=
  u.readByte_of_space (by rw [paSpace, Nat.div_eq_of_lt h, spCommons]; decide)

theorem imageWrites_oneByte : imageWrites oneByteImage = [(0, [1])] := by decide +kernel

/-- The place of an address whose leaf is one of the device's memory. -/
theorem State.framePlace_of_leaf {s : State} {v va p e lvl q t : Nat} (hva : ¬ 2 ^ 56 ≤ va) (hpte : s.pteOf v va = some (p, e, lvl))
    (hform : (!bitOf e 1 || lvl == 3 || pteReserved e || bitsOf e 47 12 * 4096 % leafBytes e lvl != 0 || 1 < bitsOf e 63 62) = false)
    (hown : s.owned v (bitsOf e 63 62) Config.pod Config.package (bitsOf e 52 52) (bitsOf e 47 12 * 4096 + va % leafBytes e lvl) = true)
    (hplace : placeOf (bitsOf e 63 62) Config.pod Config.package (bitsOf e 52 52) (bitsOf e 47 12 * 4096 + va % leafBytes e lvl) = .ok q t) :
    s.framePlace v va = some q := by
  simp only [State.framePlace, if_neg hva, hpte, Option.bind_some, hform, hown, hplace, Bool.not_true, Bool.false_eq_true, if_false]

/-- Address 0 has that byte as its place wherever the two entries stand. -/
theorem framePlace_aperture {u : State} (hv : u.vds = apertureMapped.vds) (h3 : Memory.readN u.mem 0x1000 8 = 0x2001)
    (h2 : Memory.readN u.mem 0x2000 8 = 2 ^ 62 + Config.mgmtBase + 3) : u.framePlace 0 0 = some blockByte := by
  have hroot : (u.vd 0).root = 0x1001 := by simp [State.vd, hv, apertureMapped, Sparse.atD, Sparse.entry?]
  have hpte : u.pteOf 0 0 = some (0x2000, 2 ^ 62 + Config.mgmtBase + 3, 2) := by
    simp [State.pteOf, State.lastEntry, hroot, h3, h2, rootOk, placeOf, pteReserved, walkIndex, bitsOf, bitOf, pa, Config.hbmDie, Config.mgmtBase]
  have hown : u.owned 0 1 Config.pod Config.package 0 Config.mgmtBase = true := by
    simp [State.owned, State.sharedBy, State.apertureOwned, hv, apertureMapped]
  have hplace : placeOf 1 Config.pod Config.package 0 Config.mgmtBase = .ok blockByte 1 := rfl
  exact State.framePlace_of_leaf (by decide) hpte (by decide) hown hplace

/-- The image's write has its place: it changes no byte of the two tables. -/
theorem hasPlaces_oneByte {s : State} (hv : s.vds = apertureMapped.vds) (hm : s.mem = apertureMapped.mem) :
    HasPlaces s 0 oneByteImage := by
  intro w hw k hk
  rw [imageWrites_oneByte] at hw
  obtain rfl := List.mem_singleton.mp hw
  obtain rfl : k = 0 := by simpa using hk
  refine ⟨blockByte, fun u hu hkept => ?_⟩
  have hread : ∀ q, q < 2 ^ 48 → Memory.read u.mem q = Memory.read apertureMapped.mem q := fun q hq => by
    rw [← hm, ← readByte_hbm u hq, ← readByte_hbm s hq]
    refine hkept q fun z hz j hj => ?_
    rw [imageWrites_oneByte] at hz
    obtain rfl := List.mem_singleton.mp hz
    obtain rfl : j = 0 := by simpa using hj
    rw [framePlace_aperture hv (by rw [hm]; decide +kernel) (by rw [hm]; decide +kernel)]
    have : 2 ^ 48 ≤ blockByte := by decide
    simp; omega
  have hentry : ∀ a, a + 8 < 2 ^ 48 → Memory.readN u.mem a 8 = Memory.readN apertureMapped.mem a 8 := fun a ha =>
    Memory.readN_congr fun k hk => hread (a + k) (by omega)
  exact framePlace_aperture (by rw [hu]; exact hv) ((hentry _ (by decide)).trans (by decide +kernel))
    ((hentry _ (by decide)).trans (by decide +kernel))

/-- The device has what the image expects. -/
theorem apertureMapped_meets : apertureMapped.vdMeets 0 oneByteImage = true ∧ blocksApart (coreBlocks oneByteImage) = true ∧
    apertureMapped.blockOnShelf 0 oneByteImage = false ∧ Safe apertureMapped := by
  refine ⟨by decide, by decide, by decide, ?_⟩
  unfold Safe
  decide +kernel

/-- Whether a command has a next state, in which byte `p` is stored as `x` and reads as `y`. -/
def storesButReads (o : Out) (p : Nat) (x y : Byte) : Bool :=
  match o with
  | .next u => Memory.read u.mem p == x && u.readByte p == y
  | _ => false

/-- The model loads the image: the byte is stored at its place, and does not read back. -/
theorem load_apertureMapped : storesButReads (exec (.ifepelLoad 0 oneByteImage) apertureMapped) blockByte 1 0 = true := by
  decide +kernel

/-- Refutes O53. The clause about a load says that each byte of the image reads back from its place. Where the device's page table maps
the page to the management aperture, as in `apertureMapped`, the place is a byte of the device's own block: the load writes it, yet it
reads as 0 (R346). -/
theorem not_debuggerStopsAndResumes : ¬ Obligations.DebuggerStopsAndResumes := by
  unfold Obligations.DebuggerStopsAndResumes
  intro ⟨_, _, load, _⟩
  obtain ⟨hmeets, hapart, hshelf, hsafe⟩ := apertureMapped_meets
  have hplaces : HasPlaces apertureAttached 0 oneByteImage := hasPlaces_oneByte rfl rfl
  have hplace : apertureAttached.framePlace 0 0 = some blockByte := framePlace_aperture rfl (by decide +kernel) (by decide +kernel)
  obtain ⟨_, _, written⟩ := (load apertureMapped 0 oneByteImage (by decide)).2 (by decide) (by decide) (.inl rfl)
  obtain ⟨u, _, hexec, _, _, _, _, bytes, _⟩ :=
    written hsafe rfl rfl rfl (by decide) hmeets hapart hshelf (by decide) (by decide) (by decide) hplaces
  have hone : u.readByte blockByte = 1 := by
    refine bytes (0, [1]) (by rw [imageWrites_oneByte]; exact List.mem_singleton.mpr rfl) 0 1 blockByte rfl hplace fun z hz j c hc _ => ?_
    rw [imageWrites_oneByte] at hz
    obtain rfl := List.mem_singleton.mp hz
    cases j with
    | zero => simpa using hc.symm
    | succ j => simp at hc
  have hran := load_apertureMapped
  rw [hexec] at hran
  simp [storesButReads, hone] at hran

end Sys2Proof.Machine
end

section
/-! SUPPORT. What the commands of `ifepel` do on a device that it is attached to (R31, R246): the frame of a command, the commands that
print, breakpoints, registers and accumulators. -/
namespace Sys2Proof.Machine
open Sys2Proof.Claims

variable {s : State} {v : Nat}

/-! ## The frame of a command -/

theorem State.command_attached (h : Attached s v) (k : Nat → State) : s.command k = .next (k v) := by
  simp [State.command, h.dev, h.live, h.debug]

theorem State.onUnit_attached (h : Attached s v) {r : Nat} (hr : r < 256) (k : State) :
    s.onUnit r k = .next (if (s.region r).live && (s.region r).vd == v then k else s.print ["refused"]) := by
  simp [State.onUnit, Nat.not_le.mpr hr, State.command_attached h]

theorem State.print_nil (s : State) : s.print [] = s := by simp [State.print]

/-- A state that differs from `s` in lines printed alone. -/
def Printed (s u : State) : Prop := ∃ l, u = s.print l

theorem printed_print (s : State) (l : List String) : Printed s (s.print l) := ⟨l, rfl⟩
theorem printed_self (s : State) : Printed s s := ⟨[], s.print_nil.symm⟩
theorem printed_ite (c : Prop) [Decidable c] {s t u : State} (ht : Printed s t) (hu : Printed s u) :
    Printed s (if c then t else u) := by split <;> assumption

theorem prints_of_command (h : Attached s v) {i : Instr} {k : Nat → State} (hi : exec i s = s.command k) (hk : Printed s (k v)) :
    Prints i s := by
  obtain ⟨l, hl⟩ := hk
  exact ⟨l, by rw [hi, State.command_attached h, hl]; rfl⟩

theorem prints_of_onUnit (h : Attached s v) {i : Instr} {r : Nat} (hr : r < 256) (l : List String)
    (hi : exec i s = s.onUnit r (s.print l)) : Prints i s := by
  obtain ⟨l', hl⟩ := printed_ite ((s.region r).live && (s.region r).vd == v) (printed_print s l) (printed_print s ["refused"])
  exact ⟨l', by rw [hi, State.onUnit_attached h hr, hl]; rfl⟩

/-! ## The commands that print (R35, R246, R248, R305, R309, R340) -/

section
variable (h : Attached s v)
include h

theorem prints_list : Prints .ifepelList s :=
  prints_of_command h rfl (printed_ite _ (printed_print _ _) (printed_print _ _))

theorem prints_showEvent : Prints .ifepelShowEvent s :=
  prints_of_command h rfl (by split <;> exact printed_print _ _)

theorem prints_showTask (va : Word) : Prints (.ifepelShowTask va) s := prints_of_command h rfl <| by
  dsimp only
  split
  · exact printed_print _ _
  · exact printed_self s
  · exact printed_print _ _

theorem prints_showShelf (handle : Bool) (x : BitVec 32) : Prints (.ifepelShowShelf handle x) s := prints_of_command h rfl <| by
  dsimp only
  refine printed_ite _ ?_ (printed_print _ _)
  split <;> exact printed_print _ _

theorem prints_showCounter (va : Word) : Prints (.ifepelShowCounter va) s :=
  prints_of_command h rfl (by split <;> exact printed_print _ _)

theorem prints_showMem (va : Word) (typed : Bool) (n : Nat) (ty : DataType) : Prints (.ifepelShowMem va typed n ty) s :=
  prints_of_command h rfl <| by
    refine printed_ite _ (printed_print _ _) ?_
    split <;> exact printed_print _ _

theorem prints_showReg (rs : List (Option Reg)) : Prints (.ifepelShowReg rs) s :=
  prints_of_command h rfl (by split <;> exact printed_print _ _)

theorem prints_showPte (va : Word) : Prints (.ifepelShowPte va) s :=
  prints_of_command h rfl (by split <;> exact printed_print _ _)

theorem prints_showAcc {core n : Nat} (hc : core < 96) (hn : n < 256) (words : List (Nat × Nat)) (rows cols : List Nat) :
    Prints (.ifepelShowAcc core n words rows cols) s := by
  have hunit : ¬ (Config.coreCount ≤ core || 256 ≤ n) = true := by
    have : ¬ Config.coreCount ≤ core := Nat.not_le.mpr hc
    simp [this, hn]
  refine prints_of_command h (if_neg hunit) ?_
  exact printed_ite _ (printed_print _ _) (printed_print _ _)

theorem prints_unit {r : Nat} (hr : r < 256) (a slot : Nat) (verbose : Bool) : Prints (.ifepelShowMs r a) s ∧
    Prints (.ifepelShowSlot r a slot verbose) s ∧ Prints (.ifepelShowStream r a) s ∧ Prints (.ifepelShowAccum r a) s :=
  ⟨prints_of_onUnit h hr _ rfl, prints_of_onUnit h hr _ rfl, prints_of_onUnit h hr _ rfl, prints_of_onUnit h hr _ rfl⟩

/-! ## Breakpoints (R32, R246) -/

theorem State.addBreak_sets (b : Brk) (text : String) : ∃ u, s.addBreak b text = .next u ∧
    Sparse.entry? u.dbg.breaks s.dbg.nextB = some b ∧ u.dbg.nextB = s.dbg.nextB + 1 ∧
    (∀ k, k ≠ s.dbg.nextB → Sparse.entry? u.dbg.breaks k = Sparse.entry? s.dbg.breaks k) ∧
    (∃ t, u.dbg.console = s.dbg.console ++ [toString s.dbg.nextB ++ ": " ++ t]) ∧ u = { s with dbg := u.dbg } :=
  ⟨_, State.command_attached h _, Sparse.entry?_put_same _ _ _, rfl, fun _ hk => Sparse.entry?_put_other _ _ hk, ⟨text, rfl⟩, rfl⟩

theorem delete_removes (n : Nat) : ∃ u, exec (.ifepelDelete n) s = .next u ∧ Sparse.entry? u.dbg.breaks n = none ∧
    (∀ k, k ≠ n → Sparse.entry? u.dbg.breaks k = Sparse.entry? s.dbg.breaks k) ∧ u = { s with dbg := u.dbg } :=
  ⟨_, State.command_attached h _, Sparse.entry?_del_same _ _, fun _ hk => Sparse.entry?_del_other _ hk, rfl⟩

/-! ## Registers of the debug thread (R246, R256) -/

theorem prints_setSys_error {n : BitVec 15} {x : Word} {t c : Nat} (ht : s.dbgThread = some t) (hc : s.setSys t n.toNat x = .error c) :
    Prints (.ifepelSetSys n x) s :=
  prints_of_command h rfl (by simp only [ht, hc]; exact printed_print _ _)

end

/-- A thread with another quota. -/
def ThreadState.withQuota (x : ThreadState) (n : Nat) : ThreadState := { x with msquota := BitVec.ofNat 32 n }

/-- MSQUOTA takes a value from 1 to 64 (R108). -/
theorem State.setSys_msquota (s : State) (t : Nat) {x : Word} (hlo : 1 ≤ x.toNat) (hhi : x.toNat ≤ 64) :
    s.setSys t 4 x = .ok (s.updThread t (·.withQuota x.toNat)) := by
  have hmask : x &&& 0x7F#64 = x := BitVec.eq_of_toNat_eq <| by
    have := Nat.and_two_pow_sub_one_eq_mod x.toNat 7
    simp at this ⊢; omega
  have hfree : sysReserved 4 x = false := by
    have : x &&& ~~~0x7F#64 = 0 := by rw [← hmask, BitVec.and_assoc]; simp
    simpa [sysReserved, sysRw, sysW1c, sysRo] using this
  have hlimit : s.sysLimit t 4 (x &&& sysRw 4) = true := by
    show (decide (1 ≤ (x &&& 0x7F#64).toNat) && decide ((x &&& 0x7F#64).toNat ≤ 64)) = true
    rw [hmask]; simp [hlo, hhi]
  have hstore : s.sysStore t 4 (x &&& sysRw 4) = s.updThread t (·.withQuota x.toNat) := by
    show (s.updThread t fun y => { y with msquota := (x &&& 0x7F#64).setWidth 32 }) = _
    rw [hmask]; rfl
  simp only [State.setSys, sysWriteLevel, hfree, State.sysPut, hlimit, hstore, State.sysClear]
  rfl

theorem setSys_writes_msquota (h : Attached s v) {t : Nat} (ht : s.dbgThread = some t) {x : Word} (hlo : 1 ≤ x.toNat) (hhi : x.toNat ≤ 64) :
    ∃ u, exec (.ifepelSetSys 4 x) s = .next u ∧ u.thread t = { s.thread t with msquota := BitVec.ofNat 32 x.toNat } ∧
      (∀ k, k ≠ t → u.thread k = s.thread k) ∧ u = { s with threads := u.threads, dbg := u.dbg, free := u.free } := by
  have hset : s.setSys t (4 : BitVec 15).toNat x = _ := s.setSys_msquota t hlo hhi
  refine ⟨_, (State.command_attached h _).trans (by simp only [ht, hset]; rfl), ?_, fun k hk => ?_, ?_⟩
  · exact s.thread_updThread t (·.withQuota x.toNat)
  · exact s.thread_updThread_other (·.withQuota x.toNat) hk
  · rfl

/-! ## Accumulators (R163, R248) -/

/-- The words of accumulators stand in the C-buffers, outside the aperture. -/
theorem accPa_space {core n i k : Nat} (hn : n < 256) (hi : i < 1024) (hk : k < 4) : paSpace (accPa core n i + k) ≠ spCommons := by
  have : paSpace (accPa core n i + k) = 384 + core := by simp only [paSpace, accPa, pa, spC]; omega
  rw [this, spCommons]; omega

theorem State.accWord_lt {core n i : Nat} (hn : n < 256) (hi : i < 1024) : s.accWord core n i < 2 ^ 32 := by
  rw [State.accWord, s.readNat_of_space fun k hk => accPa_space hn hi hk]
  exact Memory.readN_lt _ _ 4

/-- A word of an accumulator reads as written, and every byte beside it as before. -/
theorem State.accWord_setWord (hs : Safe s) {core n i x : Nat} (hn : n < 256) (hi : i < 1024) (hx : x < 2 ^ 32) :
    (s.setWord core n i x).accWord core n i = x := by
  rw [State.accWord, State.readNat_of_space _ fun k hk => accPa_space hn hi hk]
  show Memory.readN (Memory.writeN s.mem _ 4 x) _ 4 = x
  rw [Memory.readN_writeN_same hs]
  exact Nat.mod_eq_of_lt hx

theorem State.accOf_updAcc (s : State) (core n : Nat) (f : AccState → AccState) :
    (s.updAcc core n f).accOf core n = f (s.accOf core n) := by
  simp [State.accOf, State.updAcc, CoreState.acc]

section
variable (h : Attached s v) {core n i j bit : Nat} (hc : core < 96) (hn : n < 256) (hi : i < 32) (hj : j < 32) (hbit : bit < 32)
include h hc hn hi hj hbit

theorem injectAcc_refused (hstop : s.stoppedOn v core = false) :
    exec (.ifepelInjectAcc core n i j bit) s = .next (s.print ["refused"]) := by
  have hcore : ¬ Config.coreCount ≤ core := Nat.not_le.mpr hc
  show execIfepelInjectAcc core n i j bit s = _
  simp [execIfepelInjectAcc, hcore, Nat.not_le.mpr hn, Nat.not_le.mpr hi, Nat.not_le.mpr hj, Nat.not_le.mpr hbit, h.dev, hstop]

theorem injectAcc_exec (hstop : s.stoppedOn v core = true) (hbusy : s.accBusy core n = false) :
    let old := s.accWord core n (32 * i + j)
    exec (.ifepelInjectAcc core n i j bit) s =
      .next (((s.setWord core n (32 * i + j) (old ^^^ 2 ^ bit)).updAcc core n fun z => { z with verify := none }).print
        ["acc" ++ toString n ++ "[" ++ toString i ++ "][" ++ toString j ++ "] " ++ hex32 old ++ " -> " ++ showWord (old ^^^ 2 ^ bit)]) := by
  have hcore : ¬ Config.coreCount ≤ core := Nat.not_le.mpr hc
  show execIfepelInjectAcc core n i j bit s = _
  simp [execIfepelInjectAcc, hcore, Nat.not_le.mpr hn, Nat.not_le.mpr hi, Nat.not_le.mpr hj, Nat.not_le.mpr hbit, h.dev, h.live, h.debug,
    hstop, hbusy]

theorem injectAcc_flips (hs : Safe s) (hstop : s.stoppedOn v core = true) (hbusy : s.accBusy core n = false) :
    ∃ u, exec (.ifepelInjectAcc core n i j bit) s = .next u ∧
      u.accWord core n (32 * i + j) = s.accWord core n (32 * i + j) ^^^ 2 ^ bit ∧ (u.accOf core n).verify = none ∧
      ∀ b, b < accPa core n (32 * i + j) ∨ accPa core n (32 * i + j) + 4 ≤ b → u.readByte b = s.readByte b := by
  have hword : 32 * i + j < 1024 := by omega
  have hnew : s.accWord core n (32 * i + j) ^^^ 2 ^ bit < 2 ^ 32 :=
    Nat.xor_lt_two_pow (State.accWord_lt hn hword) (Nat.pow_lt_pow_right (by decide) hbit)
  refine ⟨_, injectAcc_exec h hc hn hi hj hbit hstop hbusy, ?_, ?_, fun b hb => ?_⟩
  · exact State.accWord_setWord hs hn hword hnew
  · exact congrArg AccState.verify (State.accOf_updAcc _ core n fun z => { z with verify := none })
  · exact State.readByte_writeNat_other hs _ hb

end

/-- Settles O54: every command goes through the frame of commands, and those that print are `Printed` from their state. -/
theorem debuggerCommandsPrint : Obligations.DebuggerCommandsPrint := by
  unfold Obligations.DebuggerCommandsPrint
  intro s v h
  refine ⟨?breaks, delete_removes h, ?noBreaks, ?noEvent, ?counter, ?register, ?noEntries, ?prints, ?setSys, ?injectAcc⟩
  case breaks =>
    rintro i b (⟨d, a, k, g, rfl, rfl⟩ | ⟨g, rfl, rfl⟩ | ⟨lo, n, rd, wr, rfl, rfl⟩ | ⟨c, rfl, rfl⟩ | ⟨c, rfl, rfl⟩ | ⟨pc, rfl, rfl⟩) <;>
      exact State.addBreak_sets h _ (s.showBrk _)
  case noBreaks => exact fun hb => (State.command_attached h _).trans (by simp [hb])
  case noEvent => exact fun he => (State.command_attached h _).trans (by simp [he])
  case counter => exact fun va n hr => (State.command_attached h _).trans (by simp [hr])
  case register => exact fun t q ht => (State.command_attached h _).trans (by simp [ht])
  case noEntries =>
    intro r a hr hstore hspill hlive hvd
    refine (State.onUnit_attached h hr _).trans ?_
    simp [hlive, hvd, hstore, hspill, sortEnts]
  case prints =>
    exact ⟨prints_list h, prints_showEvent h, prints_showTask h, prints_showShelf h, prints_showCounter h, prints_showMem h,
      prints_showReg h, prints_showPte h, fun _ _ words rows cols hc hn => prints_showAcc h hc hn words rows cols,
      fun r a slot vb hr => prints_unit h hr a slot vb⟩
  case setSys =>
    exact fun n x t ht => ⟨fun c hc => prints_setSys_error h ht hc, fun hn hlo hhi => hn ▸ setSys_writes_msquota h ht hlo hhi⟩
  case injectAcc =>
    exact fun core n i j bit hc hn hi hj hbit => ⟨injectAcc_refused h hc hn hi hj hbit,
      fun hstop hbusy hs => injectAcc_flips h hc hn hi hj hbit hs hstop hbusy⟩

end Sys2Proof.Machine
end

section
/-! SUPPORT. What the operations of an engine leave (R80, R163, R174, R175, R208, R215, R216): the words of an accumulator's tile, the
sequence of its k-steps, the lines that an instruction reads, and the token to dest1. -/
namespace Sys2Proof.Machine
open Sys2Proof.Claims

variable {s : State} {core n mx : Nat} {c : MxCmd}

/-! ## What reads depend on -/

/-- What a byte reads as depends on memory there and, in the aperture, on the devices. -/
theorem State.readByte_of_read {t : State} {a : Nat} (hm : Memory.read t.mem a = Memory.read s.mem a) (hv : t.vds = s.vds) :
    t.readByte a = s.readByte a := by
  have hvd : ∀ v, t.vd v = s.vd v := State.vd_congr hv
  have hst : ∀ v, t.vdstate v = s.vdstate v := fun v => by simp only [State.vdstate, hvd]
  simp only [State.readByte, hm, hvd, hst]

theorem State.readByte_congr {t : State} (hm : t.mem = s.mem) (hv : t.vds = s.vds) (a : Nat) : t.readByte a = s.readByte a :=
  State.readByte_of_read (by rw [hm]) hv

/-- A word of a tile is four bytes of memory. -/
theorem State.accWord_eq (s : State) {i : Nat} (hn : n < 256) (hi : i < 1024) :
    s.accWord core n i = Memory.readN s.mem (accPa core n i) 4 :=
  s.readNat_of_space fun _ hk => accPa_space hn hi hk

theorem State.accWord_congr {t : State} (hm : t.mem = s.mem) {i : Nat} (hn : n < 256) (hi : i < 1024) :
    t.accWord core n i = s.accWord core n i := by
  rw [State.accWord_eq t hn hi, State.accWord_eq s hn hi, hm]

/-- Where a condition on addresses removes cells, those that stay read as before and the others as unlisted. -/
theorem Memory.read_filter {m : List Host.Cell} {o : Option Nat} (h : Memory.wfFrom o m) (keep : Nat → Bool) (a : Nat) :
    Memory.read (m.filter fun q => keep q.1) a = if keep a then Memory.read m a else Memory.unlisted := by
  induction m generalizing o with
  | nil => simp [Memory.read]
  | cons q r ih =>
    obtain ⟨a', b⟩ := q
    have hr : Memory.wfFrom (some a') r := by
      simp [Memory.wfFrom] at h; exact h.2
    have hlow : a < a' → Memory.read r a = Memory.unlisted := fun hlt => Memory.read_low hr (Nat.le_of_lt hlt)
    by_cases hk : keep a' = true
    · rw [List.filter_cons_of_pos (by exact hk)]
      by_cases he : a' = a
      · simp [Memory.read, ← he, hk]
      · simp only [Memory.read, he, if_false, ih hr]
        by_cases hlt : a < a' <;> simp [hlt]
    · rw [List.filter_cons_of_neg (by exact hk), ih hr]
      by_cases he : a' = a
      · simp [← he, hk]
      · by_cases hlt : a < a'
        · simp [Memory.read, he, hlt, hlow hlt]
        · simp [Memory.read, he, hlt]

/-! ## Tiles (R80, R163, R215) -/

/-- `w` words of four bytes written one after the other from `p` on. -/
def Memory.writeWords (m : List Host.Cell) (p : Nat) (f : Nat → Nat) (w : Nat) : List Host.Cell :=
  (List.range w).foldl (fun m k => Memory.writeN m (p + 4 * k) 4 (f k)) m

/-- Each word reads as written, and every byte beside them as before. -/
theorem Memory.read_writeWords {m : List Host.Cell} (h : Memory.wf m = true) (p : Nat) (f : Nat → Nat) (w : Nat) :
    Memory.wf (Memory.writeWords m p f w) = true ∧
    (∀ k < w, Memory.readN (Memory.writeWords m p f w) (p + 4 * k) 4 = f k % 2 ^ 32) ∧
    ∀ a, a < p ∨ p + 4 * w ≤ a → Memory.read (Memory.writeWords m p f w) a = Memory.read m a := by
  induction w with
  | zero => exact ⟨h, fun k hk => absurd hk (by omega), fun _ _ => rfl⟩
  | succ w ih =>
    obtain ⟨hwf, hwords, hrest⟩ := ih
    have hlast : Memory.writeWords m p f (w + 1) = Memory.writeN (Memory.writeWords m p f w) (p + 4 * w) 4 (f w) := by
      simp only [Memory.writeWords, List.range_succ, List.foldl_append, List.foldl_cons, List.foldl_nil]
    rw [hlast]
    refine ⟨Memory.wf_writeN hwf _ _ _, fun k hk => ?_, fun a ha => ?_⟩
    · rcases Nat.lt_succ_iff_lt_or_eq.mp hk with hlt | rfl
      · rw [← hwords k hlt]
        exact Memory.readN_writeN_other hwf _ (by omega)
      · exact Memory.readN_writeN_same hwf _ _ _
    · rw [← hrest a (by omega)]
      exact Memory.read_writeN_other hwf _ (by omega)

theorem accPa_eq (core n i : Nat) : accPa core n i = accPa core n 0 + 4 * i := by simp only [accPa, pa]; omega

/-- The words that a k-step writes. -/
def State.kWord (s : State) (core n : Nat) (d : KStep) (k : Nat) : Nat := addProducts (s.accWord core n k) (products d (k / 32) (k % 32))

theorem State.foldl_writeNat (core n : Nat) (f : Nat → Nat) (l : List Nat) (t : State) :
    l.foldl (fun (t : State) k => t.writeNat (accPa core n k) 4 (f k)) t =
      { t with mem := l.foldl (fun m k => Memory.writeN m (accPa core n 0 + 4 * k) 4 (f k)) t.mem } := by
  induction l generalizing t with
  | nil => rfl
  | cons k l ih =>
    rw [List.foldl_cons, ih, accPa_eq core n k]
    rfl

theorem State.addTile_eq (s : State) (core n : Nat) (d : KStep) :
    s.addTile core n d = { s with mem := Memory.writeWords s.mem (accPa core n 0) (s.kWord core n d) 1024 } := by
  simp only [State.addTile, State.foldl_writeNat, Memory.writeWords, State.kWord]

theorem State.addTile_mem (s : State) (core n : Nat) (d : KStep) :
    (s.addTile core n d).mem = Memory.writeWords s.mem (accPa core n 0) (s.kWord core n d) 1024 := by rw [State.addTile_eq]

theorem State.accWord_addTile (hs : Safe s) (hn : n < 256) (d : KStep) {k : Nat} (hk : k < 1024) :
    (s.addTile core n d).accWord core n k = addProducts (s.accWord core n k) (products d (k / 32) (k % 32)) % 2 ^ 32 := by
  obtain ⟨_, hwords, _⟩ := Memory.read_writeWords hs (accPa core n 0) (s.kWord core n d) 1024
  rw [State.accWord_eq _ hn hk, State.addTile_mem, accPa_eq core n k, hwords k hk, State.kWord]

theorem State.readByte_addTile (hs : Safe s) (core n : Nat) (d : KStep) {a : Nat} (ha : a < accPa core n 0 ∨ accPa core n 0 + 4096 ≤ a) :
    (s.addTile core n d).readByte a = s.readByte a := by
  obtain ⟨_, _, hrest⟩ := Memory.read_writeWords hs (accPa core n 0) (s.kWord core n d) 1024
  refine State.readByte_of_read ?_ (by rw [State.addTile_eq])
  rw [State.addTile_mem, hrest a ha]

/-- An address outside the tile of an accumulator. -/
def besideTile (core n a : Nat) : Bool := a < accPa core n 0 || accPa core n 0 + 4096 ≤ a

/-- A sequence of k-steps opens with a tile of +0 (R215): of memory, the tile alone is cleared. -/
theorem State.read_openAcc (hs : Safe s) (core n : Nat) (tag : BitVec 24) (next : BitVec 4) (ck : Bool) (a : Nat) :
    Memory.read (s.openAcc core n tag next ck).mem a = if besideTile core n a then Memory.read s.mem a else Memory.unlisted :=
  Memory.read_filter hs (besideTile core n) a

theorem State.accWord_openAcc (hs : Safe s) (hn : n < 256) (tag : BitVec 24) (next : BitVec 4) (ck : Bool) {k : Nat} (hk : k < 1024) :
    (s.openAcc core n tag next ck).accWord core n k = 0 := by
  rw [State.accWord_eq _ hn hk]
  have hzero : ∀ j < 4, Memory.read (s.openAcc core n tag next ck).mem (accPa core n k + j) = Memory.read [] (accPa core n k + j) :=
    fun j hj => (State.read_openAcc hs ..).trans (if_neg (by simp [besideTile]; rw [accPa_eq core n k]; omega))
  exact Memory.readN_congr hzero

theorem State.readByte_openAcc (hs : Safe s) (core n : Nat) (tag : BitVec 24) (next : BitVec 4) (ck : Bool) {a : Nat}
    (ha : a < accPa core n 0 ∨ accPa core n 0 + 4096 ≤ a) : (s.openAcc core n tag next ck).readByte a = s.readByte a :=
  State.readByte_of_read ((State.read_openAcc hs ..).trans (if_pos (by simpa [besideTile] using ha))) rfl

theorem safe_openAcc (hs : Safe s) (core n : Nat) (tag : BitVec 24) (next : BitVec 4) (ck : Bool) : Safe (s.openAcc core n tag next ck) :=
  Memory.wf_filter _ hs

/-! ## The sequence of k-steps (R174, R175, R215) -/

/-- A change of an accumulator is none of the pool or of the issue ports. -/
theorem State.pool_updAcc (s : State) (core n : Nat) (f : AccState → AccState) : ((s.updAcc core n f).core core).pool = (s.core core).pool := by
  rw [State.updAcc, State.core_updCore]
theorem State.issue_updAcc (s : State) (core n : Nat) (f : AccState → AccState) :
    ((s.updAcc core n f).core core).issue = (s.core core).issue := by
  rw [State.updAcc, State.core_updCore]

/-- No trigger of the pool opens anew the sequence that is open (R215). -/
def NoReopening (x : CoreState) (n : Nat) : Prop :=
  ∀ y ∈ x.pool, ¬ (y.acc = n ∧ y.opens = true ∧ (x.acc n).opened = true ∧ (x.acc n).tag = y.tag)

/-- An accumulator with other held bits. -/
def AccState.withHeld (b : BitVec 16) (z : AccState) : AccState := { z with held := b }

/-- Where no trigger does, settling an accumulator computes its held bits and raises nothing. -/
theorem State.settleAcc_of_noReopening (h : NoReopening (s.core core) n) :
    s.settleAcc core n = s.updAcc core n (.withHeld (heldBits (s.core core) n)) := by
  have hdup : ∀ y ∈ (s.core core).pool, (y.acc == n && y.opens && ((s.core core).acc n).opened && y.tag == ((s.core core).acc n).tag) = false :=
    fun y hy => Bool.eq_false_iff.mpr fun hd => by
      simp only [Bool.and_eq_true, beq_iff_eq] at hd
      obtain ⟨⟨⟨hacc, hopens⟩, hopened⟩, htag⟩ := hd
      exact h y hy ⟨hacc, hopens, hopened, htag.symm⟩
  have hkeep : (s.core core).pool.filter (fun y => !(y.acc == n && y.opens && ((s.core core).acc n).opened && y.tag == ((s.core core).acc n).tag))
      = (s.core core).pool := List.filter_eq_self.mpr fun y hy => by rw [hdup y hy]; rfl
  have hnone : (s.core core).pool.filter (fun y => y.acc == n && y.opens && ((s.core core).acc n).opened && y.tag == ((s.core core).acc n).tag)
      = [] := List.filter_eq_nil_iff.mpr fun y hy => by rw [hdup y hy]; decide
  simp only [State.settleAcc, hnone, List.foldl_nil, State.updAcc, State.updCore, hkeep]
  rfl

/-- A bit is set by the trigger that has its number, and stays set. -/
theorem getLsbD_foldl_held (next : BitVec 4) (l : List MxCmd) (b : BitVec 16) {k : Nat} (hk : k < 16)
    (h : b.getLsbD k = true ∨ ∃ y ∈ l, y.seq ≠ next ∧ y.seq.toNat = k) :
    (l.foldl (fun b y => if y.seq == next then b else b ||| (1#16 <<< y.seq.toNat)) b).getLsbD k = true := by
  induction l generalizing b with
  | nil => simpa using h
  | cons y l ih =>
    refine ih _ ?_
    rcases h with hb | ⟨z, hz, hne, hzk⟩
    · left
      dsimp only
      split
      · exact hb
      · simp [hb]
    · rcases List.mem_cons.mp hz with rfl | hz
      · left
        dsimp only
        rw [if_neg (by simpa using hne)]
        simp [hk, hzk]
      · exact .inr ⟨z, hz, hne, hzk⟩

/-- A trigger of the open sequence that is not the next has its held bit. -/
theorem held_heldBits {x : CoreState} (hc : c ∈ waitingOf x n) (hne : c.seq ≠ (x.acc n).next) : (heldBits x n).getLsbD c.seq.toNat = true :=
  getLsbD_foldl_held _ _ _ c.seq.isLt (.inr ⟨c, hc, hne, rfl⟩)

/-! ## Tokens (R98, R99, R208) -/

/-- The token of a result for a destination that asks for no tag operation. -/
def plainFlight (r a slot : Nat) (d : Dest) (e : Emission) : Flight :=
  { src := srcOf r a slot
    r := r
    tok := { rsv := 0, net := d.net, last := e.last, kind := e.kind, dest := d.elem, port := d.port, slot := d.slot, chan := e.chan,
             seq := e.seq, ctx := BitVec.ofNat 8 (tagCtx e.tag), iter := BitVec.ofNat 16 (tagIter e.tag), payload := e.pay }
    past := e.past }

/-- Context and iteration make up the tag again. -/
theorem tokTag_plainFlight (r a slot : Nat) (d : Dest) (e : Emission) : tokTag (plainFlight r a slot d e).tok = e.tag := by
  refine BitVec.eq_of_toNat_eq ?_
  have := e.tag.isLt
  simp only [tokTag, plainFlight, tagCtx, tagIter, BitVec.toNat_append, BitVec.toNat_ofNat]
  rw [← Nat.shiftLeft_add_eq_or_of_lt (by omega), Nat.shiftLeft_eq]
  omega

theorem State.emitAt_invalid (s : State) (r a slot : Nat) (fg : BitVec 24) {d : Dest} (hd : d.valid = false) (e : Emission) :
    s.emitAt r a slot fg d e = s := by
  simp [State.emitAt, hd]

theorem State.emitAt_plain (s : State) (r a slot : Nat) (fg : BitVec 24) {d : Dest} (hd : d.valid = true) (ht : d.tagop = 0) (e : Emission) :
    s.emitAt r a slot fg d e = { s with net := s.net ++ [plainFlight r a slot d e] } := by
  simp [State.emitAt, hd, ht, applyTagOp, State.send, plainFlight]

/-- The token of an engine to dest1. -/
def State.replyOf (s : State) (c : MxCmd) (kind : BitVec 4) (pay : Nat) : Emission :=
  { kind := kind, pay := BitVec.ofNat 64 pay, tag := c.tag, seq := c.seq, last := c.last, chan := c.outCh,
    past := s.pastOf (s.mxAgent c) c.past }

/-- The reply changes the tokens in flight alone. -/
theorem State.mxReply_eq (h : PlainReply c) (kind : BitVec 4) (pay : Nat) :
    s.mxReply c kind pay = { s with net := (s.mxReply c kind pay).net } := by
  unfold State.mxReply
  cases hv : c.d1.valid with
  | false => rw [State.emitAt_invalid _ _ _ _ _ hv]
  | true => rw [State.emitAt_plain _ _ _ _ _ hv (h.resolve_left (by simp [hv]))]

theorem replied_mxReply (h : PlainReply c) (kind : BitVec 4) (pay : Nat) : Replied s (s.mxReply c kind pay) c pay := by
  unfold State.mxReply
  refine ⟨fun hv => by rw [State.emitAt_invalid _ _ _ _ _ hv], fun hv => ⟨plainFlight c.r c.elem c.slot c.d1 (s.replyOf c kind pay), ?_⟩⟩
  rw [State.emitAt_plain _ _ _ _ _ hv (h.resolve_left (by simp [hv]))]
  exact ⟨rfl, rfl, rfl, rfl, rfl, rfl, tokTag_plainFlight .., rfl⟩

/-- A reply is a matter of the tokens in flight. -/
theorem replied_congr {t u v : State} {pay : Nat} (h : Replied t u c pay) (hs : t.net = s.net) (hu : v.net = u.net) : Replied s v c pay := by
  unfold Replied at h ⊢
  rwa [hs, ← hu] at h

/-! ## Checksums (R222) -/

/-- A list as a sparse table from index `a` on, without the entries equal to `d`. -/
def sparseFrom (w d a : Nat) (l : List Nat) : Sparse (BitVec w) :=
  ((List.range' a l.length).zip l).filterMap fun p => if p.2 == d then none else some (p.1, BitVec.ofNat w p.2)

theorem sparseFrom_cons (w d a v : Nat) (l : List Nat) :
    sparseFrom w d a (v :: l) = if v = d then sparseFrom w d (a + 1) l else (a, BitVec.ofNat w v) :: sparseFrom w d (a + 1) l := by
  rw [sparseFrom, List.length_cons, List.range'_succ, List.zip_cons_cons, List.filterMap_cons]
  by_cases hv : v = d <;> simp [hv, sparseFrom]

/-- It holds each value at its index. -/
theorem Sparse.entry?_sparseFrom (w d : Nat) (l : List Nat) (a k : Nat) : Sparse.entry? (sparseFrom w d a l) k =
    if k < a then none else l[k - a]?.bind fun v => if v = d then none else some (BitVec.ofNat w v) := by
  induction l generalizing a with
  | nil => simp [sparseFrom, Sparse.entry?]
  | cons v l ih =>
    rw [sparseFrom_cons]
    rcases Nat.lt_trichotomy k a with hlt | rfl | hgt
    · have hne : a ≠ k := by omega
      have hlt' : k < a + 1 := by omega
      by_cases hv : v = d <;> simp [hv, Sparse.entry?, ih, hlt, hne, hlt']
    · by_cases hv : v = d <;> simp [hv, Sparse.entry?, ih]
    · have hne : a ≠ k := by omega
      have hsub : k - a = (k - (a + 1)) + 1 := by omega
      have hnlt : ¬ k < a + 1 := by omega
      have hnlt' : ¬ k < a := by omega
      by_cases hv : v = d <;> simp [hv, Sparse.entry?, ih, hne, hsub, hnlt, hnlt']

theorem Sparse.atD_sparseOf {w : Nat} (l : List Nat) (i : Nat) :
    (Sparse.atD (sparseOf (n := w) 0 l) i 0).toNat = (l[i]?).getD 0 % 2 ^ w := by
  have hfrom : sparseOf (n := w) 0 l = sparseFrom w 0 0 l := by rw [sparseOf, sparseFrom, List.range_eq_range']
  rw [Sparse.atD, hfrom, Sparse.entry?_sparseFrom]
  cases hv : l[i]? with
  | none => simp
  | some v => by_cases h0 : v = 0 <;> simp [h0]

/-- The checksum of a row or column of words. -/
def lineSum (l : List Nat) : Nat := roundCode .fp32 .rne (sumWords l)

/-- An accumulator with its checksums re-formed from the sums of the rows and of the columns. -/
def AccState.reformed (z : AccState) (rows cols : Nat → Nat) : AccState :=
  { z with ck := true, verify := none, rowck := sparseOf 0 ((List.range 32).map rows), colck := sparseOf 0 ((List.range 32).map cols) }

theorem AccState.row_reformed (z : AccState) (rows cols : Nat → Nat) {i : Nat} (hi : i < 32) :
    (z.reformed rows cols).row i = rows i % 2 ^ 32 := by
  rw [AccState.row, AccState.reformed, Sparse.atD_sparseOf]
  simp [hi]

theorem AccState.col_reformed (z : AccState) (rows cols : Nat → Nat) {j : Nat} (hj : j < 32) :
    (z.reformed rows cols).col j = cols j % 2 ^ 32 := by
  rw [AccState.col, AccState.reformed, Sparse.atD_sparseOf]
  simp [hj]

theorem State.reform_eq (s : State) (core n : Nat) : s.reform core n =
    s.updAcc core n fun z => z.reformed (fun i => lineSum (s.rowWords core n i)) fun j => lineSum (s.colWords core n j) := rfl

/-! ## What a k-step leaves (R216) -/

/-- The state with the sequence that the k-step opens, where it opens one. -/
def State.kOpened (s : State) (core n : Nat) (c : MxCmd) : State :=
  match c.op with
  | .mma true ck => s.openAcc core n c.tag c.seq ck
  | _ => s

/-- With the band scales that it captures. -/
def State.kCaptured (s : State) (core n : Nat) (d : KStep) : State :=
  match d.bands with
  | some (ba, bb) => s.updAcc core n fun z => { z with bands := true, bandA := sparseOf 0x3F80 ba, bandB := sparseOf 0x3F80 bb }
  | none => s

/-- The tile, its checksums and marks after a k-step, and the place in the sequence. -/
def State.kStepped (s : State) (core n : Nat) (d : KStep) : State :=
  ((((s.kCaptured core n d).addTile core n d).addChecks core n d).markTile core n d).updAcc core n fun z =>
    { z with verify := none, next := z.next + 1 }

/-- The state after a k-step, but for what it raises and sends. -/
def State.kEnded (s : State) (core n : Nat) (c : MxCmd) (d : KStep) : State :=
  ((((s.kOpened core n c).kStepped core n d).updCore core fun k => { k with pool := removeFirst (· == c) k.pool }).mxConsume core c).setCauses
    core d.causes

/-- A k-step that reads no marked line or word raises nothing. -/
theorem State.applyK_clean (s : State) (core n : Nat) (c : MxCmd) {d : KStep} (hA : d.badA = []) (hB : d.badB = []) :
    s.applyK core n c d = (((s.kEnded core n c d).mxReply c 0 n).settleAcc core n).progress c.r := by
  have hunc : ∀ t : State, t.mxUnc c ((d.badA ++ d.badB).map (·.2)) = t := fun t => by rw [hA, hB]; rfl
  rw [← hunc (s.kEnded core n c d)]
  rfl

/-- What no k-step touches until it raises and sends: the tokens in flight and the devices. -/
def State.outside (s : State) : List Flight × Sparse VdState := (s.net, s.vds)

theorem State.vds_of_outside {t : State} (h : t.outside = s.outside) : t.vds = s.vds := congrArg Prod.snd h
theorem State.net_of_outside {t : State} (h : t.outside = s.outside) : t.net = s.net := congrArg Prod.fst h

theorem State.outside_kOpened (s : State) (core n : Nat) (c : MxCmd) : (s.kOpened core n c).outside = s.outside := by
  unfold State.kOpened; split <;> rfl

theorem State.outside_kCaptured (s : State) (core n : Nat) (d : KStep) : (s.kCaptured core n d).outside = s.outside := by
  unfold State.kCaptured; split <;> rfl

theorem State.outside_addTile (s : State) (core n : Nat) (d : KStep) : (s.addTile core n d).outside = s.outside := by
  rw [State.addTile_eq]; simp only [State.outside]

theorem State.outside_markTile (s : State) (core n : Nat) (d : KStep) : (s.markTile core n d).outside = s.outside := by
  simp only [State.markTile]
  generalize List.filter _ (List.range 1024) = l
  exact foldl_keeps State.outside (fun _ _ => by rfl) l s

theorem State.mem_markTile (s : State) (core n : Nat) (d : KStep) : (s.markTile core n d).mem = s.mem := by
  simp only [State.markTile]
  generalize List.filter _ (List.range 1024) = l
  exact foldl_keeps State.mem (fun _ _ => by rfl) l s

theorem State.outside_updCore (s : State) (core : Nat) (f : CoreState → CoreState) : (s.updCore core f).outside = s.outside := rfl
theorem State.outside_updAcc (s : State) (core n : Nat) (f : AccState → AccState) : (s.updAcc core n f).outside = s.outside := rfl
theorem State.mem_updAcc (s : State) (core n : Nat) (f : AccState → AccState) : (s.updAcc core n f).mem = s.mem := rfl

theorem State.outside_kStepped (s : State) (core n : Nat) (d : KStep) : (s.kStepped core n d).outside = s.outside := by
  rw [State.kStepped, State.outside_updAcc, State.outside_markTile, State.addChecks, State.outside_updAcc, State.outside_addTile,
    State.outside_kCaptured]

theorem State.outside_mxConsume (s : State) (core : Nat) (c : MxCmd) : (s.mxConsume core c).outside = s.outside := by
  unfold State.mxConsume; split <;> rfl

theorem State.outside_setCauses (s : State) (core causes : Nat) : (s.setCauses core causes).outside = s.outside := by
  unfold State.setCauses; split <;> rfl

theorem State.outside_kEnded (s : State) (core n : Nat) (c : MxCmd) (d : KStep) : (s.kEnded core n c d).outside = s.outside := by
  rw [State.kEnded, State.outside_setCauses, State.outside_mxConsume, State.outside_updCore, State.outside_kStepped, State.outside_kOpened]

/-! What it does to memory. -/

theorem State.mem_kCaptured (s : State) (core n : Nat) (d : KStep) : (s.kCaptured core n d).mem = s.mem := by
  unfold State.kCaptured; split <;> rfl

theorem State.mem_kEnded (s : State) (core n : Nat) (c : MxCmd) (d : KStep) :
    (s.kEnded core n c d).mem = (((s.kOpened core n c).kCaptured core n d).addTile core n d).mem := by
  have hcauses : ∀ (t : State) x, (t.setCauses core x).mem = t.mem := fun t x => by unfold State.setCauses; split <;> rfl
  have hconsume : ∀ t : State, (t.mxConsume core c).mem = t.mem := fun t => by unfold State.mxConsume; split <;> rfl
  rw [State.kEnded, hcauses, hconsume, State.updCore_mem, State.kStepped, State.mem_updAcc, State.mem_markTile, State.addChecks,
    State.mem_updAcc]

theorem MxCmd.op_of_isMma (hm : c.isMma = true) : ∃ ck, c.op = .mma c.opens ck := by
  cases hop : c.op with
  | mma z ck => exact ⟨ck, by simp only [MxCmd.opens, hop]⟩
  | _ => simp [MxCmd.isMma, hop] at hm

/-- The tile that a k-step adds to: of +0 where it opens its sequence. -/
theorem State.kOpened_tile (hs : Safe s) (hn : n < 256) (hm : c.isMma = true) : Safe (s.kOpened core n c) ∧
    (∀ k < 1024, (s.kOpened core n c).accWord core n k = if c.opens = true then 0 else s.accWord core n k) ∧
    ∀ a, a < accPa core n 0 ∨ accPa core n 0 + 4096 ≤ a → (s.kOpened core n c).readByte a = s.readByte a := by
  obtain ⟨ck, hop⟩ := MxCmd.op_of_isMma hm
  unfold State.kOpened
  cases ho : c.opens with
  | false =>
    rw [ho] at hop
    simp only [hop, Bool.false_eq_true, if_false]
    exact ⟨hs, fun _ _ => trivial, fun _ _ => trivial⟩
  | true =>
    rw [ho] at hop
    simp only [hop, if_true]
    exact ⟨safe_openAcc hs .., fun k hk => State.accWord_openAcc hs hn _ _ _ hk, fun a ha => State.readByte_openAcc hs core n _ _ _ ha⟩

/-- The words of the tile take their products, and no byte beside them changes. -/
theorem State.kEnded_tile (hs : Safe s) (hn : n < 256) (hm : c.isMma = true) (d : KStep) :
    (∀ k < 1024, (s.kEnded core n c d).accWord core n k =
      addProducts (if c.opens = true then 0 else s.accWord core n k) (products d (k / 32) (k % 32)) % 2 ^ 32) ∧
    ∀ a, a < accPa core n 0 ∨ accPa core n 0 + 4096 ≤ a → (s.kEnded core n c d).readByte a = s.readByte a := by
  obtain ⟨hsafe, hwords, hrest⟩ := State.kOpened_tile (core := core) hs hn hm
  have hcap := (s.kOpened core n c).mem_kCaptured core n d
  have hsafe' : Safe ((s.kOpened core n c).kCaptured core n d) := by unfold Safe at hsafe ⊢; rwa [hcap]
  refine ⟨fun k hk => ?_, fun a ha => ?_⟩
  · rw [State.accWord_congr (s.mem_kEnded core n c d) hn hk, State.accWord_addTile hsafe' hn d hk, State.accWord_congr hcap hn hk, hwords k hk]
  · have hvds := State.vds_of_outside ((s.kOpened core n c).outside_kCaptured core n d)
    have htile : (((s.kOpened core n c).kCaptured core n d).addTile core n d).outside = s.outside := by
      rw [State.outside_addTile, State.outside_kCaptured, State.outside_kOpened]
    have hended := State.vds_of_outside ((s.outside_kEnded core n c d).trans htile.symm)
    rw [State.readByte_congr (s.mem_kEnded core n c d) hended, State.readByte_addTile hsafe' core n d ha, State.readByte_congr hcap hvds, hrest a ha]

/-! What it does to the sequence of k-steps. -/

/-- Whether an accumulator has a sequence open, its tag and its next k-step. -/
def AccState.sequence (z : AccState) : Bool × BitVec 24 × BitVec 4 := (z.opened, z.tag, z.next)

/-- The pool of a core, and the sequence of an accumulator. -/
def State.poolSeq (s : State) (core n : Nat) : List MxCmd × Bool × BitVec 24 × BitVec 4 :=
  ((s.core core).pool, (s.accOf core n).sequence)

theorem State.poolSeq_updAcc (s : State) (core n : Nat) (f : AccState → AccState) :
    (s.updAcc core n f).poolSeq core n = ((s.core core).pool, (f (s.accOf core n)).sequence) := by
  rw [State.poolSeq, State.accOf_updAcc, State.updAcc, State.core_updCore]

theorem State.poolSeq_kCaptured (s : State) (core n : Nat) (d : KStep) : (s.kCaptured core n d).poolSeq core n = s.poolSeq core n := by
  unfold State.kCaptured
  split
  · exact s.poolSeq_updAcc core n _
  · rfl

theorem State.poolSeq_addChecks (s : State) (core n : Nat) (d : KStep) : (s.addChecks core n d).poolSeq core n = s.poolSeq core n := by
  rw [State.addChecks, State.poolSeq_updAcc]
  cases (s.accOf core n).ck <;> rfl

theorem State.poolSeq_congr {t : State} (h : t.cores = s.cores) (core n : Nat) : t.poolSeq core n = s.poolSeq core n := by
  have hcore : t.core core = s.core core := by rw [State.core, State.core, h]
  rw [State.poolSeq, State.poolSeq, State.accOf, State.accOf, hcore]

theorem State.cores_markTile (s : State) (core n : Nat) (d : KStep) : (s.markTile core n d).cores = s.cores := by
  simp only [State.markTile]
  generalize List.filter _ (List.range 1024) = l
  exact foldl_keeps State.cores (fun _ _ => by rfl) l s

theorem State.poolSeq_kStepped (s : State) (core n : Nat) (d : KStep) : (s.kStepped core n d).poolSeq core n =
    ((s.core core).pool, (s.accOf core n).opened, (s.accOf core n).tag, (s.accOf core n).next + 1) := by
  have hwritten : ((((s.kCaptured core n d).addTile core n d).addChecks core n d).markTile core n d).poolSeq core n = s.poolSeq core n := by
    rw [State.poolSeq_congr (State.cores_markTile _ core n d), State.poolSeq_addChecks,
      State.poolSeq_congr (s := s.kCaptured core n d) (by rw [State.addTile_eq]), State.poolSeq_kCaptured]
  simp only [State.poolSeq, AccState.sequence, Prod.mk.injEq] at hwritten
  obtain ⟨hpool, hopened, htag, hnext⟩ := hwritten
  rw [State.kStepped, State.poolSeq_updAcc, hpool, AccState.sequence, hopened, htag, hnext]

theorem State.poolSeq_kOpened (s : State) (core n : Nat) (hm : c.isMma = true) : (s.kOpened core n c).poolSeq core n =
    ((s.core core).pool, if c.opens = true then (true, c.tag, c.seq) else (s.accOf core n).sequence) := by
  obtain ⟨ck, hop⟩ := MxCmd.op_of_isMma hm
  unfold State.kOpened
  cases ho : c.opens with
  | false => rw [ho] at hop; simp only [hop, Bool.false_eq_true, if_false]; rfl
  | true => rw [ho] at hop; simp only [hop, if_true]; exact State.poolSeq_updAcc _ core n _

theorem State.poolSeq_setCauses (s : State) (core n causes : Nat) : (s.setCauses core causes).poolSeq core n = s.poolSeq core n := by
  unfold State.setCauses
  split
  · rfl
  · rw [State.poolSeq, State.accOf, State.core_updCore]; rfl

theorem State.poolSeq_mxConsume (s : State) (core n : Nat) (c : MxCmd) : (s.mxConsume core c).poolSeq core n = s.poolSeq core n := by
  unfold State.mxConsume; split <;> rfl

theorem State.poolSeq_updPool (s : State) (core n : Nat) (f : List MxCmd → List MxCmd) :
    (s.updCore core fun k => { k with pool := f k.pool }).poolSeq core n = (f (s.core core).pool, (s.accOf core n).sequence) := by
  rw [State.poolSeq, State.accOf, State.core_updCore]; rfl

/-- The k-step leaves the pool, and its sequence stands at the next. -/
theorem State.kEnded_sequence (s : State) (core n : Nat) (hm : c.isMma = true) (d : KStep) :
    ((s.kEnded core n c d).core core).pool = removeFirst (· == c) (s.core core).pool ∧
    ((s.kEnded core n c d).accOf core n).opened = (c.opens || (s.accOf core n).opened) ∧
    ((s.kEnded core n c d).accOf core n).tag = (if c.opens = true then c.tag else (s.accOf core n).tag) ∧
    ((s.kEnded core n c d).accOf core n).next = (if c.opens = true then c.seq else (s.accOf core n).next) + 1 := by
  have hopened := s.poolSeq_kOpened core n hm
  have hended : (s.kEnded core n c d).poolSeq core n = (removeFirst (· == c) ((s.kOpened core n c).core core).pool,
      ((s.kOpened core n c).accOf core n).opened, ((s.kOpened core n c).accOf core n).tag, ((s.kOpened core n c).accOf core n).next + 1) := by
    have hstepped := (s.kOpened core n c).poolSeq_kStepped core n d
    rw [State.kEnded, State.poolSeq_setCauses, State.poolSeq_mxConsume, State.poolSeq_updPool]
    simp only [State.poolSeq, Prod.mk.injEq] at hstepped ⊢
    obtain ⟨hpool, hseq⟩ := hstepped
    exact ⟨by rw [hpool], hseq⟩
  simp only [State.poolSeq, AccState.sequence, Prod.mk.injEq] at hopened hended
  obtain ⟨hpool, hseq⟩ := hopened
  obtain ⟨hepool, heopened, hetag, henext⟩ := hended
  rw [hepool, heopened, hetag, henext, hpool]
  cases ho : c.opens with
  | false =>
    simp only [ho, Bool.false_eq_true, if_false, Prod.mk.injEq] at hseq
    obtain ⟨hop, htag, hnext⟩ := hseq
    simp [hop, htag, hnext]
  | true =>
    simp only [ho, if_true, Prod.mk.injEq] at hseq
    obtain ⟨hop, htag, hnext⟩ := hseq
    simp [hop, htag, hnext]

/-! ## What an answer leaves (R208) -/

/-- The engine has sent its token to dest1; cores, memory and devices are as before. -/
structure Sent (s u : State) (c : MxCmd) (pay : Nat) : Prop where
  cores : u.cores = s.cores
  mem : u.mem = s.mem
  vds : u.vds = s.vds
  replied : Replied s u c pay

theorem sent_mxReply (h : PlainReply c) (kind : BitVec 4) (pay : Nat) : Sent s (s.mxReply c kind pay) c pay where
  cores := by rw [State.mxReply_eq h]
  mem := by rw [State.mxReply_eq h]
  vds := by rw [State.mxReply_eq h]
  replied := replied_mxReply h kind pay

theorem State.core_congr {t : State} (h : t.cores = s.cores) (core : Nat) : t.core core = s.core core := by rw [State.core, State.core, h]
theorem State.accOf_congr {t : State} (h : t.cores = s.cores) (core n : Nat) : t.accOf core n = s.accOf core n := by
  rw [State.accOf, State.accOf, State.core_congr h]

/-! ## Triggers (R175, R215) -/

/-- The check that a step names a unit of the package. -/
theorem named_unit {a b x y : Nat} (hx : x < a) (hy : y < b) : (decide (a ≤ x) || decide (b ≤ y)) = false := by simp [hx, hy]

section
variable (hcore : core < 96) (hmx : mx < 3) (hhead : headOf (s.core core) mx = some c) (hmma : c.isMma = true) (hgoes : s.mxGoes c.r = true)
include hcore hmx hhead hmma hgoes

/-- A trigger that opens anew the sequence that is open is Malformed. -/
theorem kstepTriggerArrival_reopens (ho : c.opens = true) (hz : (s.accOf core c.acc).opened = true) (ht : (s.accOf core c.acc).tag = c.tag) :
    exec (.kstepTriggerArrival core mx) s = .next ((s.popMx core mx).mxRaise c fcMalformed 0) := by
  show execKstepTriggerArrival core mx s = _
  simp [execKstepTriggerArrival, Nat.not_le.mpr hcore, Config.coreCount, Nat.not_le.mpr hmx, hhead, hmma, hgoes, ho, hz, ht]

theorem kstepTriggerArrival_enters (ho : ¬ (c.opens = true ∧ (s.accOf core c.acc).opened = true ∧ (s.accOf core c.acc).tag = c.tag))
    (hroom : poolFull (s.core core) mx = false)
    (hheld : (s.accOf core c.acc).opened = true → (s.accOf core c.acc).tag = c.tag → c.seq ≠ (s.accOf core c.acc).next →
      (s.accOf core c.acc).held.getLsbD c.seq.toNat = false) :
    exec (.kstepTriggerArrival core mx) s =
      .next (((s.popMx core mx).updCore core fun k => { k with pool := k.pool ++ [c] }).settleAcc core c.acc) := by
  have hre : (c.opens && ((s.accOf core c.acc).opened && (s.accOf core c.acc).tag == c.tag)) = false :=
    Bool.eq_false_iff.mpr fun h => ho (by simpa using h)
  have hfree : (((s.accOf core c.acc).opened && (s.accOf core c.acc).tag == c.tag) && c.seq != (s.accOf core c.acc).next &&
      (s.accOf core c.acc).held.getLsbD c.seq.toNat) = false := Bool.eq_false_iff.mpr fun h => by
    simp only [Bool.and_eq_true, beq_iff_eq, bne_iff_ne] at h
    obtain ⟨⟨⟨hz, ht⟩, hne⟩, hbit⟩ := h
    exact Bool.false_ne_true ((hheld hz ht hne).symm.trans hbit)
  show execKstepTriggerArrival core mx s = _
  simp [execKstepTriggerArrival, named_unit (show core < Config.coreCount from hcore) hmx, hhead, hre, hroom, hfree, hmma, hgoes]

end

/-! ## K-steps (R176, R216) -/

/-- The k-step that is next is a trigger of the pool for the accumulator: the next of the open sequence, or one that opens. -/
theorem nextK_spec (h : nextK (s.core core) n = some c) : c.isMma = true ∧
    (c.opens = true ∧ (s.accOf core n).opened = false ∨
      c.opens = false ∧ (s.accOf core n).opened = true ∧ (s.accOf core n).tag = c.tag) := by
  have hc := List.find?_some h
  simp only [Bool.and_eq_true] at hc
  obtain ⟨⟨hmma, _⟩, hseq⟩ := hc
  refine ⟨hmma, ?_⟩
  have hz : (s.core core).acc n = s.accOf core n := rfl
  rw [hz] at hseq
  cases ho : (s.accOf core n).opened with
  | false => rw [if_neg (by simp [ho])] at hseq; exact .inl ⟨hseq, rfl⟩
  | true =>
    rw [if_pos ho] at hseq
    simp only [Bool.and_eq_true, Bool.not_eq_true', beq_iff_eq] at hseq
    obtain ⟨⟨hopens, htag⟩, _⟩ := hseq
    exact .inr ⟨hopens, rfl, htag.symm⟩

section
variable (hcore : core < 96) (hn : n < 256) (hnext : nextK (s.core core) n = some c) (hgoes : s.mxGoes c.r = true)
include hcore hn hnext hgoes

theorem kstepApply_waits (hp : s.kPlaces core c (c.opens || !(s.accOf core n).bands) = .error none) :
    exec (.kstepApply core n) s = .next s := by
  show execKstepApply core n s = _
  simp [execKstepApply, Config.coreCount, Nat.not_le.mpr hcore, Nat.not_le.mpr hn, hnext, hgoes, hp]

theorem kstepApply_faults {e i : Nat} (hp : s.kPlaces core c (c.opens || !(s.accOf core n).bands) = .error (some (e, i))) :
    exec (.kstepApply core n) s =
      .next (((s.updCore core fun k => { k with pool := removeFirst (· == c) k.pool }).mxRaise c e i).settleAcc core n) := by
  show execKstepApply core n s = _
  simp [execKstepApply, Config.coreCount, Nat.not_le.mpr hcore, Nat.not_le.mpr hn, hnext, hgoes, hp]

variable {p : KPlaces} (hp : s.kPlaces core c (c.opens || !(s.accOf core n).bands) = .ok p)
include hp

theorem kstepApply_applies (hl : linesLeft c p.lines = []) : exec (.kstepApply core n) s =
    .next (s.applyK core n c ((s.seenBy c).kRead core c (c.opens || !(s.accOf core n).bands) p)) := by
  show execKstepApply core n s = _
  simp [execKstepApply, Config.coreCount, Nat.not_le.mpr hcore, Nat.not_le.mpr hn, hnext, hgoes, hp, hl]

theorem kstepApply_reads (hl : linesLeft c p.lines ≠ []) :
    exec (.kstepApply core n) s = .next ((s.mxAcquire core c).seeOne core c (linesLeft c p.lines)) := by
  show execKstepApply core n s = _
  simp [execKstepApply, Config.coreCount, Nat.not_le.mpr hcore, Nat.not_le.mpr hn, hnext, hgoes, hp, hl]

end

/-- A k-step that is applied: the tile, the place in the sequence, the pool and the token. -/
theorem State.applyK_done (hs : Safe s) (hn : n < 256) (hnext : nextK (s.core core) n = some c) (hr : PlainReply c)
    (hpool : ∀ y ∈ removeFirst (fun y => y == c) (s.core core).pool, ¬ (y.acc = n ∧ y.opens = true ∧ y.tag = c.tag))
    {d : KStep} (hA : d.badA = []) (hB : d.badB = []) : let u := s.applyK core n c d
    (∀ k < 1024, u.accWord core n k =
      addProducts (if c.opens = true then 0 else s.accWord core n k) (products d (k / 32) (k % 32)) % 2 ^ 32) ∧
    (∀ a, a < accPa core n 0 ∨ accPa core n 0 + 4096 ≤ a → u.readByte a = s.readByte a) ∧
    (u.accOf core n).opened = true ∧ (u.accOf core n).tag = c.tag ∧
    (u.accOf core n).next = (if c.opens = true then c.seq else (s.accOf core n).next) + 1 ∧
    (u.core core).pool = removeFirst (fun y => y == c) (s.core core).pool ∧ Replied s u c n := by
  obtain ⟨hmma, hseq⟩ := nextK_spec hnext
  obtain ⟨hwords, hbytes⟩ := State.kEnded_tile (core := core) hs hn hmma d
  obtain ⟨hpoolE, hopenE, htagE, hnextE⟩ := s.kEnded_sequence core n hmma d
  have hout := s.outside_kEnded core n c d
  have hopen : ((s.kEnded core n c d).accOf core n).opened = true := by
    rw [hopenE]; rcases hseq with ⟨ho, _⟩ | ⟨_, hz, _⟩ <;> simp [*]
  have htag : ((s.kEnded core n c d).accOf core n).tag = c.tag := by
    rw [htagE]; rcases hseq with ⟨ho, _⟩ | ⟨_, _, hz⟩ <;> simp [*]
  have hsent := sent_mxReply (s := s.kEnded core n c d) hr 0 n
  have hno : NoReopening (((s.kEnded core n c d).mxReply c 0 n).core core) n := by
    rw [State.core_congr hsent.cores]
    intro y hy ⟨hacc, hopens, _, hty⟩
    rw [hpoolE] at hy
    exact hpool y hy ⟨hacc, hopens, hty.symm.trans htag⟩
  rw [State.applyK_clean s core n c hA hB, State.settleAcc_of_noReopening hno]
  generalize (s.kEnded core n c d).mxReply c 0 n = t at hsent hno
  have hacc : (t.updAcc core n (.withHeld (heldBits (t.core core) n))).accOf core n =
      ((s.kEnded core n c d).accOf core n).withHeld (heldBits (t.core core) n) := by
    rw [State.accOf_updAcc, State.accOf_congr hsent.cores]
  refine ⟨fun k hk => ?_, fun a ha => ?_, ?_, ?_, ?_, ?_, ?_⟩
  · exact (State.accWord_congr hsent.mem hn hk).trans (hwords k hk)
  · exact (State.readByte_congr hsent.mem hsent.vds a).trans (hbytes a ha)
  · exact (congrArg AccState.opened hacc).trans hopen
  · exact (congrArg AccState.tag hacc).trans htag
  · exact (congrArg AccState.next hacc).trans hnextE
  · refine (t.pool_updAcc core n _).trans ?_
    rw [State.core_congr hsent.cores, hpoolE]
  · exact replied_congr hsent.replied (State.net_of_outside hout) rfl

/-- The state in which the trigger at the head of a port has entered the pool. -/
def State.triggered (s : State) (core mx : Nat) (c : MxCmd) : State := (s.popMx core mx).updCore core fun k => { k with pool := k.pool ++ [c] }

theorem State.core_triggered (s : State) (core mx : Nat) (c : MxCmd) : (s.triggered core mx c).core core =
    { s.core core with issue := removeFirst (fun (y : MxCmd) => y.mx == mx) (s.core core).issue, pool := (s.core core).pool ++ [c] } := by
  rw [State.triggered, State.core_updCore, State.popMx, State.core_updCore]

theorem State.accOf_triggered (s : State) (core mx : Nat) (c : MxCmd) (n : Nat) : (s.triggered core mx c).accOf core n = s.accOf core n := by
  rw [State.accOf, State.core_triggered]; rfl

/-- A trigger that enters beside no reopening leaves the cores alone changed: its port, the pool and its held bit. -/
theorem State.settleAcc_triggered (h : NoReopening ((s.triggered core mx c).core core) c.acc) : let u := (s.triggered core mx c).settleAcc core c.acc
    (u.core core).pool = (s.core core).pool ++ [c] ∧ (u.core core).issue = removeFirst (fun y => y.mx == mx) (s.core core).issue ∧
    ((s.accOf core c.acc).opened = true → (s.accOf core c.acc).tag = c.tag → c.opens = false → c.seq ≠ (s.accOf core c.acc).next →
      (u.accOf core c.acc).held.getLsbD c.seq.toNat = true) ∧ u = { s with cores := u.cores } := by
  rw [State.settleAcc_of_noReopening h]
  refine ⟨?_, ?_, fun hz ht ho hne => ?_, rfl⟩
  · rw [State.pool_updAcc, State.core_triggered]
  · rw [State.issue_updAcc, State.core_triggered]
  · rw [State.accOf_updAcc]
    have hacc : ((s.triggered core mx c).core core).acc c.acc = s.accOf core c.acc := s.accOf_triggered core mx c c.acc
    refine held_heldBits (List.mem_filter.mpr ⟨?_, ?_⟩) (by rw [hacc]; exact hne)
    · rw [State.core_triggered]; simp
    · simp [hacc, hz, ht, ho]

/-! ## Reading lines one by one (R176, R182, R386) -/

/-- An access that `ifepel` notes changes nothing beside its stops and the region that it stops. -/
theorem State.touched_eq (s : State) (r a slot : Nat) (tag : BitVec 24) (wr : Bool) (ea n : Nat) : s.touched r a slot tag wr ea n =
    { s with dbg := (s.touched r a slot tag wr ea n).dbg, regions := (s.touched r a slot tag wr ea n).regions } := by
  unfold State.touched
  by_cases hoff : (s.dbg.vd != some (s.region r).vd || (s.region r).dbgStop) = true
  · rw [if_pos hoff]
  · rw [if_neg hoff]
    dsimp only
    generalize List.any s.dbg.breaks _ = hit
    cases hit <;> rfl

theorem State.mxTouched_keeps {β : Type} (view : State → β) (h : ∀ (s : State) d rs, view { s with dbg := d, regions := rs } = view s)
    (s : State) (c : MxCmd) (wr : Bool) (p n : Nat) : view (s.mxTouched c wr p n) = view s :=
  foldl_keeps view (fun t e => by rw [State.touched_eq, h]) _ s

theorem State.mxAcquire_eq (s : State) (core : Nat) (c : MxCmd) : s.mxAcquire core c = { s with unseen := (s.mxAcquire core c).unseen } := by
  unfold State.mxAcquire
  split
  · rfl
  · split <;> rfl

/-- An instruction that reads one more line has it beside those that it has read, and no byte changes. -/
theorem State.seeOne_sees (s : State) (core : Nat) (c : MxCmd) {left : List Nat} (hl : left ≠ []) : ∃ y, y.line ∈ left ∧
    ((s.seeOne core c left).core core).pool =
      replaceFirst (· == c) (fun _ => { c with seen := c.seen ++ [y] }) (s.core core).pool ∧
    (s.seeOne core c left).mem = s.mem ∧ (s.seeOne core c left).vds = s.vds ∧ (s.seeOne core c left).unseen = (s.mxLearn c).unseen := by
  have hpos : 0 < left.length := List.length_pos_iff.mpr hl
  have hlt : Config.choice s.free % left.length < left.length := Nat.mod_lt _ hpos
  have hlearn : s.mxLearn c = { s with unseen := (s.mxLearn c).unseen } := State.learn_eq s _ _
  refine ⟨(s.mxLearn c).seeLine c ((left[Config.choice s.free % left.length]?).getD 0), ?_, ?_, ?_, ?_, ?_⟩
  · rw [List.getElem?_eq_getElem hlt]
    exact List.getElem_mem hlt
  · refine (State.mxTouched_keeps (fun s => (s.core core).pool) (fun _ _ _ => rfl) _ c false _ 64).trans ?_
    rw [State.putMx, State.core_updCore, hlearn]
    rfl
  · refine (State.mxTouched_keeps State.mem (fun _ _ _ => rfl) _ c false _ 64).trans ?_
    rw [State.putMx, State.updCore_mem, hlearn]
  · refine (State.mxTouched_keeps State.vds (fun _ _ _ => rfl) _ c false _ 64).trans ?_
    rw [State.putMx, State.updCore_vds, hlearn]
  · exact State.mxTouched_keeps State.unseen (fun _ _ _ => rfl) _ c false _ 64

/-! ## What a k-step acquires (R235, R389) -/

/-- What an agent knows it knows after any agent learns. -/
theorem Unseen.known_mono {h : Unseen} {x y : Agent} {t : Nat} (hk : h.known x = true) : ({ h with seen := (y, t) :: h.seen } : Unseen).known x = true := by
  simp only [Unseen.known, Bool.or_eq_true, List.any_cons] at hk ⊢
  exact hk.imp_right .inr

/-- Learning loses no note, and no knowledge of one. -/
theorem State.learn_keeps (s : State) (y : Agent) (l : Past) {x : Agent} {g : Unseen} (hg : g ∈ s.unseen) (hk : g.known x = true) :
    ∃ z ∈ (s.learn y l).unseen, SameWrite z g ∧ z.known x = true := by
  unfold State.learn
  split
  · exact ⟨g, hg, ⟨rfl, rfl, rfl, rfl⟩, hk⟩
  · refine ⟨_, List.mem_map_of_mem hg, ?_⟩
    split
    · exact ⟨⟨rfl, rfl, rfl, rfl⟩, Unseen.known_mono hk⟩
    · exact ⟨⟨rfl, rfl, rfl, rfl⟩, hk⟩

/-- An agent that learns of a tile knows what its seal released of its bytes. -/
theorem tileAcquired_tileLearn (s : State) (x : Agent) (cl : Nat) (t : Tile) : TileAcquired s (s.tileLearn x cl t) x cl t := by
  intro h hh _ hpast hover
  refine ⟨_, List.mem_map_of_mem hh, ?_⟩
  split
  · exact ⟨⟨rfl, rfl, rfl, rfl⟩, by simp [Unseen.known, Agent.meets_self]⟩
  · rename_i hcov
    refine ⟨⟨rfl, rfl, rfl, rfl⟩, ?_⟩
    have hk : (h.who.covers x || h.seen.any fun y => y.1.covers x) = true := by
      by_contra hno
      exact hcov (by simp [hpast, hover, Bool.eq_false_iff.mpr hno])
    simp only [Unseen.known, Agent.meets, Bool.or_eq_true, List.any_eq_true] at hk ⊢
    exact hk.imp .inl fun ⟨y, hy, hc⟩ => ⟨y, hy, .inl hc⟩

/-- A k-step of kind 1 or 3 acquires its tile before its first line. -/
theorem tileAcquired_seeOne (s : State) (core : Nat) (c : MxCmd) {left : List Nat} (hl : left ≠ []) (hkind : c.a.toNat / 2 ^ 32 % 2 = 1)
    {t : Tile} (ht : tileOf (s.cluster (clusterOfCore core)) (c.a.toNat % 2 ^ 32) = some t) :
    TileAcquired s ((s.mxAcquire core c).seeOne core c left) (s.elemAgent c.r c.elem) (clusterOfCore core) t := by
  have hacq : s.mxAcquire core c = s.tileLearn (s.elemAgent c.r c.elem) (clusterOfCore core) t := by
    have hbit : bitsOf c.a.toNat 32 32 = 1 := hkind
    have hhandle : bitsOf c.a.toNat 31 0 = c.a.toNat % 2 ^ 32 := by simp [bitsOf]
    simp only [State.mxAcquire, hbit, hhandle, ht]
    rfl
  obtain ⟨_, _, _, _, _, hunseen⟩ := (s.mxAcquire core c).seeOne_sees core c hl
  intro h hh hn hpast hover
  obtain ⟨g, hg, hsame, hk⟩ := tileAcquired_tileLearn s (s.elemAgent c.r c.elem) (clusterOfCore core) t h hh hn hpast hover
  rw [← hacq] at hg
  obtain ⟨z, hz, hzg, hzk⟩ := (s.mxAcquire core c).learn_keeps ((s.mxAcquire core c).mxAgent c) c.past hg hk
  refine ⟨z, hunseen ▸ hz, ?_, hzk⟩
  obtain ⟨h1, h2, h3, h4⟩ := hzg
  obtain ⟨g1, g2, g3, g4⟩ := hsame
  exact ⟨h1.trans g1, h2.trans g2, h3.trans g3, h4.trans g4⟩

end Sys2Proof.Machine
end

section
/-! SUPPORT. The turns of an engine (R219, R221, R226, R386): an instruction reads its lines, begins, writes a piece or is performed. -/
namespace Sys2Proof.Machine
open Sys2Proof.Claims

variable {s t : State} {core mx : Nat} {c : MxCmd}

/-! ## The turns of an engine (R219, R221, R226, R386) -/

theorem State.endMx_ok {u : State} {kind : BitVec 4} {pay : Nat} (s t : State) (c : MxCmd) :
    s.endMx t c (.ok (u, kind, pay)) = .next ((u.mxReply c kind pay).progress c.r) := rfl

/-- The instruction has read its lines and has not begun to write. -/
structure HasRead (s : State) (core : Nat) (c : MxCmd) : Prop where
  unbegun : c.pieces = none
  read : ∃ ls, s.mxLines core c = .ok ls ∧ linesLeft c ls = []

theorem State.turnMx_written (h : c.pieces = some []) : s.turnMx t core c = s.endMx t c (t.performMx core c) := by
  simp [State.turnMx, h]

section
variable (hp : c.pieces = none)
include hp

theorem State.turnMx_reads {ls : List Nat} (hl : s.mxLines core c = .ok ls) (hleft : linesLeft c ls ≠ []) :
    s.turnMx t core c = .next (s.seeOne core c (linesLeft c ls)) := by
  simp [State.turnMx, hp, hl, hleft]

theorem State.turnMx_waits (hl : s.mxLines core c = .error none) : s.turnMx t core c = .next s := by
  simp [State.turnMx, hp, hl]

theorem State.turnMx_faults {e i : Nat} (hl : s.mxLines core c = .error (some (e, i))) : s.turnMx t core c = .next (t.mxRaise c e i) := by
  simp [State.turnMx, hp, hl]

end

section
variable (h : HasRead s core c)
include h

theorem State.turnMx_performs (hb : s.beginMx core c = none) : s.turnMx t core c = s.endMx t c (t.performMx core c) := by
  obtain ⟨hp, ls, hl, hleft⟩ := h
  simp [State.turnMx, hp, hl, hleft, hb]

theorem State.turnMx_begin_waits (hb : s.beginMx core c = some (.error none)) : s.turnMx t core c = .next s := by
  obtain ⟨hp, ls, hl, hleft⟩ := h
  simp [State.turnMx, hp, hl, hleft, hb]

theorem State.turnMx_begin_faults {e i : Nat} (hb : s.beginMx core c = some (.error (some (e, i)))) :
    s.turnMx t core c = .next (t.mxRaise c e i) := by
  obtain ⟨hp, ls, hl, hleft⟩ := h
  simp [State.turnMx, hp, hl, hleft, hb]

theorem State.turnMx_begins {u : State} {ps : List MxPiece} (hb : s.beginMx core c = some (.ok (u, ps))) :
    s.turnMx t core c = .next (u.putMx core c { c with pieces := some ps }) := by
  obtain ⟨hp, ls, hl, hleft⟩ := h
  simp [State.turnMx, hp, hl, hleft, hb]

end

/-- The next piece of those that are still to write is one of them, in a free order. -/
theorem State.turnMx_piece {y : MxPiece} {l : List MxPiece} (hp : c.pieces = some (y :: l)) : ∃ i z, (y :: l)[i]? = some z ∧
    (s.scoreHit z.p z.n = true → s.turnMx t core c = .next s) ∧
    (s.scoreHit z.p z.n = false → s.pieceOk core c z = false → ∃ a, s.turnMx t core c = .next (t.mxRaise c fcAccessFault a)) ∧
    (s.scoreHit z.p z.n = false → s.pieceOk core c z = true → s.turnMx t core c =
      .next (((s.writePiece c z).putMx core c { c with pieces := some (removeAt (y :: l) i) }).draw)) := by
  have hlt : Config.choice s.free % (l.length + 1) < (y :: l).length := Nat.mod_lt _ (Nat.succ_pos _)
  obtain ⟨z, hz⟩ : ∃ z, (y :: l)[Config.choice s.free % (l.length + 1)]? = some z := ⟨_, List.getElem?_eq_getElem hlt⟩
  have hturn : s.turnMx t core c = if s.scoreHit z.p z.n then .next s
      else if !s.pieceOk core c z then .next (t.mxRaise c fcAccessFault (c.b.toNat / 2 ^ 23 * 2 ^ 23 + paOff z.p))
      else .next (((s.writePiece c z).putMx core c
        { c with pieces := some (removeAt (y :: l) (Config.choice s.free % (l.length + 1))) }).draw) := by
    simp only [State.turnMx, hp, hz, Option.getD_some]
  exact ⟨_, z, hz, fun hs => by rw [hturn, hs]; rfl, fun hs hok => ⟨_, by rw [hturn, hs, hok]; rfl⟩, fun hs hok => by rw [hturn, hs, hok]; rfl⟩

/-! What single instructions do. -/

theorem State.performMx_accChk (t : State) (core : Nat) (hop : c.op = .accChk) : t.performMx core c = .ok (t.reform core c.acc, 0, c.acc) := by
  simp only [State.performMx, hop]

theorem State.performMx_accEl (t : State) (core : Nat) {ck : Bool} (hop : c.op = .accWr true ck) : t.performMx core c = t.accEl core c := by
  simp only [State.performMx, hop, if_true]

theorem State.performMx_status (t : State) (core : Nat) (hop : c.op = .sclLd 2) :
    t.performMx core c = .ok (t.clearCauses core (c.a.toNat % 32), 0, (t.core core).scaleStatus.toNat) := by
  simp only [State.performMx, hop]
  rfl

theorem State.core_popMx (s : State) (core mx : Nat) : (s.popMx core mx).core core =
    { s.core core with issue := removeFirst (fun (y : MxCmd) => y.mx == mx) (s.core core).issue } := by
  rw [State.popMx, State.core_updCore]

/-- The head of a port has its turn where no instruction waits in the pool for its accumulator, and its own is not held by another. -/
theorem accPerform_head (hcore : core < 96) (hmx : mx < 3) (hw : tileWaiting (s.core core) mx = none) (hhead : headOf (s.core core) mx = some c)
    (hmma : c.isMma = false) (hgoes : s.mxGoes c.r = true)
    (hfree : ¬ (c.opens = true ∧ (s.accOf core c.acc).opened = true ∧ (s.accOf core c.acc).tag ≠ c.tag)) :
    exec (.accPerform core mx) s = s.turnMx (s.popMx core mx) core c := by
  have hheld : (c.opens && (s.accOf core c.acc).opened && (s.accOf core c.acc).tag != c.tag) = false := Bool.eq_false_iff.mpr fun h => by
    simp only [Bool.and_eq_true, bne_iff_ne] at h
    obtain ⟨⟨ho, hz⟩, ht⟩ := h
    exact hfree ⟨ho, hz, ht⟩
  show execAccPerform core mx s = _
  simp [execAccPerform, named_unit (show core < Config.coreCount from hcore) hmx, hw, hhead, hmma, hgoes, hheld]

/-- Settles O41: each turn is one of the rules above, and the tile's words take their products. -/
theorem enginesPerformTheirInstructions : Obligations.EnginesPerformTheirInstructions := by
  unfold Obligations.EnginesPerformTheirInstructions
  refine ⟨?trigger, ?kstep, ?tile, ?perform⟩
  case trigger =>
    intro s core mx c hcore hmx hhead hmma hgoes
    exact ⟨fun ⟨ho, hz, ht⟩ => kstepTriggerArrival_reopens hcore hmx hhead hmma hgoes ho hz ht,
      fun hno hroom hheld => kstepTriggerArrival_enters hcore hmx hhead hmma hgoes hno hroom hheld⟩
  case kstep =>
    intro s core n c hcore hn hnext hgoes
    refine ⟨fun p hp => ⟨kstepApply_applies hcore hn hnext hgoes hp, fun hl => ?_⟩, kstepApply_waits hcore hn hnext hgoes,
      fun e i hp => kstepApply_faults hcore hn hnext hgoes hp⟩
    obtain ⟨y, hy, hpool, hmem, hvds, _⟩ := (s.mxAcquire core c).seeOne_sees core c hl
    rw [State.mxAcquire_eq] at hpool hmem hvds
    refine ⟨_, y, kstepApply_reads hcore hn hnext hgoes hp hl, hy, ?_, ?_, fun hkind t ht => tileAcquired_seeOne s core c hl hkind ht⟩
    · rw [State.mxAcquire_eq]; exact hpool
    · rw [State.mxAcquire_eq]; exact State.readByte_congr hmem hvds
  case tile => exact fun s core n d k hs _ hn hk => ⟨State.accWord_addTile hs hn d hk, fun a ha => State.readByte_addTile hs core n d ha⟩
  case perform =>
    intro s core mx c hcore hmx hw hhead hmma hgoes hfree
    simp only [accPerform_head hcore hmx hw hhead hmma hgoes hfree]
    refine ⟨fun ls hp hl hleft => State.turnMx_reads hp hl hleft, fun hp hl => State.turnMx_waits hp hl,
      fun e i hp hl => State.turnMx_faults hp hl, fun hend => ?_, fun ⟨hp, hr⟩ hb => State.turnMx_begin_waits ⟨hp, hr⟩ hb,
      fun e i ⟨hp, hr⟩ hb => State.turnMx_begin_faults ⟨hp, hr⟩ hb, fun u ps ⟨hp, hr⟩ hb => State.turnMx_begins ⟨hp, hr⟩ hb,
      fun y l hp => State.turnMx_piece hp, fun hop => ?_, fun hop => ?_⟩
    · have hturn : s.turnMx (s.popMx core mx) core c = s.endMx (s.popMx core mx) c ((s.popMx core mx).performMx core c) := by
        rcases hend with hp | ⟨⟨hp, hr⟩, hb⟩
        · exact State.turnMx_written hp
        · exact State.turnMx_performs ⟨hp, hr⟩ hb
      rw [hturn]
      exact ⟨fun u k v hx => by rw [hx]; rfl, fun hx => by rw [hx]; rfl, fun e i hx => by rw [hx]; rfl⟩
    · exact State.performMx_accChk _ core hop
    · rw [State.performMx_status _ core hop, State.core_popMx]

end Sys2Proof.Machine
end

section
/-! SUPPORT. What the steps of shelves leave (R232, R233, R235, R239, R268), and the completion of the steps of engines and shelves. -/
namespace Sys2Proof.Machine
open Sys2Proof.Claims

variable {s : State} {core n mx : Nat} {c : MxCmd}

/-! ## ACC and SCL.LD at the head of a port (R221, R222, R226) -/

/-- An instruction that reads no line and writes no piece is performed at its first turn, and answers. -/
theorem accPerform_answers {u : State} {kind : BitVec 4} {pay : Nat} (hcore : core < 96) (hmx : mx < 3)
    (hw : tileWaiting (s.core core) mx = none) (hhead : headOf (s.core core) mx = some c) (hp : c.pieces = none)
    (hgoes : s.mxGoes c.r = true) (hr : PlainReply c) (hmma : c.isMma = false) (hopens : c.opens = false)
    (hl : s.mxLines core c = .ok []) (hb : s.beginMx core c = none)
    (hx : (s.popMx core mx).performMx core c = .ok (u, kind, pay)) :
    ∃ v, exec (.accPerform core mx) s = .next v ∧ Sent u v c pay := by
  have hhas : HasRead s core c := ⟨hp, [], hl, rfl⟩
  refine ⟨(u.mxReply c kind pay).progress c.r, ?_, ?_⟩
  · rw [accPerform_head hcore hmx hw hhead hmma hgoes (by simp [hopens]), State.turnMx_performs hhas hb, hx, State.endMx_ok]
  · obtain ⟨hcores, hmem, hvds, hrep⟩ := sent_mxReply (s := u) hr kind pay
    exact ⟨hcores, hmem, hvds, replied_congr hrep rfl rfl⟩

theorem State.rowWords_congr {t : State} (hm : t.mem = s.mem) (hn : n < 256) {i : Nat} (hi : i < 32) :
    t.rowWords core n i = s.rowWords core n i :=
  List.map_congr_left fun k hk => State.accWord_congr hm hn (by
    obtain ⟨j, hj, rfl⟩ := List.mem_map.mp hk
    have := List.mem_range.mp hj
    omega)

theorem State.colWords_congr {t : State} (hm : t.mem = s.mem) (hn : n < 256) {j : Nat} (hj : j < 32) :
    t.colWords core n j = s.colWords core n j :=
  List.map_congr_left fun k hk => State.accWord_congr hm hn (by
    obtain ⟨i, hi, rfl⟩ := List.mem_map.mp hk
    have := List.mem_range.mp hi
    omega)

theorem State.accEl_eq (s : State) (core : Nat) (c : MxCmd) : s.accEl core c =
    .ok ((s.setWord core c.acc (c.a.toNat / 2 ^ 8 % 2 ^ 10) (c.b.toNat % 2 ^ 32)).updAcc core c.acc fun z => { z with verify := none }, 0, c.acc) := by
  simp [State.accEl, bitsOf]

section
variable (hs : Safe s) (hcore : core < 96) (hmx : mx < 3) (hw : tileWaiting (s.core core) mx = none) (hhead : headOf (s.core core) mx = some c)
  (hp : c.pieces = none) (hgoes : s.mxGoes c.r = true) (hr : PlainReply c)
include hcore hmx hw hhead hp hgoes hr

/-- ACC.CHK re-forms the checksums of its tile. -/
theorem accPerform_accChk (hop : c.op = .accChk) (hacc : c.acc = n) (hn : n < 256) : ∃ u, exec (.accPerform core mx) s = .next u ∧
    (u.core core).issue = removeFirst (fun y => y.mx == mx) (s.core core).issue ∧ (u.accOf core n).ck = true ∧ (u.accOf core n).verify = none ∧
    (∀ i < 32, (u.accOf core n).row i = lineSum (s.rowWords core n i) % 2 ^ 32) ∧
    (∀ j < 32, (u.accOf core n).col j = lineSum (s.colWords core n j) % 2 ^ 32) ∧ (∀ a, u.readByte a = s.readByte a) ∧ Replied s u c n := by
  have hperf := State.performMx_accChk (s.popMx core mx) core hop
  rw [hacc] at hperf
  obtain ⟨u, hu, hcores, hmem, hvds, hrep⟩ := accPerform_answers hcore hmx hw hhead hp hgoes hr (by simp only [MxCmd.isMma, hop])
    (by simp only [MxCmd.opens, hop]) (by simp only [State.mxLines, hop]) (by simp only [State.beginMx, hop]) hperf
  have hz := State.accOf_congr hcores core n
  rw [State.reform_eq, State.accOf_updAcc] at hz
  refine ⟨u, hu, ?_, by rw [hz]; rfl, by rw [hz]; rfl, fun i hi => ?_, fun j hj => ?_, State.readByte_congr hmem hvds, replied_congr hrep rfl rfl⟩
  · rw [State.core_congr hcores, State.reform_eq, State.issue_updAcc, State.core_popMx]
  · have hrow : (s.popMx core mx).rowWords core n i = s.rowWords core n i := State.rowWords_congr rfl hn hi
    rw [hz, AccState.row_reformed _ _ _ hi, hrow]
  · have hcol : (s.popMx core mx).colWords core n j = s.colWords core n j := State.colWords_congr rfl hn hj
    rw [hz, AccState.col_reformed _ _ _ hj, hcol]

/-- SCL.LD `.st` answers with the scale status word. -/
theorem accPerform_status (hop : c.op = .sclLd 2) : ∃ u, exec (.accPerform core mx) s = .next u ∧
    (u.core core).issue = removeFirst (fun y => y.mx == mx) (s.core core).issue ∧ Replied s u c (s.core core).scaleStatus.toNat ∧
    ∀ a, u.readByte a = s.readByte a := by
  have hperf := State.performMx_status (s.popMx core mx) core hop
  have hstatus : ((s.popMx core mx).core core).scaleStatus = (s.core core).scaleStatus := by rw [State.core_popMx]
  rw [hstatus] at hperf
  obtain ⟨u, hu, hcores, hmem, hvds, hrep⟩ := accPerform_answers hcore hmx hw hhead hp hgoes hr (by simp only [MxCmd.isMma, hop])
    (by simp only [MxCmd.opens, hop]) (by simp only [State.mxLines, hop]) (by simp only [State.beginMx, hop]; rfl) hperf
  refine ⟨u, hu, ?_, replied_congr hrep rfl rfl, State.readByte_congr hmem hvds⟩
  rw [State.core_congr hcores, State.clearCauses, State.core_updCore, State.core_popMx]

include hs

/-- ACC.WR `.el` writes the word that it names. -/
theorem accPerform_accEl {ck : Bool} (hop : c.op = .accWr true ck) (hacc : c.acc = n) : ∃ u, exec (.accPerform core mx) s = .next u ∧
    (u.core core).issue = removeFirst (fun y => y.mx == mx) (s.core core).issue ∧ (u.accOf core n).verify = none ∧ Replied s u c n ∧
    let p := accPa core n (c.a.toNat / 2 ^ 8 % 2 ^ 10)
    Memory.readN u.mem p 4 = c.b.toNat % 2 ^ 32 ∧ ∀ a, a < p ∨ p + 4 ≤ a → u.readByte a = s.readByte a := by
  have hperf := (State.performMx_accEl (s.popMx core mx) core hop).trans (State.accEl_eq _ core c)
  rw [hacc] at hperf
  obtain ⟨u, hu, hcores, hmem, hvds, hrep⟩ := accPerform_answers hcore hmx hw hhead hp hgoes hr (by simp only [MxCmd.isMma, hop])
    (by simp only [MxCmd.opens, hop]; rfl) (by simp only [State.mxLines, hop]) (by simp only [State.beginMx, hop]) hperf
  have hstored : u.mem = (s.writeNat (accPa core n (c.a.toNat / 2 ^ 8 % 2 ^ 10)) 4 (c.b.toNat % 2 ^ 32)).mem := hmem
  refine ⟨u, hu, ?_, ?_, replied_congr hrep rfl rfl, ?_, fun a ha => ?_⟩
  · rw [State.core_congr hcores, State.issue_updAcc]
    exact congrArg CoreState.issue (s.core_popMx core mx)
  · rw [State.accOf_congr hcores, State.accOf_updAcc]
  · rw [hstored]
    exact (Memory.readN_writeN_same hs _ 4 _).trans (Nat.mod_mod _ _)
  · exact (State.readByte_congr hstored hvds a).trans (s.readByte_writeNat_other hs _ ha)

end

/-! ## Allocation (R232, R233) -/

theorem roomFor_free {x : ClusterState} {p own size k g : Nat} (h : roomFor x p own size = some (k, g)) :
    ∀ i < size, granFree x p k (g + i) = true := by
  unfold roomFor at h
  obtain ⟨_, _, hk⟩ := List.exists_of_findSome?_eq_some h
  simp only [Option.map_eq_some_iff, Prod.mk.injEq] at hk
  obtain ⟨_, hg, rfl, rfl⟩ := hk
  have hall := List.find?_some hg
  simpa only [List.all_eq_true, List.mem_range] using hall

/-- A partition whose head has room does not grow. -/
theorem State.grow_of_room {cl p own size : Nat} (h : (roomFor (s.cluster cl) p own size).isSome = true) (fuel : Nat) :
    s.grow cl p own size fuel = s := by
  have hroom : ((roomFor (s.cluster cl) p own size).isSome ||
      decide ((Sparse.atD (s.cluster cl).parts p {}).ceil ≤ (partGrans (s.cluster cl) p).length)) = true := by rw [h, Bool.true_or]
  cases fuel with
  | zero => exact Eq.refl s
  | succ fuel =>
    delta State.grow
    exact if_pos hroom

/-- The tile that a parked request of an element gets at a place. -/
def State.tileFor (s : State) (cl p : Nat) (q : SReq) (k g : Nat) : Tile :=
  newTile (s.cluster cl) q p k g (Sparse.atD (s.cluster cl).parts p {}).vd (s.rid q.r) (s.region q.r).rank (s.region q.r).fedge
    (s.region q.r).readers

/-- The partition has served its head: the tile is listed, and the request is gone. -/
def State.allocated (s : State) (cl p : Nat) (q : SReq) (rest : List SReq) (k g : Nat) : State :=
  s.updCluster cl fun x =>
    { x with tiles := x.tiles ++ [s.tileFor cl p q k g], parts := Sparse.upd x.parts p {} fun y => { y with queue := rest } }

theorem State.cluster_allocated (s : State) (cl p : Nat) (q : SReq) (rest : List SReq) (k g : Nat) :
    (Sparse.atD ((s.allocated cl p q rest k g).cluster cl).parts p {}).queue = rest ∧
    ((s.allocated cl p q rest k g).cluster cl).tiles = (s.cluster cl).tiles ++ [s.tileFor cl p q k g] := by
  rw [State.allocated, State.cluster_updCluster, Sparse.upd, Sparse.atD_put_same]
  exact ⟨rfl, rfl⟩

/-- The handle that answers the request (R233). -/
def SReq.answer (q : SReq) (handle : Nat) (ch : BitVec 5) : Emission :=
  { kind := 0, pay := BitVec.ofNat 64 handle, tag := q.tag, seq := q.seq, last := q.last, chan := ch, past := q.past }

theorem shallocServe_serves {cl p k g : Nat} {q : SReq} {rest : List SReq} {d0 d1 : Dest} {ch : BitVec 5} (hc : cl < 4) (hp : p < 16)
    (hq : (Sparse.atD (s.cluster cl).parts p {}).queue = q :: rest) (hroom : roomFor (s.cluster cl) p (s.reqCore q) q.size = some (k, g))
    (he : q.elem ≠ noElem) (hdst : q.dst = .dests d0 d1 ch) (hd : d0.valid = true) (ht : d0.tagop = 0) :
    exec (.shallocServe cl p) s = .next { s.allocated cl p q rest k g with
      net := s.net ++ [plainFlight q.r q.elem q.slot d0 (q.answer (s.tileFor cl p q k g).handle ch)] } := by
  have hne : (q.elem == noElem) = false := by simpa using he
  have hserve : exec (.shallocServe cl p) s =
      .next ((s.allocated cl p q rest k g).emitAt q.r q.elem q.slot q.tag d0 (q.answer (s.tileFor cl p q k g).handle ch)) := by
    show execShallocServe cl p s = _
    simp only [execShallocServe, named_unit hc hp, hq, State.grow_of_room (by rw [hroom]; rfl), State.servePart, hroom, hne, hdst]
    rfl
  rw [hserve, State.emitAt_plain _ _ _ _ _ hd ht]
  rfl

/-! ## Reads (R235) -/

/-- The next word of a shelf read, which stands at `p`, as a token (R235 step 4). -/
def State.shelfToken (s : State) (r a x p : Nat) (y : StreamCtx) (ch : BitVec 5) : Emission :=
  { kind := 0, pay := BitVec.ofNat 64 (s.agentRead (s.streamAgent r a (32 + x)) r p 8), tag := y.tag, seq := y.seq, last := false, chan := ch,
    past := s.pastOf (s.streamAgent r a (32 + x)) y.past }

/-- A shelf read that has begun delivers its next word, where nothing stops the access (R235 step 4). -/
theorem shldRead_delivers {r a x : Nat} {y : StreamCtx} {d0 d1 : Dest} {ch : BitVec 5} (hr : r < 256) (ha : a < 65536) (hx : x < 4)
    (hctx : Sparse.entry? (s.elem r a).ctxs x = some y) (hkind : y.kind = .shelf) (hgoes : s.memGoes r a = true) (hbegun : y.begun = true)
    (hit : y.itstep = false) (hmore : y.next + 1 ≠ y.stop) (hdst : y.dst = .dests d0 d1 ch) (hd : d0.valid = true) (ht : d0.tagop = 0)
    {p : Nat} (hp : p = pa (spA (24 * clusterOfCore (s.coreOf r a) + hCore y.handle.toNat)) (4096 * hGran y.handle.toNat + 8 * (y.start + y.next)))
    (hnear : p < pa (spA 96) 0) (hscore : s.scoreHit p 8 = false) (hmark : s.regMarked r p = false) :
    exec (.shldRead r a x) s = .next (({ s with net := s.net ++ [plainFlight r a y.slot d0 (s.shelfToken r a x p y ch)] } : State).updCtx r a x
      fun y => { y with next := y.next + 1 }) := by
  have hhere : s.reach (s.region r).vd p = .here := by
    have : paSpace p < 1024 := by simp only [paSpace, pa, spA] at hnear ⊢; omega
    simp [State.reach, this]
  have hload : s.loadAt (s.streamAgent r a (32 + x)) r p 8 = .inl (s.agentRead (s.streamAgent r a (32 + x)) r p 8) := by
    have hread : s.readAt r p 8 = .inl (s.regRead r p 8) := by simp [State.readAt, hhere, hmark]
    simp only [State.loadAt, hread]
  have hlast : (y.next + 1 == y.stop) = false := by simpa using hmore
  rw [← State.emitAt_plain s r a y.slot y.tag hd ht]
  subst hp
  show execShldRead r a x s = _
  simp [execShldRead, Nat.not_le.mpr hr, Nat.not_le.mpr ha, Nat.not_le.mpr hx, hctx, hkind, hgoes, hbegun, State.shelfWord, hscore, hlast, hit, hload,
    State.sendOut, hdst, State.shelfToken]

/-- The context of a read counts the word. -/
theorem State.entry_updCtx {r a x : Nat} {y : StreamCtx} (f : StreamCtx → StreamCtx) (h : Sparse.entry? (s.elem r a).ctxs x = some y) :
    Sparse.entry? ((s.updCtx r a x f).elem r a).ctxs x = some (f y) := by
  rw [State.updCtx, State.elem_updElem, h]
  exact Sparse.entry?_put_same ..

/-! ## Starvation and the balancer (R239, R268) -/

/-- A partition's counter of starving cycles begins anew. -/
def State.restarve (s : State) (cl p : Nat) : State :=
  s.updCluster cl fun k => { k with parts := Sparse.upd k.parts p {} fun y => { y with starve := 0 } }

theorem shelfStarved_raises {cl p m : Nat} {q : SReq} {rest : List SReq} (hc : cl < 4) (hp : p < 16) (hperiod : s.partPeriod cl p = some m)
    (hq : (Sparse.atD (s.cluster cl).parts p {}).queue = q :: rest) (hstarve : m ≤ (Sparse.atD (s.cluster cl).parts p {}).starve)
    (he : q.elem ≠ noElem) : exec (.shelfStarved cl p) s = .next ((s.restarve cl p).raise q.r fcShelfStarved noElem noSlot 0 0 0) := by
  show execShelfStarved cl p s = _
  simp [execShelfStarved, Nat.not_le.mpr hc, Nat.not_le.mpr hp, hperiod, hq, Nat.not_lt.mpr hstarve, he, State.restarve]

/-- The declared pipelines are no matter of the partitions. -/
theorem State.partPeriod_pipes (s : State) (cl p : Nat) (ps : List Pipeline) :
    (s.updCluster cl fun k => { k with pipes := ps }).partPeriod cl p = s.partPeriod cl p := by
  have hparts : ((s.updCluster cl fun k => { k with pipes := ps }).cluster cl).parts = (s.cluster cl).parts := by rw [State.cluster_updCluster]
  have hnaming : (s.updCluster cl fun k => { k with pipes := ps }).naming cl p = s.naming cl p := by
    simp only [State.naming, hparts]
    rfl
  simp only [State.partPeriod, hnaming]
  rfl

theorem State.cluster_updCluster_other (s : State) {cl j : Nat} (f : ClusterState → ClusterState) (h : j ≠ cl) :
    (s.updCluster cl f).cluster j = s.cluster j := Sparse.atD_put_other _ _ _ h

/-- What the balancer makes of a pipeline at the end of the period of partition `p`, which stands at `x` (R268). -/
def balancedPipe (x : Partition) (p : Nat) (l : Pipeline) : Pipeline :=
  match l.parts.findIdx? (· == p) with
  | none => l
  | some i => if l.expert || l.vd != x.vd || stageWidth l i ≤ 1 || l.stages.length ≤ i + 1 || 2 * x.parkedC ≤ x.period then l else moveReplica i l

/-- The end of a balancer's period counts the partition's cycles anew; beside the cluster's pipelines nothing else changes. -/
theorem stageBalancer_ends {cl p m : Nat} (hc : cl < 4) (hp : p < 16) (hperiod : s.partPeriod cl p = some m)
    (hend : m ≤ (Sparse.atD (s.cluster cl).parts p {}).period) : exec (.stageBalancer cl p) s =
      .next ((s.updCluster cl fun k => { k with pipes := (s.declaredPipes cl).map (s.settlePipe cl) }).updCluster cl fun k =>
        { k with pipes := k.pipes.map (balancedPipe (Sparse.atD (s.cluster cl).parts p {}) p)
                 parts := Sparse.upd k.parts p {} fun y => { y with period := 0, parkedC := 0 } }) := by
  show execStageBalancer cl p s = _
  simp only [execStageBalancer, named_unit hc hp, State.partPeriod_pipes, hperiod, State.cluster_updCluster, Nat.not_lt.mpr hend]
  rfl

/-! ## The steps complete -/

/-- Settles O43: what each step leaves is one of the lemmas above. -/
theorem engineAndShelfStepsComplete : Obligations.EngineAndShelfStepsComplete := by
  unfold Obligations.EngineAndShelfStepsComplete
  refine ⟨?trigger, ?kstep, ?perform, ?allocate, ?read, ?starve, ?balance⟩
  case trigger =>
    intro s core mx c hcore hmx hhead hmma hgoes hlen z hno hheld
    have hroom : poolFull (s.core core) mx = false := by simpa [poolFull] using hlen
    have hno' : NoReopening ((s.triggered core mx c).core core) c.acc := by
      intro y hy ⟨hacc, hopens, hz, ht⟩
      rw [State.core_triggered] at hy hz ht
      refine hno y ?_ ⟨hacc, hopens, hz, ht⟩
      simpa [or_comm] using hy
    obtain ⟨hpool, hissue, hbit, hrest⟩ := State.settleAcc_triggered hno'
    exact ⟨_, kstepTriggerArrival_enters hcore hmx hhead hmma hgoes (fun ⟨ho, hz, ht⟩ => hno c (List.mem_cons_self ..) ⟨rfl, ho, hz, ht⟩) hroom hheld,
      hpool, hissue, hbit, hrest⟩
  case kstep =>
    intro s core n c p hs hcore hn hnext hgoes hr z cap hp hseen hpool d hA hB
    have hleft : linesLeft c p.lines = [] := List.filter_eq_nil_iff.mpr fun l hl => by
      obtain ⟨y, hy, rfl⟩ := hseen l hl
      simpa using ⟨y, hy, rfl⟩
    exact ⟨_, kstepApply_applies hcore hn hnext hgoes hp hleft, State.applyK_done hs hn hnext hr hpool hA hB⟩
  case perform =>
    intro s core mx c hs hcore hmx hw hhead hpieces hgoes hr n rest
    have hn : n < 256 := Nat.mod_lt _ (by decide)
    have hacc : c.isMma = false → c.acc = n := fun hmma => by simp only [MxCmd.acc, hmma]; rfl
    refine ⟨fun hop => ?_, fun ck hop => ?_, accPerform_status hcore hmx hw hhead hpieces hgoes hr⟩
    · exact accPerform_accChk hcore hmx hw hhead hpieces hgoes hr hop (hacc (by simp only [MxCmd.isMma, hop])) hn
    · exact accPerform_accEl hs hcore hmx hw hhead hpieces hgoes hr hop (hacc (by simp only [MxCmd.isMma, hop]))
  case allocate =>
    intro s cl p q rest k g d0 d1 ch hc hp hq hroom he hdst hvalid htagop
    obtain ⟨hqueue, htiles⟩ := s.cluster_allocated cl p q rest k g
    exact ⟨_, s.tileFor cl p q k g, _, shallocServe_serves hc hp hq hroom he hdst hvalid htagop, hqueue, htiles, rfl, rfl, rfl, rfl, rfl, rfl, rfl,
      roomFor_free hroom, rfl, rfl, rfl, rfl, tokTag_plainFlight .., rfl⟩
  case read =>
    intro s r a x y d0 d1 ch hr ha hx hctx hkind hgoes hbegun hit hmore hdst hvalid htagop p hnear hscore hmark
    exact ⟨_, _, shldRead_delivers hr ha hx hctx hkind hgoes hbegun hit hmore hdst hvalid htagop rfl hnear hscore hmark, rfl, rfl, rfl, rfl,
      tokTag_plainFlight .., rfl, State.entry_updCtx _ hctx, fun _ => rfl⟩
  case starve =>
    intro s cl p m q rest hc hp hperiod hq hstarve he
    exact ⟨s.restarve cl p, shelfStarved_raises hc hp hperiod hq hstarve he, rfl⟩
  case balance =>
    intro s cl p m hc hp hperiod hend
    refine ⟨_, stageBalancer_ends hc hp hperiod hend, rfl, ?_, fun j hj => ?_, fun j hj => ?_⟩
    · simp only [State.cluster_updCluster, Sparse.upd, Sparse.atD_put_same]
    · simp only [State.cluster_updCluster, Sparse.upd, Sparse.atD_put_other _ _ _ hj]
    · rw [State.cluster_updCluster_other _ _ hj, State.cluster_updCluster_other _ _ hj]

end Sys2Proof.Machine
end

section
/-! SUPPORT. Membership in the rising lists that hold flags, marks and spoiled places. -/
namespace Sys2Proof.Machine

theorem mem_insertNat {x y : Nat} {l : List Nat} : y ∈ insertNat x l ↔ y = x ∨ y ∈ l := by
  induction l with
  | nil => simp [insertNat]
  | cons z r ih =>
    simp only [insertNat]
    split
    · simp
    · split
      · rename_i h
        subst h
        simp
      · simp [ih, or_left_comm]

theorem contains_insertNat (x y : Nat) (l : List Nat) : (insertNat x l).contains y = (l.contains y || y == x) := by
  rw [Bool.eq_iff_iff]
  simp [mem_insertNat, or_comm]

end Sys2Proof.Machine
end

section
/-! SUPPORT. What the predictor (R352), the boot chain (R354, R355), attestation (R356) and uncorrectable errors (R110, R179, R311) do. -/
namespace Sys2Proof.Machine

variable {s : State}

/-! ## The predictor (R352) -/

section
variable {die v c p : Nat}

/-- The state once the observation at the head of a predictor port is learned. -/
def State.taught (s : State) (die v p : Nat) : State :=
  (s.popRouter die).updVd v fun d => Machine.learn d (bitsOf p 47 16) (bitsOf p 13 8) (bitsOf p 7 0)

/-- The experts that the learned counts prefer after an observation. -/
def State.bestAfter (s : State) (die v p : Nat) : List Nat :=
  topNext ((s.taught die v p).vd v).learned (bitsOf p 13 8) (bitsOf p 7 0) 4 (List.range 256)

variable (hdie : die < 2) (hhead : s.routerHead die = some (v, c, p))
include hdie hhead

theorem predictorObservation_ignored (hkind : bitsOf p 15 14 = 0) (hctl : (s.vd v).xpred.toNat % 4 ≠ 1 ∨ (s.vd v).live = false) :
    exec (.predictorObservation die) s = .next (s.popRouter die) := by
  show execPredictorObservation die s = _
  have hdrop : ((s.vd v).xpred.toNat % 4 != 1 || !(s.vd v).live) = true := by simpa using hctl
  simp [execPredictorObservation, Nat.not_le.mpr hdie, hhead, hkind, hdrop]

theorem predictorObservation_learns (hkind : bitsOf p 15 14 = 0) (hctl : (s.vd v).xpred.toNat % 4 = 1) (hlive : (s.vd v).live = true) :
    exec (.predictorObservation die) s =
      .next (if (s.bestAfter die v p).all (s.expertRoom v c (bitsOf p 13 8 + 1)) then
        (s.bestAfter die v p).foldl (fun y j => y.copyExpert v c (bitsOf p 13 8 + 1) j) (s.taught die v p) else s) := by
  show execPredictorObservation die s = _
  simp [execPredictorObservation, Nat.not_le.mpr hdie, hhead, hkind, hctl, hlive, State.bestAfter, State.taught]

theorem predictorObservation_copies (hkind : bitsOf p 15 14 = 0) (hctl : (s.vd v).xpred.toNat % 4 = 1) (hlive : (s.vd v).live = true)
    (hroom : ∀ j ∈ s.bestAfter die v p, s.expertRoom v c (bitsOf p 13 8 + 1) j = true) : exec (.predictorObservation die) s =
      .next ((s.bestAfter die v p).foldl (fun y j => y.copyExpert v c (bitsOf p 13 8 + 1) j) (s.taught die v p)) := by
  rw [predictorObservation_learns hdie hhead hkind hctl hlive, if_pos (List.all_eq_true.mpr hroom)]

theorem predictorObservation_waits (hkind : bitsOf p 15 14 = 0) (hctl : (s.vd v).xpred.toNat % 4 = 1) (hlive : (s.vd v).live = true)
    (hfull : ∃ j ∈ s.bestAfter die v p, s.expertRoom v c (bitsOf p 13 8 + 1) j = false) : exec (.predictorObservation die) s = .next s := by
  obtain ⟨j, hj, hno⟩ := hfull
  rw [predictorObservation_learns hdie hhead hkind hctl hlive, if_neg fun hall => by simp [List.all_eq_true.mp hall j hj] at hno]

theorem predictorHint_ignored (hkind : bitsOf p 15 14 = 1) (hctl : (s.vd v).xpred.toNat % 4 ≠ 3 ∨ (s.vd v).live = false) :
    exec (.predictorHint die) s = .next (s.popRouter die) := by
  show execPredictorHint die s = _
  have hdrop : ((s.vd v).xpred.toNat % 4 != 3 || !(s.vd v).live) = true := by simpa using hctl
  simp [execPredictorHint, Nat.not_le.mpr hdie, hhead, hkind, hdrop]

theorem predictorHint_copies (hkind : bitsOf p 15 14 = 1) (hctl : (s.vd v).xpred.toNat % 4 = 3) (hlive : (s.vd v).live = true) :
    exec (.predictorHint die) s =
      .next (if s.expertRoom v c (bitsOf p 13 8) (bitsOf p 7 0) then
        (s.popRouter die).copyExpert v c (bitsOf p 13 8) (bitsOf p 7 0) else s) := by
  show execPredictorHint die s = _
  simp [execPredictorHint, Nat.not_le.mpr hdie, hhead, hkind, hctl, hlive]

end

/-- After one observation of a batch, the next layer's teaches their pair. -/
theorem learned_learn_next {d : VdState} {b l i : Nat} (e : Nat) (h : d.observed = [(b, l, i)]) :
    (learn d b (l + 1) e).learned = bump l i e d.learned := by
  have hne : l ≠ l + 1 + 1 := by omega
  simp [learn, h, hne]

/-- A bump raises the count of its own key by one, to 255 at most. -/
theorem learnedAt_bump (l i j : Nat) (t : List Learned) : learnedAt (bump l i j t) l i j = min 255 (learnedAt t l i j + 1) := by
  induction t with
  | nil => simp [bump, learnedAt]
  | cons x r ih =>
    by_cases h : (x.layer == l && x.i == i && x.j == j) = true
    · simp only [bump, learnedAt, List.find?_cons, h, if_true, Option.map_some, Option.getD_some]
    · simp only [bump, if_neg h]
      simp only [Bool.not_eq_true] at h
      simpa only [learnedAt, List.find?_cons, h] using ih

/-! ## Boot and attestation (R354 to R356) -/

section
variable {img : BootImage}

theorem BootStage.booting_of_mem {b : BootStage} (h : b ∈ [BootStage.rom, .mgmt, .pkg, .bextex]) : b.booting = true := by
  cases b <;> simp_all [BootStage.booting]

theorem BootStage.ne_minimal_of_booting {b : BootStage} (h : b.booting = true) : (b == .minimal) = false := by
  cases b <;> simp_all [BootStage.booting]

theorem bootStage_fails {c : BitVec 8} (h : s.boot.booting = true) (hc : imageCause img = some c) :
    exec (.bootStage img) s = .next (s.failStart c) := by
  show execBootStage img s = _
  simp [execBootStage, BootStage.ne_minimal_of_booting h, h, hc]

theorem bootStage_starts (h : s.boot.booting = true) (hc : imageCause img = none) : exec (.bootStage img) s =
    .next { s with boot := s.boot.succ, bootLog := s.bootLog ++ [img.digest], fails := if s.boot == .bextex then 0 else s.fails } := by
  show execBootStage img s = _
  simp [execBootStage, BootStage.ne_minimal_of_booting h, h, hc]

theorem bootStageTimeout_fails (h : s.boot.booting = true) : exec .bootStageTimeout s = .next (s.failStart 5) := if_pos h

/-- In minimal mode an image is a firmware update (R354). -/
theorem bootStage_minimal (h : s.boot = .minimal) :
    exec (.bootStage img) s = .next (if imageCause img = none then { s with update := some img.digest } else s) := by
  show execBootStage img s = _
  cases hc : imageCause img <;> simp [execBootStage, h, hc]

end

/-! ## Uncorrectable errors (R110, R179, R311) -/

theorem State.poisoned_markPoison (s : State) (p q : Nat) : (s.markPoison p).poisoned q = (s.poisoned q || q / 64 == p / 64) :=
  contains_insertNat _ _ _

theorem State.poisonedWord_markWord (s : State) (p : Nat) : (s.markWord p true).poisonedWord p = true := by
  simp [State.poisonedWord, State.markWord, mem_insertNat]

theorem elemPoison_toNat {a : Nat} (ha : a < 65536) : (elemPoison a).toNat = 2 ^ 63 + a := by
  simp only [elemPoison, BitVec.toNat_ofNat]
  omega

section
variable {r a k : Nat}

/-- The event of an element's own storage carries the element's poison payload (R109). -/
theorem State.elemUnc_eq (s : State) {r a : Nat} (ha : a < 65536) (slot : Nat) (tag : BitVec 24) :
    s.elemUnc r a slot tag = s.raise r 0x10 a slot tag.toNat (2 ^ 63 + a) 0 := by
  rw [State.elemUnc, elemPoison_toNat ha]
  rfl

/-- The bank of configuration `conf` of an element. -/
def State.bankOf (s : State) (r a conf : Nat) : ConfBank := Sparse.atD (s.elem r a).confs conf {}

/-- Put a bank of an element. -/
def State.setBank (s : State) (r a conf : Nat) (b : ConfBank) : State :=
  s.updElem r a fun e => { e with confs := Sparse.put e.confs conf b }

theorem State.bankOf_setBank (s : State) (r a conf : Nat) (b : ConfBank) : (s.setBank r a conf b).bankOf r a conf = b := by
  simp [State.bankOf, State.setBank]

/-- The latch of a port of a slot. -/
def ConfBank.latch (b : ConfBank) (slot port : Nat) : Latch := Sparse.atD b.latches (4 * slot + port) {}

/-- A latch turned into poison of element origin (R110). -/
def poisonLatch (a : Nat) (l : Latch) : Latch := { l with pay := elemPoison a, kind := 7 }

variable (hr : r < 256)
include hr

theorem uncorrectableError_entry {m : MsEntry} (ha : a < 65536) (hm : (s.elem r a).store[k]? = some m) :
    exec (.uncorrectableError (.entry r a k)) s =
      .next ((s.updElem r a fun e => { e with store := modifyAt (poisonEnt a) e.store k }).raise r 0x10 a m.tok.slot.toNat
        (tokTag m.tok).toNat (2 ^ 63 + a) 0) := by
  show execUncorrectableError (.entry r a k) s = _
  simp [execUncorrectableError, Nat.not_le.mpr hr, hm, State.elemUnc_eq _ ha]

theorem uncorrectableError_spill {m : MsEntry} (ha : a < 65536) (hm : (s.elem r a).spill[k]? = some m) :
    exec (.uncorrectableError (.spill r a k)) s =
      .next ((s.updElem r a fun e => { e with spill := modifyAt (poisonEnt a) e.spill k }).raise r 0x10 a m.tok.slot.toNat
        (tokTag m.tok).toNat (2 ^ 63 + a) 0) := by
  show execUncorrectableError (.spill r a k) s = _
  simp [execUncorrectableError, Nat.not_le.mpr hr, hm, State.elemUnc_eq _ ha]

theorem uncorrectableError_latch {conf port : Nat} (ha : a < 65536) (hl : ((s.bankOf r a conf).latch k port).valid = true) :
    exec (.uncorrectableError (.latch r a conf k port)) s =
      .next ((s.setBank r a conf { s.bankOf r a conf with
        latches := Sparse.put (s.bankOf r a conf).latches (4 * k + port) (poisonLatch a ((s.bankOf r a conf).latch k port)) }).raise r 0x10 a k
        ((s.bankOf r a conf).latch k port).tag.toNat (2 ^ 63 + a) 0) := by
  rw [← State.elemUnc_eq _ ha]
  exact (if_neg (Nat.not_le.mpr hr)).trans (if_neg (by rw [Bool.not_eq_true', Bool.not_eq_false]; exact hl))

theorem uncorrectableError_planes {conf : Nat} (hc : (Sparse.entry? (s.elem r a).confs conf).isSome = true) :
    exec (.uncorrectableError (.planes r a conf k)) s =
      .next (s.setBank r a conf { s.bankOf r a conf with badSlots := insertNat k (s.bankOf r a conf).badSlots }) := by
  show execUncorrectableError (.planes r a conf k) s = _
  simp only [execUncorrectableError, Nat.not_le.mpr hr, hc]
  rfl

theorem uncorrectableError_chan {conf : Nat} (hc : (Sparse.entry? (s.elem r a).confs conf).isSome = true) :
    exec (.uncorrectableError (.chan r a conf k)) s =
      .next (s.setBank r a conf { s.bankOf r a conf with badChans := insertNat k (s.bankOf r a conf).badChans }) := by
  show execUncorrectableError (.chan r a conf k) s = _
  simp only [execUncorrectableError, Nat.not_le.mpr hr, hc]
  rfl

end

/-! ## The predictor, boot and errors go on -/

/-- Settles O47: each step by its own rule above; an image fails its start by the first of its checks that fails. -/
theorem predictorBootAndErrorsGoOn : Obligations.PredictorBootAndErrorsGoOn := by
  unfold Obligations.PredictorBootAndErrorsGoOn
  refine ⟨?predictor, fun d b l e i h => ⟨learned_learn_next e h, learnedAt_bump l i e _⟩, fun s => ⟨_, rfl, rfl, rfl, rfl⟩, ?boot,
    fun s img h => bootStage_minimal h, fun s n => ⟨_, _, rfl, rfl, rfl, rfl, rfl, rfl⟩, ?line, ?word, ?entries, ?banks⟩
  case predictor =>
    intro s die v c p hdie hhead
    have hkind : bitsOf p 15 14 = p / 2 ^ 14 % 4 := rfl
    have hbatch : bitsOf p 47 16 = p / 2 ^ 16 % 2 ^ 32 := rfl
    have hlayer : bitsOf p 13 8 = p / 2 ^ 8 % 2 ^ 6 := rfl
    have hexpert : bitsOf p 7 0 = p % 2 ^ 8 := by simp [bitsOf]
    simp only [← hkind, ← hbatch, ← hlayer, ← hexpert]
    exact ⟨predictorObservation_ignored hdie hhead, fun hk hctl hlive =>
        ⟨predictorObservation_copies hdie hhead hk hctl hlive, predictorObservation_waits hdie hhead hk hctl hlive⟩,
      predictorHint_ignored hdie hhead, fun hk hctl hlive =>
        ⟨fun hroom => by rw [predictorHint_copies hdie hhead hk hctl hlive, if_pos hroom],
          fun hfull => by rw [predictorHint_copies hdie hhead hk hctl hlive, if_neg (by simp [hfull])]⟩⟩
  case boot =>
    intro s img hstage failed
    have hb := BootStage.booting_of_mem hstage
    refine ⟨bootStageTimeout_fails hb, fun hp => bootStage_fails hb (by simp [imageCause, hp]),
      fun hp hw => bootStage_fails hb (by simp [imageCause, hp, hw]),
      fun hp hw hd => bootStage_fails hb (by simp [imageCause, hp, hw, hd]), fun hp hw hd => ⟨fun hv => ?_, fun hv => ⟨fun hold => ?_,
        fun k hnew hk => ?_, fun hnew hk => ?_⟩⟩⟩
    · exact bootStage_fails hb (by simp [imageCause, hp, hw, hd, hv])
    · exact bootStage_fails hb (by simp [imageCause, hp, hw, hd, hv, hold])
    · exact bootStage_fails hb (by simp [imageCause, hp, hw, hd, hv, Nat.not_lt.mpr hnew, hk])
    · refine ⟨_, bootStage_starts hb (by simp [imageCause, hp, hw, hd, hv, Nat.not_lt.mpr hnew, hk]), rfl, ?_, ?_, ?_, ?_, rfl⟩
      all_goals
        intro h
        simp [h, BootStage.succ]
  case line =>
    intro s p hp
    exact ⟨s.markPoison p, if_pos hp, by simp [State.poisoned_markPoison], fun q hq => by simp [State.poisoned_markPoison, hq], rfl⟩
  case word =>
    intro s core n i j hcore hn hi hj
    refine ⟨s.markWord (accPa core n (32 * i + j)) true, ?_, State.poisonedWord_markWord s _, rfl⟩
    show execUncorrectableError (.accWord core n i j) s = _
    have hcount : ¬ Config.coreCount ≤ core := Nat.not_le.mpr hcore
    simp [execUncorrectableError, hcount, Nat.not_le.mpr hn, Nat.not_le.mpr hi, Nat.not_le.mpr hj]
  case entries =>
    intro s r a k m hr ha
    refine ⟨fun hm => ⟨_, ?_, uncorrectableError_entry hr ha hm⟩, fun hm => ⟨_, ?_, uncorrectableError_spill hr ha hm⟩⟩
    · rw [State.elem_updElem]
      rfl
    · rw [State.elem_updElem]
      rfl
  case banks =>
    intro s r a conf k hr ha bank
    refine ⟨fun port hl => ⟨_, ?_, uncorrectableError_latch hr ha hl⟩, fun hc => ⟨⟨_, uncorrectableError_planes hr hc, ?_, rfl⟩,
      _, uncorrectableError_chan hr hc, ?_, rfl⟩⟩
    · show Sparse.atD (State.bankOf _ r a conf).latches (4 * k + port) {} = _
      rw [State.bankOf_setBank, Sparse.atD_put_same]
      rfl
    · show k ∈ (State.bankOf _ r a conf).badSlots
      rw [State.bankOf_setBank]
      exact mem_insertNat.mpr (.inl rfl)
    · show k ∈ (State.bankOf _ r a conf).badChans
      rw [State.bankOf_setBank]
      exact mem_insertNat.mpr (.inl rfl)

end Sys2Proof.Machine
end

section
/-! SUPPORT. What a store with release leaves (R188, R384), and how the switch, the step and the drain of a region and a gateway post go on
(R91, R155, R251, R254, R331). -/
namespace Sys2Proof.Machine
open Sys2Proof.Claims

variable {s : State} {r : Nat}

/-! ## Stores with release (R188, R384) -/

/-- The past lists agent `x`, at no time before `t`. -/
def ListedFrom (x : Agent) (t : Nat) (l : Past) : Prop := (∃ y ∈ l, y.1 = x) ∧ ∀ y ∈ l, y.1 = x → t ≤ y.2

theorem joinPast_cons (a : Past) (y : Agent × Nat) (l : Past) : joinPast a (y :: l) = joinPast (joinPast a [y]) l := rfl

theorem listedFrom_joinPast_one {x : Agent} {t : Nat} {a : Past} (y : Agent × Nat) (h : ListedFrom x t a) : ListedFrom x t (joinPast a [y]) := by
  obtain ⟨⟨w, hw, hwx⟩, hlow⟩ := h
  simp only [joinPast, List.foldl_cons, List.foldl_nil]
  split
  next hnone =>
    have hyx : y.1 ≠ x := fun e => by simpa [hwx, e] using List.find?_eq_none.mp hnone w hw
    refine ⟨⟨w, List.mem_append_left _ hw, hwx⟩, fun v hv hvx => ?_⟩
    rcases List.mem_append.mp hv with hv | hv
    · exact hlow v hv hvx
    · exact absurd (List.mem_singleton.mp hv ▸ hvx) hyx
  next z hz =>
    split
    next hlt =>
      have hzy : z.1 = y.1 := by simpa using List.find?_some hz
      refine ⟨⟨_, List.mem_map_of_mem hw, by split <;> simp_all⟩, fun v hv hvx => ?_⟩
      obtain ⟨q, hq, rfl⟩ := List.mem_map.mp hv
      split at hvx
      next hqy =>
        rw [if_pos hqy]
        exact Nat.le_trans (hlow z (List.mem_of_find?_eq_some hz) (hzy.trans hvx)) (Nat.le_of_lt hlt)
      next hqy =>
        rw [if_neg hqy]
        exact hlow q hq hvx
    next => exact ⟨⟨w, hw, hwx⟩, hlow⟩

theorem listedFrom_joinPast {x : Agent} {t : Nat} (l : Past) {a : Past} (h : ListedFrom x t a) : ListedFrom x t (joinPast a l) := by
  induction l generalizing a with
  | nil => exact h
  | cons y l ih =>
    rw [joinPast_cons]
    exact ih (listedFrom_joinPast_one y h)

/-- A release by an agent covers all that the agent has done so far. -/
theorem isRelease_releaseOf (s : State) (x : Agent) (l : Past) (sc : Nat) : IsRelease s x sc (s.releaseOf x l sc) := by
  have hstart : ListedFrom x s.free [(x, s.free)] := ⟨⟨_, List.mem_singleton_self _, rfl⟩, fun y hy _ => by simp_all⟩
  obtain ⟨⟨y, hy, rfl⟩, hlow⟩ := listedFrom_joinPast l hstart
  exact ⟨rfl, rfl, y.2, hlow y hy rfl, hy⟩

theorem Unseen.sameWrite_released (h : Unseen) (x : Agent) (sc : Nat) : SameWrite (h.released x sc) h := by
  unfold Unseen.released
  split <;> exact ⟨rfl, rfl, rfl, rfl⟩

/-- Fewer bytes than a line hold no whole line. -/
theorem wholeLines_short {p n : Nat} (h : n < 64) : wholeLines p n = [] := by
  have hnone : (p + n) / 64 - (p + 63) / 64 = 0 := by omega
  simp [wholeLines, hnone]

/-- A store of less than a line clears no mark. -/
theorem State.storeBy_short (s : State) (x : Agent) (sc p v : Nat) {n : Nat} (rel : List Release) (h : n < 64) :
    s.storeBy x sc p n v rel =
      { s with mem := Memory.writeN s.mem p n v, unseen := (s.noteWrite x sc p n (v % 256 ^ n) rel).unseen } := by
  simp only [State.storeBy, State.memWrite, wholeLines_short h]
  rfl

/-- A store that carries a release, after what it performs: the agent has released. -/
theorem releasedBy_storeBy (s : State) (x : Agent) (l : Past) (sc p v : Nat) {n : Nat} (rel : List Release) (h : n < 64) :
    ReleasedBy s ((s.releaseAt x l sc).storeBy x sc p n v (s.releaseOf x l sc :: rel)) x sc p n := by
  rw [State.storeBy_short _ _ _ _ _ _ h]
  refine ⟨fun g hg _ hmeets => ⟨g.released x sc, List.mem_cons_of_mem _ (State.performed_releaseAt hg hmeets), g.sameWrite_released x sc,
    g.mem_released x sc⟩, _, _, s.releaseOf x l sc, rfl, rfl, rfl, rfl, List.mem_singleton_self _, ?_, isRelease_releaseOf s x l sc⟩
  exact List.mem_append_left _ (List.mem_cons_self ..)

/-! ## The switch between resident configurations (R91) -/

theorem configSwitch_switches {a c : Nat} (hr : r < 256) (ha : a < 65536) (horder : (s.elem r a).order = some c)
    (hstore : (s.elem r a).store = []) (hspill : (s.elem r a).spill = []) (hnow : (s.region r).activeNow = true)
    (hstop : (s.region r).dbgStop = false) :
    exec (.configSwitch r a) s = .next ((s.updElem r a fun e => { e with active := c, order := none }).endSwitch r) := by
  show execConfigSwitch r a s = _
  simp [execConfigSwitch, Nat.not_le.mpr hr, Nat.not_le.mpr ha, horder, hstore, hspill, hnow, hstop]

/-- A region that does not switch has no switch to end. -/
theorem State.endSwitch_still (h : (s.region r).switching = false) : s.endSwitch r = s := by simp [State.endSwitch, h]

/-! ## The end of a region step (R155, R201, R251) -/

@[simp] theorem State.region_progress (s : State) (r : Nat) : (s.progress r).region r = { s.region r with progress := true } := by
  rw [State.progress, State.region_updRegion]

/-- Where no context is open, none is closed. -/
theorem State.closeContexts_closed (h : ∀ p ∈ s.elemsOf r, p.2.ctxs = []) : s.closeContexts r = s := by
  unfold State.closeContexts
  generalize s.elemsOf r = l at h
  induction l with
  | nil => rfl
  | cons p l ih => rw [List.foldl_cons, h p (List.mem_cons_self ..), List.foldl_nil, ih fun q hq => h q (List.mem_cons_of_mem _ hq)]

theorem stepComplete_done (hr : r < 256) (hdone : s.stepDone r = true) (hctx : ∀ p ∈ s.elemsOf r, p.2.ctxs = []) :
    exec (.stepComplete r) s = .next ((s.progress r).afterStep r) := by
  show execStepComplete r s = _
  simp [execStepComplete, Nat.not_le.mpr hr, hdone, State.closeContexts_closed hctx]

theorem State.afterStep_last
    (h : (s.region r).stopFlag = true ∨ nextStep (s.region r).confs (s.region r).point (s.region r).conf = none) :
    s.afterStep r = s.lastStep r := by
  rcases h with h | h <;> simp [State.afterStep, h]

/-- After its last step a region with a task waits for the completion counter (R258). -/
theorem State.lastStep_task (h : (s.region r).task.isSome = true) :
    s.lastStep r = s.updRegion r fun y => { y with inStep := false, awaiting := true } := by
  obtain ⟨a, ha⟩ := Option.isSome_iff_exists.mp h
  simp [State.lastStep, ha]

/-- The sequencer stands at a step that has not begun. -/
def State.standAt (s : State) (r : Nat) (p : List Nat) (c : Nat) : State :=
  s.updRegion r fun y => { y with point := p, conf := c, inStep := false, doneRecv := false }

theorem State.region_standAt (s : State) (r : Nat) (p : List Nat) (c : Nat) :
    (s.standAt r p c).region r = { s.region r with point := p, conf := c, inStep := false, doneRecv := false } := by
  rw [State.standAt, State.region_updRegion]

section
variable {p : List Nat} {c : Nat} (hstop : (s.region r).stopFlag = false)
  (hnext : nextStep (s.region r).confs (s.region r).point (s.region r).conf = some (p, c))
include hstop hnext

/-- A drain withholds the next start token (R331). -/
theorem State.afterStep_withheld (hdrain : (s.region r).draining = true) :
    s.afterStep r = (s.standAt r p c).updRegion r fun y => { y with pendStep := true } := by
  simp [State.afterStep, State.standAt, hstop, hnext, hdrain]

theorem State.afterStep_starts (hdrain : (s.region r).draining = false) (hdrained : (s.region r).drained = false)
    (hfrozen : (s.region r).frozenEnd = false) : s.afterStep r = (s.standAt r p c).startStep r := by
  simp [State.afterStep, State.standAt, hstop, hnext, hdrain, hdrained, hfrozen]

end

/-! ## The end of a drain (R331) -/

theorem drainEnd_draining (hr : r < 256) (hlive : (s.region r).live = true) (hdrain : (s.region r).draining = true)
    (hdrained : (s.region r).drained = false) (hfrozen : (s.region r).frozenEnd = false) : exec (.drainEnd r) s =
      if s.drainDone r then .next (s.updRegion r fun y => { y with draining := false, drained := true })
      else if s.frozen r then .next (s.updRegion r fun y => { y with draining := false, frozenEnd := true })
      else .next s := by
  show execDrainEnd r s = _
  simp [execDrainEnd, Nat.not_le.mpr hr, hlive, hdrain, hdrained, hfrozen]

/-! ## Gateway posts (R254) -/

theorem gatewayPost_posts {k : Nat} {f : Flight} (hf : s.net[k]? = some f) (harrive : s.mayArrive k f = true) (hpost : isPost f.tok = true)
    (hnear : s.farElem f.r f.tok.dest.toNat = false) (hcore : f.tok.dest.toNat / 128 < (s.region f.r).cores.length) :
    exec (.gatewayPost k) s = .next (s.post k (f.tok.dest.toNat % 128 - 120) f) := by
  show execGatewayPost k s = _
  simp [execGatewayPost, hf, harrive, hpost, hnear, Nat.not_le.mpr hcore]

theorem State.uipend_postPend (s : State) (t : Nat) (b : BitVec 32) : ((s.postPend t b).thread t).uipend = (s.thread t).uipend ||| b := by
  rw [State.postPend, State.thread_updThread]

/-- A post adds its payload to the mailbox word with release at cluster scope, and sets its bit of the thread's UIPEND. -/
theorem State.post_adds {k n p t : Nat} {f : Flight} (hgate : byteAt (s.region f.r).gates.toNat n ≠ 0xFF) (hbox : (s.region f.r).mbox ≠ 0)
    (hplace : s.resolve (hwWho (s.region f.r).vd (f.r / 64)) (BitVec.ofNat 64 ((s.region f.r).mbox.toNat + 8 * n)) .wr = .ok p t)
    (hmgmt : isMgmt p = false) (hclean : s.poisoned p = false) :
    s.post k n f = (((s.land k).releaseAt (s.emitter f) f.past 2).storeBy (s.emitter f) 2 p 8
      ((s.readNat p 8 + f.tok.payload.toNat) % 2 ^ 64) ((s.land k).releaseOf (s.emitter f) f.past 2 :: s.carried p 8)).postPend
        (16 * (f.r / 64) + byteAt (s.region f.r).gates.toNat n % 16) (1#32 <<< n) := by
  have hopen : (byteAt (s.region f.r).gates.toNat n == 0xFF || (s.region f.r).mbox == 0) = false := by
    rw [beq_false_of_ne hgate, beq_false_of_ne hbox, Bool.or_self]
  simp only [State.post, hopen, hplace, hmgmt, hclean]
  rfl

/-! ## The steps of a region go on -/

/-- Settles O39: each step by its own rule above. -/
theorem regionStepsGoOn : Obligations.RegionStepsGoOn := by
  unfold Obligations.RegionStepsGoOn
  refine ⟨?switch, ?step, ?drain, ?post⟩
  case switch =>
    intro s r a c hr ha horder hstore hspill hnow hstop
    exact ⟨configSwitch_switches hr ha horder hstore hspill hnow hstop, fun hstill => State.endSwitch_still hstill⟩
  case step =>
    intro s r hr hdone hctx
    rw [stepComplete_done hr hdone hctx]
    refine ⟨fun hlast htask => ⟨(s.progress r).updRegion r fun y => { y with inStep := false, awaiting := true }, ?_,
        by rw [State.region_updRegion], by rw [State.region_updRegion], rfl⟩,
      fun p c hstop hnext hdrain => ⟨((s.progress r).standAt r p c).updRegion r fun y => { y with pendStep := true }, ?_,
        by rw [State.region_updRegion, State.region_standAt], by rw [State.region_updRegion, State.region_standAt],
        by rw [State.region_updRegion], rfl⟩,
      fun p c hstop hnext hdrain hdrained hfrozen => ?_⟩
    · rw [State.afterStep_last (by simpa using hlast), State.lastStep_task (by simpa using htask)]
    · rw [State.afterStep_withheld (by simpa using hstop) (by simpa using hnext) (by simpa using hdrain)]
    · rw [State.afterStep_starts (by simpa using hstop) (by simpa using hnext) (by simpa using hdrain) (by simpa using hdrained)
        (by simpa using hfrozen)]
      rfl
  case drain =>
    intro s r hr hlive hdrain hdrained hfrozen
    rw [drainEnd_draining hr hlive hdrain hdrained hfrozen]
    exact ⟨fun hd => if_pos hd, fun hd hf => by simp [hd, hf], fun hd hf => by simp [hd, hf]⟩
  case post =>
    intro s k f p t hs hf harrive hpost hnear hcore n x h hgate hbox hplace hmgmt hclean
    refine ⟨_, (gatewayPost_posts hf harrive hpost hnear hcore).trans (congrArg _ (State.post_adds hgate hbox hplace hmgmt hclean)), ?_⟩
    have hrel := releasedBy_storeBy (s.land k) (s.emitter f) f.past 2 p ((s.readNat p 8 + f.tok.payload.toNat) % 2 ^ 64) (n := 8)
      (s.carried p 8) (by decide)
    rw [State.storeBy_short _ _ _ _ _ _ (by decide)] at hrel ⊢
    refine ⟨rfl, ?_, fun a ha => State.readByte_of_read (Memory.read_writeN_other hs _ ha) rfl, State.uipend_postPend _ _ _, hrel, rfl⟩
    exact (Memory.readN_writeN_same hs p 8 _).trans (Nat.mod_mod _ _)

end Sys2Proof.Machine
end

section
/-! SUPPORT. What a firing of an element does (R95 to R101, R109): its checks, the operand set it takes, the tokens it sends. -/
namespace Sys2Proof.Machine
open Sys2Proof.Claims

variable {s t : State} {w : Slot}

/-! ## The checks of a firing (R96, R109) -/

/-- The state in which the effect of a firing begins: its region has made progress, and rule 1 has drawn its free values (R93, R270). -/
def State.begun (s : State) (w : Slot) : State :=
  if w.fire = 1 then (s.progress s.site.r).draw else s.progress s.site.r

theorem State.begun_eq (s : State) (w : Slot) : s.begun w = { s with regions := (s.begun w).regions, free := (s.begun w).free } := by
  unfold State.begun
  split <;> rfl

@[simp] theorem State.site_begun (s : State) (w : Slot) : (s.begun w).site = s.site := by rw [State.begun_eq]

/-- The region of a firing that begins keeps all but its mark of progress. -/
theorem State.region_begun (s : State) (w : Slot) : (s.begun w).region s.site.r = { s.region s.site.r with progress := true } := by
  unfold State.begun
  split <;> exact s.region_progress s.site.r

/-- A firing that nothing holds back begins. -/
theorem State.gated_begins {ok ownGate : Bool} {k : State → Out} (h : CanFire s w) (hok : ok = true) :
    s.gated w ok ownGate k = k (s.begun w) := by
  have hfire : (if (w.fire == 1) = true then (s.progress s.site.r).draw else s.progress s.site.r) = s.begun w := by
    simp only [State.begun, beq_iff_eq]
  have hopen : w.fire = 2 → ¬ ((s.site.fed 3).map (·.1) == some 0) = true := fun hgate => by
    obtain ⟨p, c, hfed, hp⟩ := h.gate hgate
    simpa [hfed] using hp
  simp only [State.gated, hok, hfire, State.site_begun, h.clean 3, Bool.not_true, Bool.false_eq_true, if_false]
  by_cases hgate : w.fire = 2
  · rw [if_neg (hopen hgate), ite_self]
  · rw [beq_false_of_ne hgate, Bool.false_and, if_neg Bool.false_ne_true]

theorem Site.firstPoison_clean {x : Site} (h : ∀ k, x.poisonAt k = false) : x.firstPoison = none := by
  refine List.findSome?_eq_none_iff.mpr fun k _ => ?_
  have hk := h k
  unfold Site.poisonAt at hk
  cases hfed : x.fed k with
  | none => rfl
  | some f =>
    obtain ⟨p, c, b⟩ := f
    rw [hfed] at hk
    cases b
    · rfl
    · exact Bool.noConfusion hk

/-- Where no operand is poison its rule asks nothing. -/
theorem State.poisonRule_clean {ctl : List Nat} {k : State → Out} (h : ∀ k, s.site.poisonAt k = false) : s.poisonRule w ctl k = k s := by
  simp [State.poisonRule, h, Site.firstPoison_clean h]

/-- A firing that nothing holds back, with no poison among its operands, has its effect. -/
theorem State.gated_effect {ok ownGate : Bool} {ctl : List Nat} {k : State → Out} (h : CanFire s w) (hok : ok = true) :
    (s.gated w ok ownGate fun s => s.poisonRule w ctl k) = k (s.begun w) := by
  rw [State.gated_begins h hok]
  refine State.poisonRule_clean fun j => ?_
  rw [State.site_begun, h.clean]

/-! ## The operand set (R93, R96) -/

theorem mem_store_fillLatch {e : ElemState} {slot port : Nat} {q : MsEntry} (h : q ∈ (fillLatch e slot port).store) : q ∈ e.store := by
  simp only [fillLatch] at h
  split at h
  · exact h
  · split at h
    · exact h
    · exact List.mem_of_mem_filter h

theorem mem_store_clearLatch {e : ElemState} {slot port : Nat} {q : MsEntry} (h : q ∈ (clearLatch e slot port).store) : q ∈ e.store :=
  mem_store_fillLatch (e := e.updBank _) h

theorem mem_store_clearLatches {slot : Nat} (l : List Nat) {e : ElemState} {q : MsEntry}
    (h : q ∈ (l.foldl (fun e k => clearLatch e slot k) e).store) : q ∈ e.store := by
  induction l generalizing e with
  | nil => exact h
  | cons k l ih => exact mem_store_clearLatch (ih h)

theorem stamp_of_mem_dropEnts {e : ElemState} {l : List (Nat × MsEntry)} {q : MsEntry} (h : q ∈ (dropEnts e l).store) :
    ∀ m ∈ l, q.stamp ≠ m.2.stamp := by
  intro m hm heq
  have hkept := (List.mem_filter.mp h).2
  simp only [Bool.not_eq_true', List.any_eq_false, beq_iff_eq] at hkept
  exact hkept m hm heq.symm

theorem State.elem_updElem_other (s : State) {r a q b : Nat} (f : ElemState → ElemState) (ha : a < 65536) (hb : b < 65536) (h : (q, b) ≠ (r, a)) :
    (s.updElem r a f).elem q b = s.elem q b := by
  refine Sparse.atD_put_other _ _ _ fun hkey => h ?_
  rw [Prod.mk.injEq]
  omega

/-- The state of a firing that has begun and taken its set. -/
def State.taken (s : State) (w : Slot) : State := (s.begun w).consume w

theorem State.taken_eq (s : State) (w : Slot) : s.taken w =
    { s with elems := (s.consume w).elems, regions := (s.progress s.site.r).regions, free := (s.begun w).free } := by
  unfold State.taken State.begun
  split <;> rfl

@[simp] theorem State.site_taken (s : State) (w : Slot) : (s.taken w).site = s.site := by rw [State.taken_eq]

theorem State.region_taken (s : State) (w : Slot) : (s.taken w).region s.site.r = { s.region s.site.r with progress := true } :=
  s.region_begun w

theorem State.coreOf_taken (s : State) (w : Slot) (a : Nat) : (s.taken w).coreOf s.site.r a = s.coreOf s.site.r a := by
  rw [State.coreOf, State.region_taken]
  rfl

/-! ## The tokens (R98, R99, R102) -/

/-- A tag operation looks at the region's contexts alone. -/
theorem applyTagOp_congr {x y : RegionState} (h : x.ctxs = y.ctxs) (op : Nat) (g : BitVec 24) (q : BitVec 4) (p : Word) :
    applyTagOp x op g q p = applyTagOp y op g q p := by
  simp only [applyTagOp, childOf, parentTag, h]

/-- The tokens of a result depend on the firing's site and on the contexts of its region. -/
theorem tokensOf_congr (hsite : t.site = s.site) (hctxs : (t.region s.site.r).ctxs = (s.region s.site.r).ctxs) (dst : Which) (e : Emission) :
    tokensOf t w dst e = tokensOf s w dst e := by
  have hto : ∀ d : Dest, tokenTo t d e = tokenTo s d e := fun d => by simp only [tokenTo, hsite, applyTagOp_congr hctxs]
  simp only [tokensOf, hto]

theorem State.out_congr (hsite : t.site = s.site) (w : Slot) (p : Word) : t.out w p = s.out w p := by simp only [State.out, hsite]

/-- A destination whose tag operation holds gets the token. -/
theorem State.emitAt_tokenTo {d : Dest} {e : Emission} {l : List Flight} (g : BitVec 24) (h : tokenTo s d e = some l) :
    s.emitAt s.site.r s.site.a s.site.slot g d e = { s with net := s.net ++ l } := by
  simp only [tokenTo] at h
  cases hv : d.valid with
  | false =>
    simp only [hv, if_true, Option.some.injEq] at h
    rw [State.emitAt_invalid _ _ _ _ _ hv, ← h, List.append_nil]
  | true =>
    have hop : (if (d.tagop.toNat == 4 && e.kind == 7) = true then 0 else d.tagop.toNat) =
        if d.tagop = 4 ∧ e.kind = 7 then 0 else d.tagop.toNat := by
      have h4 : d.tagop.toNat = 4 ↔ d.tagop = 4 := ⟨fun h => BitVec.eq_of_toNat_eq h, fun h => by rw [h]; rfl⟩
      simp [h4]
    simp only [State.emitAt, hv, hop]
    simp only [hv, Bool.true_eq_false, if_false] at h
    cases htag : applyTagOp (s.region s.site.r) (if d.tagop = 4 ∧ e.kind = 7 then 0 else d.tagop.toNat) e.tag e.seq e.pay with
    | none => rw [htag] at h; cases h
    | some p =>
      obtain ⟨g', q⟩ := p
      simp only [htag, Option.some.injEq] at h
      have hiter : BitVec.ofNat 16 (tagIter g') = BitVec.ofNat 16 g'.toNat := BitVec.eq_of_toNat_eq (by simp [tagIter])
      rw [← h, ← hiter]
      rfl

/-- A result whose tag operations hold sends its tokens, dest0's first. -/
theorem State.emit_tokensOf {dst : Which} {e : Emission} {l : List Flight} (h : tokensOf s w dst e = some l) :
    s.emit w dst e = { s with net := s.net ++ l } := by
  obtain ⟨x, y, hx, hy, rfl⟩ : ∃ x y, (if dst = .d1 then some [] else tokenTo s w.d0 e) = some x ∧
      (if dst = .d0 then some [] else tokenTo s w.d1 e) = some y ∧ l = x ++ y := by
    unfold tokensOf at h
    split at h
    · exact ⟨_, _, ‹_›, ‹_›, (Option.some.inj h).symm⟩
    · cases h
  cases dst with
  | d0 =>
    obtain rfl : [] = y := Option.some.inj hy
    rw [List.append_nil]
    exact State.emitAt_tokenTo _ hx
  | d1 =>
    obtain rfl : [] = x := Option.some.inj hx
    exact State.emitAt_tokenTo _ hy
  | both =>
    have h0 := State.emitAt_tokenTo s.site.tag hx
    have h1 := State.emitAt_tokenTo (s := { s with net := s.net ++ x }) s.site.tag hy
    show (s.emitAt s.site.r s.site.a s.site.slot s.site.tag w.d0 e).emitAt s.site.r s.site.a s.site.slot s.site.tag w.d1 e = _
    rw [h0, ← List.append_assoc]
    exact h1

/-- What has taken its operand set, beside it changing flags and the count of free values alone, has fired once its result's tokens are sent. -/
theorem fired_of_taken {dst : Which} {e : Emission} {l : List Flight} (hplace : s.site.a < 65536)
    (ht : t = { s with elems := (s.consume w).elems, regions := (s.progress s.site.r).regions, cores := t.cores, clusters := t.clusters,
                       free := t.free })
    (h : tokensOf s w dst e = some l) : t.emit w dst e = { t with net := t.net ++ l } ∧ Fired s (t.emit w dst e) l := by
  have helem : ∀ r a, t.elem r a = (s.consume w).elem r a := fun r a => by
    rw [ht]
    rfl
  have hregion : t.region s.site.r = { s.region s.site.r with progress := true } := by
    rw [ht]
    exact s.region_progress s.site.r
  have hsite : t.site = s.site := by rw [ht]
  have hemit : t.emit w dst e = { t with net := t.net ++ l } :=
    State.emit_tokensOf ((tokensOf_congr hsite (by rw [hregion]) dst e).trans h)
  rw [hemit]
  refine ⟨rfl, ?_, fun m hm q hq => ?_, fun r a ha hne => ?_, State.readByte_congr ?_ ?_, ?_⟩
  · rw [ht]
  · change q ∈ (t.elem s.site.r s.site.a).store at hq
    rw [helem, State.consume, State.elem_updElem] at hq
    exact stamp_of_mem_dropEnts (mem_store_clearLatches _ hq) m hm
  · exact (helem r a).trans (State.elem_updElem_other s _ hplace ha hne)
  · rw [ht]
  · rw [ht]
  · rw [ht]

end Sys2Proof.Machine
end

section
/-! SUPPORT. The firings of compute elements (R96, R98, R102, R113 to R136): their flags (R87, R117) and DFASTEP's request (R134). -/
namespace Sys2Proof.Machine
open Sys2Proof.Claims

variable {s : State} {w : Slot}

/-! ## The sticky flags (R87, R117) -/

/-- The state with the flags that a result sets: the causes of its scales in a core, the divide flag of a device in the core's cluster. -/
def State.flagged (s : State) (core vd causes : Nat) (divz : Bool) : State :=
  if divz then (s.setCauses core causes).setDivz (clusterOfCore core) vd else s.setCauses core causes

theorem State.setCauses_eq (s : State) (core causes : Nat) : s.setCauses core causes = { s with cores := (s.setCauses core causes).cores } := by
  unfold State.setCauses
  split <;> rfl

@[simp] theorem State.site_setCauses (s : State) (core causes : Nat) : (s.setCauses core causes).site = s.site := by
  rw [State.setCauses_eq]

@[simp] theorem State.region_setCauses (s : State) (core causes r : Nat) : (s.setCauses core causes).region r = s.region r := by
  rw [State.setCauses_eq]
  rfl

@[simp] theorem State.coreOf_setCauses (s : State) (core causes r a : Nat) : (s.setCauses core causes).coreOf r a = s.coreOf r a := by
  rw [State.coreOf, State.region_setCauses, State.coreOf]

theorem State.flagged_eq (s : State) (core vd causes : Nat) (divz : Bool) : s.flagged core vd causes divz =
    { s with cores := (s.flagged core vd causes divz).cores, clusters := (s.flagged core vd causes divz).clusters } := by
  unfold State.flagged
  rw [State.setCauses_eq]
  cases divz <;> rfl

theorem State.core_updCore_other (s : State) {core k : Nat} (f : CoreState → CoreState) (h : k ≠ core) : (s.updCore core f).core k = s.core k :=
  Sparse.atD_put_other _ _ _ h

theorem State.scaleStatus_setCauses (s : State) (core causes k : Nat) : ((s.setCauses core causes).core k).scaleStatus =
    if k = core ∧ causes ≠ 0 then (s.core core).scaleStatus ||| BitVec.ofNat 32 (causes % 32) else (s.core k).scaleStatus := by
  unfold State.setCauses
  by_cases hc : causes = 0
  · simp [hc]
  · rw [if_neg (by simpa using hc)]
    by_cases hk : k = core
    · rw [if_pos ⟨hk, hc⟩, hk, State.core_updCore]
    · rw [if_neg fun h => hk h.1, State.core_updCore_other _ _ hk]

theorem State.cores_flagged (s : State) (core vd causes : Nat) (divz : Bool) :
    (s.flagged core vd causes divz).cores = (s.setCauses core causes).cores := by
  cases divz <;> rfl

theorem State.divz_setDivz (s : State) (c vd x v : Nat) : (s.setDivz c vd).divz x v = (s.divz x v || (x == c && v == vd)) := by
  simp only [State.setDivz, State.divz]
  by_cases hx : x = c
  · rw [hx, State.cluster_updCluster, contains_insertNat, beq_self_eq_true, Bool.true_and]
  · rw [State.cluster_updCluster_other _ _ hx, beq_false_of_ne hx, Bool.false_and, Bool.or_false]

theorem State.divz_flagged (s : State) (core vd causes : Nat) (divz : Bool) (x v : Nat) :
    (s.flagged core vd causes divz).divz x v = (s.divz x v || (divz && x == core / 24 && v == vd)) := by
  have hcauses : (s.setCauses core causes).divz x v = s.divz x v := by rw [State.setCauses_eq]; rfl
  cases divz with
  | false => simpa [State.flagged] using hcauses
  | true =>
    rw [State.flagged, if_pos rfl, State.divz_setDivz, hcauses, Bool.true_and]
    rfl

/-! ## A firing that computes -/

/-- Every compute element computes its function in the one frame, for its own control ports. -/
theorem exec_computeOf {i : Instr} {f : FireIn → CRes} (h : computeOf i = some (w, f)) (s : State) : ∃ ctl, exec i s = s.fireCompute w ctl f := by
  unfold computeOf at h
  split at h <;> cases h <;> exact ⟨_, rfl⟩

/-- The state of a firing that has taken its set and set the flags of its result. -/
def State.computed (s : State) (w : Slot) (causes : Nat) (divz : Bool) : State :=
  (s.taken w).flagged (s.coreOf s.site.r s.site.a) (s.region s.site.r).vd causes divz

theorem State.computed_eq (s : State) (w : Slot) (causes : Nat) (divz : Bool) : s.computed w causes divz =
    { s with elems := (s.consume w).elems, regions := (s.progress s.site.r).regions, cores := (s.computed w causes divz).cores,
             clusters := (s.computed w causes divz).clusters, free := (s.computed w causes divz).free } :=
  (State.flagged_eq ..).trans (by rw [State.computed, State.flagged_eq, State.taken_eq])

/-- A firing whose function gives a value takes its set, sets its flags and sends the value. -/
theorem State.fireCompute_val {f : FireIn → CRes} {p c : Nat} {d : Bool} (ctl : List Nat) (hfire : CanFire s w) (ha : s.site.a % 128 < 64)
    (hf : f (s.fin w) = .val p c d) :
    s.fireCompute w ctl f = .next ((s.computed w c d).emit w .both (s.out w (BitVec.ofNat 64 p))) := by
  have hcore : (s.begun w).coreOf (s.begun w).site.r (s.begun w).site.a = s.coreOf s.site.r s.site.a := by
    rw [State.site_begun]
    exact s.coreOf_taken w s.site.a
  have hsite : (s.computed w c d).site = s.site := by rw [State.computed_eq]
  have htaken : (s.begun w).consume w = s.taken w := rfl
  simp only [State.fireCompute, hf]
  rw [State.gated_effect hfire (by simp [isComputeElem, ha]), ← State.out_congr hsite]
  simp only [hcore, htaken, State.site_setCauses, State.coreOf_setCauses, State.region_setCauses, State.site_taken, State.coreOf_taken,
    State.region_taken]
  rfl

theorem State.scaleStatus_computed (s : State) (w : Slot) (c : Nat) (d : Bool) (k : Nat) : ((s.computed w c d).core k).scaleStatus =
    if k = s.coreOf s.site.r s.site.a ∧ c ≠ 0 then (s.core k).scaleStatus ||| BitVec.ofNat 32 (c % 32) else (s.core k).scaleStatus := by
  have hcore : ∀ j, (s.taken w).core j = s.core j := fun j => by
    rw [State.taken_eq]
    rfl
  rw [State.computed, State.core, State.cores_flagged]
  refine (State.scaleStatus_setCauses ..).trans ?_
  rw [hcore, hcore]
  split
  next h => rw [h.1]
  next => rfl

theorem State.divz_computed (s : State) (w : Slot) (c : Nat) (d : Bool) (x v : Nat) : (s.computed w c d).divz x v =
    (s.divz x v || (d && x == s.coreOf s.site.r s.site.a / 24 && v == (s.region s.site.r).vd)) := by
  have htaken : (s.taken w).divz x v = s.divz x v := by
    rw [State.taken_eq]
    rfl
  rw [State.computed, State.divz_flagged, htaken]

/-! ## DFASTEP (R134) -/

/-- The offset that DFASTEP's request carries: the table entry of the state a under the byte b. -/
def dfaOffset (x : FireIn) : Nat := (x.a.raw % 2 ^ 32 * 256 + x.b.raw % 256) * dfaSize x.w.fnN

theorem dfaSize_eq (n : Nat) (h : n < 24) : dfaSize n = if n < 8 then 2 else if n < 16 then 4 else 8 := by
  have hcases : n / 8 = 0 ∧ n < 8 ∨ n / 8 = 1 ∧ 8 ≤ n ∧ n < 16 ∨ n / 8 = 2 ∧ 16 ≤ n := by omega
  unfold dfaSize
  rcases hcases with ⟨hq, h8⟩ | ⟨hq, h8, h16⟩ | ⟨hq, h16⟩
  · rw [if_pos h8, hq]; rfl
  · rw [if_neg (by omega), if_pos h16, hq]; rfl
  · rw [if_neg (by omega), if_neg (by omega), hq]; rfl

/-- The form, the offset and the destination with which DFASTEP has a request to send (R134). -/
structure DfaFits (s : State) (w : Slot) : Prop where
  shape : Shape w [2] (List.range 24) [0]
  offset : dfaOffset (s.fin w) < 2 ^ 41
  valid : w.d0.valid = true
  low : 64 ≤ w.d0.elem.toNat % 128
  high : w.d0.elem.toNat % 128 < 80
  slot : w.d0.slot = 0
  port : w.d0.port = 0
  one : w.d1.valid = false
  const : w.const.toNat < 2 ^ 23

theorem cDfastep_val (h : DfaFits s w) : cDfastep (s.fin w) = .val (dfaOffset (s.fin w) + w.const.toNat * 2 ^ 41) 0 false := by
  obtain ⟨harity, hfn, hflags⟩ := h.shape
  have hw : (s.fin w).w = w := rfl
  have hform : (w.arityN != 2 || decide (24 ≤ w.fnN) || w.flagsN != 0) = false := by
    simp only [Slot.arityN, Slot.fnN, Slot.flagsN, List.mem_singleton.mp harity, Nat.not_le.mpr (List.mem_range.mp hfn),
      List.mem_singleton.mp hflags]
    rfl
  have hfit : (decide (2 ^ 41 ≤ dfaOffset (s.fin w)) || !w.d0.valid || decide (w.d0.elem.toNat % 128 < 64) ||
      decide (80 ≤ w.d0.elem.toNat % 128) || w.d0.slot != 0 || w.d0.port != 0 || w.d1.valid || w.const.toNat / 2 ^ 23 != 0) = false := by
    simp only [Nat.not_le.mpr h.offset, h.valid, Nat.not_lt.mpr h.low, Nat.not_le.mpr h.high, h.slot, h.port, h.one,
      Nat.div_eq_of_lt h.const]
    rfl
  simp only [dfaOffset, hw] at hfit
  simp only [cDfastep, hw, hform, hfit, Nat.mod_eq_of_lt h.const]
  rfl

/-- DFASTEP takes its set and sends its request to dest0 (R134). -/
theorem dfastep_requests (h : DfaFits s w) (hfire : CanFire s w) (ha : s.site.a % 128 < 64) : exec (.dfastep w) s =
    .next ((s.taken w).emit w .d0 { s.out w (BitVec.ofNat 64 (dfaOffset (s.fin w) + w.const.toNat * 2 ^ 41)) with kind := 2 }) := by
  show execDfastep w s = _
  simp only [execDfastep, cDfastep_val h]
  rw [State.gated_effect hfire (by simp [isComputeElem, ha]), ← State.out_congr (s.site_begun w)]
  rfl

/-- Settles O23: a firing's set, tokens and flags are those of `State.computed` and what it sends. -/
theorem computeElementsFire : Obligations.ComputeElementsFire := by
  unfold Obligations.ComputeElementsFire
  refine ⟨fun s i w f p c d l hi hfire ha hf hl => ?compute, ?dfastep⟩
  case compute =>
    obtain ⟨ctl, hexec⟩ := exec_computeOf hi s
    obtain ⟨hemit, hfired⟩ := fired_of_taken hfire.place (s.computed_eq w c d) hl
    refine ⟨_, hexec.trans (State.fireCompute_val ctl hfire ha hf), hfired, fun k => ?_, fun x v => ?_⟩
    · rw [hemit]
      exact s.scaleStatus_computed w c d k
    · rw [hemit]
      exact s.divz_computed w c d x v
  case dfastep =>
    intro s w hfire ha hshape x off hoff hvalid hlow hhigh hslot hport hone hconst l hl
    have ⟨_, hfn, _⟩ := hshape
    have heq : off = dfaOffset (s.fin w) := congrArg _ (dfaSize_eq w.fn.toNat (List.mem_range.mp hfn)).symm
    rw [heq] at hoff hl
    exact ⟨_, dfastep_requests ⟨hshape, hoff, hvalid, hlow, hhigh, hslot, hport, hone, hconst⟩ hfire ha,
      (fired_of_taken hfire.place (by rw [State.taken_eq]) hl).2⟩

end Sys2Proof.Machine
end

section
/-! SUPPORT. Payloads as lanes (R67): which lanes and bits a payload has, for each way in which the model builds one. -/
namespace Sys2Proof
open Sys2Proof.Claims

/-! ## Formats (R67) -/

theorem Fmt.width_mul_lanes (f : Fmt) : f.width * f.lanes = 64 := by cases f <;> rfl

theorem Fmt.width_of_lanes (f : Fmt) : 64 / f.lanes = f.width := by cases f <;> rfl

/-- Formats with as many lanes have lanes as wide. -/
theorem Fmt.width_congr {f g : Fmt} (h : f.lanes = g.lanes) : f.width = g.width := by
  rw [← f.width_of_lanes, h, g.width_of_lanes]

/-! ## Lanes as the digits of a payload -/

section
variable {w : Nat} {l : List Nat}

theorem laneBits_lt (w p i : Nat) : laneBits w p i < 2 ^ w := Nat.mod_lt _ (by positivity)

theorem laneBits_ofDigits (hl : ∀ c ∈ l, c < 2 ^ w) {i : Nat} (hi : i < l.length) :
    laneBits w (Nat.ofDigits (2 ^ w) l) i = l[i] := by
  have hpos : 0 < 2 ^ w := by positivity
  rw [laneBits, pow_mul, Nat.ofDigits_div_pow_eq_ofDigits_drop i hpos l hl, List.drop_eq_getElem_cons hi, Nat.ofDigits_cons,
    Nat.add_mul_mod_self_left, Nat.mod_eq_of_lt (hl _ (List.getElem_mem hi))]

theorem ofDigits_lt (hw : 0 < w) (hl : ∀ c ∈ l, c < 2 ^ w) : Nat.ofDigits (2 ^ w) l < 2 ^ (w * l.length) := by
  rw [pow_mul]
  exact Nat.ofDigits_lt_base_pow_length (Nat.one_lt_two_pow hw.ne') hl

/-- A payload whose digits to base 2^w are `g 0`, `g 1` and so on has these lanes. -/
theorem lanesAre_ofDigits {n : Nat} {g : Nat → Nat} (hw : w * n = 64) (hg : ∀ i < n, g i < 2 ^ w) :
    LanesAre w (Nat.ofDigits (2 ^ w) ((List.range n).map g)) g := by
  have hpos : 0 < w := Nat.pos_of_ne_zero fun h => by simp [h] at hw
  have hl : ∀ c ∈ (List.range n).map g, c < 2 ^ w := by simpa using hg
  have hn : 64 / w = n := by rw [← hw, Nat.mul_div_cancel_left _ hpos]
  constructor
  · simpa [hw] using ofDigits_lt hpos hl
  · intro i hi
    simp [laneBits_ofDigits hl (i := i) (by simpa [hn] using hi)]

theorem foldl_place_eq_ofDigits (w n : Nat) (g : Nat → Nat) :
    (List.range n).foldl (fun m i => m + g i * 2 ^ (w * i)) 0 = Nat.ofDigits (2 ^ w) ((List.range n).map g) := by
  induction n with
  | zero => rfl
  | succ n ih =>
    rw [List.range_succ, List.foldl_append, ih]
    simp [Nat.ofDigits_append, pow_mul, mul_comm]

theorem foldr_place_eq_ofDigits (w : Nat) {α : Type} (g : α → Nat) (l : List α) :
    l.foldr (fun b m => g b + 2 ^ w * m) 0 = Nat.ofDigits (2 ^ w) (l.map g) := by
  induction l with
  | nil => rfl
  | cons b l ih => simp [ih, Nat.ofDigits_cons]

theorem testBit_laneBits (p k : Nat) {i : Nat} (hi : i < w) : (laneBits w p k).testBit i = p.testBit (w * k + i) := by
  simp [laneBits, Nat.testBit_mod_two_pow, Nat.testBit_div_two_pow, hi, Nat.add_comm]

end

/-! ## Payloads that `ofLanes` and `joinLanes` build -/

theorem ofLanes_eq_ofDigits (f : Fmt) (l : List Nat) : ofLanes f l = Nat.ofDigits (2 ^ f.width) (l.map (· % 2 ^ f.width)) := by
  induction l with
  | nil => rfl
  | cons c l ih => simp [ofLanes, ih, Nat.ofDigits_cons]

theorem lanesAre_ofLanes (f : Fmt) (g : Nat → Nat) :
    LanesAre f.width (ofLanes f ((List.range f.lanes).map g)) fun i => g i % 2 ^ f.width := by
  rw [ofLanes_eq_ofDigits, List.map_map]
  exact lanesAre_ofDigits f.width_mul_lanes fun i _ => Nat.mod_lt _ (by positivity)

theorem lanesAre_joinLanes (f : Fmt) (g : Nat → Nat × Nat) :
    LanesAre f.width (joinLanes f ((List.range f.lanes).map g)).1 fun i => (g i).1 % 2 ^ f.width := by
  simpa [joinLanes, Function.comp_def] using lanesAre_ofLanes f fun i => (g i).1

theorem lanesAre_congr {w pay : Nat} {g h : Nat → Nat} (hg : LanesAre w pay g) (hgh : ∀ i < 64 / w, g i = h i) : LanesAre w pay h :=
  ⟨hg.1, fun i hi => (hg.2 i hi).trans (hgh i hi)⟩

end Sys2Proof
end

section
/-! SUPPORT. What the integer instructions of compute elements give on lanes of every width (R71, R116, R117). -/
namespace Sys2Proof
open Sys2Proof.Claims

variable {x : FireIn} {w n : Nat} {c : LaneClass}

/-! ## Integer lanes (R71) -/

theorem intValue_laneBits (w : Nat) (sg : Bool) (p i : Nat) : intValue w sg (laneBits w p i) = laneInt w sg p i := by
  simp [intValue, laneInt, laneBits]

theorem bitsLow_natCast {v : Nat} (hv : v < 2 ^ w) : bitsLow w v = v := by
  rw [bitsLow, Int.emod_eq_of_lt (by omega) (by exact_mod_cast hv), Int.toNat_natCast]

theorem bitsLow_laneInt (w : Nat) (sg : Bool) (p i : Nat) : bitsLow w (laneInt w sg p i) = laneBits w p i := by
  have hmod := bitsLow_natCast (laneBits_lt w p i)
  rw [laneInt]
  split
  · rw [bitsLow, Int.sub_emod_right]
    exact hmod
  · exact hmod

theorem laneInt_zero (w : Nat) (sg : Bool) (i : Nat) : laneInt w sg 0 i = 0 := by
  have h : ¬ 2 ^ (w - 1) ≤ laneBits w 0 i := by simp [laneBits]
  rw [laneInt, if_neg fun hs => h hs.2]
  simp [laneBits]

theorem popcount_eq_countP (w n : Nat) : popcount w n = (List.range w).countP fun k => n.testBit k := by
  rw [popcount]
  induction w with
  | zero => rfl
  | succ w ih =>
    rw [List.range_succ, List.foldl_append, ih, List.countP_append]
    simp only [List.foldl_cons, List.foldl_nil, List.countP_singleton, Nat.testBit_eq_decide_div_mod_eq, decide_eq_true_eq]
    split <;> omega

/-- Operand `k` of an input is one of its operands, or empty beyond them. -/
theorem FireIn.op_mem_or_empty (x : FireIn) (k : Nat) : x.op k ∈ x.ops ∨ x.op k = Opnd.empty := by
  rw [FireIn.op]
  cases h : x.ops[k]? with
  | none => exact .inr rfl
  | some o => exact .inl (List.mem_of_getElem? h)

/-- Lane `i` of operand `k`, read as fn[0] says. -/
def intLane (x : FireIn) (w k i : Nat) : Int := laneInt w (x.w.fn == 1) (x.op k).bits i

theorem Slot.signed_eq {s : Slot} (hfn : s.fn = 0 ∨ s.fn = 1) : s.signed = (s.fn == 1) := by
  rcases hfn with h | h <;> simp [Slot.signed, h]

theorem ilane_eq_intLane (h : LanesFit x n c w) (hfn : x.w.fn = 0 ∨ x.w.fn = 1) (k i : Nat) :
    (x.op k).ilane x.w.signed i = intLane x w k i := by
  rw [Slot.signed_eq hfn, intLane]
  rcases x.op_mem_or_empty k with hk | hk
  · rw [Opnd.ilane, laneOf, (h.fmts _ hk).2]
    exact intValue_laneBits w _ _ i
  · rw [hk, Opnd.ilane]
    exact (intValue_laneBits 64 _ 0 i).trans ((laneInt_zero 64 _ i).trans (laneInt_zero w _ i).symm)

/-! ## The form of an integer instruction (R116) -/

/-- The result of an integer instruction: lane `i` is `r i` modulo 2^w, and the divide flag is `z`. -/
def IntLanes (x : FireIn) (w : Nat) (f : FireIn → CRes) (z : Bool) (r : Nat → Int) : Prop :=
  ∃ pay, f x = .val pay 0 z ∧ LanesAre w pay fun i => (r i % 2 ^ w).toNat

theorem IntLanes.congr {f : FireIn → CRes} {z : Bool} {r q : Nat → Int} (h : IntLanes x w f z r)
    (hrq : ∀ i, r i % 2 ^ w = q i % 2 ^ w) : IntLanes x w f z q := by
  obtain ⟨pay, hf, hpay⟩ := h
  exact ⟨pay, hf, lanesAre_congr hpay fun i _ => by rw [hrq i]⟩

/-- An integer instruction on operands that fit gives each lane the low bits of its function. -/
theorem intOp_lanes {rawOk : Bool} (h : LanesFit x n c w) (hfn : x.w.fn = 0 ∨ x.w.fn = 1)
    (hc : c = .int ∨ (rawOk = true ∧ c = .raw)) (f : Nat → (Nat → Int) → Int) :
    IntLanes x w (intOp n rawOk f) false fun i => f w fun k => intLane x w k i := by
  have hform : (x.w.arityN != n || decide (2 ≤ x.w.fnN) || x.w.flagsN != 0) = false := by
    have hfn2 : ¬ 2 ≤ x.w.fn.toNat := by rcases hfn with h | h <;> simp [h]
    simp [Slot.arityN, Slot.fnN, Slot.flagsN, h.arity, h.flags, hfn2]
  have hfit : (!(x.ops.all fun o => o.fmt.cls == .int || (rawOk && o.fmt.cls == .raw)) ||
      !(x.out.fmt.cls == .int || (rawOk && x.out.fmt.cls == .raw)) || !x.sameLanes) = false := by
    have hok : ∀ g : Fmt, g.cls = c → (g.cls == .int || (rawOk && g.cls == .raw)) = true := by
      rintro g rfl
      rcases hc with hg | ⟨hr, hg⟩ <;> simp_all
    have hops : (x.ops.all fun o => o.fmt.cls == .int || (rawOk && o.fmt.cls == .raw)) = true :=
      List.all_eq_true.mpr fun o ho => hok _ (h.fmts o ho).1
    have hsame : x.sameLanes = true := List.all_eq_true.mpr fun o ho => by
      simp [Fmt.lanes, (h.fmts o ho).2, h.out.2]
    simp [hops, hok _ h.out.1, hsame]
  refine ⟨ofLanes x.out.fmt ((List.range x.out.fmt.lanes).map fun i =>
    bitsLow x.out.fmt.width (f x.out.fmt.width fun k => (x.op k).ilane x.w.signed i)), ?_, ?_⟩
  · simp only [intOp, hform, hfit]
    rfl
  · have hl := lanesAre_ofLanes x.out.fmt fun i => bitsLow w (f w fun k => (x.op k).ilane x.w.signed i)
    simp only [h.out.2] at hl ⊢
    refine lanesAre_congr hl fun i _ => ?_
    simp only [ilane_eq_intLane h hfn]
    exact Nat.mod_eq_of_lt ((Int.toNat_lt (Int.emod_nonneg _ (by positivity))).mpr (by exact_mod_cast Int.emod_lt_of_pos _ (by positivity)))

end Sys2Proof
end

section
/-! SUPPORT. The integer instructions lane by lane (R116, R117), and on one 64-bit lane. -/
namespace Sys2Proof
open Sys2Proof.Claims

variable {x : FireIn} {w n : Nat} {c : LaneClass}

/-! ## Lane by lane (R116) -/

section
variable (hfn : x.w.fn = 0 ∨ x.w.fn = 1)
include hfn

theorem cShr_lanes (h : LanesFit x 2 .int w) : IntLanes x w cShr false fun i =>
    (laneBits w (x.op 0).bits i : Int) / 2 ^ (intLane x w 1 i % w).toNat :=
  (intOp_lanes h hfn (.inl rfl) _).congr fun i => by
    simp only [intLane, bitsLow_laneInt, shAmt]
    push_cast
    rfl

theorem cSar_lanes (h : LanesFit x 2 .int w) : IntLanes x w cSar false fun i =>
    laneInt w true (x.op 0).bits i / 2 ^ (intLane x w 1 i % w).toNat :=
  (intOp_lanes h hfn (.inl rfl) _).congr fun i => by
    simp only [intLane, bitsLow_laneInt, intValue_laneBits, shAmt]

theorem cRot_lanes (h : LanesFit x 2 .int w) : IntLanes x w cRot false fun i =>
    (laneBits w (x.op 0).bits i : Int) * 2 ^ (intLane x w 1 i % w).toNat +
      laneBits w (x.op 0).bits i / 2 ^ (w - (intLane x w 1 i % w).toNat) :=
  (intOp_lanes h hfn (.inl rfl) _).congr fun i => by
    simp only [intLane, bitsLow_laneInt, shAmt]
    push_cast
    exact Int.emod_add_emod _ _ _

theorem cMin_lanes (h : LanesFit x 2 .int w) : IntLanes x w cMin false fun i => min (intLane x w 0 i) (intLane x w 1 i) :=
  (intOp_lanes h hfn (.inl rfl) _).congr fun i => congrArg (· % _) (by dsimp only; split <;> omega)

theorem cMax_lanes (h : LanesFit x 2 .int w) : IntLanes x w cMax false fun i => max (intLane x w 0 i) (intLane x w 1 i) :=
  (intOp_lanes h hfn (.inl rfl) _).congr fun i => congrArg (· % _) (by dsimp only; split <;> omega)

theorem cAnd_lanes (h : LanesFit x 2 c w) (hc : c = .int ∨ c = .raw) : IntLanes x w cAnd false fun i =>
    (laneBits w (x.op 0).bits i &&& laneBits w (x.op 1).bits i : Nat) :=
  (intOp_lanes h hfn (by simpa using hc) _).congr fun i => by simp only [intLane, laneAnd, bitsLow_laneInt]

theorem cOr_lanes (h : LanesFit x 2 c w) (hc : c = .int ∨ c = .raw) : IntLanes x w cOr false fun i =>
    (laneBits w (x.op 0).bits i ||| laneBits w (x.op 1).bits i : Nat) :=
  (intOp_lanes h hfn (by simpa using hc) _).congr fun i => by simp only [intLane, laneOr, bitsLow_laneInt]

theorem cXor_lanes (h : LanesFit x 2 c w) (hc : c = .int ∨ c = .raw) : IntLanes x w cXor false fun i =>
    (laneBits w (x.op 0).bits i ^^^ laneBits w (x.op 1).bits i : Nat) :=
  (intOp_lanes h hfn (by simpa using hc) _).congr fun i => by simp only [intLane, laneXor, bitsLow_laneInt]

theorem cAndn_lanes (h : LanesFit x 2 c w) (hc : c = .int ∨ c = .raw) : IntLanes x w cAndn false fun i =>
    (laneBits w (x.op 0).bits i &&& (2 ^ w - 1 - laneBits w (x.op 1).bits i) : Nat) :=
  (intOp_lanes h hfn (by simpa using hc) _).congr fun i => by
    have hlt : 2 ^ w - 1 - laneBits w (x.op 1).bits i < 2 ^ w := by
      have := Nat.two_pow_pos w
      omega
    simp only [intLane, laneAnd, laneNot, bitsLow_laneInt, bitsLow_natCast hlt]

theorem cClz_lanes (h : LanesFit x 1 .int w) : IntLanes x w cClz false fun i =>
    if laneBits w (x.op 0).bits i = 0 then w else w - (Nat.log2 (laneBits w (x.op 0).bits i) + 1 : Nat) :=
  (intOp_lanes h hfn (.inl rfl) _).congr fun i => by
    simp only [intLane, bitsLow_laneInt, countLz, beq_iff_eq]
    split
    · rfl
    · next hne =>
      have hlog : Nat.log2 (laneBits w (x.op 0).bits i) < w := (Nat.log2_lt hne).mpr (laneBits_lt ..)
      rw [Nat.cast_sub hlog]

theorem cPopc_lanes (h : LanesFit x 1 .int w) : IntLanes x w cPopc false fun i =>
    ((List.range w).countP fun k => (laneBits w (x.op 0).bits i).testBit k : Nat) :=
  (intOp_lanes h hfn (.inl rfl) _).congr fun i => by simp only [intLane, bitsLow_laneInt, popcount_eq_countP]

/-! ## Division (R117) -/

theorem divOp_lanes (rem : Bool) (h : LanesFit x 2 .int w) : ∃ z, (z = true ↔ ∃ i < 64 / w, intLane x w 1 i = 0) ∧
    IntLanes x w (divOp rem) z fun i =>
      if rem then (divLaneOf w (intLane x w 0 i) (intLane x w 1 i)).2 else (divLaneOf w (intLane x w 0 i) (intLane x w 1 i)).1 := by
  obtain ⟨pay, hval, hpay⟩ := intOp_lanes h hfn (.inl rfl) fun w v => if rem then (divLane w (v 0) (v 1)).2 else (divLane w (v 0) (v 1)).1
  refine ⟨(List.range x.out.fmt.lanes).any fun i => x.b.ilane x.w.signed i == 0, ?_, pay, ?_, hpay⟩
  · simp [FireIn.b, ilane_eq_intLane h hfn, Fmt.lanes, h.out.2]
  · rw [divOp, hval]

theorem cDiv_cRem_lanes (h : LanesFit x 2 .int w) : ∃ z, (z = true ↔ ∃ i < 64 / w, intLane x w 1 i = 0) ∧
    IntLanes x w cDiv z (fun i => (divLaneOf w (intLane x w 0 i) (intLane x w 1 i)).1) ∧
    IntLanes x w cRem z (fun i => (divLaneOf w (intLane x w 0 i) (intLane x w 1 i)).2) := by
  obtain ⟨z, hz, hdiv⟩ := divOp_lanes hfn false h
  obtain ⟨y, hy, hrem⟩ := divOp_lanes hfn true h
  have hyz : y = z := Bool.eq_iff_iff.mpr (hy.trans hz.symm)
  exact ⟨z, hz, hdiv, hyz ▸ hrem⟩

end

/-! ## One 64-bit lane -/

theorem lanesFit_of_wholeWords (h : WholeWords x n) : LanesFit x n .int 64 where
  arity := h.arity
  count := h.count
  fmts o ho := by rw [h.fmts o ho]; exact ⟨rfl, rfl⟩
  out := by rw [h.out]; exact ⟨rfl, rfl⟩
  flags := h.flags

/-- Lanes of 64 bits: the whole payload is the one lane's result. -/
theorem IntLanes.word {f : FireIn → CRes} {z : Bool} {r : Nat → Int} (h : IntLanes x 64 f z r) {v : Word}
    (hv : BitVec.ofInt 64 (r 0) = v) : f x = .val v.toNat 0 z := by
  obtain ⟨pay, hf, hlt, hpay⟩ := h
  have h0 : pay = (r 0 % 2 ^ 64).toNat := by
    rw [← Nat.mod_eq_of_lt hlt]
    simpa [laneBits] using hpay 0 (by decide)
  rw [hf, h0, ← hv, BitVec.toNat_ofInt]
  rfl

theorem laneBits_word (k : Nat) : laneBits 64 (x.op k).bits 0 = (opWord x k).toNat := by simp [laneBits, opWord]

theorem laneInt_signed_word (k : Nat) : laneInt 64 true (x.op k).bits 0 = (opWord x k).toInt := by
  rw [laneInt, laneBits_word, BitVec.toInt_eq_toNat_cond]
  simp only [true_and]
  split <;> split <;> omega

theorem laneInt_unsigned_word (k : Nat) : laneInt 64 false (x.op k).bits 0 = (opWord x k).toNat := by
  rw [laneInt, laneBits_word]
  simp

theorem intLane_signed (h : x.w.fn = 1) (k : Nat) : intLane x 64 k 0 = (opWord x k).toInt := by
  rw [intLane, h]
  exact laneInt_signed_word k

theorem intLane_unsigned (h : x.w.fn = 0) (k : Nat) : intLane x 64 k 0 = (opWord x k).toNat := by
  rw [intLane, h]
  exact laneInt_unsigned_word k

section
variable (hfn : x.w.fn = 0 ∨ x.w.fn = 1)
include hfn

/-- Signed or unsigned, a lane stands for its word. -/
theorem ofInt_intLane (k : Nat) : BitVec.ofInt 64 (intLane x 64 k 0) = opWord x k := by
  rcases hfn with h | h
  · rw [intLane_unsigned h, BitVec.ofInt_natCast, BitVec.ofNat_toNat, BitVec.setWidth_eq]
  · rw [intLane_signed h, BitVec.ofInt_toInt]

/-- Signed or unsigned, an amount counts modulo 64. -/
theorem shAmt_word : (intLane x 64 1 0 % (64 : Nat)).toNat = (opWord x 1).toNat % 64 := by
  rcases hfn with h | h
  · rw [intLane_unsigned h]
    omega
  · rw [intLane_signed h, BitVec.toInt_eq_toNat_cond]
    split <;> omega

end

end Sys2Proof
end

section
/-! SUPPORT. The integer instructions on one 64-bit lane (R116, R117): their lane's result as an operation on words. -/
namespace Sys2Proof
open Sys2Proof.Claims

variable {x : FireIn}

theorem ofNat_two_pow (n : Nat) : BitVec.ofNat 64 (2 ^ n) = BitVec.twoPow 64 n :=
  BitVec.eq_of_toNat_eq (by rw [BitVec.toNat_ofNat, BitVec.toNat_twoPow])

theorem ofInt_div_two_pow (a : Word) (n : Nat) : BitVec.ofInt 64 ((a.toNat : Int) / 2 ^ n) = a >>> n := by
  have hcast : (a.toNat : Int) / 2 ^ n = (a.toNat / 2 ^ n : Nat) := by push_cast; rfl
  apply BitVec.eq_of_toNat_eq
  rw [hcast, BitVec.ofInt_natCast, BitVec.toNat_ofNat, BitVec.toNat_ushiftRight, Nat.shiftRight_eq_div_pow,
    Nat.mod_eq_of_lt ((Nat.div_le_self _ _).trans_lt a.isLt)]

/-- A rotation's two parts overlap in no bit, so that their sum is their OR. -/
theorem rotateLeft_eq_ofNat (a : Word) {n : Nat} (hn : n < 64) :
    a.rotateLeft n = BitVec.ofNat 64 (a.toNat * 2 ^ n + a.toNat / 2 ^ (64 - n)) := by
  have hhigh : a.toNat * 2 ^ n % 2 ^ 64 = 2 ^ n * (a.toNat % 2 ^ (64 - n)) := by
    rw [← Nat.mul_mod_mul_left, ← pow_add, Nat.add_sub_cancel' hn.le, Nat.mul_comm]
  have hlow : a.toNat / 2 ^ (64 - n) < 2 ^ n := by
    rw [Nat.div_lt_iff_lt_mul (by positivity), ← pow_add, Nat.add_sub_cancel' hn.le]
    exact a.isLt
  have hsum : a.toNat * 2 ^ n % 2 ^ 64 + a.toNat / 2 ^ (64 - n) < 2 ^ 64 := by
    calc a.toNat * 2 ^ n % 2 ^ 64 + a.toNat / 2 ^ (64 - n)
        < 2 ^ n * (a.toNat % 2 ^ (64 - n)) + 2 ^ n := by omega
      _ = 2 ^ n * (a.toNat % 2 ^ (64 - n) + 1) := (Nat.mul_succ ..).symm
      _ ≤ 2 ^ n * 2 ^ (64 - n) := Nat.mul_le_mul_left _ (Nat.mod_lt _ (by positivity))
      _ = 2 ^ 64 := by rw [← pow_add, Nat.add_sub_cancel' hn.le]
  apply BitVec.eq_of_toNat_eq
  rw [BitVec.toNat_rotateLeft, Nat.mod_eq_of_lt hn, Nat.shiftLeft_eq, Nat.shiftRight_eq_div_pow, hhigh,
    ← Nat.two_pow_add_eq_or_of_lt hlow, ← hhigh, BitVec.toNat_ofNat, ← Nat.mod_add_mod, Nat.mod_eq_of_lt hsum]

theorem toInt_eq_zero {a : Word} : a.toInt = 0 ↔ a = 0 := BitVec.toInt_inj (y := 0#64)

theorem intLane_eq_zero (hfn : x.w.fn = 0 ∨ x.w.fn = 1) {k : Nat} : intLane x 64 k 0 = 0 ↔ opWord x k = 0 := by
  rcases hfn with h | h
  · rw [intLane_unsigned h, Int.natCast_eq_zero]
    exact BitVec.toNat_inj (y := 0#64)
  · rw [intLane_signed h, toInt_eq_zero]

/-- An input of `n` whole words whose function is 0 or 1. -/
structure WordsFit (x : FireIn) (n : Nat) : Prop where
  fn : x.w.fn = 0 ∨ x.w.fn = 1
  words : WholeWords x n

theorem WordsFit.lanes {n : Nat} (h : WordsFit x n) : LanesFit x n .int 64 := lanesFit_of_wholeWords h.words

section
variable (h : WordsFit x 2)
include h

theorem cAdd_word : cAdd x = .val (opWord x 0 + opWord x 1).toNat 0 false :=
  (intOp_lanes h.lanes h.fn (.inl rfl) _).word (by simp only [BitVec.ofInt_add, ofInt_intLane h.fn])

theorem cSub_word : cSub x = .val (opWord x 0 - opWord x 1).toNat 0 false :=
  (intOp_lanes h.lanes h.fn (.inl rfl) _).word
    (by simp only [Int.sub_eq_add_neg, BitVec.ofInt_add, BitVec.ofInt_neg, ofInt_intLane h.fn, BitVec.sub_eq_add_neg])

theorem cMul_word : cMul x = .val (opWord x 0 * opWord x 1).toNat 0 false :=
  (intOp_lanes h.lanes h.fn (.inl rfl) _).word (by simp only [BitVec.ofInt_mul, ofInt_intLane h.fn])

theorem cAnd_word : cAnd x = .val (opWord x 0 &&& opWord x 1).toNat 0 false :=
  (cAnd_lanes h.fn h.lanes (.inl rfl)).word (by simp [laneBits_word, BitVec.ofInt_natCast])

theorem cOr_word : cOr x = .val (opWord x 0 ||| opWord x 1).toNat 0 false :=
  (cOr_lanes h.fn h.lanes (.inl rfl)).word (by simp [laneBits_word, BitVec.ofInt_natCast])

theorem cXor_word : cXor x = .val (opWord x 0 ^^^ opWord x 1).toNat 0 false :=
  (cXor_lanes h.fn h.lanes (.inl rfl)).word (by simp [laneBits_word, BitVec.ofInt_natCast])

theorem cAndn_word : cAndn x = .val (opWord x 0 &&& ~~~ opWord x 1).toNat 0 false :=
  (cAndn_lanes h.fn h.lanes (.inl rfl)).word (by
    rw [laneBits_word, laneBits_word, ← BitVec.toNat_not, ← BitVec.toNat_and, BitVec.ofInt_natCast, BitVec.ofNat_toNat, BitVec.setWidth_eq])

theorem cShl_word : cShl x = .val (opWord x 0 <<< ((opWord x 1).toNat % 64)).toNat 0 false :=
  (intOp_lanes h.lanes h.fn (.inl rfl) _).word (by
    simp only [shAmt, shAmt_word h.fn, BitVec.ofInt_mul, ofInt_intLane h.fn, BitVec.shiftLeft_eq_mul_twoPow]
    exact congrArg _ ((BitVec.ofInt_natCast 64 (2 ^ _)).trans (ofNat_two_pow _)))

theorem cShr_word : cShr x = .val (opWord x 0 >>> ((opWord x 1).toNat % 64)).toNat 0 false :=
  (cShr_lanes h.fn h.lanes).word (by
    rw [laneBits_word, shAmt_word h.fn]
    exact ofInt_div_two_pow _ _)

theorem cSar_word : cSar x = .val ((opWord x 0).sshiftRight ((opWord x 1).toNat % 64)).toNat 0 false :=
  (cSar_lanes h.fn h.lanes).word (by
    rw [laneInt_signed_word, shAmt_word h.fn, BitVec.sshiftRight_eq, Int.shiftRight_eq_div_pow]
    norm_cast)

theorem cRot_word : cRot x = .val ((opWord x 0).rotateLeft ((opWord x 1).toNat % 64)).toNat 0 false :=
  (cRot_lanes h.fn h.lanes).word (by
    simp only [laneBits_word, shAmt_word h.fn]
    rw [rotateLeft_eq_ofNat _ (Nat.mod_lt _ (by decide)), ← BitVec.ofInt_natCast]
    push_cast
    rfl)

theorem cMulhi_word_signed (hs : x.w.fn = 1) :
    cMulhi x = .val ((BitVec.ofInt 128 ((opWord x 0).toInt * (opWord x 1).toInt)).extractLsb' 64 64).toNat 0 false :=
  (intOp_lanes h.lanes h.fn (.inl rfl) _).word (by
    simp only [intLane_signed hs]
    generalize (opWord x 0).toInt * (opWord x 1).toInt = z
    apply BitVec.eq_of_toNat_eq
    rw [BitVec.extractLsb'_toNat, BitVec.toNat_ofInt, BitVec.toNat_ofInt, Nat.shiftRight_eq_div_pow]
    omega)

theorem cMulhi_word_unsigned (hs : x.w.fn = 0) :
    cMulhi x = .val (BitVec.ofNat 64 ((opWord x 0).toNat * (opWord x 1).toNat / 2 ^ 64)).toNat 0 false :=
  (intOp_lanes h.lanes h.fn (.inl rfl) _).word (by
    simp only [intLane_unsigned hs]
    rw [← BitVec.ofInt_natCast]
    push_cast
    rfl)

theorem ofInt_min : BitVec.ofInt 64 (min (intLane x 64 0 0) (intLane x 64 1 0)) =
    if intLane x 64 0 0 < intLane x 64 1 0 then opWord x 0 else opWord x 1 := by
  split
  · rw [min_eq_left (by omega), ofInt_intLane h.fn]
  · rw [min_eq_right (by omega), ofInt_intLane h.fn]

theorem ofInt_max : BitVec.ofInt 64 (max (intLane x 64 0 0) (intLane x 64 1 0)) =
    if intLane x 64 0 0 < intLane x 64 1 0 then opWord x 1 else opWord x 0 := by
  split
  · rw [max_eq_right (by omega), ofInt_intLane h.fn]
  · rw [max_eq_left (by omega), ofInt_intLane h.fn]

theorem cMin_word : cMin x = .val (if intLane x 64 0 0 < intLane x 64 1 0 then opWord x 0 else opWord x 1).toNat 0 false :=
  (cMin_lanes h.fn h.lanes).word (ofInt_min h)

theorem cMax_word : cMax x = .val (if intLane x 64 0 0 < intLane x 64 1 0 then opWord x 1 else opWord x 0).toNat 0 false :=
  (cMax_lanes h.fn h.lanes).word (ofInt_max h)

/-- DIV and REM of words, from the quotient and remainder of DivLane. -/
theorem cDiv_cRem_word {q r : Word} (hq : BitVec.ofInt 64 (divLaneOf 64 (intLane x 64 0 0) (intLane x 64 1 0)).1 = q)
    (hr : BitVec.ofInt 64 (divLaneOf 64 (intLane x 64 0 0) (intLane x 64 1 0)).2 = r) :
    cDiv x = .val q.toNat 0 (opWord x 1 == 0) ∧ cRem x = .val r.toNat 0 (opWord x 1 == 0) := by
  obtain ⟨z, hz, hdiv, hrem⟩ := cDiv_cRem_lanes h.fn h.lanes
  have hzero : z = (opWord x 1 == 0) := by
    rw [Bool.eq_iff_iff, hz, beq_iff_eq, ← intLane_eq_zero h.fn]
    exact ⟨fun ⟨i, hi, h0⟩ => Nat.lt_one_iff.mp hi ▸ h0, fun h0 => ⟨0, by decide, h0⟩⟩
  exact hzero ▸ ⟨hdiv.word hq, hrem.word hr⟩

end

theorem signedDiv_eq (a b : Word) : signedDiv a b =
    (BitVec.ofInt 64 (divLaneOf 64 a.toInt b.toInt).1, BitVec.ofInt 64 (divLaneOf 64 a.toInt b.toInt).2) := by
  rw [signedDiv, divLaneOf]
  by_cases hb : b = 0
  · subst hb
    rw [if_pos rfl, if_pos (toInt_eq_zero.mpr rfl), BitVec.ofInt_toInt]
    rfl
  · rw [if_neg hb, if_neg (mt toInt_eq_zero.mp hb)]
    split
    · next hover =>
      rw [hover.1, hover.2, show a = BitVec.ofInt 64 (-2 ^ 63) by rw [← hover.1, BitVec.ofInt_toInt]]
      decide
    · rfl

theorem unsignedDiv_eq (a b : Word) : unsignedDiv a b =
    (BitVec.ofInt 64 (divLaneOf 64 a.toNat b.toNat).1, BitVec.ofInt 64 (divLaneOf 64 a.toNat b.toNat).2) := by
  rw [unsignedDiv, divLaneOf]
  by_cases hb : b = 0
  · subst hb
    simp [BitVec.ofInt_natCast]
  · have hb' : ¬ (b.toNat : Int) = 0 := fun h => hb (BitVec.eq_of_toNat_eq (by simpa using h))
    rw [if_neg hb, if_neg hb', ← Int.ofNat_tdiv, ← Int.ofNat_tmod, BitVec.ofInt_natCast, BitVec.ofInt_natCast]

theorem cDiv_cRem_word_signed (h : WordsFit x 2) (hs : x.w.fn = 1) :
    cDiv x = .val (signedDiv (opWord x 0) (opWord x 1)).1.toNat 0 (opWord x 1 == 0) ∧
      cRem x = .val (signedDiv (opWord x 0) (opWord x 1)).2.toNat 0 (opWord x 1 == 0) :=
  cDiv_cRem_word h (by rw [signedDiv_eq, intLane_signed hs, intLane_signed hs])
    (by rw [signedDiv_eq, intLane_signed hs, intLane_signed hs])

theorem cDiv_cRem_word_unsigned (h : WordsFit x 2) (hs : x.w.fn = 0) :
    cDiv x = .val (unsignedDiv (opWord x 0) (opWord x 1)).1.toNat 0 (opWord x 1 == 0) ∧
      cRem x = .val (unsignedDiv (opWord x 0) (opWord x 1)).2.toNat 0 (opWord x 1 == 0) :=
  cDiv_cRem_word h (by rw [unsignedDiv_eq, intLane_unsigned hs, intLane_unsigned hs])
    (by rw [unsignedDiv_eq, intLane_unsigned hs, intLane_unsigned hs])

/-! Instructions of three operands and of one. -/

theorem cMad_word (h : WordsFit x 3) : cMad x = .val (opWord x 0 * opWord x 1 + opWord x 2).toNat 0 false :=
  (intOp_lanes h.lanes h.fn (.inl rfl) _).word (by simp only [BitVec.ofInt_add, BitVec.ofInt_mul, ofInt_intLane h.fn])

theorem cClz_word (h : WordsFit x 1) : cClz x = .val (BitVec.ofNat 64 (leadingZeros (opWord x 0))).toNat 0 false :=
  (cClz_lanes h.fn h.lanes).word (by
    rw [laneBits_word, leadingZeros]
    by_cases h0 : opWord x 0 = 0
    · simp [h0]
    · have hne : (opWord x 0).toNat ≠ 0 := fun h => h0 (BitVec.eq_of_toNat_eq h)
      have hlog : Nat.log2 (opWord x 0).toNat < 64 := (Nat.log2_lt hne).mpr (opWord x 0).isLt
      rw [if_neg hne, if_neg h0, ← BitVec.ofInt_natCast]
      congr 1
      omega)

theorem cPopc_word (h : WordsFit x 1) :
    cPopc x = .val (BitVec.ofNat 64 ((List.range 64).countP fun k => (opWord x 0).getLsbD k)).toNat 0 false :=
  (cPopc_lanes h.fn h.lanes).word (by
    rw [laneBits_word, BitVec.ofInt_natCast]
    rfl)

theorem cAbs_word (h : WordsFit x 1) :
    cAbs x = .val (if x.w.fn = 1 ∧ (opWord x 0).toInt < 0 then 0 - opWord x 0 else opWord x 0).toNat 0 false :=
  (intOp_lanes h.lanes h.fn (.inl rfl) _).word (by
    have hneg : intLane x 64 0 0 < 0 ↔ x.w.fn = 1 ∧ (opWord x 0).toInt < 0 := by
      rcases h.fn with hs | hs
      · simp [intLane_unsigned hs, hs]
      · simp [intLane_signed hs, hs]
    simp only [hneg]
    split
    · rw [BitVec.ofInt_neg, ofInt_intLane h.fn]
      exact (BitVec.zero_sub _).symm
    · exact ofInt_intLane h.fn 0)

end Sys2Proof
end

section
/-! SUPPORT. Exact numbers: what their sums, products and comparisons are as rationals (R76, R77, R88, R118, R125). -/
namespace Sys2Proof
open Sys2Proof.Claims

variable {a b v : Num} {l : List Num} {m : RoundMode}

/-! ## The kinds of numbers -/

@[simp] theorem Num.isNan_nan (s : Bool) : (Num.nan s).isNan = true := rfl
@[simp] theorem Num.isNan_inf (s : Bool) : (Num.inf s).isNan = false := rfl
@[simp] theorem Num.isNan_fin (s : Bool) (n d : Nat) : (Num.fin s n d).isNan = false := rfl
@[simp] theorem Num.isInf_nan (s : Bool) : (Num.nan s).isInf = false := rfl
@[simp] theorem Num.isInf_inf (s : Bool) : (Num.inf s).isInf = true := rfl
@[simp] theorem Num.isInf_fin (s : Bool) (n d : Nat) : (Num.fin s n d).isInf = false := rfl
@[simp] theorem Num.isZero_nan (s : Bool) : (Num.nan s).isZero = false := rfl
@[simp] theorem Num.isZero_inf (s : Bool) : (Num.inf s).isZero = false := rfl
@[simp] theorem Num.isZero_fin (s : Bool) (n d : Nat) : (Num.fin s n d).isZero = (n == 0) := rfl
@[simp] theorem Num.sign_nan (s : Bool) : (Num.nan s).sign = s := rfl
@[simp] theorem Num.sign_inf (s : Bool) : (Num.inf s).sign = s := rfl
@[simp] theorem Num.sign_fin (s : Bool) (n d : Nat) : (Num.fin s n d).sign = s := rfl
@[simp] theorem ratOf_nan (s : Bool) : ratOf (.nan s) = none := rfl
@[simp] theorem ratOf_inf (s : Bool) : ratOf (.inf s) = none := rfl

theorem Num.isNan_iff : v.isNan = true ↔ ∃ s, v = .nan s := by cases v <;> simp

theorem Num.isInf_iff : v.isInf = true ↔ ∃ s, v = .inf s := by cases v <;> simp

theorem Num.isZero_iff : v.isZero = true ↔ ∃ s d, v = .fin s 0 d := by cases v <;> simp

theorem ratOf_fin (s : Bool) (n d : Nat) : ratOf (.fin s n d) = some ((Num.inum s n : Rat) / d) := by
  cases s <;> simp [ratOf, Num.inum]

theorem ratOf_eq_some {q : Rat} : ratOf v = some q ↔ ∃ s n d, v = .fin s n d ∧ (Num.inum s n : Rat) / d = q := by
  cases v with
  | nan s => simp
  | inf s => simp
  | fin s n d => rw [ratOf_fin]; simp

theorem isNan_of_ratOf {q : Rat} (h : ratOf v = some q) : v.isNan = false := by
  obtain ⟨s, n, d, rfl, -⟩ := ratOf_eq_some.mp h
  rfl

/-- A finite number has a denominator that is not 0. -/
def Num.DenPos (v : Num) : Prop := ∀ s n d, v = .fin s n d → 0 < d

theorem Num.DenPos.den {s : Bool} {n d : Nat} (h : Num.DenPos (.fin s n d)) : 0 < d := h _ _ _ rfl

theorem Num.DenPos.withSign (h : v.DenPos) (s : Bool) : (v.withSign s).DenPos := by
  rintro t n d heq
  cases v with
  | fin u k e =>
    cases heq
    exact h.den
  | nan u => cases heq
  | inf u => cases heq

theorem Num.DenPos.mul (ha : a.DenPos) (hb : b.DenPos) : (a.mul b).DenPos := by
  intro s n d h
  unfold Num.mul at h
  split at h
  case h_6 => cases h; exact Nat.mul_pos ha.den hb.den
  case h_4 => split at h <;> cases h
  case h_5 => split at h <;> cases h
  all_goals cases h

/-- A finite number with a denominator is 0 exactly where its numerator is. -/
theorem rat_eq_zero_iff {s : Bool} {n d : Nat} (hd : 0 < d) : (Num.inum s n : Rat) / d = 0 ↔ n = 0 := by
  cases s <;> simp [Num.inum, hd.ne']

/-! ## Sums (R77, R80, R82) -/

theorem addPair_spec {acc : Int × Nat} (hacc : 0 < acc.2) (hv : v.DenPos) :
    0 < (addPair acc v).2 ∧ ((addPair acc v).1 : Rat) / (addPair acc v).2 = acc.1 / acc.2 + (ratOf v).getD 0 := by
  cases v with
  | nan s => exact ⟨hacc, (add_zero _).symm⟩
  | inf s => exact ⟨hacc, (add_zero _).symm⟩
  | fin s n d =>
    have hd : (d : Rat) ≠ 0 := by exact_mod_cast hv.den.ne'
    have hacc' : (acc.2 : Rat) ≠ 0 := by exact_mod_cast hacc.ne'
    rw [ratOf_fin, Option.getD_some, addPair]
    split
    · next heq =>
      refine ⟨hv.den, ?_⟩
      rw [heq]
      push_cast
      exact add_div ..
    · refine ⟨Nat.mul_pos hacc hv.den, ?_⟩
      push_cast
      rw [div_add_div _ _ hacc' hd]
      ring

/-- The fold of a sum is the sum of the addends. -/
theorem foldl_addPair {acc : Int × Nat} (hacc : 0 < acc.2) (hl : ∀ v ∈ l, v.DenPos) : 0 < (l.foldl addPair acc).2 ∧
    ((l.foldl addPair acc).1 : Rat) / (l.foldl addPair acc).2 = acc.1 / acc.2 + (l.map fun v => (ratOf v).getD 0).sum := by
  induction l generalizing acc with
  | nil => simpa using hacc
  | cons v l ih =>
    obtain ⟨hpos, hval⟩ := addPair_spec hacc (hl v (by simp))
    obtain ⟨hpos', hval'⟩ := ih hpos fun u hu => hl u (by simp [hu])
    refine ⟨hpos', hval'.trans ?_⟩
    rw [hval, List.map_cons, List.sum_cons, add_assoc]

theorem any_posInf : (l.any fun v => v.isInf && !v.sign) = true ↔ .inf false ∈ l := by
  rw [List.any_eq_true]
  constructor
  · rintro ⟨v, hv, hs⟩
    cases v <;> simp_all
  · exact fun h => ⟨_, h, rfl⟩

theorem any_negInf : (l.any fun v => v.isInf && v.sign) = true ↔ .inf true ∈ l := by
  rw [List.any_eq_true]
  constructor
  · rintro ⟨v, hv, hs⟩
    cases v <;> simp_all
  · exact fun h => ⟨_, h, rfl⟩

theorem sumExact_nan (h : ∃ v ∈ l, v.isNan = true) : (sumExact m l).isNan = true := by
  rw [sumExact, if_pos (List.any_eq_true.mpr h)]
  rfl

theorem sumExact_opposite (h : ∀ s, .inf s ∈ l) : (sumExact m l).isNan = true := by
  rw [sumExact]
  split
  · rfl
  · simp [any_posInf.mpr (h false), any_negInf.mpr (h true)]

theorem sumExact_inf (hn : ∀ v ∈ l, v.isNan = false) {s : Bool} (hs : .inf s ∈ l) (ho : .inf (!s) ∉ l) : sumExact m l = .inf s := by
  have hnan : l.any Num.isNan = false := List.any_eq_false.mpr fun v hv => by simp [hn v hv]
  cases s with
  | false =>
    have hneg := mt any_negInf.mp ho
    simp [sumExact, hnan, any_posInf.mpr hs, hneg]
  | true =>
    have hpos := mt any_posInf.mp ho
    simp [sumExact, hnan, any_negInf.mpr hs, hpos]

/-- The sign of an exact zero sum (R77). -/
def zeroSign (m : RoundMode) (l : List Num) : Bool :=
  if allSign true l && !l.isEmpty then true else if allSign false l then false else decide (m = .rdn)

/-- A sum without NaN and infinities, from the fold of its addends. -/
theorem sumExact_of_finite (hf : ∀ v ∈ l, (ratOf v).isSome) : sumExact m l =
    if (l.foldl addPair (0, 1)).1 = 0 then .fin (zeroSign m l) 0 1
    else .fin (decide ((l.foldl addPair (0, 1)).1 < 0)) (l.foldl addPair (0, 1)).1.natAbs (l.foldl addPair (0, 1)).2 := by
  have hinf : ∀ s, .inf s ∉ l := fun s h => by simpa using hf _ h
  have hnan : l.any Num.isNan = false := List.any_eq_false.mpr fun v hv => by
    obtain ⟨q, hq⟩ := Option.isSome_iff_exists.mp (hf v hv)
    simp [isNan_of_ratOf hq]
  have hpos : (l.any fun v => v.isInf && !v.sign) = false := Bool.eq_false_iff.mpr (mt any_posInf.mp (hinf false))
  have hneg : (l.any fun v => v.isInf && v.sign) = false := Bool.eq_false_iff.mpr (mt any_negInf.mp (hinf true))
  simp only [sumExact, hnan, hpos, hneg, zeroSign, Bool.false_eq_true, Bool.and_self, if_false]
  split
  · split
    · rfl
    · split <;> rfl
  · rfl

theorem inum_natAbs (z : Int) : Num.inum (decide (z < 0)) z.natAbs = z := by
  simp only [Num.inum, decide_eq_true_eq]
  split <;> omega

/-- A sum of finite numbers is their sum as rationals. -/
theorem ratOf_sumExact (hl : ∀ v ∈ l, v.DenPos) (hf : ∀ v ∈ l, (ratOf v).isSome) :
    ratOf (sumExact m l) = some (l.map fun v => (ratOf v).getD 0).sum := by
  obtain ⟨-, hval⟩ := foldl_addPair (acc := (0, 1)) (by decide) hl
  simp only [Int.cast_zero, zero_div, zero_add] at hval
  rw [sumExact_of_finite hf, ← hval]
  split
  · next h0 => simp [ratOf, h0]
  · rw [ratOf_fin, inum_natAbs]

theorem sign_sumExact (hl : ∀ v ∈ l, v.DenPos) (hf : ∀ v ∈ l, (ratOf v).isSome) (h0 : (l.map fun v => (ratOf v).getD 0).sum = 0) :
    (sumExact m l).sign = zeroSign m l := by
  obtain ⟨hden, hval⟩ := foldl_addPair (acc := (0, 1)) (by decide) hl
  simp only [Int.cast_zero, zero_div, zero_add, h0, div_eq_zero_iff, Int.cast_eq_zero, Nat.cast_eq_zero, or_iff_left hden.ne'] at hval
  rw [sumExact_of_finite hf, if_pos hval]
  rfl

theorem sumExact_pair (ha : a.DenPos) (hb : b.DenPos) : IsSum m a b (sumExact m [a, b]) := by
  refine ⟨?nan, ?inf, ?fin⟩
  case nan =>
    rintro (h | h | ⟨s, rfl, rfl⟩)
    · exact sumExact_nan ⟨a, by simp, h⟩
    · exact sumExact_nan ⟨b, by simp, h⟩
    · exact sumExact_opposite fun t => by cases s <;> cases t <;> simp
  case inf =>
    have hother : ∀ s {v : Num}, v = .inf s ∨ (ratOf v).isSome → v.isNan = false ∧ v ≠ .inf (!s) := fun s v h => by
      rcases h with rfl | h
      · exact ⟨rfl, by simp⟩
      · obtain ⟨q, hq⟩ := Option.isSome_iff_exists.mp h
        obtain ⟨t, n, d, rfl, -⟩ := ratOf_eq_some.mp hq
        exact ⟨rfl, by simp⟩
    rintro s (⟨rfl, h⟩ | ⟨rfl, h⟩)
    · obtain ⟨hn, ho⟩ := hother s h
      exact sumExact_inf (by simp [hn]) (by simp) (by simp [ho.symm])
    · obtain ⟨hn, ho⟩ := hother s (.inr h)
      exact sumExact_inf (by simp [hn]) (by simp) (by simp [ho.symm])
  case fin =>
    intro p q hp hq
    have hl : ∀ v ∈ [a, b], v.DenPos := by simp [ha, hb]
    have hf : ∀ v ∈ [a, b], (ratOf v).isSome := by simp [hp, hq]
    have hsum : ([a, b].map fun v => (ratOf v).getD 0).sum = p + q := by simp [hp, hq]
    refine ⟨hsum ▸ ratOf_sumExact hl hf, fun h0 => ?_⟩
    rw [sign_sumExact hl hf (hsum.trans h0)]
    cases hsa : a.sign <;> cases hsb : b.sign <;> simp [zeroSign, allSign, hsa, hsb]

/-! ## Products (R76) -/

theorem mul_isProduct (a b : Num) : IsProduct a b (a.mul b) := by
  refine ⟨?nan, ?inf, ?fin⟩
  case nan =>
    rintro (h | h | ⟨h, h0⟩ | ⟨h0, h⟩)
    · obtain ⟨s, rfl⟩ := Num.isNan_iff.mp h
      rfl
    · obtain ⟨s, rfl⟩ := Num.isNan_iff.mp h
      cases a <;> rfl
    · obtain ⟨s, rfl⟩ := Num.isInf_iff.mp h
      obtain ⟨t, d, rfl⟩ := Num.isZero_iff.mp h0
      rfl
    · obtain ⟨s, rfl⟩ := Num.isInf_iff.mp h
      obtain ⟨t, d, rfl⟩ := Num.isZero_iff.mp h0
      rfl
  case inf =>
    rintro ha hb ha0 hb0 (h | h)
    · obtain ⟨s, rfl⟩ := Num.isInf_iff.mp h
      cases b <;> simp_all [Num.mul]
    · obtain ⟨s, rfl⟩ := Num.isInf_iff.mp h
      cases a <;> simp_all [Num.mul]
  case fin =>
    intro p q hp hq
    obtain ⟨s, n, d, rfl, rfl⟩ := ratOf_eq_some.mp hp
    obtain ⟨t, k, e, rfl, rfl⟩ := ratOf_eq_some.mp hq
    refine ⟨?_, rfl⟩
    rw [Num.mul, ratOf_fin, div_mul_div_comm]
    cases s <;> cases t <;> simp [Num.inum]

/-! ## Comparison (R88, R125) -/

/-- Between finite numbers the order is that of their values. -/
theorem below_iff_rat {p q : Rat} (ha : ratOf a = some p) (hb : ratOf b = some q) : Below a b ↔ p < q := by
  constructor
  · rintro (⟨rfl, -⟩ | ⟨rfl, -⟩ | ⟨p', q', hp, hq, hlt⟩)
    · simp at ha
    · simp at hb
    · cases ha.symm.trans hp
      cases hb.symm.trans hq
      exact hlt
  · exact fun h => .inr (.inr ⟨p, q, ha, hb, h⟩)

theorem Num.lt_iff_below (ha : a.DenPos) (hb : b.DenPos) : a.lt b = true ↔ Below a b := by
  cases a with
  | nan s => simp [Num.lt, Below]
  | inf s =>
    cases b with
    | nan t => simp [Num.lt, Below]
    | inf t => cases s <;> cases t <;> simp [Num.lt, Below]
    | fin t k e => simp [Num.lt, Below]
  | fin s n d =>
    cases b with
    | nan t => simp [Num.lt, Below]
    | inf t => simp [Num.lt, Below]
    | fin t k e =>
      have hd : (0 : Rat) < d := by exact_mod_cast ha.den
      have he : (0 : Rat) < e := by exact_mod_cast hb.den
      rw [below_iff_rat (ratOf_fin s n d) (ratOf_fin t k e), div_lt_div_iff₀ hd he, Num.lt, decide_eq_true_eq]
      norm_cast

theorem below_asymm (h : Below a b) : ¬ Below b a := by
  rcases h with ⟨rfl, h1, h2⟩ | ⟨rfl, h1, h2⟩ | ⟨p, q, hp, hq, hlt⟩
  · simp [Below, h2]
  · simp [Below, h2]
  · rintro (⟨rfl, -⟩ | ⟨rfl, -⟩ | ⟨q', p', hq', hp', hlt'⟩)
    · simp at hq
    · simp at hp
    · cases hp.symm.trans hp'
      cases hq.symm.trans hq'
      exact lt_asymm hlt hlt'

theorem not_below_of_ratOf_eq {q : Rat} (ha : ratOf a = some q) (hb : ratOf b = some q) : ¬ Below a b :=
  fun h => lt_irrefl q ((below_iff_rat ha hb).mp h)

theorem below_numbers (h : Below a b) : a.isNan = false ∧ b.isNan = false := by
  rcases h with ⟨rfl, hb, -⟩ | ⟨rfl, ha, -⟩ | ⟨p, q, hp, hq, -⟩
  · exact ⟨rfl, hb⟩
  · exact ⟨ha, rfl⟩
  · exact ⟨isNan_of_ratOf hp, isNan_of_ratOf hq⟩

theorem Num.isZero_iff_ratOf (hv : v.DenPos) : v.isZero = true ↔ ratOf v = some 0 := by
  cases v with
  | nan s => simp
  | inf s => simp
  | fin s n d => rw [ratOf_fin, Option.some_inj, rat_eq_zero_iff hv.den]; simp

/-- Between numbers the order of R88 is that of their values, −0 below +0. -/
theorem rankBelow_numbers (ha : a.isNan = false) (hb : b.isNan = false) :
    RankBelow a b ↔ Below a b ∨ (ratOf a = some 0 ∧ ratOf b = some 0 ∧ a.sign = true ∧ b.sign = false) := by
  simp [RankBelow, ha, hb]

theorem rankClass_number (ha : a.isNan = false) : rankClass a = 1 := by
  cases a with
  | nan s => simp at ha
  | inf s => rfl
  | fin s n d => rfl

theorem rankLt_numbers (ha : a.isNan = false) (hb : b.isNan = false) :
    rankLt a b = if a.isZero && b.isZero then a.sign && !b.sign else a.lt b := by
  rw [rankLt, rankClass_number ha, rankClass_number hb]
  rfl

theorem rankLt_iff_rankBelow (ha : a.DenPos) (hb : b.DenPos) : rankLt a b = true ↔ RankBelow a b := by
  cases hna : a.isNan with
  | true =>
    obtain ⟨s, rfl⟩ := Num.isNan_iff.mp hna
    cases hnb : b.isNan with
    | true =>
      obtain ⟨t, rfl⟩ := Num.isNan_iff.mp hnb
      cases s <;> cases t <;> simp [rankLt, rankClass, RankBelow]
    | false =>
      rw [rankLt, rankClass_number hnb]
      cases s <;> simp [rankClass, RankBelow, hnb]
  | false =>
    cases hnb : b.isNan with
    | true =>
      obtain ⟨t, rfl⟩ := Num.isNan_iff.mp hnb
      rw [rankLt, rankClass_number hna]
      cases t <;> simp [rankClass, RankBelow, hna]
    | false =>
      rw [rankLt_numbers hna hnb, rankBelow_numbers hna hnb, ← Num.lt_iff_below ha hb, ← Num.isZero_iff_ratOf ha, ← Num.isZero_iff_ratOf hb]
      split
      · next h =>
        obtain ⟨hza, hzb⟩ := Bool.and_eq_true_iff.mp h
        have hlt : a.lt b = false := Bool.eq_false_iff.mpr (mt (Num.lt_iff_below ha hb).mp
          (not_below_of_ratOf_eq ((Num.isZero_iff_ratOf ha).mp hza) ((Num.isZero_iff_ratOf hb).mp hzb)))
        simp [hza, hzb, hlt]
      · next h =>
        refine (or_iff_left fun ⟨hza, hzb, _⟩ => h ?_).symm
        rw [hza, hzb]
        rfl

theorem rankBelow_asymm (h : RankBelow a b) : ¬ RankBelow b a := by
  rcases h with ⟨ha, hs, hb⟩ | ⟨hb, hs, ha⟩ | ⟨ha, hb, h⟩
  · simp_all [RankBelow]
  · simp_all [RankBelow]
  · rw [rankBelow_numbers hb ha]
    rintro (h' | ⟨hzb, hza, hsb, hsa⟩)
    · rcases h with h | ⟨hza, hzb, -⟩
      · exact below_asymm h h'
      · exact not_below_of_ratOf_eq hzb hza h'
    · rcases h with h | ⟨-, -, -, hsb'⟩
      · exact not_below_of_ratOf_eq hza hzb h
      · simp_all

end Sys2Proof
end

section
/-! SUPPORT. What the float instructions give on one lane (R118 to R120), and how they join the lanes' codes (R77, R114). -/
namespace Sys2Proof
open Sys2Proof.Claims

variable {x : FireIn} {a b v : Num}

/-! ## Smaller, larger, sign (R119) -/

theorem fminNum_spec (ha : a.DenPos) (hb : b.DenPos) :
    (a.isNan = true → fminNum a b = b) ∧ (b.isNan = true → a.isNan = false → fminNum a b = a) ∧
      (a.isNan = false → b.isNan = false → (fminNum a b = a ∨ fminNum a b = b) ∧
        ¬ RankBelow a (fminNum a b) ∧ ¬ RankBelow b (fminNum a b)) := by
  refine ⟨fun h => by simp [fminNum, h], fun h h' => by simp [fminNum, h, h'], fun hna hnb => ?_⟩
  simp only [fminNum, hna, hnb, Bool.false_eq_true, if_false]
  have hrank := rankLt_iff_rankBelow hb ha
  split
  · next h => exact ⟨.inr rfl, rankBelow_asymm (hrank.mp h), fun h' => rankBelow_asymm h' h'⟩
  · next h => exact ⟨.inl rfl, fun h' => rankBelow_asymm h' h', mt hrank.mpr h⟩

theorem fmaxNum_spec (ha : a.DenPos) (hb : b.DenPos) :
    (a.isNan = true → fmaxNum a b = b) ∧ (b.isNan = true → a.isNan = false → fmaxNum a b = a) ∧
      (a.isNan = false → b.isNan = false → (fmaxNum a b = a ∨ fmaxNum a b = b) ∧
        ¬ RankBelow (fmaxNum a b) a ∧ ¬ RankBelow (fmaxNum a b) b) := by
  refine ⟨fun h => by simp [fmaxNum, h], fun h h' => by simp [fmaxNum, h, h'], fun hna hnb => ?_⟩
  simp only [fmaxNum, hna, hnb, Bool.false_eq_true, if_false]
  have hrank := rankLt_iff_rankBelow ha hb
  split
  · next h => exact ⟨.inr rfl, rankBelow_asymm (hrank.mp h), fun h' => rankBelow_asymm h' h'⟩
  · next h => exact ⟨.inl rfl, fun h' => rankBelow_asymm h' h', mt hrank.mpr h⟩

@[simp] theorem Num.abs_withSign (v : Num) (s : Bool) : (v.withSign s).abs = v.abs := by cases v <;> rfl

@[simp] theorem Num.sign_withSign (v : Num) (s : Bool) : (v.withSign s).sign = s := by cases v <;> rfl

/-! ## Reciprocal, root, power and logarithm (R120) -/

/-- A number whose value is 0. -/
theorem eq_fin_zero (hv : v.DenPos) (h : ratOf v = some 0) : ∃ d, v = .fin v.sign 0 d ∧ 0 < d := by
  obtain ⟨s, d, rfl⟩ := Num.isZero_iff.mp ((Num.isZero_iff_ratOf hv).mpr h)
  exact ⟨d, rfl, hv.den⟩

/-- A number whose value is 1. -/
theorem eq_fin_one (hv : v.DenPos) (h : ratOf v = some 1) : ∃ d, v = .fin false d d ∧ 0 < d := by
  obtain ⟨s, n, d, rfl, hq⟩ := ratOf_eq_some.mp h
  have hd := hv.den
  have hn : Num.inum s n = d := by
    rw [div_eq_one_iff_eq (by exact_mod_cast hd.ne')] at hq
    exact_mod_cast hq
  cases s with
  | false =>
    have hnd : n = d := by simpa [Num.inum] using hn
    exact ⟨d, by rw [hnd], hd⟩
  | true =>
    simp only [Num.inum, if_true] at hn
    omega

/-- A number of negative value. -/
theorem eq_fin_neg (hv : v.DenPos) {q : Rat} (h : ratOf v = some q) (hq : q < 0) : ∃ n d, v = .fin true n d ∧ n ≠ 0 := by
  obtain ⟨s, n, d, rfl, rfl⟩ := ratOf_eq_some.mp h
  cases s with
  | false => exact absurd hq (not_lt.mpr (by simp only [Num.inum, Bool.false_eq_true, if_false]; positivity))
  | true => exact ⟨n, d, rfl, fun h0 => by simp [h0, Num.inum] at hq⟩

theorem frcp_spec (hv : v.DenPos) : (v.isNan = true → ((Num.fin false 1 1).div v).isNan = true) ∧
    (∀ s, v = .inf s → ratOf ((Num.fin false 1 1).div v) = some 0 ∧ ((Num.fin false 1 1).div v).sign = s) ∧
    (∀ q, ratOf v = some q → (q = 0 → (Num.fin false 1 1).div v = .inf v.sign) ∧
      (q ≠ 0 → ratOf ((Num.fin false 1 1).div v) = some (1 / q))) := by
  refine ⟨fun h => ?_, fun s h => ?_, fun q h => ⟨fun h0 => ?_, fun h0 => ?_⟩⟩
  · obtain ⟨s, rfl⟩ := Num.isNan_iff.mp h
    rfl
  · subst h
    simp [Num.div, ratOf]
  · obtain ⟨d, hv0, -⟩ := eq_fin_zero hv (h0 ▸ h)
    rw [hv0]
    simp [Num.div]
  · obtain ⟨s, n, d, rfl, rfl⟩ := ratOf_eq_some.mp h
    have hn : n ≠ 0 := fun hn => h0 ((rat_eq_zero_iff hv.den).mpr hn)
    have hdiv : (Num.fin false 1 1).div (.fin s n d) = .fin s d n := by simp [Num.div, hn]
    rw [hdiv, ratOf_fin, one_div_div]
    cases s <;> simp [Num.inum, div_neg, neg_div]

theorem frsqNum_spec (hv : v.DenPos) :
    (v.isNan = true ∨ v = .inf true ∨ (∃ q, ratOf v = some q ∧ q < 0) → (frsqNum v).isNan = true) ∧
      (v = .inf false → ratOf (frsqNum v) = some 0 ∧ (frsqNum v).sign = false) ∧
      (ratOf v = some 0 → frsqNum v = .inf v.sign) := by
  refine ⟨?_, ?_, fun h => ?_⟩
  · rintro (h | rfl | ⟨q, hq, hneg⟩)
    · obtain ⟨s, rfl⟩ := Num.isNan_iff.mp h
      rfl
    · rfl
    · obtain ⟨n, d, rfl, hn⟩ := eq_fin_neg hv hq hneg
      simp [frsqNum, hn]
  · rintro rfl
    exact ⟨by simp [frsqNum, ratOf], rfl⟩
  · obtain ⟨d, hv0, -⟩ := eq_fin_zero hv h
    rw [hv0]
    simp [frsqNum]

theorem fexp2Num_spec (hv : v.DenPos) :
    (v.isNan = true → (fexp2Num v).isNan = true) ∧ (v = .inf false → fexp2Num v = .inf false) ∧
      (v = .inf true → ratOf (fexp2Num v) = some 0 ∧ (fexp2Num v).sign = false) ∧
      (ratOf v = some 0 → ratOf (fexp2Num v) = some 1) ∧ (ratOf v = some 1 → ratOf (fexp2Num v) = some 2) := by
  refine ⟨fun h => ?_, ?_, ?_, fun h => ?_, fun h => ?_⟩
  · obtain ⟨s, rfl⟩ := Num.isNan_iff.mp h
    rfl
  · rintro rfl
    rfl
  · rintro rfl
    exact ⟨by simp [fexp2Num, ratOf], rfl⟩
  · obtain ⟨d, hv0, hd⟩ := eq_fin_zero hv h
    rw [hv0]
    simp [fexp2Num, Num.inum, Num.ofScaled, ratOf, hd.ne']
  · obtain ⟨d, rfl, hd⟩ := eq_fin_one hv h
    have hsmall : ¬ 4096 * d ≤ d := by omega
    simp [fexp2Num, Num.inum, Num.ofScaled, ratOf, hsmall, hd.ne']

theorem floorLog2_self (d : Nat) : floorLog2 d d = 0 := by simp [floorLog2]

theorem flog2Num_spec (hv : v.DenPos) :
    (v.isNan = true ∨ v = .inf true ∨ (∃ q, ratOf v = some q ∧ q < 0) → (flog2Num v).isNan = true) ∧
      (v = .inf false → flog2Num v = .inf false) ∧ (ratOf v = some 0 → flog2Num v = .inf true) ∧
      (ratOf v = some 1 → ratOf (flog2Num v) = some 0 ∧ (flog2Num v).sign = false) := by
  refine ⟨?_, ?_, fun h => ?_, fun h => ?_⟩
  · rintro (h | rfl | ⟨q, hq, hneg⟩)
    · obtain ⟨s, rfl⟩ := Num.isNan_iff.mp h
      rfl
    · rfl
    · obtain ⟨n, d, rfl, hn⟩ := eq_fin_neg hv hq hneg
      simp [flog2Num, hn]
  · rintro rfl
    rfl
  · obtain ⟨d, hv0, -⟩ := eq_fin_zero hv h
    rw [hv0]
    simp [flog2Num]
  · obtain ⟨d, rfl, hd⟩ := eq_fin_one hv h
    have heq : flog2Num (.fin false d d) = .ofInt 0 := by simp [flog2Num, floorLog2_self, hd.ne']
    rw [heq]
    exact ⟨by simp [Num.ofInt, ratOf], rfl⟩

/-! ## The form of a float instruction (R77, R114) -/

/-- The code that a result's exact value is written as in lane `i` (R77). -/
def outCode (x : FireIn) (i : Nat) (r : Num) : Nat := (encodeLane x.out false x.outSc i r).1 % 2 ^ x.out.fmt.width

/-- The result of a float instruction: each lane encodes once a value that `P` allows. -/
def FloatLanes (x : FireIn) (f : FireIn → CRes) (P : Nat → Num → Prop) : Prop := ∃ pay c, f x = .val pay c false ∧ pay < 2 ^ 64 ∧
  ∀ i < x.out.fmt.lanes, ∃ r, P i r ∧ laneBits x.out.fmt.width pay i = outCode x i r

/-- An input of `n` float operands with as many lanes as the float result, and no flags. -/
structure FloatsFit (x : FireIn) (n : Nat) : Prop where
  arity : x.w.arity.toNat = n
  count : x.ops.length = n
  fmts : ∀ o ∈ x.ops, o.fmt.cls = .float ∧ o.fmt.lanes = x.out.fmt.lanes
  out : x.out.fmt.cls = .float
  flags : x.w.flags = 0

theorem floatLanes_of_joined {f : FireIn → CRes} {g : Nat → Nat × Nat} {P : Nat → Num → Prop}
    (hf : f x = .ofPair (joinLanes x.out.fmt ((List.range x.out.fmt.lanes).map g)))
    (hg : ∀ i, ∃ r, P i r ∧ (g i).1 = (encodeLane x.out false x.outSc i r).1) : FloatLanes x f P := by
  obtain ⟨hlt, hpay⟩ := lanesAre_joinLanes x.out.fmt g
  refine ⟨_, _, hf, hlt, fun i hi => ?_⟩
  obtain ⟨r, hP, hcode⟩ := hg i
  exact ⟨r, hP, (hpay i hi).trans (congrArg (· % _) hcode)⟩

/-- A float instruction on operands that fit encodes each lane's exact result once. -/
theorem floatOp_lanes {n : Nat} {fnOk : Nat → Bool} {f : Nat → (Nat → Num) → Num} {P : Nat → Num → Prop} (h : FloatsFit x n)
    (hfn : fnOk x.w.fnN = true) (hP : ∀ i, P i (f x.w.fnN fun k => floatLane x k i)) :
    FloatLanes x (floatOp n fnOk f) P := by
  have hform : (x.w.arityN != n || !fnOk x.w.fnN || x.w.flagsN != 0) = false := by
    simp [Slot.arityN, Slot.flagsN, h.arity, h.flags, hfn]
  have hfit : (!(x.ops.all fun o => o.fmt.cls == .float) || x.out.fmt.cls != .float || !x.sameLanes) = false := by
    have hops : (x.ops.all fun o => o.fmt.cls == .float) = true := List.all_eq_true.mpr fun o ho => by simp [(h.fmts o ho).1]
    have hsame : x.sameLanes = true := List.all_eq_true.mpr fun o ho => by simp [(h.fmts o ho).2]
    simp [hops, h.out, hsame]
  refine floatLanes_of_joined (g := fun i =>
    let r := encodeLane x.out false x.outSc i (f x.w.fnN fun k => ((x.op k).lane false i).1)
    (r.1, x.ops.foldl (fun m o => m ||| (o.lane false i).2) r.2)) ?_ fun i => ⟨_, hP i, rfl⟩
  simp only [floatOp, hform, hfit]
  rfl

end Sys2Proof
end

section
/-! SUPPORT. The float instructions of one result per lane (R118 to R120), conversion (R121) and classes (R122). -/
namespace Sys2Proof
open Sys2Proof.Claims

variable {x : FireIn}

/-! ## Instructions of one result per lane (R118 to R120) -/

theorem fnZero_of_fn (hfn : x.w.fn = 0) : fnZero x.w.fnN = true := by simp [fnZero, Slot.fnN, hfn]

theorem denPos_floatLane (hx : Sound x) (k i : Nat) : (floatLane x k i).DenPos := hx k i

theorem cFadd_lanes (hx : Sound x) (h : FloatsFit x 2) (hfn : x.w.fn = 0) :
    FloatLanes x cFadd fun i => IsSum x.out.round (floatLane x 0 i) (floatLane x 1 i) :=
  floatOp_lanes (f := fun _ v => sumExact x.out.round [v 0, v 1]) h (fnZero_of_fn hfn) fun i => sumExact_pair (hx 0 i) (hx 1 i)

theorem cFsub_lanes (hx : Sound x) (h : FloatsFit x 2) (hfn : x.w.fn = 0) :
    FloatLanes x cFsub fun i => IsSum x.out.round (floatLane x 0 i) (floatLane x 1 i).neg :=
  floatOp_lanes (f := fun _ v => sumExact x.out.round [v 0, (v 1).neg]) h (fnZero_of_fn hfn)
    fun i => sumExact_pair (hx 0 i) ((denPos_floatLane hx 1 i).withSign _)

theorem cFmul_lanes (h : FloatsFit x 2) (hfn : x.w.fn = 0) :
    FloatLanes x cFmul fun i => IsProduct (floatLane x 0 i) (floatLane x 1 i) :=
  floatOp_lanes (f := fun _ v => (v 0).mul (v 1)) h (fnZero_of_fn hfn) fun _ => mul_isProduct _ _

theorem cFma_lanes (hx : Sound x) (h : FloatsFit x 3) (hfn : x.w.fn = 0) : FloatLanes x cFma fun i r =>
    ∃ p, IsProduct (floatLane x 0 i) (floatLane x 1 i) p ∧ IsSum x.out.round p (floatLane x 2 i) r :=
  floatOp_lanes (f := fun _ v => sumExact x.out.round [(v 0).mul (v 1), v 2]) h (fnZero_of_fn hfn) fun i =>
    ⟨_, mul_isProduct _ _, sumExact_pair ((denPos_floatLane hx 0 i).mul (denPos_floatLane hx 1 i)) (hx 2 i)⟩

theorem cFmin_lanes (hx : Sound x) (h : FloatsFit x 2) (hfn : x.w.fn = 0) : FloatLanes x cFmin fun i r =>
    ((floatLane x 0 i).isNan = true → r = floatLane x 1 i) ∧
      ((floatLane x 1 i).isNan = true → (floatLane x 0 i).isNan = false → r = floatLane x 0 i) ∧
      ((floatLane x 0 i).isNan = false → (floatLane x 1 i).isNan = false →
        (r = floatLane x 0 i ∨ r = floatLane x 1 i) ∧ ¬ RankBelow (floatLane x 0 i) r ∧ ¬ RankBelow (floatLane x 1 i) r) :=
  floatOp_lanes h (fnZero_of_fn hfn) fun i => fminNum_spec (hx 0 i) (hx 1 i)

theorem cFmax_lanes (hx : Sound x) (h : FloatsFit x 2) (hfn : x.w.fn = 0) : FloatLanes x cFmax fun i r =>
    ((floatLane x 0 i).isNan = true → r = floatLane x 1 i) ∧
      ((floatLane x 1 i).isNan = true → (floatLane x 0 i).isNan = false → r = floatLane x 0 i) ∧
      ((floatLane x 0 i).isNan = false → (floatLane x 1 i).isNan = false →
        (r = floatLane x 0 i ∨ r = floatLane x 1 i) ∧ ¬ RankBelow r (floatLane x 0 i) ∧ ¬ RankBelow r (floatLane x 1 i)) :=
  floatOp_lanes h (fnZero_of_fn hfn) fun i => fmaxNum_spec (hx 0 i) (hx 1 i)

theorem cFsgn_lanes (h : FloatsFit x 2) (hfn : x.w.fn.toNat ≤ 2) : FloatLanes x cFsgn fun i r =>
    r.abs = (floatLane x 0 i).abs ∧ r.sign = (if x.w.fn = 0 then (floatLane x 1 i).sign
      else if x.w.fn = 1 then !(floatLane x 1 i).sign else (floatLane x 0 i).sign != (floatLane x 1 i).sign) := by
  refine floatOp_lanes h (decide_eq_true hfn) fun i => ⟨Num.abs_withSign _ _, ?_⟩
  rw [Num.sign_withSign]
  have hcases : x.w.fn = 0 ∨ x.w.fn = 1 ∨ x.w.fn = 2 := by bv_omega
  rcases hcases with hf | hf | hf <;> simp [Slot.fnN, hf]

theorem cFrcp_lanes (hx : Sound x) (h : FloatsFit x 1) (hfn : x.w.fn = 0) : FloatLanes x cFrcp fun i r =>
    ((floatLane x 0 i).isNan = true → r.isNan = true) ∧ (∀ s, floatLane x 0 i = .inf s → ratOf r = some 0 ∧ r.sign = s) ∧
      (∀ q, ratOf (floatLane x 0 i) = some q → (q = 0 → r = .inf (floatLane x 0 i).sign) ∧ (q ≠ 0 → ratOf r = some (1 / q))) :=
  floatOp_lanes h (fnZero_of_fn hfn) fun i => frcp_spec (hx 0 i)

theorem cFrsq_lanes (hx : Sound x) (h : FloatsFit x 1) (hfn : x.w.fn = 0) : FloatLanes x cFrsq fun i r =>
    ((floatLane x 0 i).isNan = true ∨ floatLane x 0 i = .inf true ∨ (∃ q, ratOf (floatLane x 0 i) = some q ∧ q < 0) → r.isNan = true) ∧
      (floatLane x 0 i = .inf false → ratOf r = some 0 ∧ r.sign = false) ∧
      (ratOf (floatLane x 0 i) = some 0 → r = .inf (floatLane x 0 i).sign) :=
  floatOp_lanes h (fnZero_of_fn hfn) fun i => frsqNum_spec (hx 0 i)

theorem cFexp2_lanes (hx : Sound x) (h : FloatsFit x 1) (hfn : x.w.fn = 0) : FloatLanes x cFexp2 fun i r =>
    ((floatLane x 0 i).isNan = true → r.isNan = true) ∧ (floatLane x 0 i = .inf false → r = .inf false) ∧
      (floatLane x 0 i = .inf true → ratOf r = some 0 ∧ r.sign = false) ∧
      (ratOf (floatLane x 0 i) = some 0 → ratOf r = some 1) ∧ (ratOf (floatLane x 0 i) = some 1 → ratOf r = some 2) :=
  floatOp_lanes h (fnZero_of_fn hfn) fun i => fexp2Num_spec (hx 0 i)

theorem cFlog2_lanes (hx : Sound x) (h : FloatsFit x 1) (hfn : x.w.fn = 0) : FloatLanes x cFlog2 fun i r =>
    ((floatLane x 0 i).isNan = true ∨ floatLane x 0 i = .inf true ∨ (∃ q, ratOf (floatLane x 0 i) = some q ∧ q < 0) → r.isNan = true) ∧
      (floatLane x 0 i = .inf false → r = .inf false) ∧ (ratOf (floatLane x 0 i) = some 0 → r = .inf true) ∧
      (ratOf (floatLane x 0 i) = some 1 → ratOf r = some 0 ∧ r.sign = false) :=
  floatOp_lanes h (fnZero_of_fn hfn) fun i => flog2Num_spec (hx 0 i)

/-! ## Conversion (R121) -/

/-- The input of a conversion: neither format raw, and only an integer operand read as signed. -/
structure ConvFit (x : FireIn) : Prop where
  flags : x.w.flags = 0
  src : x.a.fmt.cls ≠ .raw
  dst : x.out.fmt.cls ≠ .raw
  signed : x.w.fn.toNat / 8 % 2 = 1 → x.a.fmt.cls = .int

/-- The code in lane `o` of the result of lane `i` of the operand. -/
def convCode (x : FireIn) (i o : Nat) : Nat :=
  (encodeLane x.out (decide (x.w.fn.toNat / 16 = 1)) x.outSc o (x.a.lane (decide (x.w.fn.toNat / 8 % 2 = 1)) i).1).1 % 2 ^ x.out.fmt.width

/-- The result of a conversion: lane `i` is one that `P` allows. -/
def Converts (x : FireIn) (P : Nat → Nat → Prop) : Prop := ∃ pay c, cFcvt x = .val pay c false ∧ pay < 2 ^ 64 ∧
  ∀ i < x.out.fmt.lanes, P i (laneBits x.out.fmt.width pay i)

theorem fcvtLane_code (x : FireIn) (i o : Nat) : (fcvtLane x i o).1 % 2 ^ x.out.fmt.width = convCode x i o := by
  simp only [fcvtLane, convCode, Slot.fnN, beq_eq_decide]

theorem converts_of_joined {g : Nat → Nat × Nat} {P : Nat → Nat → Prop}
    (hf : cFcvt x = .ofPair (joinLanes x.out.fmt ((List.range x.out.fmt.lanes).map g)))
    (hg : ∀ i, P i ((g i).1 % 2 ^ x.out.fmt.width)) : Converts x P := by
  obtain ⟨hlt, hpay⟩ := lanesAre_joinLanes x.out.fmt g
  refine ⟨_, _, hf, hlt, fun i hi => ?_⟩
  rw [hpay i hi]
  exact hg i

section
variable (h : ConvFit x)
include h

/-- The checks of FCVT that do not depend on the lane counts. -/
theorem cFcvt_form (har : x.w.arity = 1 ∨ x.w.arity = 2) :
    ((x.w.arityN != 1 && x.w.arityN != 2) || x.w.flagsN != 0) = false ∧
      (x.a.fmt.cls == .raw || x.out.fmt.cls == .raw || (x.w.fnN / 8 % 2 == 1 && x.a.fmt.cls == .float)) = false := by
  constructor
  · rcases har with h1 | h2
    · simp [Slot.arityN, Slot.flagsN, h1, h.flags]
    · simp [Slot.arityN, Slot.flagsN, h2, h.flags]
  · have hsig : (x.w.fnN / 8 % 2 == 1 && x.a.fmt.cls == .float) = false := by
      by_cases hs : x.w.fn.toNat / 8 % 2 = 1
      · simp [h.signed hs]
      · simp [Slot.fnN, hs]
    simp [h.src, h.dst, hsig]

theorem cFcvt_same (har : x.w.arity = 1) (hl : x.a.fmt.lanes = x.out.fmt.lanes) (hp : x.w.fn.toNat % 8 = 0) :
    Converts x fun i l => l = convCode x i i := by
  obtain ⟨hform, hcls⟩ := cFcvt_form h (.inl har)
  refine converts_of_joined (g := fun i => fcvtLane x i i) ?_ fun i => fcvtLane_code x i i
  have hfit : (x.w.arityN != 1 || x.w.fnN % 8 != 0) = false := by simp [Slot.arityN, Slot.fnN, har, hp]
  simp only [cFcvt, hform, hcls, hl, hfit, beq_self_eq_true]
  rfl

theorem cFcvt_widen (har : x.w.arity = 1) (hl : x.out.fmt.lanes < x.a.fmt.lanes)
    (hp : x.w.fn.toNat % 8 < x.a.fmt.lanes / x.out.fmt.lanes) :
    Converts x fun i l => l = convCode x (x.w.fn.toNat % 8 * x.out.fmt.lanes + i) i := by
  obtain ⟨hform, hcls⟩ := cFcvt_form h (.inl har)
  refine converts_of_joined (g := fun i => fcvtLane x (x.w.fnN % 8 * x.out.fmt.lanes + i) i) ?_ fun i => fcvtLane_code x _ i
  have hne : (x.out.fmt.lanes == x.a.fmt.lanes) = false := by simp [hl.ne]
  have hfit : (x.w.arityN != 1 || decide (x.a.fmt.lanes / x.out.fmt.lanes ≤ x.w.fnN % 8)) = false := by
    simp [Slot.arityN, Slot.fnN, har, Nat.not_le.mpr hp]
  simp only [cFcvt, hform, hcls, hne, hl.not_gt, hfit, if_false]
  rfl

/-- The bits of b that a narrowing conversion keeps (R121): none where there is no b. -/
def keptBits (x : FireIn) : Nat × Nat := if x.w.arityN == 2 then x.b.passBits x.out else (0, 0)

/-- Lane `i` of a narrowing conversion. -/
def narrowLane (x : FireIn) (i : Nat) : Nat × Nat :=
  if decide (x.w.fnN % 8 * x.a.fmt.lanes ≤ i) && decide (i < (x.w.fnN % 8 + 1) * x.a.fmt.lanes) then
    fcvtLane x (i - x.w.fnN % 8 * x.a.fmt.lanes) i
  else (laneOf x.out.fmt (keptBits x).1 i, 0)

theorem cFcvt_narrow (hl : x.a.fmt.lanes < x.out.fmt.lanes) (hp : x.w.fn.toNat % 8 < x.out.fmt.lanes / x.a.fmt.lanes)
    (har : x.w.arity = 1 ∨ (x.w.arity = 2 ∧ x.b.fmt = x.out.fmt)) : Converts x fun i l =>
    (x.w.fn.toNat % 8 * x.a.fmt.lanes ≤ i → i < (x.w.fn.toNat % 8 + 1) * x.a.fmt.lanes →
      l = convCode x (i - x.w.fn.toNat % 8 * x.a.fmt.lanes) i) ∧
    (i < x.w.fn.toNat % 8 * x.a.fmt.lanes ∨ (x.w.fn.toNat % 8 + 1) * x.a.fmt.lanes ≤ i →
      l = if x.w.arity = 2 then laneBits x.out.fmt.width (x.b.passBits x.out).1 i else 0) := by
  obtain ⟨hform, hcls⟩ := cFcvt_form h (har.imp_right And.left)
  have hne : (x.out.fmt.lanes == x.a.fmt.lanes) = false := by simp [hl.ne']
  have hfit : (decide (x.out.fmt.lanes / x.a.fmt.lanes ≤ x.w.fnN % 8) || (x.w.arityN == 2 && x.b.fmt != x.out.fmt)) = false := by
    rcases har with h1 | ⟨h2, hb⟩
    · simp [Slot.arityN, Slot.fnN, h1, Nat.not_le.mpr hp]
    · simp [Slot.fnN, hb, Nat.not_le.mpr hp]
  obtain ⟨hlt, hpay⟩ := lanesAre_joinLanes x.out.fmt (narrowLane x)
  refine ⟨(joinLanes x.out.fmt ((List.range x.out.fmt.lanes).map (narrowLane x))).1,
    (joinLanes x.out.fmt ((List.range x.out.fmt.lanes).map (narrowLane x))).2 ||| (keptBits x).2, ?_, hlt,
    fun i hi => ⟨fun hlo hhi => ?_, fun hout => ?_⟩⟩
  · simp only [cFcvt, hform, hcls, hne, hl, hfit, if_true, Bool.false_eq_true, if_false]
    rfl
  · have hin : narrowLane x i = fcvtLane x (i - x.w.fn.toNat % 8 * x.a.fmt.lanes) i :=
      if_pos (Bool.and_eq_true_iff.mpr ⟨decide_eq_true hlo, decide_eq_true hhi⟩)
    refine (hpay i hi).trans ?_
    simp only [hin]
    exact fcvtLane_code x _ i
  · have hkept : narrowLane x i = (laneOf x.out.fmt (keptBits x).1 i, 0) :=
      by
      refine if_neg fun hin => ?_
      have hlo : x.w.fn.toNat % 8 * x.a.fmt.lanes ≤ i := of_decide_eq_true (Bool.and_eq_true_iff.mp hin).1
      have hhi : i < (x.w.fn.toNat % 8 + 1) * x.a.fmt.lanes := of_decide_eq_true (Bool.and_eq_true_iff.mp hin).2
      omega
    refine (hpay i hi).trans ?_
    simp only [hkept]
    rcases har with h1 | ⟨h2, -⟩
    · simp [keptBits, Slot.arityN, h1, laneOf]
    · simp [keptBits, Slot.arityN, h2, laneOf, laneBits]

end

/-! ## Classes (R122) -/

/-- The class of a decoded code and whether it is subnormal, as FCLASS reads it. -/
def classNum (v : Num × Bool) : Nat :=
  match v.1 with
  | .nan s => if s then 9 else 8
  | .inf s => if s then 7 else 6
  | .fin s n _ => (if n == 0 then 0 else if v.2 then 2 else 4) + (if s then 1 else 0)

theorem classCode_eq_classNum (f : Fmt) (code : Nat) : classCode f code = classNum (fmtValue f code) := rfl

theorem classNum_nan (s sub : Bool) : classNum (.nan s, sub) = 8 + s.toNat := by cases s <;> rfl

theorem classNum_inf (s sub : Bool) : classNum (.inf s, sub) = 6 + s.toNat := by cases s <;> rfl

theorem classNum_ofScaled (s sub : Bool) (n : Nat) (k : Int) :
    classNum (.ofScaled s n k, sub) = (if n = 0 then 0 else if sub then 2 else 4) + s.toNat := by
  have hs : (if s = true then 1 else 0) = s.toNat := by cases s <;> rfl
  rw [Num.ofScaled]
  split <;> simp [classNum, hs]

/-- A code of exponent 0. -/
theorem classNum_subnormal (s : Bool) (m : Nat) (k : Int) : classNum (.ofScaled s m k, m != 0) = (if m = 0 then 0 else 2) + s.toNat := by
  rw [classNum_ofScaled]
  by_cases h : m = 0
  · simp [h]
  · simp [h]

theorem fmtValue_of_infCode {f : Fmt} (hf : f.infCode.isSome) (code : Nat) : fmtValue f code =
    if code / 2 ^ f.man % 2 ^ f.expw + 1 == 2 ^ f.expw then
      (if code % 2 ^ f.man == 0 then .inf (code / 2 ^ (f.man + f.expw) % 2 == 1) else .nan (code / 2 ^ (f.man + f.expw) % 2 == 1), false)
    else if code / 2 ^ f.man % 2 ^ f.expw == 0 then
      (.ofScaled (code / 2 ^ (f.man + f.expw) % 2 == 1) (code % 2 ^ f.man) (1 - (f.bias : Int) - f.man), code % 2 ^ f.man != 0)
    else (.ofScaled (code / 2 ^ (f.man + f.expw) % 2 == 1) (2 ^ f.man + code % 2 ^ f.man)
      ((code / 2 ^ f.man % 2 ^ f.expw : Nat) - f.bias - f.man), false) := by
  cases f with
  | fp32 => rfl
  | bf16 => rfl
  | fp16 => rfl
  | e5m2 => rfl
  | _ => cases hf

theorem toNat_sign_bit (n : Nat) : (n % 2 == 1).toNat = n % 2 := by
  rcases Nat.mod_two_eq_zero_or_one n with h | h <;> simp [h]

/-- The class of a code of a format with infinities. -/
theorem classCode_of_infCode {f : Fmt} (hf : f.infCode.isSome) (code : Nat) : classCode f code = classOf f code := by
  have hne : f ≠ .e4m3 ∧ f ≠ .e2m1 := by
    constructor
    · rintro rfl
      cases hf
    · rintro rfl
      cases hf
  have hexp : 1 ≠ 2 ^ f.expw := by
    cases f with
    | fp32 => decide
    | bf16 => decide
    | fp16 => decide
    | e5m2 => decide
    | _ => cases hf
  rw [classCode_eq_classNum, fmtValue_of_infCode hf, classOf, ← toNat_sign_bit]
  by_cases h0 : code / 2 ^ f.man % 2 ^ f.expw = 0
  · simp [h0, hexp, classNum_subnormal]
  · by_cases htop : code / 2 ^ f.man % 2 ^ f.expw + 1 = 2 ^ f.expw
    · by_cases hm : code % 2 ^ f.man = 0
      · simp [h0, htop, hm, hne, classNum_inf]
      · simp [h0, htop, hm, hne, classNum_nan]
    · simp [h0, htop, classNum_ofScaled]

/-- The class of an E4M3 code: of the top exponent, mantissa 7 alone is NaN. -/
theorem classCode_e4m3 (code : Nat) : classCode .e4m3 code = classOf .e4m3 code := by
  rw [classCode_eq_classNum, fmtValue, classOf, ← toNat_sign_bit]
  by_cases hnan : code / 2 ^ Fmt.e4m3.man % 2 ^ Fmt.e4m3.expw + 1 = 2 ^ Fmt.e4m3.expw ∧ code % 2 ^ Fmt.e4m3.man = 7
  · have h0 : code / 2 ^ Fmt.e4m3.man % 2 ^ Fmt.e4m3.expw ≠ 0 := fun h0 => absurd hnan.1 (by rw [h0]; decide)
    simp [h0, hnan, classNum_nan]
  · by_cases h0 : code / 2 ^ Fmt.e4m3.man % 2 ^ Fmt.e4m3.expw = 0
    · have hexp : 1 ≠ 2 ^ Fmt.e4m3.expw := by decide
      simp [h0, hexp, classNum_subnormal]
    · simp [h0, hnan, classNum_ofScaled]

theorem classCode_e2m1 (code : Nat) : classCode .e2m1 code = classOf .e2m1 code := by
  rw [classCode_eq_classNum, classOf, ← toNat_sign_bit]
  simp only [fmtValue]
  by_cases h0 : code / 2 ^ Fmt.e2m1.man % 2 ^ Fmt.e2m1.expw = 0
  · simp [h0, classNum_subnormal]
  · simp [h0, classNum_ofScaled]

theorem classCode_eq_classOf {f : Fmt} (hf : f.cls = .float) (code : Nat) : classCode f code = classOf f code := by
  cases f with
  | fp32 => exact classCode_of_infCode rfl code
  | bf16 => exact classCode_of_infCode rfl code
  | fp16 => exact classCode_of_infCode rfl code
  | e5m2 => exact classCode_of_infCode rfl code
  | e4m3 => exact classCode_e4m3 code
  | e2m1 => exact classCode_e2m1 code
  | _ => cases hf

theorem classOf_lt (f : Fmt) (code : Nat) : classOf f code < 10 := by
  have hsign : code / 2 ^ (f.man + f.expw) % 2 < 2 := Nat.mod_lt _ (by decide)
  simp only [classOf]
  split_ifs <;> omega

theorem cFclass_lanes (har : x.w.arity = 1) (hfn : x.w.fn = 0) (hflags : x.w.flags = 0) (ha : x.a.fmt.cls = .float)
    (hout : x.out.fmt = (intFmtOfLanes x.a.fmt.lanes).getD .raw) :
    ∃ pay, cFclass x = .val pay 0 false ∧
      LanesAre x.a.fmt.width pay fun i => classOf x.a.fmt (laneBits x.a.fmt.width (x.a.passBits x.out).1 i) := by
  have hform : (x.w.arityN != 1 || x.w.fnN != 0 || x.w.flagsN != 0) = false := by
    simp [Slot.arityN, Slot.fnN, Slot.flagsN, har, hfn, hflags]
  have hfit : (x.a.fmt.cls != .float || x.out.fmt != (intFmtOfLanes x.a.fmt.lanes).getD .raw) = false := by simp [ha, hout]
  have hwidth : 10 ≤ 2 ^ x.a.fmt.width := by cases x.a.fmt <;> decide
  have hlanes := lanesAre_ofDigits (g := fun i => classCode x.a.fmt (laneOf x.a.fmt (x.a.passBits x.out).1 i)) x.a.fmt.width_mul_lanes
    fun i _ => (classCode_eq_classOf ha _ ▸ classOf_lt _ _).trans_le hwidth
  rw [← foldl_place_eq_ofDigits] at hlanes
  refine ⟨_, ?_, lanesAre_congr hlanes fun i _ => classCode_eq_classOf ha _⟩
  simp only [cFclass, hform, hfit, Fmt.width_of_lanes]
  rfl

end Sys2Proof
end

section
/-! SUPPORT. Dot products, magnitudes, comparisons and selection (R123 to R127). -/
namespace Sys2Proof
open Sys2Proof.Claims

variable {x : FireIn}

/-! ## Dot products (R82, R123) -/

/-- The input of a dot product: a and b with as many lanes, a whole number of them to each result lane, and c with those of the result. -/
structure DotFit (x : FireIn) : Prop where
  fn : x.w.fn = 0
  flags : x.w.flags = 0
  fmts : ∀ o ∈ x.ops, o.fmt.cls = .float
  out : x.out.fmt.cls = .float
  arity : x.w.arity.toNat = x.ops.length
  count : x.ops.length = 2 ∨ x.ops.length = 3
  same : x.b.fmt.lanes = x.a.fmt.lanes
  whole : x.a.fmt.lanes % x.out.fmt.lanes = 0
  third : x.ops.length = 3 → x.c.fmt.lanes = x.out.fmt.lanes

/-- Lane `j` of a dot product: its code and the causes of its scales. -/
def dotLane (x : FireIn) (j : Nat) : Nat × Nat :=
  let g := x.a.fmt.lanes / x.out.fmt.lanes
  let ps := (List.range g).map fun i => ((x.a.lane false (j * g + i)), (x.b.lane false (j * g + i)))
  let c := if x.w.arityN == 3 then [x.c.lane false j] else []
  let t := sumExact x.out.round ((ps.map fun p => p.1.1.mul p.2.1) ++ c.map (·.1))
  let r := encodeLane x.out false x.outSc j t
  (r.1, c.foldl (fun m y => m ||| y.2) (ps.foldl (fun m p => m ||| p.1.2 ||| p.2.2) r.2))

/-- The addends of lane `j`: the products of its lanes, and c. -/
def dotTerms (x : FireIn) (j : Nat) : List Num :=
  let g := x.a.fmt.lanes / x.out.fmt.lanes
  (List.range g).map (fun i => (floatLane x 0 (j * g + i)).mul (floatLane x 1 (j * g + i))) ++
    if x.ops.length = 3 then [floatLane x 2 j] else []

section
variable (h : DotFit x)
include h

theorem dotLane_code (j : Nat) : (dotLane x j).1 = (encodeLane x.out false x.outSc j (sumExact x.out.round (dotTerms x j))).1 := by
  simp only [dotLane, dotTerms, Slot.arityN, h.arity, beq_iff_eq, List.map_map]
  split <;> rfl

theorem cFdot_eq : cFdot x = .ofPair (joinLanes x.out.fmt ((List.range x.out.fmt.lanes).map (dotLane x))) := by
  have hform : ((x.w.arityN != 2 && x.w.arityN != 3) || x.w.fnN != 0 || x.w.flagsN != 0) = false := by
    rcases h.count with h2 | h3
    · simp [Slot.arityN, Slot.fnN, Slot.flagsN, h.arity, h2, h.fn, h.flags]
    · simp [Slot.arityN, Slot.fnN, Slot.flagsN, h.arity, h3, h.fn, h.flags]
  have hops : (x.ops.all fun o => o.fmt.cls == .float) = true := List.all_eq_true.mpr fun o ho => by simp [h.fmts o ho]
  have hthird : (x.w.arityN == 3 && x.c.fmt.lanes != x.out.fmt.lanes) = false := by
    by_cases h3 : x.ops.length = 3
    · simp [h.third h3]
    · simp [Slot.arityN, h.arity, h3]
  have hfit : (!(x.ops.all fun o => o.fmt.cls == .float) || x.out.fmt.cls != .float || x.b.fmt.lanes != x.a.fmt.lanes ||
      x.a.fmt.lanes % x.out.fmt.lanes != 0 || (x.w.arityN == 3 && x.c.fmt.lanes != x.out.fmt.lanes)) = false := by
    simp [hops, h.out, h.same, h.whole, hthird]
  simp only [cFdot, hform, hfit]
  rfl

end

theorem mem_dotTerms_product {j i : Nat} (hi : i < x.a.fmt.lanes / x.out.fmt.lanes) :
    (floatLane x 0 (j * (x.a.fmt.lanes / x.out.fmt.lanes) + i)).mul (floatLane x 1 (j * (x.a.fmt.lanes / x.out.fmt.lanes) + i)) ∈
      dotTerms x j :=
  List.mem_append_left _ (List.mem_map.mpr ⟨i, List.mem_range.mpr hi, rfl⟩)

theorem mem_dotTerms_third (h3 : x.ops.length = 3) (j : Nat) : floatLane x 2 j ∈ dotTerms x j := by
  simp [dotTerms, h3]

theorem mul_isNan {a b : Num} (h : a.isNan = true ∨ b.isNan = true) : (a.mul b).isNan = true :=
  (mul_isProduct a b).1 (h.imp_right .inl)

theorem denPos_dotTerms (hx : Sound x) {j : Nat} {v : Num} (hv : v ∈ dotTerms x j) : v.DenPos := by
  rcases List.mem_append.mp hv with hp | hc
  · obtain ⟨i, -, rfl⟩ := List.mem_map.mp hp
    exact (denPos_floatLane hx 0 _).mul (denPos_floatLane hx 1 _)
  · split at hc
    · exact List.mem_singleton.mp hc ▸ denPos_floatLane hx 2 j
    · cases hc

theorem ratOf_mul {a b : Num} {p q : Rat} (ha : ratOf a = some p) (hb : ratOf b = some q) : ratOf (a.mul b) = some (p * q) :=
  ((mul_isProduct a b).2.2 p q ha hb).1

/-- The values of the addends, where the lanes are finite. -/
theorem ratOf_dotTerms {j : Nat} {A B : Nat → Rat} {C : Rat}
    (hab : ∀ i < x.a.fmt.lanes / x.out.fmt.lanes, ratOf (floatLane x 0 (j * (x.a.fmt.lanes / x.out.fmt.lanes) + i)) = some (A i) ∧
      ratOf (floatLane x 1 (j * (x.a.fmt.lanes / x.out.fmt.lanes) + i)) = some (B i))
    (hc : x.ops.length = 3 → ratOf (floatLane x 2 j) = some C) :
    (dotTerms x j).map ratOf = (((List.range (x.a.fmt.lanes / x.out.fmt.lanes)).map fun i => A i * B i) ++
      if x.ops.length = 3 then [C] else []).map some := by
  simp only [dotTerms, List.map_append, List.map_map]
  congr 1
  · refine List.map_congr_left fun i hi => ?_
    obtain ⟨ha, hb⟩ := hab i (List.mem_range.mp hi)
    exact ratOf_mul ha hb
  · split
    · next h3 => simp [hc h3]
    · rfl

theorem sum_of_ratOf {m : RoundMode} {l : List Num} {qs : List Rat} (hl : ∀ v ∈ l, v.DenPos) (h : l.map ratOf = qs.map some) :
    ratOf (sumExact m l) = some qs.sum := by
  have hf : ∀ v ∈ l, (ratOf v).isSome := fun v hv => by
    obtain ⟨q, -, hq⟩ := List.mem_map.mp (h ▸ List.mem_map_of_mem hv : ratOf v ∈ qs.map some)
    rw [← hq]
    rfl
  have hmap : (l.map fun v => (ratOf v).getD 0) = qs := by
    simpa [Function.comp_def] using congrArg (List.map fun o => o.getD 0) h
  rw [ratOf_sumExact hl hf, hmap]

theorem cFdot_lanes (hx : Sound x) (h : DotFit x) : FloatLanes x cFdot fun j r =>
    ((∃ i < x.a.fmt.lanes / x.out.fmt.lanes, (floatLane x 0 (j * (x.a.fmt.lanes / x.out.fmt.lanes) + i)).isNan = true ∨
        (floatLane x 1 (j * (x.a.fmt.lanes / x.out.fmt.lanes) + i)).isNan = true) ∨
      (x.ops.length = 3 ∧ (floatLane x 2 j).isNan = true) → r.isNan = true) ∧
    (∀ A B : Nat → Rat, ∀ C : Rat, (∀ i < x.a.fmt.lanes / x.out.fmt.lanes,
        ratOf (floatLane x 0 (j * (x.a.fmt.lanes / x.out.fmt.lanes) + i)) = some (A i) ∧
        ratOf (floatLane x 1 (j * (x.a.fmt.lanes / x.out.fmt.lanes) + i)) = some (B i)) →
      (x.ops.length = 2 → C = 0) → (x.ops.length = 3 → ratOf (floatLane x 2 j) = some C) →
      ratOf r = some ((List.range (x.a.fmt.lanes / x.out.fmt.lanes)).foldl (fun t i => t + A i * B i) 0 + C)) := by
  refine floatLanes_of_joined (cFdot_eq h) fun j => ⟨_, ⟨?_, ?_⟩, dotLane_code h j⟩
  · rintro (⟨i, hi, hn⟩ | ⟨h3, hn⟩)
    · exact sumExact_nan ⟨_, mem_dotTerms_product hi, mul_isNan hn⟩
    · exact sumExact_nan ⟨_, mem_dotTerms_third h3 j, hn⟩
  · intro A B C hab h2 h3
    rw [sum_of_ratOf (fun v hv => denPos_dotTerms hx hv) (ratOf_dotTerms hab h3), List.sum_append, ← List.foldl_map, ← List.sum_eq_foldl]
    congr 2
    split
    · simp
    · next hne => simp [h2 (h.count.resolve_right hne)]

/-! ## Magnitudes (R124) -/

/-- The larger of a magnitude and that of `v`. -/
def maxStep (m v : Num) : Num := if m.lt v.abs then v.abs else m

/-- The fold over finite numbers is the largest of the magnitudes and of what it starts from. -/
theorem foldl_maxStep_fin {l : List Num} (hl : ∀ v ∈ l, v.DenPos) (hf : ∀ v ∈ l, (ratOf v.abs).isSome) {m : Num} {q : Rat}
    (hm : m.DenPos) (hq : ratOf m = some q) : ∃ r, ratOf (l.foldl maxStep m) = some r ∧ q ≤ r ∧
      (r = q ∨ ∃ v ∈ l, ratOf v.abs = some r) ∧ ∀ v ∈ l, ∀ p, ratOf v.abs = some p → p ≤ r := by
  induction l generalizing m q with
  | nil => exact ⟨q, hq, le_rfl, .inl rfl, by simp⟩
  | cons v l ih =>
    obtain ⟨p, hp⟩ := Option.isSome_iff_exists.mp (hf v (by simp))
    have hv : v.abs.DenPos := (hl v (by simp)).withSign false
    have hstep : ∃ s, ratOf (maxStep m v) = some s ∧ q ≤ s ∧ p ≤ s ∧ (s = q ∨ s = p) := by
      have hlt : m.lt v.abs = true ↔ q < p := (Num.lt_iff_below hm hv).trans (below_iff_rat hq hp)
      rw [maxStep]
      split
      · next h => exact ⟨p, hp, (hlt.mp h).le, le_rfl, .inr rfl⟩
      · next h => exact ⟨q, hq, le_rfl, not_lt.mp (mt hlt.mpr h), .inl rfl⟩
    have hden : (maxStep m v).DenPos := by
      rw [maxStep]
      split
      · exact hv
      · exact hm
    obtain ⟨s, hs, hqs, hps, hor⟩ := hstep
    obtain ⟨r, hr, hsr, hfrom, hall⟩ := ih (fun u hu => hl u (by simp [hu])) (fun u hu => hf u (by simp [hu])) hden hs
    refine ⟨r, hr, hqs.trans hsr, ?_, ?_⟩
    · rcases hfrom with rfl | ⟨u, hu, hur⟩
      · rcases hor with h | h
        · exact .inl h
        · exact .inr ⟨v, by simp, h ▸ hp⟩
      · exact .inr ⟨u, by simp [hu], hur⟩
    · intro u hu p' hp'
      rcases List.mem_cons.mp hu with rfl | hu
      · cases hp.symm.trans hp'
        exact hps.trans hsr
      · exact hall u hu p' hp'

/-- The largest of the magnitudes of finite numbers, 0 where there are none. -/
theorem maxAbs_fin {l : List Num} (hl : ∀ v ∈ l, v.DenPos) (hf : ∀ v ∈ l, (ratOf v.abs).isSome) :
    ∃ q, ratOf (maxAbs l) = some q ∧ 0 ≤ q ∧ (q = 0 ∨ ∃ v ∈ l, ratOf v.abs = some q) ∧ ∀ v ∈ l, ∀ p, ratOf v.abs = some p → p ≤ q :=
  foldl_maxStep_fin hl hf (fun s n d h => by cases h; decide) (by simp [ratOf])

theorem maxStep_inf (v : Num) : maxStep (.inf false) v = .inf false := by
  have h : (Num.inf false).lt v.abs = false := by cases v <;> rfl
  simp [maxStep, h]

theorem foldl_maxStep_inf (l : List Num) : l.foldl maxStep (.inf false) = .inf false := by
  induction l with
  | nil => rfl
  | cons v l ih => rw [List.foldl_cons, maxStep_inf, ih]

/-- Of numbers, an infinity among them, the largest magnitude is infinite. -/
theorem foldl_maxStep_of_inf {l : List Num} (hl : ∀ v ∈ l, v.isNan = false) (hi : ∃ v ∈ l, v.isInf = true) {n d : Nat} :
    l.foldl maxStep (.fin false n d) = .inf false := by
  induction l generalizing n d with
  | nil => simp at hi
  | cons v l ih =>
    cases v with
    | nan s => simp at hl
    | inf s => exact foldl_maxStep_inf l
    | fin s k e =>
      have hrest : ∃ v ∈ l, v.isInf = true := by simpa using hi
      have ih' := fun {n d} => ih (fun u hu => hl u (by simp [hu])) hrest (n := n) (d := d)
      rw [List.foldl_cons, maxStep]
      split
      · exact ih'
      · exact ih'

/-- The lanes that AMAX looks at: those of a, and lane 0 of b with arity 2. -/
def amaxLanes (x : FireIn) : List (Num × Nat) :=
  ((List.range x.a.fmt.lanes).map fun i => x.a.lane false i) ++ if x.w.arityN == 2 then [x.b.lane false 0] else []

/-- A value that AMAX sees. -/
def AmaxSees (x : FireIn) (l : Num) : Prop := (∃ i < x.a.fmt.lanes, floatLane x 0 i = l) ∨ (x.w.arity = 2 ∧ floatLane x 1 0 = l)

theorem mem_amaxLanes {l : Num} : l ∈ (amaxLanes x).map (·.1) ↔ AmaxSees x l := by
  have h2 : (x.w.arityN == 2) = true ↔ x.w.arity = 2 := beq_iff_eq.trans (BitVec.toNat_inj (y := 2#2))
  rw [amaxLanes, List.map_append, List.mem_append, List.map_map]
  refine or_congr (by simp [floatLane, FireIn.a]) ?_
  split
  · next h => simp [h2.mp h, floatLane, FireIn.b, eq_comm (a := l)]
  · next h => exact iff_of_false (by simp) fun h' => h (h2.mpr h'.1)

/-- The magnitude that AMAX finds. -/
def amaxNum (x : FireIn) : Num :=
  if x.w.flagsN == 1 then (if ((amaxLanes x).map (·.1)).any Num.isNan then .nan false else maxAbs ((amaxLanes x).map (·.1)))
  else maxAbs (((amaxLanes x).map (·.1)).filter fun y => !y.special)

theorem cAmax_eq (hfn : x.w.fn = 0) (hflags : x.w.flags.toNat ≤ 1) (ha : x.a.fmt.cls = .float) (hout : x.out.fmt.cls = .float)
    (har : x.w.arity = 1 ∨ (x.w.arity = 2 ∧ x.b.fmt = x.out.fmt)) :
    ∃ c, cAmax x = .val (outCode x 0 (amaxNum x)) c false := by
  have hflags' : ¬ 2 ≤ x.w.flagsN := by simp only [Slot.flagsN]; omega
  have hform : ((x.w.arityN != 1 && x.w.arityN != 2) || x.w.fnN != 0 || decide (2 ≤ x.w.flagsN)) = false := by
    rcases har with h1 | ⟨h2, -⟩
    · simp [Slot.arityN, Slot.fnN, h1, hfn, hflags']
    · simp [Slot.arityN, Slot.fnN, h2, hfn, hflags']
  have hfit : (x.a.fmt.cls != .float || x.out.fmt.cls != .float || (x.w.arityN == 2 && x.b.fmt != x.out.fmt)) = false := by
    rcases har with h1 | ⟨-, hb⟩
    · simp [Slot.arityN, ha, hout, h1]
    · simp [ha, hout, hb]
  simp only [cAmax, hform, hfit]
  exact ⟨_, rfl⟩

theorem amaxNum_finite (hx : Sound x) (hflags : x.w.flags = 0) : ∃ q, ratOf (amaxNum x) = some q ∧ 0 ≤ q ∧
    (q = 0 ∨ ∃ l, AmaxSees x l ∧ ratOf l.abs = some q) ∧ ∀ l p, AmaxSees x l → ratOf l.abs = some p → p ≤ q := by
  have hnum : amaxNum x = maxAbs (((amaxLanes x).map (·.1)).filter fun y => !y.special) := by
    simp [amaxNum, Slot.flagsN, hflags]
  have hmem : ∀ l, (l ∈ ((amaxLanes x).map (·.1)).filter fun y => !y.special) ↔ AmaxSees x l ∧ (ratOf l.abs).isSome := fun l => by
    rw [List.mem_filter, mem_amaxLanes]
    cases l <;> simp [Num.special, Num.abs, Num.withSign, ratOf]
  have hden : ∀ l, AmaxSees x l → l.DenPos := by
    rintro l (⟨i, -, rfl⟩ | ⟨-, rfl⟩)
    · exact denPos_floatLane hx 0 i
    · exact denPos_floatLane hx 1 0
  obtain ⟨q, hq, hpos, hfrom, hall⟩ := maxAbs_fin (fun v hv => hden v ((hmem v).mp hv).1) fun v hv => ((hmem v).mp hv).2
  refine ⟨q, hnum ▸ hq, hpos, ?_, fun l p hl hp => hall l ((hmem l).mpr ⟨hl, by simp [hp]⟩) p hp⟩
  exact hfrom.imp_right fun ⟨v, hv, hvq⟩ => ⟨v, ((hmem v).mp hv).1, hvq⟩

theorem amaxNum_every (hflags : x.w.flags = 1) : ((∃ l, AmaxSees x l ∧ l.isNan = true) → (amaxNum x).isNan = true) ∧
    ((∀ l, AmaxSees x l → l.isNan = false) → (∃ l, AmaxSees x l ∧ l.isInf = true) → amaxNum x = .inf false) := by
  have hnum : amaxNum x = if ((amaxLanes x).map (·.1)).any Num.isNan then .nan false else maxAbs ((amaxLanes x).map (·.1)) := by
    simp [amaxNum, Slot.flagsN, hflags]
  constructor
  · rintro ⟨l, hl, hn⟩
    rw [hnum, if_pos (List.any_eq_true.mpr ⟨l, mem_amaxLanes.mpr hl, hn⟩)]
    rfl
  · rintro hn ⟨l, hl, hi⟩
    have hnan : ∀ v ∈ (amaxLanes x).map (·.1), v.isNan = false := fun v hv => hn v (mem_amaxLanes.mp hv)
    have hany : ((amaxLanes x).map (·.1)).any Num.isNan = false := List.any_eq_false.mpr fun v hv => by simp [hnan v hv]
    rw [hnum, hany]
    exact foldl_maxStep_of_inf hnan ⟨l, mem_amaxLanes.mpr hl, hi⟩

end Sys2Proof
end

section
/-! SUPPORT. Comparison and selection (R125 to R127). -/
namespace Sys2Proof
open Sys2Proof.Claims

variable {x : FireIn}

/-! ## The form of a comparison's result (R126) -/

/-- A result with the causes given in place of its own. -/
def CRes.withCauses (c : Nat) : CRes → CRes
  | .val v _ d => .val v c d
  | r => r

theorem Claims.Compared.withCauses {n : Nat} {P : Nat → Prop} {r : CRes} (h : Compared x n P r) (c : Nat) :
    Compared x n P (r.withCauses c) := by
  obtain ⟨hmask, hany, hall⟩ := h
  refine ⟨fun hf ho => ?_, fun hf ho => ?_, fun hf ho => ?_⟩
  · obtain ⟨pay, c', rfl, hpay⟩ := hmask hf ho
    exact ⟨pay, c, rfl, hpay⟩
  · obtain ⟨h1, h0⟩ := hany hf ho
    refine ⟨fun hex => ?_, fun hno => ?_⟩
    · obtain ⟨c', rfl⟩ := h1 hex
      exact ⟨c, rfl⟩
    · obtain ⟨c', rfl⟩ := h0 hno
      exact ⟨c, rfl⟩
  · obtain ⟨h1, h0⟩ := hall hf ho
    refine ⟨fun hex => ?_, fun hno => ?_⟩
    · obtain ⟨c', rfl⟩ := h1 hex
      exact ⟨c, rfl⟩
    · obtain ⟨c', rfl⟩ := h0 hno
      exact ⟨c, rfl⟩

/-- Lanes of comparisons as a mask, as their OR or as their AND. -/
theorem cmpResult_compared (x : FireIn) (f : Fmt) {res : Nat → Bool} {P : Nat → Prop} (hP : ∀ i < f.lanes, res i = true ↔ P i) :
    Compared x f.lanes P (cmpResult x f.lanes ((List.range f.lanes).map res)) := by
  have hany : ((List.range f.lanes).map res).any id = true ↔ ∃ i, i < f.lanes ∧ P i := by
    simp only [List.any_map, List.any_eq_true, List.mem_range, Function.comp_apply, id_eq]
    exact exists_congr fun i => and_congr_right fun hi => hP i hi
  have hall : ((List.range f.lanes).map res).all id = true ↔ ∀ i, i < f.lanes → P i := by
    simp only [List.all_map, List.all_eq_true, List.mem_range, Function.comp_apply, id_eq]
    exact forall₂_congr hP
  refine ⟨fun hflags hout => ?mask, fun hflags hout => ?any, fun hflags hout => ?all⟩
  case mask =>
    have hfmt : x.out.fmt = (intFmtOfLanes f.lanes).getD .raw := hout.trans (by cases f <;> rfl)
    have hlanes := lanesAre_ofDigits (w := f.width) (g := fun i => if res i then 2 ^ f.width - 1 else 0) f.width_mul_lanes
      fun i _ => by have := Nat.two_pow_pos f.width; split <;> omega
    have hval : cmpResult x f.lanes ((List.range f.lanes).map res) =
        .val (Nat.ofDigits (2 ^ f.width) ((List.range f.lanes).map fun i => if res i then 2 ^ f.width - 1 else 0)) 0 false := by
      have hfold := foldr_place_eq_ofDigits f.width (fun b => if b then 2 ^ f.width - 1 else 0) ((List.range f.lanes).map res)
      rw [List.map_map] at hfold
      have hzero : (x.w.flagsN == 0) = true := by simp [Slot.flagsN, hflags]
      have hsame : (x.out.fmt != (intFmtOfLanes f.lanes).getD .raw) = false := by simp [hfmt]
      rw [cmpResult, if_pos hzero]
      simp only [hsame, Fmt.width_of_lanes, hfold]
      rfl
    refine ⟨_, _, hval, hlanes.1, fun i hi => ?_⟩
    rw [f.width_of_lanes, hlanes.2 i hi, ← hP i hi]
    exact ⟨fun h => if_pos h, fun h => if_neg h⟩
  case any =>
    have hval : cmpResult x f.lanes ((List.range f.lanes).map res) =
        .val (if ((List.range f.lanes).map res).any id then 1 else 0) 0 false := by
      simp [cmpResult, Slot.flagsN, hflags, hout]
    rw [hval]
    exact ⟨fun h => ⟨0, by rw [if_pos (hany.mpr h)]⟩, fun h => ⟨0, by
      rw [if_neg fun h' => (hany.mp h').elim fun i hi => h i hi.1 hi.2]⟩⟩
  case all =>
    have hval : cmpResult x f.lanes ((List.range f.lanes).map res) =
        .val (if ((List.range f.lanes).map res).all id then 1 else 0) 0 false := by
      simp [cmpResult, Slot.flagsN, hflags, hout]
    rw [hval]
    exact ⟨fun h => ⟨0, by rw [if_pos (hall.mpr h)]⟩, fun h => ⟨0, by
      rw [if_neg fun h' => h.elim fun i hi => hi.2 (hall.mp h' i hi.1)]⟩⟩

/-! ## CMP and FCMP (R125) -/

/-- The predicates of CMP as the model tests them. -/
def cmpHolds (p : Nat) (a b : Int) : Bool :=
  match p with
  | 0 => decide (a = b)
  | 1 => decide (a ≠ b)
  | 2 => decide (a < b)
  | 3 => decide (a ≤ b)
  | 4 => decide (b < a)
  | _ => decide (b ≤ a)

theorem cmpHolds_iff {p : Nat} (hp : p < 6) (a b : Int) : cmpHolds p a b = true ↔ IntPredicate p a b := by
  match p, hp with
  | 0, _ => simp [cmpHolds, IntPredicate]
  | 1, _ => simp [cmpHolds, IntPredicate]
  | 2, _ => simp [cmpHolds, IntPredicate]
  | 3, _ => simp [cmpHolds, IntPredicate]
  | 4, _ => simp [cmpHolds, IntPredicate]
  | 5, _ => simp [cmpHolds, IntPredicate]

theorem fcmpTot_iff {p : Nat} (hp : p < 6) {a b : Num} (ha : a.DenPos) (hb : b.DenPos) :
    fcmpTot p a b = true ↔ FloatPredicate p true a b := by
  have hab := rankLt_iff_rankBelow ha hb
  have hba := rankLt_iff_rankBelow hb ha
  match p, hp with
  | 0, _ => simp [fcmpTot, FloatPredicate, ← hab, ← hba]
  | 1, _ => simp [fcmpTot, FloatPredicate, ← hab, ← hba]
  | 2, _ => simp [fcmpTot, FloatPredicate, ← hab]
  | 3, _ => simp [fcmpTot, FloatPredicate, ← hba]
  | 4, _ => simp [fcmpTot, FloatPredicate, ← hba]
  | 5, _ => simp [fcmpTot, FloatPredicate, ← hab]

theorem fcmpIeee_ordered {p : Nat} (hp : p < 8) {a b : Num} (ha : a.DenPos) (hb : b.DenPos) (hna : a.isNan = false)
    (hnb : b.isNan = false) : fcmpIeee p a b = true ↔ FloatPredicate p false a b := by
  have hab := Num.lt_iff_below ha hb
  have hba := Num.lt_iff_below hb ha
  match p, hp with
  | 0, _ => simp [fcmpIeee, FloatPredicate, Num.eqv, hna, hnb, ← hab, ← hba]
  | 1, _ => simp [fcmpIeee, FloatPredicate, Num.eqv, hna, hnb, ← hab, ← hba, or_iff_not_imp_left]
  | 2, _ => simp [fcmpIeee, FloatPredicate, hna, hnb, ← hab]
  | 3, _ => simp [fcmpIeee, FloatPredicate, hna, hnb, ← hba]
  | 4, _ => simp [fcmpIeee, FloatPredicate, hna, hnb, ← hba]
  | 5, _ => simp [fcmpIeee, FloatPredicate, hna, hnb, ← hab]
  | 6, _ => simp [fcmpIeee, FloatPredicate, hna, hnb]
  | 7, _ => simp [fcmpIeee, FloatPredicate, hna, hnb]

theorem fcmpIeee_unordered {p : Nat} (hp : p < 8) {a b : Num} (hn : ¬ (a.isNan = false ∧ b.isNan = false)) :
    fcmpIeee p a b = true ↔ FloatPredicate p false a b := by
  have hun : (a.isNan || b.isNan) = true := by simpa [or_iff_not_imp_left] using hn
  have hab : ¬ Below a b := fun h => hn (below_numbers h)
  have hba : ¬ Below b a := fun h => hn (below_numbers h).symm
  have heqv : a.eqv b = false := by
    rcases Bool.or_eq_true_iff.mp hun with h | h <;> simp [Num.eqv, h]
  simp only [fcmpIeee, FloatPredicate, hun, hn, hab, hba, heqv]
  match p, hp with
  | 0, _ => simp
  | 1, _ => simp
  | 2, _ => simp
  | 3, _ => simp
  | 4, _ => simp
  | 5, _ => simp
  | 6, _ => simp
  | 7, _ => simp

theorem fcmpIeee_iff {p : Nat} (hp : p < 8) {a b : Num} (ha : a.DenPos) (hb : b.DenPos) :
    fcmpIeee p a b = true ↔ FloatPredicate p false a b := by
  by_cases hn : a.isNan = false ∧ b.isNan = false
  · exact fcmpIeee_ordered hp ha hb hn.1 hn.2
  · exact fcmpIeee_unordered hp hn

/-- Only the three forms of R126 say anything of a result. -/
theorem compared_of_flags {n : Nat} {P : Nat → Prop} {r : CRes} (h : x.w.flagsN < 3 → Compared x n P r) : Compared x n P r :=
  ⟨fun hf => (h (by simp [Slot.flagsN, hf])).1 hf, fun hf => (h (by simp [Slot.flagsN, hf])).2.1 hf,
    fun hf => (h (by simp [Slot.flagsN, hf])).2.2 hf⟩

theorem ilane_eq_laneInt (o : Opnd) (sg : Bool) (i : Nat) : o.ilane sg i = laneInt o.fmt.width sg o.bits i :=
  intValue_laneBits o.fmt.width sg o.bits i

theorem cCmp_compared (har : x.w.arity = 2) (hlanes : x.a.fmt.lanes = x.b.fmt.lanes) (hops : ∀ o ∈ x.ops, o.fmt.cls = .int)
    (hp : x.w.fn.toNat / 2 < 6) : Compared x x.a.fmt.lanes
      (fun i => IntPredicate (x.w.fn.toNat / 2) (laneInt x.a.fmt.width (x.w.fn.toNat % 2 == 1) x.a.bits i)
        (laneInt x.a.fmt.width (x.w.fn.toNat % 2 == 1) x.b.bits i)) (cCmp x) := by
  refine compared_of_flags fun hflags => ?_
  have hpred : x.w.fnN / 2 % 8 = x.w.fn.toNat / 2 := Nat.mod_eq_of_lt (by simp only [Slot.fnN]; omega)
  have hform : (x.w.arityN != 2 || decide (16 ≤ x.w.fnN) || decide (6 ≤ x.w.fnN / 2 % 8) || decide (3 ≤ x.w.flagsN)) = false := by
    have hfn : ¬ 16 ≤ x.w.fnN := by simp only [Slot.fnN]; omega
    simp [Slot.arityN, har, hfn, hpred, hp, hflags]
  have hfit : (!(x.ops.all fun o => o.fmt.cls == .int) || x.a.fmt.lanes != x.b.fmt.lanes) = false := by
    have hall : (x.ops.all fun o => o.fmt.cls == .int) = true := List.all_eq_true.mpr fun o ho => by simp [hops o ho]
    simp [hall, hlanes]
  have heq : cCmp x = cmpResult x x.a.fmt.lanes ((List.range x.a.fmt.lanes).map fun i =>
      cmpHolds (x.w.fnN / 2 % 8) (x.a.ilane x.w.signed i) (x.b.ilane x.w.signed i)) := by
    simp only [cCmp, hform, hfit]
    rfl
  rw [heq]
  refine cmpResult_compared x x.a.fmt fun i _ => ?_
  rw [hpred, cmpHolds_iff hp, ilane_eq_laneInt, ilane_eq_laneInt, ← Fmt.width_congr hlanes]
  rfl

theorem cFcmp_compared (hx : Sound x) (har : x.w.arity = 2) (hfn : x.w.fn.toNat < 16) (hlanes : x.a.fmt.lanes = x.b.fmt.lanes)
    (hops : ∀ o ∈ x.ops, o.fmt.cls = .float) (hp : 8 ≤ x.w.fn.toNat → x.w.fn.toNat % 8 < 6) : Compared x x.a.fmt.lanes
      (fun i => FloatPredicate (x.w.fn.toNat % 8) (decide (8 ≤ x.w.fn.toNat)) (floatLane x 0 i) (floatLane x 1 i)) (cFcmp x) := by
  refine compared_of_flags fun hflags => ?_
  have htot : (x.w.fnN / 8 % 2 == 1) = decide (8 ≤ x.w.fn.toNat) := by
    rw [Bool.eq_iff_iff, beq_iff_eq, decide_eq_true_eq, Slot.fnN]
    omega
  have hform : (x.w.arityN != 2 || decide (16 ≤ x.w.fnN) || (x.w.fnN / 8 % 2 == 1 && decide (6 ≤ x.w.fnN % 8)) ||
      decide (3 ≤ x.w.flagsN)) = false := by
    have hres : (x.w.fnN / 8 % 2 == 1 && decide (6 ≤ x.w.fnN % 8)) = false := by
      by_cases h8 : 8 ≤ x.w.fn.toNat
      · have hlow : decide (6 ≤ x.w.fnN % 8) = false := decide_eq_false (Nat.not_le.mpr (hp h8))
        rw [hlow, Bool.and_false]
      · rw [htot, decide_eq_false h8, Bool.false_and]
    have hsmall : decide (16 ≤ x.w.fnN) = false := decide_eq_false (Nat.not_le.mpr hfn)
    rw [hres, hsmall]
    simp [Slot.arityN, har, hflags]
  have hfit : (!(x.ops.all fun o => o.fmt.cls == .float) || x.a.fmt.lanes != x.b.fmt.lanes) = false := by
    have hall : (x.ops.all fun o => o.fmt.cls == .float) = true := List.all_eq_true.mpr fun o ho => by simp [hops o ho]
    simp [hall, hlanes]
  have heq : ∃ c, cFcmp x = (cmpResult x x.a.fmt.lanes ((List.range x.a.fmt.lanes).map fun i =>
      if x.w.fnN / 8 % 2 == 1 then fcmpTot (x.w.fnN % 8) (floatLane x 0 i) (floatLane x 1 i)
      else fcmpIeee (x.w.fnN % 8) (floatLane x 0 i) (floatLane x 1 i))).withCauses c := by
    simp only [cFcmp, hform, hfit, List.map_map]
    exact ⟨_, rfl⟩
  obtain ⟨c, hc⟩ := heq
  rw [hc]
  refine (cmpResult_compared x x.a.fmt fun i _ => ?_).withCauses c
  rw [htot]
  by_cases h8 : 8 ≤ x.w.fn.toNat
  · rw [decide_eq_true h8, if_pos rfl]
    exact fcmpTot_iff (hp h8) (hx 0 i) (hx 1 i)
  · rw [decide_eq_false h8, if_neg (by decide)]
    exact fcmpIeee_iff (Nat.mod_lt _ (by decide)) (hx 0 i) (hx 1 i)

/-! ## Selection (R127) -/

theorem cSel_lanes (har : x.w.arity = 3) (hfn : x.w.fn = 0) (hflags : x.w.flags = 0) (ha : x.a.fmt = x.out.fmt)
    (hb : x.b.fmt = x.out.fmt) (hc : x.c.fmt = .raw ∨ x.c.fmt.lanes = x.out.fmt.lanes) :
    ∃ pay c, cSel x = .val pay c false ∧ LanesAre x.out.fmt.width pay fun i =>
      if laneBits x.out.fmt.width (x.c.passBits x.out).1 i ≠ 0 then laneBits x.out.fmt.width (x.a.passBits x.out).1 i
      else laneBits x.out.fmt.width (x.b.passBits x.out).1 i := by
  have hform : (x.w.arityN != 3 || x.w.fnN != 0 || x.w.flagsN != 0) = false := by
    simp [Slot.arityN, Slot.fnN, Slot.flagsN, har, hfn, hflags]
  have hfit : (x.a.fmt != x.out.fmt || x.b.fmt != x.out.fmt || (x.c.fmt != .raw && x.c.fmt.lanes != x.out.fmt.lanes)) = false := by
    rcases hc with hc | hc
    · simp [ha, hb, hc]
    · simp [ha, hb, hc]
  have hlanes := lanesAre_ofLanes x.out.fmt fun i =>
    if laneBits x.out.fmt.width (x.c.passBits x.out).1 i != 0 then laneOf x.out.fmt (x.a.passBits x.out).1 i
    else laneOf x.out.fmt (x.b.passBits x.out).1 i
  refine ⟨_, (x.a.passBits x.out).2 ||| (x.b.passBits x.out).2, ?_, lanesAre_congr hlanes fun i _ => ?_⟩
  · simp only [cSel, hform, hfit, Fmt.width_of_lanes]
    rfl
  · simp only [bne_iff_ne]
    split
    · exact Nat.mod_mod ..
    · exact Nat.mod_mod ..

end Sys2Proof
end

section
/-! SUPPORT. The byte and hash instructions (R128 to R133). -/
namespace Sys2Proof
open Sys2Proof.Claims

variable {x : FireIn}

/-! ## Masks and first places -/

theorem mask8_eq_ofDigits (f : Nat → Bool) : mask8 f = Nat.ofDigits (2 ^ 1) ((List.range 8).map fun i => (f i).toNat) := by
  rw [← foldl_place_eq_ofDigits, mask8]
  congr 1
  funext m i
  cases f i <;> simp

theorem mask8_lt (f : Nat → Bool) : mask8 f < 2 ^ 8 := by
  rw [mask8_eq_ofDigits]
  exact ofDigits_lt (w := 1) (l := (List.range 8).map fun i => (f i).toNat) (by decide) (by simp [Bool.toNat_le])

theorem testBit_mask8 (f : Nat → Bool) {i : Nat} (hi : i < 8) : (mask8 f).testBit i = f i := by
  have hlane := laneBits_ofDigits (w := 1) (l := (List.range 8).map fun i => (f i).toNat) (by simp [Bool.toNat_le]) (i := i) (by simpa using hi)
  rw [← mask8_eq_ofDigits] at hlane
  have hbit := testBit_laneBits (w := 1) (mask8 f) i (i := 0) (by decide)
  rw [hlane, Nat.one_mul, Nat.add_zero] at hbit
  rw [← hbit]
  simp only [List.getElem_map, List.getElem_range]
  cases f i <;> rfl

/-- The first of the places 0 to 7 at which `f` holds, 8 where none does. -/
def first8 (f : Nat → Bool) : Nat := ((List.range 8).find? f).getD 8

theorem first8_spec (f : Nat → Bool) : first8 f ≤ 8 ∧ (first8 f < 8 → f (first8 f) = true) ∧ ∀ i < first8 f, f i = false := by
  rw [first8]
  cases h : (List.range 8).find? f with
  | none =>
    rw [List.find?_range_eq_none] at h
    exact ⟨le_rfl, fun h8 => absurd h8 (by simp), fun i hi => by simpa using h i hi⟩
  | some k =>
    obtain ⟨hk, hmem, hmin⟩ := List.find?_range_eq_some.mp h
    exact ⟨(List.mem_range.mp hmem).le, fun _ => hk, fun i hi => by simpa using hmin i hi⟩

/-! ## The byte instructions (R129 to R131) -/

/-- The result channel, and no flags, of the byte and hash instructions (R128). -/
structure BytesFit (x : FireIn) : Prop where
  out : x.out.fmt = .i64 ∨ x.out.fmt = .raw
  flags : x.w.flags = 0

theorem BytesFit.rawOut (h : BytesFit x) : (!rawOut x) = false := by
  rcases h.out with ho | ho <;> simp [Sys2Proof.rawOut, ho]

theorem BytesFit.flagsN (h : BytesFit x) : x.w.flagsN = 0 := by simp [Slot.flagsN, h.flags]

/-- The number of bytes that a comparison takes. -/
def cmpCount (x : FireIn) : Nat := if x.w.arityN == 3 then min x.c.raw 8 else 8

/-- Whether bytes `i` of a and b take part and differ. -/
def differAt (x : FireIn) (i : Nat) : Bool := decide (i < cmpCount x) && byteOf x.a.raw i != byteOf x.b.raw i

/-- Whether bytes `i` are equal, or take no part (R129). -/
def equalAt (x : FireIn) (i : Nat) : Bool := decide (cmpCount x ≤ i) || byteOf x.a.raw i == byteOf x.b.raw i

/-- Whether bytes `i` take part and that of a is less. -/
def lessAt (x : FireIn) (i : Nat) : Bool := decide (i < cmpCount x) && decide (byteOf x.a.raw i < byteOf x.b.raw i)

/-- Whether there is a first byte that differs, and that of a is less. -/
def lessFirst (x : FireIn) : Bool :=
  decide (first8 (differAt x) < 8) && decide (byteOf x.a.raw (first8 (differAt x)) < byteOf x.b.raw (first8 (differAt x)))

/-- The payload of BCMP from its fields. -/
def bcmpPay (x : FireIn) : Nat :=
  mask8 (equalAt x) + mask8 (lessAt x) * 2 ^ 8 + first8 (differAt x) * 2 ^ 16 + (if lessFirst x then 1 else 0) * 2 ^ 24

theorem cBcmp_eq (h : BytesFit x) (hfn : x.w.fn = 0) (har : x.w.arity = 2 ∨ x.w.arity = 3) : cBcmp x = .val (bcmpPay x) 0 false := by
  have hform : ((x.w.arityN != 2 && x.w.arityN != 3) || x.w.fnN != 0 || x.w.flagsN != 0) = false := by
    rcases har with h2 | h3
    · simp [Slot.arityN, Slot.fnN, h2, hfn, h.flagsN]
    · simp [Slot.arityN, Slot.fnN, h3, hfn, h.flagsN]
  simp only [cBcmp, hform, h.rawOut]
  rfl

/-- Fields of 8, 8, 8 and 1 bits joined into a payload. -/
theorem fields_8_8_8_1 {e l f t : Nat} (he : e < 2 ^ 8) (hl : l < 2 ^ 8) (hf : f < 2 ^ 8) (ht : t < 2) :
    laneBits 8 (e + l * 2 ^ 8 + f * 2 ^ 16 + t * 2 ^ 24) 0 = e ∧ laneBits 8 (e + l * 2 ^ 8 + f * 2 ^ 16 + t * 2 ^ 24) 1 = l ∧
      laneBits 8 (e + l * 2 ^ 8 + f * 2 ^ 16 + t * 2 ^ 24) 2 = f ∧ laneBits 8 (e + l * 2 ^ 8 + f * 2 ^ 16 + t * 2 ^ 24) 3 = t ∧
      e + l * 2 ^ 8 + f * 2 ^ 16 + t * 2 ^ 24 < 2 ^ 25 := by
  simp only [laneBits]
  omega

theorem cBcmp_fields (h : BytesFit x) (hfn : x.w.fn = 0) (har : x.w.arity = 2 ∨ x.w.arity = 3) :
    let n := if x.w.arity = 3 then min x.c.raw 8 else 8
    ∃ pay first, cBcmp x = .val pay 0 false ∧ pay < 2 ^ 25 ∧ pay / 2 ^ 16 % 2 ^ 8 = first ∧
      (∀ i < 8, (pay.testBit i = true ↔ n ≤ i ∨ byteOf x.a.raw i = byteOf x.b.raw i) ∧
        (pay.testBit (8 + i) = true ↔ i < n ∧ byteOf x.a.raw i < byteOf x.b.raw i)) ∧
      (∀ i < first, i < n → byteOf x.a.raw i = byteOf x.b.raw i) ∧
      (first = 8 ∨ (first < n ∧ byteOf x.a.raw first ≠ byteOf x.b.raw first)) ∧
      (pay.testBit 24 = true ↔ first < 8 ∧ byteOf x.a.raw first < byteOf x.b.raw first) := by
  intro n
  have hn : cmpCount x = n := by
    rcases har with h2 | h3
    · simp [n, cmpCount, Slot.arityN, h2]
    · simp [n, cmpCount, Slot.arityN, h3]
  obtain ⟨hle, hfirst, hbefore⟩ := first8_spec (differAt x)
  obtain ⟨hequal, hless, hplace, hlt, hpay⟩ := fields_8_8_8_1 (mask8_lt (equalAt x)) (mask8_lt (lessAt x))
    (hle.trans_lt (by decide)) (show (if lessFirst x then 1 else 0) < 2 by split <;> decide)
  refine ⟨bcmpPay x, first8 (differAt x), cBcmp_eq h hfn har, hpay, hplace, fun i hi => ⟨?_, ?_⟩, fun i hi hin => ?_, ?_, ?_⟩
  · have hbit := testBit_laneBits (w := 8) (bcmpPay x) 0 hi
    rw [Nat.zero_add] at hbit
    rw [← hbit, bcmpPay, hequal, testBit_mask8 _ hi]
    simp [equalAt, hn]
  · rw [← testBit_laneBits (w := 8) (bcmpPay x) 1 hi, bcmpPay, hless, testBit_mask8 _ hi]
    simp [lessAt, hn]
  · simpa [differAt, hn, hin] using hbefore i hi
  · rcases Nat.lt_or_ge (first8 (differAt x)) 8 with h8 | h8
    · exact .inr (by simpa [differAt, hn] using hfirst h8)
    · exact .inl (by omega)
  · rw [← testBit_laneBits (w := 8) (i := 0) (bcmpPay x) 3 (by decide), bcmpPay, hlt]
    have hflag : ∀ b : Bool, (if b then 1 else 0).testBit 0 = b := by decide
    rw [hflag]
    simp [lessFirst]

/-! BFIND (R130). -/

/-- Whether byte `i` of a matches. -/
def matchAt (x : FireIn) (i : Nat) : Bool :=
  match x.w.fnN with
  | 0 => byteOf x.a.raw i == byteOf x.b.raw 0
  | 1 => byteOf x.a.raw i != byteOf x.b.raw 0
  | _ => decide (byteOf x.b.raw 0 ≤ byteOf x.a.raw i) && decide (byteOf x.a.raw i ≤ byteOf x.b.raw 1)

theorem matchAt_iff (hfn : x.w.fn.toNat ≤ 2) (i : Nat) : matchAt x i = true ↔
    if x.w.fn = 0 then byteOf x.a.raw i = byteOf x.b.raw 0 else if x.w.fn = 1 then byteOf x.a.raw i ≠ byteOf x.b.raw 0
    else byteOf x.b.raw 0 ≤ byteOf x.a.raw i ∧ byteOf x.a.raw i ≤ byteOf x.b.raw 1 := by
  have hcases : x.w.fn = 0 ∨ x.w.fn = 1 ∨ x.w.fn = 2 := by bv_omega
  rcases hcases with hf | hf | hf
  · simp [matchAt, Slot.fnN, hf]
  · simp [matchAt, Slot.fnN, hf]
  · simp [matchAt, Slot.fnN, hf]

theorem cBfind_eq (h : BytesFit x) (hfn : x.w.fn.toNat ≤ 2) (har : x.w.arity = 2) :
    cBfind x = .val (mask8 (matchAt x) + first8 (matchAt x) * 2 ^ 8 + popcount 8 (mask8 (matchAt x)) * 2 ^ 12) 0 false := by
  have hform : (x.w.arityN != 2 || decide (3 ≤ x.w.fnN) || x.w.flagsN != 0) = false := by
    have hfn3 : ¬ 3 ≤ x.w.fnN := by simp only [Slot.fnN]; omega
    simp [Slot.arityN, har, hfn3, h.flagsN]
  simp only [cBfind, hform, h.rawOut]
  rfl

theorem cBfind_fields (h : BytesFit x) (hfn : x.w.fn.toNat ≤ 2) (har : x.w.arity = 2) {found : Nat → Prop}
    (hfound : ∀ i, matchAt x i = true ↔ found i) :
    ∃ pay, cBfind x = .val pay 0 false ∧ pay < 2 ^ 16 ∧ (∀ i < 8, pay.testBit i = true ↔ found i) ∧
      (pay / 2 ^ 8 % 2 ^ 4 < 8 → found (pay / 2 ^ 8 % 2 ^ 4)) ∧ pay / 2 ^ 8 % 2 ^ 4 ≤ 8 ∧ (∀ i < pay / 2 ^ 8 % 2 ^ 4, ¬ found i) ∧
      pay / 2 ^ 12 = (List.range 8).countP fun i => pay.testBit i := by
  obtain ⟨hle, hfirst, hbefore⟩ := first8_spec (matchAt x)
  have hmask := mask8_lt (matchAt x)
  have hcount : popcount 8 (mask8 (matchAt x)) ≤ 8 := by
    rw [popcount_eq_countP]
    exact (List.countP_le_length ..).trans_eq List.length_range
  refine ⟨_, cBfind_eq h hfn har, by omega, ?_⟩
  generalize hpay : mask8 (matchAt x) + first8 (matchAt x) * 2 ^ 8 + popcount 8 (mask8 (matchAt x)) * 2 ^ 12 = pay
  have hlow : laneBits 8 pay 0 = mask8 (matchAt x) := by simp only [laneBits]; omega
  have hplace : pay / 2 ^ 8 % 2 ^ 4 = first8 (matchAt x) := by omega
  have hbit : ∀ i < 8, pay.testBit i = matchAt x i := fun i hi => by
    rw [← testBit_mask8 (matchAt x) hi, ← hlow, testBit_laneBits pay 0 hi, Nat.mul_zero, Nat.zero_add]
  rw [hplace]
  refine ⟨fun i hi => by rw [hbit i hi, hfound], fun h8 => (hfound _).mp (hfirst h8), hle, fun i hi => ?_, ?_⟩
  · rw [← hfound, hbefore i hi]
    decide
  · have hpop : pay / 2 ^ 12 = popcount 8 (mask8 (matchAt x)) := by omega
    rw [hpop, popcount_eq_countP]
    exact List.countP_congr fun i hi => by
      rw [hbit i (List.mem_range.mp hi), testBit_mask8 _ (List.mem_range.mp hi)]

/-! BPERM (R131). -/

/-- Byte `i` of the result of BPERM. -/
def permByte (x : FireIn) (i : Nat) : Nat :=
  if 128 ≤ byteOf x.b.raw i then 0
  else if byteOf x.b.raw i % 16 < 8 then byteOf x.a.raw (byteOf x.b.raw i % 16)
  else if x.w.arityN == 3 then byteOf x.c.raw (byteOf x.b.raw i % 16 - 8) else 0

theorem permByte_lt (i : Nat) : permByte x i < 2 ^ 8 := by
  have hbyte : ∀ p k, byteOf p k < 2 ^ 8 := fun p k => Nat.mod_lt _ (by decide)
  unfold permByte
  split
  · decide
  · split
    · exact hbyte ..
    · split
      · exact hbyte ..
      · decide

theorem permByte_eq (har : x.w.arity = 2 ∨ x.w.arity = 3) (i : Nat) : permByte x i =
    if 128 ≤ byteOf x.b.raw i then 0
    else if byteOf x.b.raw i % 16 < 8 then byteOf x.a.raw (byteOf x.b.raw i % 16)
    else if x.w.arity = 3 then byteOf x.c.raw (byteOf x.b.raw i % 16 - 8) else 0 := by
  rcases har with h2 | h3
  · simp [permByte, Slot.arityN, h2]
  · simp [permByte, Slot.arityN, h3]

theorem cBperm_bytes (h : BytesFit x) (hfn : x.w.fn = 0) (har : x.w.arity = 2 ∨ x.w.arity = 3) :
    ∃ pay, cBperm x = .val pay 0 false ∧ pay < 2 ^ 64 ∧ ∀ i < 8, byteOf pay i = permByte x i := by
  have hform : ((x.w.arityN != 2 && x.w.arityN != 3) || x.w.fnN != 0 || x.w.flagsN != 0) = false := by
    rcases har with h2 | h3
    · simp [Slot.arityN, Slot.fnN, h2, hfn, h.flagsN]
    · simp [Slot.arityN, Slot.fnN, h3, hfn, h.flagsN]
  have hlanes := lanesAre_ofDigits (w := 8) (n := 8) (g := permByte x) rfl fun i _ => permByte_lt i
  rw [← foldl_place_eq_ofDigits] at hlanes
  refine ⟨_, ?_, hlanes.1, hlanes.2⟩
  simp only [cBperm, hform, h.rawOut]
  rfl

/-! ## Hashes (R132, R133) -/

theorem hash64_eq_hashOf (a b : Word) : hash64 a b = hashOf a b := rfl

theorem cHash64_eq (h : BytesFit x) (hfn : x.w.fn = 0) (har : x.w.arity = 1 ∨ x.w.arity = 2) :
    cHash64 x = .val (hashOf (BitVec.ofNat 64 x.a.raw) (if x.w.arity = 2 then BitVec.ofNat 64 x.b.raw else 0)).toNat 0 false := by
  rcases har with h1 | h2
  · simp [cHash64, Slot.arityN, Slot.fnN, h1, hfn, h.flagsN, h.rawOut, hash64_eq_hashOf]
  · simp [cHash64, Slot.arityN, Slot.fnN, h2, hfn, h.flagsN, h.rawOut, hash64_eq_hashOf]

theorem crcBit_eq_crcTurn (c : Nat) : crcBit c = crcTurn c := by simp [crcBit, crcTurn]

theorem foldl_crcByte (a c n : Nat) : (List.range n).foldl (fun c i => crcByte c (byteAt a i)) c = crcOf a c n := by
  induction n with
  | zero => rfl
  | succ n ih =>
    rw [List.range_succ, List.foldl_append, ih]
    simp only [List.foldl_cons, List.foldl_nil, crcByte, crcBit_eq_crcTurn]
    rfl

theorem cCrc32c_eq (h : BytesFit x) (hfn : x.w.fn.toNat < 8) (har : x.w.arity = 2) :
    cCrc32c x = .val (crcOf x.a.raw (x.b.raw % 2 ^ 32) (x.w.fn.toNat + 1)) 0 false := by
  have hform : (x.w.arityN != 2 || decide (8 ≤ x.w.fnN) || x.w.flagsN != 0) = false := by
    have hfn8 : ¬ 8 ≤ x.w.fnN := Nat.not_le.mpr hfn
    simp [Slot.arityN, har, hfn8, h.flagsN]
  simp only [cCrc32c, hform, h.rawOut, foldl_crcByte]
  rfl

end Sys2Proof
end

section
/-! SUPPORT. O24: the compute instructions lane by lane (R113 to R133), assembled. -/
namespace Sys2Proof
open Sys2Proof.Claims

/-- Settles O24: each instruction's result by its own lemma, on one 64-bit lane, on integer lanes, on float lanes and on bytes. -/
theorem integerElementsComputeTheirLane : Obligations.IntegerElementsComputeTheirLane := by
  unfold Obligations.IntegerElementsComputeTheirLane
  intro x a b c sg is hfn
  refine ⟨fun h => ?words2, fun h => cMad_word ⟨hfn, h⟩, fun h => ?words1, fun w => ?lanes, fun hx hflags => ?floats,
    fun hflags hsrc hdst hsig => ?conversion, fun har hf hflags ha hout => ?classes,
    fun hx hf hflags hops hout har hn hb hwhole hc => ?dot, fun hx hf ha hout hflags har => ?amax,
    fun har hcount hf hlanes => ?compare, cSel_lanes, fun hout hflags => ?bytes⟩
  case words2 =>
    have h : WordsFit x 2 := ⟨hfn, h⟩
    refine ⟨cAdd_word h, cSub_word h, cMul_word h, cAnd_word h, cOr_word h, cXor_word h, cAndn_word h, cShl_word h, cShr_word h,
      cSar_word h, cRot_word h, fun hs => ⟨cMulhi_word_signed h hs, ?_, ?_, cDiv_cRem_word_signed h hs⟩,
      fun hs => ⟨cMulhi_word_unsigned h (hfn.resolve_right hs), ?_, ?_, cDiv_cRem_word_unsigned h (hfn.resolve_right hs)⟩⟩
    · simpa [intLane_signed hs] using cMin_word h
    · simpa [intLane_signed hs] using cMax_word h
    · simpa [intLane_unsigned (hfn.resolve_right hs)] using cMin_word h
    · simpa [intLane_unsigned (hfn.resolve_right hs)] using cMax_word h
  case words1 =>
    have h : WordsFit x 1 := ⟨hfn, h⟩
    exact ⟨cClz_word h, cPopc_word h, cAbs_word h⟩
  case lanes =>
    intro s1 v u lanes n
    refine ⟨fun h => ⟨intOp_lanes h hfn (.inl rfl) _, intOp_lanes h hfn (.inl rfl) _, intOp_lanes h hfn (.inl rfl) _,
        intOp_lanes h hfn (.inl rfl) _, intOp_lanes h hfn (.inl rfl) _, cShr_lanes hfn h, cSar_lanes hfn h, cRot_lanes hfn h,
        cMin_lanes hfn h, cMax_lanes hfn h, cDiv_cRem_lanes hfn h⟩, ?_, fun h => intOp_lanes h hfn (.inl rfl) _,
      fun h => ⟨cClz_lanes hfn h, cPopc_lanes hfn h, intOp_lanes h hfn (.inl rfl) _⟩⟩
    rintro (h | h)
    · exact ⟨cAnd_lanes hfn h (.inl rfl), cOr_lanes hfn h (.inl rfl), cXor_lanes hfn h (.inl rfl), cAndn_lanes hfn h (.inl rfl)⟩
    · exact ⟨cAnd_lanes hfn h (.inr rfl), cOr_lanes hfn h (.inr rfl), cXor_lanes hfn h (.inr rfl), cAndn_lanes hfn h (.inr rfl)⟩
  case floats =>
    intro L v fits floats
    have hfit : ∀ {n}, fits n → FloatsFit x n := fun ⟨har, hcount, hops, hout⟩ => ⟨har, hcount, hops, hout, hflags⟩
    exact ⟨fun hf h => ⟨cFadd_lanes hx (hfit h) hf, cFsub_lanes hx (hfit h) hf, cFmul_lanes (hfit h) hf, cFmin_lanes hx (hfit h) hf,
        cFmax_lanes hx (hfit h) hf⟩, fun hf h => cFma_lanes hx (hfit h) hf, fun hf h => cFsgn_lanes (hfit h) hf,
      fun hf h => ⟨cFrcp_lanes hx (hfit h) hf, cFrsq_lanes hx (hfit h) hf, cFexp2_lanes hx (hfit h) hf, cFlog2_lanes hx (hfit h) hf⟩⟩
  case conversion =>
    have h : ConvFit x := ⟨hflags, hsrc, hdst, hsig⟩
    exact ⟨cFcvt_same h, cFcvt_widen h, cFcvt_narrow h⟩
  case classes =>
    refine cFclass_lanes har hf hflags ha (hout.trans ?_)
    generalize x.a.fmt = f at ha
    cases f with
    | fp32 => rfl
    | bf16 => rfl
    | fp16 => rfl
    | e4m3 => rfl
    | e5m2 => rfl
    | e2m1 => rfl
    | _ => cases ha
  case dot =>
    obtain ⟨pay, c, hval, hlt, hpay⟩ := cFdot_lanes hx ⟨hf, hflags, hops, hout, har, hn, hb, hwhole, hc⟩
    exact ⟨pay, c, hval, hlt, fun j hj => (hpay j hj).imp fun r ⟨⟨hnan, hfin⟩, hcode⟩ => ⟨hcode, hnan, hfin⟩⟩
  case amax =>
    obtain ⟨c, hval⟩ := cAmax_eq hf hflags ha hout har
    exact ⟨_, c, amaxNum x, hval, rfl, amaxNum_finite hx, amaxNum_every⟩
  case compare =>
    exact ⟨fun hops hp => cCmp_compared har hlanes hops hp, fun hx hops hp => cFcmp_compared hx har hf hlanes hops hp⟩
  case bytes =>
    have h : BytesFit x := ⟨hout, hflags⟩
    refine ⟨fun hf har => ⟨cBcmp_fields h hf har, ?_⟩, fun hf har => cBfind_fields h hf har (matchAt_iff hf),
      fun hf har => cHash64_eq h hf har, fun hf har => cCrc32c_eq h hf har⟩
    obtain ⟨pay, hval, hlt, hbytes⟩ := cBperm_bytes h hf har
    exact ⟨pay, hval, hlt, fun i hi => (hbytes i hi).trans (permByte_eq har i)⟩

end Sys2Proof
end

section
/-! SUPPORT. How the firing of an instruction goes on from its checks: its form, the input on which it works, the set that it takes, and the
changes and tokens that follow one another (R95 to R102, R137 to R139). -/
namespace Sys2Proof.Machine
open Sys2Proof.Claims

variable {s t : State} {w : Slot} {l l' : List Flight}

/-! ## The checks and the input (R113, R137, R139) -/

/-- A slot whose arity, function and flags are among those listed has the form that its instruction asks for. -/
theorem formOk_of_shape {as fns fls : List Nat} {fnOk : Nat → Bool} {m : Nat} (h : Shape w as fns fls) (hfn : ∀ n ∈ fns, fnOk n = true)
    (hfl : ∀ n ∈ fls, n ≤ m) : formOk w as fnOk m = true := by
  obtain ⟨harity, hf, hflags⟩ := h
  simp [formOk, Slot.arityN, Slot.fnN, Slot.flagsN, harity, hfn _ hf, hfl _ hflags]

/-- The input of a firing that has begun. -/
theorem State.fin_begun (s : State) (w : Slot) : (s.begun w).fin w = inputOf s w := by
  have hcore : ∀ a, (s.progress s.site.r).coreOf s.site.r a = s.coreOf s.site.r a := fun a => by
    rw [State.coreOf, State.region_progress, State.coreOf]
  have hunit : (s.progress s.site.r).unit s.site.r s.site.a = s.unit s.site.r s.site.a := by
    rw [State.unit, State.unitKey, hcore]
    rfl
  unfold State.begun inputOf
  split
  · exact congrArg (fun u => fireIn (s.elem s.site.r s.site.a) u w s.site s.draw.free) hunit
  · exact congrArg (fun u => fireIn (s.elem s.site.r s.site.a) u w s.site s.free) hunit

/-- A flow, tag or system instruction that nothing holds back has its effect on the input of its firing. -/
theorem State.flow_effect {ok : Bool} {ctl : List Nat} {k : FireIn → State → Out} (h : CanFire s w) (hok : ok = true) :
    s.flow w ok ctl k = k (inputOf s w) (s.begun w) := by
  rw [← State.fin_begun]
  unfold State.flow
  rw [State.gated_begins h hok]
  refine State.poisonRule_clean fun j => ?_
  rw [State.site_begun, h.clean]

theorem anyElem_form {as fns fls : List Nat} {fnOk : Nat → Bool} {m : Nat} (ha : s.site.a % 128 < 96) (h : Shape w as fns fls)
    (hfn : ∀ n ∈ fns, fnOk n = true) (hfl : ∀ n ∈ fls, n ≤ m) : (isAnyElem s.site.a && formOk w as fnOk m) = true := by
  simp [isAnyElem, ha, formOk_of_shape h hfn hfl]

theorem computeElem_form {as fns fls : List Nat} {fnOk : Nat → Bool} {m : Nat} (ha : s.site.a % 128 < 64) (h : Shape w as fns fls)
    (hfn : ∀ n ∈ fns, fnOk n = true) (hfl : ∀ n ∈ fls, n ≤ m) : (isComputeElem s.site.a && formOk w as fnOk m) = true := by
  simp [isComputeElem, ha, formOk_of_shape h hfn hfl]

theorem sameOut_of {x : FireIn} {k : Nat} (h : (x.op k).fmt.lanes = x.out.fmt.lanes) : sameOut x k = true := by
  simp [sameOut, h]

/-! ## What follows in a firing -/

/-- A firing so far: it has taken its set and sent the tokens `l`, and no context of its region has changed. -/
structure Firing (s t : State) (l : List Flight) : Prop extends Fired s t l where
  ctxs : (t.region s.site.r).ctxs = (s.region s.site.r).ctxs

theorem Firing.site (h : Firing s t l) : t.site = s.site := by rw [h.rest]

/-- A state that has consumed the set of `s`, flags and regions aside, has taken it. -/
theorem firing_of_consume (hplace : s.site.a < 65536)
    (ht : t = { s with elems := (s.consume w).elems, regions := t.regions, cores := t.cores, clusters := t.clusters, free := t.free })
    (hctxs : (t.region s.site.r).ctxs = (s.region s.site.r).ctxs) : Firing s t [] := by
  have helem : ∀ r a, t.elem r a = (s.consume w).elem r a := fun r a => by
    rw [ht]
    rfl
  refine ⟨⟨?_, fun m hm q hq => ?_, fun r a ha hne => ?_, State.readByte_congr ?_ ?_, ?_⟩, hctxs⟩
  · rw [ht, List.append_nil]
  · rw [helem, State.consume, State.elem_updElem] at hq
    exact stamp_of_mem_dropEnts (mem_store_clearLatches _ hq) m hm
  · exact (helem r a).trans (State.elem_updElem_other s _ hplace ha hne)
  · rw [ht]
  · rw [ht]
  · rw [ht]

theorem firing_taken (w : Slot) (hplace : s.site.a < 65536) : Firing s (s.taken w) [] :=
  firing_of_consume (w := w) hplace (by rw [State.taken_eq]) (by rw [State.region_taken])

/-- Flags and watches of cores are no part of what a firing is. -/
theorem Firing.setCores (h : Firing s t l) (cs : Sparse CoreState) : Firing s { t with cores := cs } l where
  net := h.net
  taken := h.taken
  others := h.others
  bytes := h.bytes
  rest := by rw [h.rest]
  ctxs := h.ctxs

theorem Firing.setCauses (h : Firing s t l) (core causes : Nat) : Firing s (t.setCauses core causes) l := by
  rw [State.setCauses_eq]
  exact h.setCores _

/-- A change of the firing's region that leaves its contexts alone. -/
theorem Firing.updRegion (h : Firing s t l) {f : RegionState → RegionState} (hf : ∀ x, (f x).ctxs = x.ctxs) :
    Firing s (t.updRegion s.site.r f) l where
  net := h.net
  taken := h.taken
  others := h.others
  bytes := h.bytes
  rest := by rw [h.rest]; rfl
  ctxs := by rw [State.region_updRegion, hf, h.ctxs]

/-- A change of the firing's element that adds nothing to its matching store. -/
theorem Firing.updElem (h : Firing s t l) (hplace : s.site.a < 65536) {f : ElemState → ElemState}
    (hf : ∀ e, ∀ q ∈ (f e).store, q ∈ e.store) : Firing s (t.updElem s.site.r s.site.a f) l where
  net := h.net
  taken := fun m hm q hq => by
    rw [State.elem_updElem] at hq
    exact h.taken m hm q (hf _ q hq)
  others := fun r a ha hne => (t.elem_updElem_other f hplace ha hne).trans (h.others r a ha hne)
  bytes := h.bytes
  rest := by rw [h.rest]; rfl
  ctxs := h.ctxs

/-- A result whose tag operations hold sends its tokens behind those sent before. -/
theorem Firing.emit_eq (h : Firing s t l) {dst : Which} {e : Emission} (hl : tokensOf s w dst e = some l') :
    t.emit w dst e = { t with net := t.net ++ l' } :=
  State.emit_tokensOf ((tokensOf_congr h.site h.ctxs dst e).trans hl)

theorem Firing.emit (h : Firing s t l) {dst : Which} {e : Emission} (hl : tokensOf s w dst e = some l') :
    Firing s (t.emit w dst e) (l ++ l') := by
  rw [h.emit_eq hl]
  exact ⟨⟨by rw [h.net, List.append_assoc], h.taken, h.others, h.bytes, by rw [h.rest]⟩, h.ctxs⟩

/-- Operand `k` goes on unchanged. -/
theorem Firing.pass (h : Firing s t l) {x : FireIn} {k : Nat} {dst : Which} {f : Emission → Emission}
    (hl : tokensOf s w dst (f (s.out w (BitVec.ofNat 64 (payOf x k)))) = some l') : Firing s (t.pass w x k dst f) (l ++ l') := by
  have ht := h.setCauses (t.coreOf t.site.r t.site.a) ((x.op k).passBits x.out).2
  rw [← State.out_congr h.site w (BitVec.ofNat 64 (payOf x k))] at hl
  exact ht.emit hl

end Sys2Proof.Machine
end

section
/-! SUPPORT. A state in which an element beyond the region's addresses fires (R41): the refutation of the statement about flow elements. -/
namespace Sys2Proof.Machine
open Sys2Proof.Claims

/-! ## A firing of element 65,536 (R41, R96) -/

/-- A gate token of value 0 that waits in a matching store. -/
def zeroGate : MsEntry :=
  { tok := { rsv := 0, net := false, last := false, kind := 0, dest := 0, port := 3, slot := 0, chan := 0, seq := 0, ctx := 0, iter := 0,
             payload := 0 }
    stamp := 0, pend := false }

/-- Its set fires at element 65,536 of region 0, a number that no element address has: the table of elements keeps it where it keeps
element 0 of region 1. -/
def strayFiring : State :=
  { elems := [(65536, { store := [zeroGate] })], site := { r := 0, a := 65536, slot := 0, ents := [(3, zeroGate)] } }

/-- An ADD of two operands under rule 2. -/
def gatedAdd : Slot := { slotFields 0 0 0 with arity := 2, fire := 2 }

theorem strayFiring_closed : strayFiring.site.fed 3 = some (0, 0, false) ∧ cAdd (strayFiring.fin gatedAdd) ≠ .illegal := by decide +kernel

/-- The firing takes the set: element 0 of region 1 loses its entry. -/
theorem elemAdd_strayFiring : exec (.elemAdd gatedAdd) strayFiring = .next (strayFiring.taken gatedAdd) ∧
    ((strayFiring.taken gatedAdd).elem 1 0).store = [] ∧ (strayFiring.elem 1 0).store = [zeroGate] := ⟨rfl, by decide +kernel, rfl⟩

/-- Refutes O26. Its last clause, on the closed gate of a compute instruction, does not ask for an element address below 65,536 (R41), as
the clauses before it do. At `strayFiring` the set is taken at element 65,536 of region 0, which is element 0 of region 1, another
element than the one that fires. -/
theorem not_flowElementsFire : ¬ Obligations.FlowElementsFire := by
  unfold Obligations.FlowElementsFire
  intro ⟨_, _, _, closed⟩
  obtain ⟨hgate, hform⟩ := strayFiring_closed
  obtain ⟨u, hu, hfired⟩ := closed strayFiring (.elemAdd gatedAdd) gatedAdd cAdd 0 rfl (by decide) hform rfl hgate
  obtain ⟨hexec, hempty, hheld⟩ := elemAdd_strayFiring
  have heq := hu.symm.trans hexec
  injection heq with heq
  have hkept := hfired.others 1 0 (by decide) (by decide)
  rw [heq] at hkept
  rw [hkept, hheld] at hempty
  exact List.cons_ne_nil _ _ hempty

end Sys2Proof.Machine
end

section
/-! SUPPORT. What the report of a fault leaves unchanged (R111, R325, R326), what freeing a context does (R143, R144), and what the first
irrevocable act of a run changes (R335). -/
namespace Sys2Proof.Machine

variable {s : State}

/-! ## Reports of faults (R111, R325, R326) -/

/-- `u` differs from `s` in what a report may change: memory with its notes and marks, threads, notices, the debugger, and the marks of
regions. -/
def Reported (s u : State) : Prop :=
  u = { s with mem := u.mem, poison := u.poison, unseen := u.unseen, threads := u.threads, notices := u.notices, dbg := u.dbg,
               regions := u.regions }

theorem Reported.trans {s t u : State} (h : Reported s t) (g : Reported t u) : Reported s u := by
  unfold Reported at h
  refine Eq.trans g ?_
  rw [h]

theorem Reported.site {u : State} (h : Reported s u) : u.site = s.site := by rw [h]
theorem Reported.net {u : State} (h : Reported s u) : u.net = s.net := by rw [h]
theorem Reported.elems {u : State} (h : Reported s u) : u.elems = s.elems := by rw [h]

/-- `u` differs from `s` in what the delivery of a record may change: memory with its notes and marks, threads, and notices. -/
def Delivered (s u : State) : Prop :=
  u = { s with mem := u.mem, poison := u.poison, unseen := u.unseen, threads := u.threads, notices := u.notices }

theorem Delivered.reported {u : State} (h : Delivered s u) : Reported s u := by
  unfold Reported
  rw [h]

theorem delivered_ring (s : State) (x : Agent) (q v p v' : Nat) (rel : List Release) :
    Delivered s (((s.storeBy x 4 q 32 v).releaseAt x [] 4).storeBy x 4 p 8 v' rel) := by
  unfold Delivered
  rw [State.storeBy_eq _ _ _ p, State.releaseAt_eq, State.storeBy_eq]

/-- The delivery of a record writes its ring and tells a thread, or hands the record on. -/
theorem delivered_deliver (s : State) (w : Who) (phys : Bool) (ev : BitVec 256) (n a : Nat) : Delivered s (s.deliver w phys ev n a) := by
  induction n generalizing a with
  | zero => exact rfl
  | succ n ih =>
    unfold State.deliver
    split
    · exact rfl
    · split
      · exact rfl
      · dsimp only
        split
        · exact ih _
        · split
          · exact ih _
          · split
            · rw [delivered_ring]
              exact rfl
            · exact delivered_ring ..

/-- Noting an event is the debugger's: it may stop the region. -/
theorem reported_noteEvent (s : State) (vd r : Nat) (ev : BitVec 256) : Reported s (s.noteEvent vd (some r) none ev).1 := by
  unfold State.noteEvent
  split <;> exact rfl

theorem reported_noteFault (s : State) (r code elem : Nat) : Reported s (s.noteFault r code elem) := by
  unfold State.noteFault
  dsimp only
  split <;> exact rfl

theorem reported_sendEvent (s : State) (r code elem slot tag info token : Nat) : Reported s (s.sendEvent r code elem slot tag info token) := by
  unfold State.sendEvent
  dsimp only
  split
  · exact rfl
  · split
    · exact (reported_noteEvent s _ r _).trans rfl
    · exact (reported_noteEvent s _ r _).trans (delivered_deliver ..).reported

theorem reported_raise (s : State) (r code elem slot tag info token : Nat) : Reported s (s.raise r code elem slot tag info token) :=
  (reported_noteFault s r code elem).trans (reported_sendEvent ..)

/-- A region but for the marks that faults and stops leave on it. -/
def RegionState.unmarked (x : RegionState) : RegionState := { x with faulted := false, stepFault := false, dbgStop := false }

theorem State.unmarked_updRegion (s : State) (r j : Nat) {f : RegionState → RegionState} (hf : ∀ x, (f x).unmarked = x.unmarked) :
    ((s.updRegion r f).region j).unmarked = (s.region j).unmarked := by
  by_cases hj : j = r
  · rw [hj, State.region_updRegion, hf]
  · rw [State.region_updRegion_other _ _ hj]

theorem State.unmarked_noteEvent (s : State) (vd r j : Nat) (ev : BitVec 256) :
    ((s.noteEvent vd (some r) none ev).1.region j).unmarked = (s.region j).unmarked := by
  unfold State.noteEvent
  split
  · rfl
  · exact State.unmarked_updRegion _ r j fun _ => rfl

theorem State.unmarked_noteFault (s : State) (r code elem j : Nat) : ((s.noteFault r code elem).region j).unmarked = (s.region j).unmarked := by
  unfold State.noteFault
  dsimp only
  split
  · rfl
  · exact State.unmarked_updRegion _ r j fun _ => rfl

theorem State.unmarked_sendEvent (s : State) (r code elem slot tag info token j : Nat) :
    ((s.sendEvent r code elem slot tag info token).region j).unmarked = (s.region j).unmarked := by
  unfold State.sendEvent
  dsimp only
  split
  · rfl
  · split
    · exact State.unmarked_noteEvent s _ r j _
    · rw [State.sendTo, delivered_deliver]
      exact State.unmarked_noteEvent s _ r j _

theorem State.unmarked_raise (s : State) (r code elem slot tag info token j : Nat) :
    ((s.raise r code elem slot tag info token).region j).unmarked = (s.region j).unmarked :=
  (State.unmarked_sendEvent ..).trans (State.unmarked_noteFault ..)

theorem State.ctxs_raise (s : State) (r code elem slot tag info token j : Nat) :
    ((s.raise r code elem slot tag info token).region j).ctxs = (s.region j).ctxs :=
  (congrArg RegionState.ctxs (s.unmarked_raise r code elem slot tag info token j) :)

theorem State.triggered_raise (s : State) (r code elem slot tag info token j : Nat) :
    ((s.raise r code elem slot tag info token).region j).triggered = (s.region j).triggered :=
  (congrArg RegionState.triggered (s.unmarked_raise r code elem slot tag info token j) :)

/-! ## Contexts that become free (R143, R144) -/

/-- What discarding tokens and the contexts of other elements leaves: the firing, the networks, and the contexts of a region. -/
def State.flowView (s : State) (r : Nat) : Site × List Flight × Sparse Ctx := (s.site, s.net, (s.region r).ctxs)

theorem State.flowView_raise (s : State) (r code elem slot tag info token j : Nat) :
    (s.raise r code elem slot tag info token).flowView j = s.flowView j := by
  rw [State.flowView, State.ctxs_raise, (reported_raise ..).site, (reported_raise ..).net]
  rfl

theorem State.flowView_discard (s : State) (r a j : Nat) (l : List Token) : (s.discard r a l).flowView j = s.flowView j := by
  induction l generalizing s with
  | nil => rfl
  | cons t l ih => exact (ih _).trans (State.flowView_raise ..)

theorem State.flowView_freeContext (s : State) (r c : Nat) :
    (s.freeContext r c).flowView r = (s.site, s.net, (freeOf (s.region r) c).ctxs) := by
  unfold State.freeContext
  dsimp only
  rw [foldl_keeps fun s => s.flowView r]
  · rw [State.flowView, State.region_updRegion]
    rfl
  · exact fun s p => State.flowView_discard _ _ _ _ _

theorem State.site_freeContext (s : State) (r c : Nat) : (s.freeContext r c).site = s.site := congrArg Prod.fst (s.flowView_freeContext r c)

theorem State.net_freeContext (s : State) (r c : Nat) : (s.freeContext r c).net = s.net :=
  congrArg (·.2.1) (s.flowView_freeContext r c)

theorem Sparse.entry?_map_none {α : Type} {f : Nat × α → Nat × α} (hf : ∀ p, (f p).1 = p.1) {t : Sparse α} {k : Nat}
    (h : Sparse.entry? t k = none) : Sparse.entry? (t.map f) k = none := by
  induction t with
  | nil => rfl
  | cons p t ih =>
    obtain ⟨j, v⟩ := p
    have hkey : (f (j, v)).1 = j := hf (j, v)
    rw [Sparse.entry?] at h
    rw [List.map_cons, ← Prod.mk.eta (p := f (j, v)), hkey, Sparse.entry?]
    split at h
    · cases h
    · next hne => rw [if_neg hne, ih h]

theorem ctxBound_freeOf (x : RegionState) {c : Nat} (hc : c ≠ 0) : ctxBound (freeOf x c) c = false := by
  have hnone : Sparse.entry? (freeOf x c).ctxs c = none := by
    refine Sparse.entry?_map_none (fun p => ?_) (Sparse.entry?_del_same x.ctxs c)
    split <;> rfl
  simp [ctxBound, Sparse.atD, hnone, hc]

theorem ctxBound_congr {x y : RegionState} (h : x.ctxs = y.ctxs) (c : Nat) : ctxBound x c = ctxBound y c := by rw [ctxBound, ctxBound, h]

/-- A context that has become free is not bound. -/
theorem State.ctxBound_freeContext (s : State) (r : Nat) {c : Nat} (hc : c ≠ 0) : ctxBound ((s.freeContext r c).region r) c = false :=
  (ctxBound_congr (congrArg (·.2.2) (s.flowView_freeContext r c)) c).trans (ctxBound_freeOf _ hc)

/-! ## The first irrevocable act (R335) -/

/-- Updates that change the notes on writes alone. -/
theorem foldl_unseen {α : Type} {f : State → α → State} (h : ∀ s a, f s a = { s with unseen := (f s a).unseen }) (l : List α) (s : State) :
    l.foldl f s = { s with unseen := (l.foldl f s).unseen } := by
  induction l generalizing s with
  | nil => rfl
  | cons a l ih => rw [List.foldl_cons, ih, h]

theorem State.noteBuffer_eq (s : State) (r : Nat) : s.noteBuffer r = { s with unseen := (s.noteBuffer r).unseen } := by
  unfold State.noteBuffer
  split
  · rfl
  · exact foldl_unseen (fun _ _ => rfl) _ s

theorem State.irrevocable_eq (s : State) (r : Nat) : s.irrevocable r =
    { s with mem := (s.irrevocable r).mem, poison := (s.irrevocable r).poison, unseen := (s.irrevocable r).unseen,
             regions := (s.irrevocable r).regions } := by
  unfold State.irrevocable State.flushStores
  split
  · dsimp only
    rw [State.noteBuffer_eq]
    rfl
  · rfl

end Sys2Proof.Machine
end

section
/-! SUPPORT. What the tag, context and binding instructions of elements do (R137, R141 to R144, R156). -/
namespace Sys2Proof.Machine
open Sys2Proof.Claims

variable {s t : State} {w : Slot} {l : List Flight}

theorem Slot.fnN_one (w : Slot) : (w.fnN == 1) = (w.fn == 1) := by
  rw [Bool.eq_iff_iff, beq_iff_eq, beq_iff_eq, BitVec.toNat_eq]
  rfl

/-! ## What the instructions look at -/

theorem ctxBound_begun (s : State) (w : Slot) (c : Nat) : ctxBound ((s.begun w).region s.site.r) c = ctxBound (s.region s.site.r) c :=
  ctxBound_congr (by rw [State.region_begun]) c

theorem childOf_begun (s : State) (w : Slot) (g : BitVec 24) : childOf ((s.begun w).region s.site.r) g = childOf (s.region s.site.r) g := by
  rw [State.region_begun]
  rfl

theorem parentTag_begun (s : State) (w : Slot) (c : Nat) : parentTag ((s.begun w).region s.site.r) c = parentTag (s.region s.site.r) c := by
  rw [State.region_begun]
  rfl

theorem freeCtx_begun (s : State) (w : Slot) : freeCtx ((s.begun w).region s.site.r) = freeCtx (s.region s.site.r) := by
  rw [State.region_begun]
  rfl

/-- The lowest free context. -/
theorem freeCtx_eq_some {x : RegionState} {k : Nat} (hk : k < 256) (hfree : ctxBound x k = false) (hlow : ∀ j < k, ctxBound x j = true) :
    freeCtx x = some k := by
  rw [freeCtx, List.find?_range_eq_some]
  exact ⟨by simp [hfree], List.mem_range.mpr hk, fun j hj => by simp [hlow j hj]⟩

theorem freeCtx_eq_none {x : RegionState} (h : ∀ k < 256, ctxBound x k = true) : freeCtx x = none := by
  refine List.find?_eq_none.mpr fun k hk => ?_
  simp [h k (List.mem_range.mp hk)]

/-- A context with a parent is not the root. -/
theorem ne_zero_of_parentTag {x : RegionState} {c : Nat} {g : BitVec 24} (h : parentTag x c = some g) : c ≠ 0 := fun hc => by
  simp [parentTag, hc] at h

/-- The context of a copy of the region's body under tag `g` (R100, R143). -/
def tagCopy (g : BitVec 24) : Ctx := { bound := true, parent := BitVec.ofNat 8 (tagCtx g), iter := tagIter g }

/-- Context `k` of the firing's region is bound to its tag. -/
def State.bindCtx (s : State) (k : Nat) : State :=
  s.updRegion s.site.r fun y => { y with ctxs := Sparse.put y.ctxs k (tagCopy s.site.tag) }

theorem State.ctxs_bindCtx (s : State) (k : Nat) {r : Nat} (hr : s.site.r = r) :
    ((s.bindCtx k).region r).ctxs = Sparse.put (s.region r).ctxs k (tagCopy s.site.tag) := by
  rw [← hr, State.bindCtx, State.region_updRegion]

/-- A destination without a tag operation gets its token whatever contexts stand. -/
theorem tokensOf_plain (hsite : t.site = s.site) (h0 : w.d0.tagop = 0) (h1 : w.d1.tagop = 0) (dst : Which) (e : Emission) :
    tokensOf t w dst e = tokensOf s w dst e := by
  have hto : ∀ d : Dest, d.tagop = 0 → tokenTo t d e = tokenTo s d e := fun d hd => by
    simp [tokenTo, hsite, hd, applyTagOp]
  simp only [tokensOf, hto _ h0, hto _ h1]

theorem State.pass_plain {x : FireIn} {k : Nat} {dst : Which} {f : Emission → Emission} (hsite : t.site = s.site) (h0 : w.d0.tagop = 0)
    (h1 : w.d1.tagop = 0) (hl : tokensOf s w dst (f (s.out w (BitVec.ofNat 64 (payOf x k)))) = some l) :
    t.pass w x k dst f = { t with cores := (t.setCauses (t.coreOf t.site.r t.site.a) ((x.op k).passBits x.out).2).cores, net := t.net ++ l } := by
  rw [← State.out_congr hsite, ← tokensOf_plain (t := t.setCauses (t.coreOf t.site.r t.site.a) ((x.op k).passBits x.out).2)
    ((State.site_setCauses ..).trans hsite) h0 h1] at hl
  refine (State.emit_tokensOf hl).trans ?_
  rw [State.setCauses_eq]

section
variable (hfire : CanFire s w) (ha : s.site.a % 128 < 96) (hlanes : ((inputOf s w).op 0).fmt.lanes = (inputOf s w).out.fmt.lanes)
include hfire ha hlanes

/-! ## Tags and sequence numbers (R141, R142) -/

theorem tagset_fires (hshape : Shape w [2] [0, 1] [0]) (hb : payOf (inputOf s w) 1 < 2 ^ 28)
    (hctx : ctxBound (s.region s.site.r) (payOf (inputOf s w) 1 / 2 ^ 16 % 256) = true)
    (hl : tokensOf s w .both { s.out w (BitVec.ofNat 64 (payOf (inputOf s w) 0)) with
      tag := BitVec.ofNat 24 (payOf (inputOf s w) 1)
      seq := if w.fn = 1 then BitVec.ofNat 4 (payOf (inputOf s w) 1 / 2 ^ 24) else s.site.seq } = some l) : Fires (.tagset w) s l := by
  have hbound : ctxBound ((s.begun w).region s.site.r) (bitsOf (payOf (inputOf s w) 1) 23 16) = true := (ctxBound_begun s w _).trans hctx
  refine ⟨(s.taken w).pass w (inputOf s w) 0 .both fun e => { e with
    tag := BitVec.ofNat 24 (payOf (inputOf s w) 1)
    seq := if w.fnN == 1 then BitVec.ofNat 4 (payOf (inputOf s w) 1 / 2 ^ 24) else e.seq }, ?_, ?_⟩
  · show execTagset w s = _
    unfold execTagset
    rw [State.flow_effect hfire (anyElem_form ha hshape (by decide) (by decide))]
    simp only [sameOut_of hlanes, Nat.div_eq_of_lt hb, State.site_begun, hbound]
    rfl
  · refine ((firing_taken w hfire.place).pass ?_).toFired
    simp only [Slot.fnN_one, beq_iff_eq]
    exact hl

theorem seqset_fires (hshape : Shape w [2] [0] [0]) (hb : payOf (inputOf s w) 1 < 16)
    (hl : tokensOf s w .both { s.out w (BitVec.ofNat 64 (payOf (inputOf s w) 0)) with
      seq := BitVec.ofNat 4 (payOf (inputOf s w) 1) } = some l) : Fires (.seqset w) s l := by
  refine ⟨(s.taken w).pass w (inputOf s w) 0 .both fun e => { e with seq := BitVec.ofNat 4 (payOf (inputOf s w) 1) }, ?_,
    ((firing_taken w hfire.place).pass hl).toFired⟩
  show execSeqset w s = _
  unfold execSeqset
  rw [State.flow_effect hfire (anyElem_form ha hshape (by decide) (by decide))]
  simp only [sameOut_of hlanes, Nat.div_eq_of_lt hb]
  rfl

/-! ## Contexts (R143, R144) -/

/-- CTXALLOC under a tag whose context is bound passes a on. -/
theorem ctxalloc_found (hshape : Shape w [1] [0] [0]) {k : Nat} (hk : childOf (s.region s.site.r) s.site.tag = some k)
    (hl : tokensOf s w .both (s.out w (BitVec.ofNat 64 (payOf (inputOf s w) 0))) = some l) : Fires (.ctxalloc w) s l := by
  refine ⟨(s.taken w).pass w (inputOf s w) 0 .both id, ?_, ((firing_taken w hfire.place).pass hl).toFired⟩
  show execCtxalloc w s = _
  unfold execCtxalloc
  rw [State.flow_effect hfire (anyElem_form ha hshape (by decide) (by decide))]
  simp only [sameOut_of hlanes, State.site_begun, childOf_begun, hk, State.passA]
  rfl

/-- CTXALLOC waits where it finds no context, bound or free. -/
theorem ctxalloc_waits (hshape : Shape w [1] [0] [0]) (hnone : childOf (s.region s.site.r) s.site.tag = none)
    (hfull : ∀ k < 256, ctxBound (s.region s.site.r) k = true) : exec (.ctxalloc w) s = .next (s.begun w) := by
  show execCtxalloc w s = _
  unfold execCtxalloc
  rw [State.flow_effect hfire (anyElem_form ha hshape (by decide) (by decide))]
  simp only [sameOut_of hlanes, State.site_begun, childOf_begun, hnone, freeCtx_begun, freeCtx_eq_none hfull]
  rfl

/-- CTXALLOC binds the lowest free context, then passes a on. -/
theorem ctxalloc_binds (hshape : Shape w [1] [0] [0]) {k : Nat} (hnone : childOf (s.region s.site.r) s.site.tag = none) (hk : k < 256)
    (hfree : ctxBound (s.region s.site.r) k = false) (hlow : ∀ j < k, ctxBound (s.region s.site.r) j = true)
    (hl : tokensOf (s.bindCtx k) w .both (s.out w (BitVec.ofNat 64 (payOf (inputOf s w) 0))) = some l) :
    ∃ u, exec (.ctxalloc w) s = .next u ∧ Fired (s.bindCtx k) u l ∧ Sparse.atD (u.region s.site.r).ctxs k {} = tagCopy s.site.tag := by
  have hbound : Firing (s.bindCtx k) (((s.begun w).bindCtx k).consume w) [] := by
    refine firing_of_consume (w := w) hfire.place ?_ ?_
    · rw [State.begun_eq]
      rfl
    · refine ((s.begun w).ctxs_bindCtx k (congrArg Site.r (s.site_begun w))).trans ?_
      rw [State.site_begun, State.region_begun]
      exact (s.ctxs_bindCtx k rfl).symm
  have hpass := hbound.pass (f := id) hl
  refine ⟨(((s.begun w).bindCtx k).consume w).pass w (inputOf s w) 0 .both id, ?_, hpass.toFired, ?_⟩
  · show execCtxalloc w s = _
    unfold execCtxalloc
    rw [State.flow_effect hfire (anyElem_form ha hshape (by decide) (by decide))]
    simp only [sameOut_of hlanes, State.site_begun, childOf_begun, hnone, freeCtx_begun, freeCtx_eq_some hk hfree hlow, State.passA,
      State.bindCtx]
    rfl
  · exact (congrArg (Sparse.atD · k {}) (hpass.ctxs.trans (s.ctxs_bindCtx k rfl))).trans (Sparse.atD_put_same ..)

/-- CTXRET passes a to the parent tag and frees its context. -/
theorem ctxret_returns (hshape : Shape w [1] [0] [0]) {g : BitVec 24} (hg : parentTag (s.region s.site.r) (tagCtx s.site.tag) = some g)
    (hl : tokensOf s w .both { s.out w (BitVec.ofNat 64 (payOf (inputOf s w) 0)) with tag := g } = some l) :
    ∃ u, exec (.ctxret w) s = .next u ∧ u.net = s.net ++ l ∧ ctxBound (u.region s.site.r) (tagCtx s.site.tag) = false := by
  have hpass := (firing_taken w hfire.place).pass (f := fun e => { e with tag := g }) hl
  refine ⟨((s.taken w).pass w (inputOf s w) 0 .both fun e => { e with tag := g }).freeContext s.site.r (tagCtx s.site.tag), ?_,
    (State.net_freeContext ..).trans hpass.net, State.ctxBound_freeContext _ _ (ne_zero_of_parentTag hg)⟩
  show execCtxret w s = _
  unfold execCtxret
  rw [State.flow_effect hfire (anyElem_form ha hshape (by decide) (by decide))]
  simp only [sameOut_of hlanes, State.site_begun, parentTag_begun, hg]
  rfl

/-- CTXFREE frees the context that a names and passes a on. -/
theorem ctxfree_frees (hshape : Shape w [1] [0] [0]) {k : Nat} (hpay : payOf (inputOf s w) 0 = k) (hk : 1 ≤ k) (hk' : k < 256)
    (hbound : ctxBound (s.region s.site.r) k = true) (h0 : w.d0.tagop = 0) (h1 : w.d1.tagop = 0)
    (hl : tokensOf s w .both (s.out w (BitVec.ofNat 64 (payOf (inputOf s w) 0))) = some l) :
    ∃ u, exec (.ctxfree w) s = .next u ∧ u.net = s.net ++ l ∧ ctxBound (u.region s.site.r) k = false := by
  have hfreed := (s.taken w).site_freeContext s.site.r k
  rw [State.site_taken] at hfreed
  have hpass := State.pass_plain (t := (s.taken w).freeContext s.site.r k) (x := inputOf s w) (k := 0) (f := id) hfreed h0 h1 hl
  refine ⟨((s.taken w).freeContext s.site.r k).pass w (inputOf s w) 0 .both id, ?_, ?_, ?_⟩
  · show execCtxfree w s = _
    unfold execCtxfree
    rw [State.flow_effect hfire (anyElem_form ha hshape (by decide) (by decide))]
    have hroot : k ≠ 0 := by omega
    simp only [sameOut_of hlanes, State.site_begun, ctxBound_begun, hpay, hbound, decide_eq_false (Nat.not_le.mpr hk'), beq_false_of_ne hroot]
    rfl
  · rw [hpass, State.net_freeContext, (firing_taken w hfire.place).net, List.append_nil]
  · rw [hpass]
    exact State.ctxBound_freeContext _ _ (by omega)

end

/-! ## Channel entries and scale registers (R156) -/

theorem State.elem_begun (s : State) (w : Slot) (r a : Nat) : (s.begun w).elem r a = s.elem r a := by
  rw [State.begun_eq]
  rfl

theorem ElemState.bank_updBank (e : ElemState) (f : ConfBank → ConfBank) : (e.updBank f).bank = f e.bank := Sparse.atD_put_same ..

/-- Channel entry `k` of the active configuration written whole (R110, R156). -/
def ElemState.bindChan (e : ElemState) (k : Nat) (v : BitVec 32) : ElemState :=
  e.updBank fun b => { b with chans := Sparse.put b.chans k v, badChans := b.badChans.filter (· != k) }

theorem ElemState.chans_bindChan (e : ElemState) (k : Nat) (v : BitVec 32) : Sparse.atD (e.bindChan k v).bank.chans k 0 = v := by
  rw [ElemState.bindChan, ElemState.bank_updBank]
  exact Sparse.atD_put_same ..

/-- Scale register `k` of an element written (R75, R156). -/
def UnitState.setScale (u : UnitState) (k : Nat) (v : BitVec 32) : UnitState := { u with scale := Sparse.put u.scale k v }

theorem UnitState.sc_setScale (u : UnitState) (k : Nat) (v : BitVec 32) : (u.setScale k v).sc k = v.toNat :=
  congrArg BitVec.toNat (Sparse.atD_put_same ..)

theorem UnitState.sc_setScale_other (u : UnitState) {k j : Nat} (v : BitVec 32) (h : j ≠ k) : (u.setScale k v).sc j = u.sc j :=
  congrArg BitVec.toNat (Sparse.atD_put_other _ _ _ h)

theorem State.unit_updUnit (s : State) (r a : Nat) (f : UnitState → UnitState) : (s.updUnit r a f).unit r a = f (s.unit r a) :=
  Sparse.atD_put_same ..

theorem State.unitKey_taken (s : State) (w : Slot) (a : Nat) : (s.taken w).unitKey s.site.r a = s.unitKey s.site.r a := by
  rw [State.unitKey, State.coreOf_taken, State.unitKey]

theorem State.unit_begun (s : State) (w : Slot) (a : Nat) : (s.begun w).unit s.site.r a = s.unit s.site.r a := by
  rw [State.unit, show (s.begun w).unitKey s.site.r a = _ from s.unitKey_taken w a, State.begun_eq]
  rfl

theorem State.unit_taken (s : State) (w : Slot) (a : Nat) : (s.taken w).unit s.site.r a = s.unit s.site.r a := s.unit_begun w a

/-- A firing in a state with other units is the firing with those units. -/
theorem Firing.setUnits (h : Firing s t l) (us : Sparse UnitState) : Firing { s with units := us } { t with units := us } l where
  net := h.net
  taken := h.taken
  others := h.others
  bytes := h.bytes
  rest := by rw [h.rest]
  ctxs := h.ctxs

/-- The state of a firing that has taken its set and written its scale register. -/
def State.scaled (s : State) (w : Slot) (v : Nat) : State :=
  (s.taken w).updUnit s.site.r s.site.a fun u => u.setScale w.fnN (BitVec.ofNat 32 v)

theorem State.unit_scaled (s : State) (w : Slot) (v : Nat) :
    (s.scaled w v).unit s.site.r s.site.a = (s.unit s.site.r s.site.a).setScale w.fnN (BitVec.ofNat 32 v) := by
  rw [State.scaled, State.unit_updUnit, State.unit_taken]

section
variable (hfire : CanFire s w) (ha : s.site.a % 128 < 64) (hlanes : ((inputOf s w).op 0).fmt.lanes = (inputOf s w).out.fmt.lanes)
  (hv : payOf (inputOf s w) 0 < 2 ^ 32)
include hfire ha hlanes hv

/-- CHBIND sends the old channel entry and writes the new one. -/
theorem chbind_binds (hshape : Shape w [1] (List.range 32) [0]) (hchan : (Chan.ofBits? (payOf (inputOf s w) 0)).isSome = true)
    (hl : tokensOf s w .both (s.out w (BitVec.ofNat 64
      (Sparse.atD (s.elem s.site.r s.site.a).bank.chans w.fn.toNat 0).toNat)) = some l) :
    ∃ u, exec (.chbind w) s = .next u ∧ Fired s u l ∧
      Sparse.atD (u.elem s.site.r s.site.a).bank.chans w.fn.toNat 0 = BitVec.ofNat 32 (payOf (inputOf s w) 0) := by
  have hwritten := (firing_taken w hfire.place).updElem hfire.place
    (f := fun e => e.bindChan w.fnN (BitVec.ofNat 32 (payOf (inputOf s w) 0))) fun _ _ hq => hq
  refine ⟨_, ?_, (hwritten.emit hl).toFired, ?_⟩
  · show execChbind w s = _
    unfold execChbind
    rw [State.flow_effect hfire (computeElem_form ha hshape (fun _ _ => rfl) (by decide))]
    simp only [sameOut_of hlanes, decide_eq_false (Nat.not_le.mpr hv), Option.isNone_eq_false_iff.mpr hchan, State.site_begun,
      State.elem_begun, ← State.out_congr (s.site_begun w)]
    rfl
  · rw [hwritten.emit_eq hl]
    have helem := State.elem_updElem (s.taken w) s.site.r s.site.a fun e => e.bindChan w.fnN (BitVec.ofNat 32 (payOf (inputOf s w) 0))
    exact (congrArg (fun (e : ElemState) => Sparse.atD e.bank.chans w.fn.toNat 0) helem).trans (ElemState.chans_bindChan ..)

/-- SCLSET sends the old scale register and writes the new one, and no other. -/
theorem sclset_sets (hshape : Shape w [1] (List.range 16) [0])
    (hl : tokensOf s w .both (s.out w (BitVec.ofNat 64 ((s.unit s.site.r s.site.a).sc w.fn.toNat))) = some l) :
    ∃ u, exec (.sclset w) s = .next u ∧ Fired { s with units := u.units } u l ∧
      (u.unit s.site.r s.site.a).sc w.fn.toNat = payOf (inputOf s w) 0 ∧
      ∀ k, k < 16 → k ≠ w.fn.toNat → (u.unit s.site.r s.site.a).sc k = (s.unit s.site.r s.site.a).sc k := by
  have hset : Firing { s with units := (s.scaled w (payOf (inputOf s w) 0)).units } (s.scaled w (payOf (inputOf s w) 0)) [] :=
    (firing_taken w hfire.place).setUnits _
  have hsent := hset.emit_eq hl
  have hunit := s.unit_scaled w (payOf (inputOf s w) 0)
  refine ⟨(s.scaled w (payOf (inputOf s w) 0)).emit w .both (s.out w (BitVec.ofNat 64 ((s.unit s.site.r s.site.a).sc w.fn.toNat))),
    ?_, ?_, ?_, fun k _ hk => ?_⟩
  · show execSclset w s = _
    unfold execSclset
    rw [State.flow_effect hfire (computeElem_form ha hshape (by decide) (by decide))]
    simp only [sameOut_of hlanes, decide_eq_false (Nat.not_le.mpr hv), State.site_begun, State.unit_begun, ← State.out_congr (s.site_begun w)]
    rfl
  · have hfired := (hset.emit hl).toFired
    rw [hsent] at hfired ⊢
    exact hfired
  · rw [hsent]
    refine (congrArg (UnitState.sc · w.fnN) hunit).trans ?_
    rw [UnitState.sc_setScale, BitVec.toNat_ofNat, Nat.mod_eq_of_lt hv]
  · rw [hsent]
    exact (congrArg (UnitState.sc · k) hunit).trans (UnitState.sc_setScale_other _ _ hk)

end

/-- Settles O27: each instruction's effect on the input of its firing, on the contexts of its region, and on its element's own state. -/
theorem tagContextAndBindingElementsFire : Obligations.TagContextAndBindingElementsFire := by
  unfold Obligations.TagContextAndBindingElementsFire
  constructor
  · intro s w hfire ha x r out b hlanes
    refine ⟨?tagset, ?seqset, ?ctxalloc, ?ctxret, ?ctxfree⟩
    case tagset => exact fun hshape hb hctx l hl => tagset_fires hfire ha hlanes hshape hb hctx hl
    case seqset => exact fun hshape hb l hl => seqset_fires hfire ha hlanes hshape hb hl
    case ctxalloc =>
      intro hshape
      refine ⟨fun ⟨k, hk⟩ l hl => ctxalloc_found hfire ha hlanes hshape hk hl, fun hnone hfull => ?_, ?_⟩
      · exact ⟨_, ctxalloc_waits hfire ha hlanes hshape hnone hfull, by rw [State.begun_eq], by rw [State.begun_eq]⟩
      · intro k hnone hk hfree hlow c t l hl
        exact ctxalloc_binds hfire ha hlanes hshape hnone hk hfree hlow hl
    case ctxret => exact fun hshape g l hg hl => ctxret_returns hfire ha hlanes hshape hg hl
    case ctxfree =>
      exact fun hshape k hpay hk hk' hbound h0 h1 l hl => ctxfree_frees hfire ha hlanes hshape hpay hk hk' hbound h0 h1 hl
  · intro s w hfire ha x v hv hlanes
    exact ⟨fun hshape hchan l hl => chbind_binds hfire ha hlanes hv hshape hchan hl,
      fun hshape l hl => sclset_sets hfire ha hlanes hv hshape hl⟩

end Sys2Proof.Machine
end

section
/-! SUPPORT. What the loop and accumulation instructions of elements do (R145, R147, R148). -/
namespace Sys2Proof.Machine
open Sys2Proof.Claims

variable {s t : State} {w : Slot} {l l' : List Flight}

/-! ## What taking a set leaves of its element (R93, R96) -/

/-- `f` differs from `e` in what taking a set may change: configurations, with their latches, and the matching store. -/
def SetTaken (e f : ElemState) : Prop := f = { e with confs := f.confs, store := f.store, stamp := f.stamp }

theorem SetTaken.trans {e f g : ElemState} (h : SetTaken e f) (k : SetTaken f g) : SetTaken e g := by
  unfold SetTaken at h
  refine Eq.trans k ?_
  rw [h]

theorem setTaken_fillLatch (e : ElemState) (slot port : Nat) : SetTaken e (fillLatch e slot port) := by
  unfold fillLatch
  dsimp only
  split
  · rfl
  · split <;> rfl

theorem setTaken_clearLatch (e : ElemState) (slot port : Nat) : SetTaken e (clearLatch e slot port) :=
  SetTaken.trans (f := e.updBank _) rfl (setTaken_fillLatch ..)

theorem setTaken_clearLatches (slot : Nat) (l : List Nat) (e : ElemState) : SetTaken e (l.foldl (fun e k => clearLatch e slot k) e) := by
  induction l generalizing e with
  | nil => rfl
  | cons k l ih => exact (setTaken_clearLatch e slot k).trans (ih _)

/-- A firing's set is all that it takes from its element. -/
theorem State.setTaken_taken (s : State) (w : Slot) : SetTaken (s.elem s.site.r s.site.a) ((s.taken w).elem s.site.r s.site.a) := by
  have helem : (s.taken w).elem s.site.r s.site.a = (s.consume w).elem s.site.r s.site.a := by
    rw [State.taken_eq]
    rfl
  rw [helem, State.consume, State.elem_updElem]
  exact SetTaken.trans (f := dropEnts _ s.site.ents) rfl (setTaken_clearLatches ..)

theorem State.gens_taken (s : State) (w : Slot) : ((s.taken w).elem s.site.r s.site.a).gens = (s.elem s.site.r s.site.a).gens := by
  rw [s.setTaken_taken w]

theorem State.accums_taken (s : State) (w : Slot) : ((s.taken w).elem s.site.r s.site.a).accums = (s.elem s.site.r s.site.a).accums := by
  rw [s.setTaken_taken w]

theorem State.rows_taken (s : State) (w : Slot) : ((s.taken w).elem s.site.r s.site.a).rows = (s.elem s.site.r s.site.a).rows := by
  rw [s.setTaken_taken w]

/-- The form of an instruction that keeps state from one firing to the next: rule 2 is none of its fire rules. -/
theorem keeps_form {as fns fls : List Nat} {fnOk : Nat → Bool} {m : Nat} (ha : s.site.a % 128 < 64) (h : Shape w as fns fls)
    (hfn : ∀ n ∈ fns, fnOk n = true) (hfl : ∀ n ∈ fls, n ≤ m) (hrule : w.fire ≠ 2) :
    (isComputeElem s.site.a && formOk w as fnOk m && w.fire != 2) = true := by
  rw [computeElem_form ha h hfn hfl, Bool.true_and, bne_iff_ne]
  exact hrule

/-! ## LOOPGEN (R145) -/

/-- The first iteration and the count that LOOPGEN's operand a gives. -/
def loopFirst (s : State) (w : Slot) : Nat := payOf (inputOf s w) 0 / 2 ^ 32
def loopCount (s : State) (w : Slot) : Nat := payOf (inputOf s w) 0 % 2 ^ 32

/-- The generator that a LOOPGEN arms. -/
def armedGen (s : State) (w : Slot) : LoopGen :=
  { slot := s.site.slot, ctx := BitVec.ofNat 8 (tagCtx s.site.tag), iter := tagIter s.site.tag, f := loopFirst s w, n := loopCount s w, j := 0,
    live := [], cap := if w.const = 0 then (s.region s.site.r).tagwin else w.const.toNat, seq := s.site.seq,
    seed := if w.arity = 2 then some (BitVec.ofNat 64 (payOf (inputOf s w) 1)) else none, poison := false, past := s.site.past }

/-- The control tokens that set the window base of a context in the elements of region `r` of this package. -/
def windowTokens (s : State) (r c base : Nat) : List CtlMsg :=
  (((List.range (s.region r).cores.length).filter fun k => !isFar (s.coreOf r (128 * k))).flatMap fun k =>
    (List.range 96).map fun i => 128 * k + i).map fun a => { r := r, elem := a, ctx := BitVec.ofNat 8 c, base := BitVec.ofNat 16 base }

theorem State.setWindowBase_eq (s : State) (r c base : Nat) : s.setWindowBase r c base = { s with ctl := s.ctl ++ windowTokens s r c base } :=
  rfl

theorem Slot.arityN_two (w : Slot) : w.arityN = 2 ↔ w.arity = 2 := (BitVec.toNat_eq (y := 2)).symm
theorem Slot.const_zero (w : Slot) : w.const.toNat = 0 ↔ w.const = 0 := (BitVec.toNat_eq (y := 0)).symm

/-- The state of a firing that has taken its set and armed its generator. -/
def State.armed (s : State) (w : Slot) : State :=
  (s.taken w).updElem s.site.r s.site.a fun e => { e with gens := e.gens ++ [armedGen s w] }

theorem State.windowTokens_armed (s : State) (w : Slot) (c base : Nat) :
    windowTokens (s.armed w) s.site.r c base = windowTokens s s.site.r c base := by
  have hcore : ∀ a, (s.armed w).coreOf s.site.r a = s.coreOf s.site.r a := s.coreOf_taken w
  have hcores : ((s.armed w).region s.site.r).cores = (s.region s.site.r).cores := (congrArg RegionState.cores (s.region_taken w) :)
  simp only [windowTokens, hcore, hcores]

/-- A firing in a state with other control tokens is the firing with those tokens. -/
theorem Firing.setCtl (h : Firing s t l) (c : List CtlMsg) : Firing { s with ctl := c } { t with ctl := c } l where
  net := h.net
  taken := h.taken
  others := h.others
  bytes := h.bytes
  rest := by rw [h.rest]
  ctxs := h.ctxs

theorem State.gens_armed (s : State) (w : Slot) :
    ((s.armed w).elem s.site.r s.site.a).gens = (s.elem s.site.r s.site.a).gens ++ [armedGen s w] := by
  rw [State.armed, State.elem_updElem, State.gens_taken]

/-- A LOOPGEN whose operand gives a first iteration and a count within their ranges arms its generator, and sets the window base where
it has an iteration. -/
theorem exec_loopgen (hfire : CanFire s w) (ha : s.site.a % 128 < 64) (hrule : w.fire ≠ 2) (hshape : Shape w [1, 2] [0] [0])
    (hkind : ∀ m, s.site.entry 0 = some m → m.tok.kind.toNat ≤ 1) (hlanes : ((inputOf s w).op 0).fmt.lanes = (inputOf s w).out.fmt.lanes)
    (hcap : w.const.toNat ≤ 256) (hf : loopFirst s w < 2 ^ 16) (hn : loopCount s w ≤ 65536) (hend : loopFirst s w + loopCount s w ≤ 65536) :
    exec (.loopgen w) s = .next (if loopCount s w = 0 then s.armed w
      else (s.armed w).setWindowBase s.site.r (tagCtx s.site.tag) (loopFirst s w)) := by
  have hfirst : bitsOf (payOf (inputOf s w) 0) 47 32 = loopFirst s w := Nat.mod_eq_of_lt hf
  have hcount : bitsOf (payOf (inputOf s w) 0) 31 0 = loopCount s w := by simp [bitsOf, loopCount]
  have hentry : ¬ ((s.site.entry 0).map fun m => m.tok.kind.toNat).getD 0 > 1 := by
    cases hm : s.site.entry 0 with
    | none => simp
    | some m => simpa using hkind m hm
  have hwide : ¬ 2 ^ 48 ≤ payOf (inputOf s w) 0 := by
    unfold loopFirst at hf
    omega
  have hover : (loopCount s w != 0 && decide (0xFFFF < loopFirst s w + loopCount s w - 1)) = false := by
    simp
    omega
  have hconst : ¬ 257 ≤ w.const.toNat := by omega
  show execLoopgen w s = _
  unfold execLoopgen
  rw [State.gated_begins hfire (keeps_form ha hshape (by decide) (by decide) hrule)]
  simp only [State.fin_begun, State.site_begun, hfire.clean, sameOut_of hlanes, hfirst, hcount, decide_eq_false hentry,
    decide_eq_false hconst, decide_eq_false hwide, decide_eq_false (Nat.not_lt.mpr hn), hover, State.region_begun,
    beq_iff_eq, Slot.arityN_two, Slot.const_zero]
  rfl

/-- LOOPGEN's firing: it sends nothing, its generator is armed, and the control tokens that set the window base follow those before. -/
theorem loopgen_fires {u : State} (hplace : s.site.a < 65536) (hu : u = if loopCount s w = 0 then s.armed w
      else (s.armed w).setWindowBase s.site.r (tagCtx s.site.tag) (loopFirst s w)) :
    Fired { s with ctl := u.ctl } u [] ∧
      (u.elem s.site.r s.site.a).gens = (s.elem s.site.r s.site.a).gens ++ [armedGen s w] ∧
      u.ctl = s.ctl ++ if loopCount s w = 0 then [] else windowTokens s s.site.r (tagCtx s.site.tag) (loopFirst s w) := by
  have harmed : Firing s (s.armed w) [] := (firing_taken w hplace).updElem hplace fun _ _ hq => hq
  have hctl : (s.armed w).ctl = s.ctl := by rw [harmed.rest]
  by_cases hz : loopCount s w = 0
  · rw [if_pos hz] at hu
    rw [hu, if_pos hz, List.append_nil]
    exact ⟨(harmed.setCtl _).toFired, s.gens_armed w, hctl⟩
  · rw [if_neg hz] at hu
    rw [hu, if_neg hz, State.setWindowBase_eq, State.windowTokens_armed, hctl]
    exact ⟨(harmed.setCtl _).toFired, s.gens_armed w, rfl⟩

/-! ## LOOPRET (R147) -/

/-- LOOPRET sends its retire token to dest0, then a to dest1. -/
theorem loopret_fires (hfire : CanFire s w) (ha : s.site.a % 128 < 64) (hshape : Shape w [1] [0] [0]) (hvalid : w.d0.valid = true)
    (hport : w.d0.port = 3) (hlanes : ((inputOf s w).op 0).fmt.lanes = (inputOf s w).out.fmt.lanes)
    (hl : tokensOf s w .d0 { s.out w 0 with kind := 6 } = some l)
    (hl' : tokensOf s w .d1 (s.out w (BitVec.ofNat 64 (payOf (inputOf s w) 0))) = some l') : Fires (.loopret w) s (l ++ l') := by
  have hfired := ((firing_taken w hfire.place).emit hl).pass (f := id) hl'
  rw [← State.out_congr (s.site_begun w)] at hfired
  refine ⟨_, ?_, hfired.toFired⟩
  show execLoopret w s = _
  unfold execLoopret
  rw [State.flow_effect hfire (computeElem_form ha hshape (by decide) (by decide))]
  simp only [hvalid, hport, sameOut_of hlanes]
  rfl

/-! ## ACCUM (R148) -/

/-- The accumulation that the b of a firing opens. -/
def openedAccum (s : State) (w : Slot) : Accum :=
  { slot := s.site.slot, ctx := BitVec.ofNat 8 (tagCtx s.site.tag), it0 := tagIter s.site.tag, next := tagIter s.site.tag, seq := s.site.seq,
    value := BitVec.ofNat 64 (inputOf s w).b.bits, poison := none, past := s.site.past }

/-- Whether an accumulation is that of `z`: of its slot, under its context. -/
def Accum.same (z q : Accum) : Bool := q.slot == z.slot && q.ctx == z.ctx

def State.updAccums (s : State) (r a : Nat) (f : List Accum → List Accum) : State := s.updElem r a fun e => { e with accums := f e.accums }

/-- The state of a firing that has taken its set and changed its element's accumulations. -/
def State.accumulated (s : State) (w : Slot) (causes : Nat) (f : List Accum → List Accum) : State :=
  ((s.taken w).setCauses (s.coreOf s.site.r s.site.a) causes).updAccums s.site.r s.site.a f

theorem firing_accumulated (hplace : s.site.a < 65536) (causes : Nat) (f : List Accum → List Accum) :
    Firing s (s.accumulated w causes f) [] :=
  ((firing_taken w hplace).setCauses _ causes).updElem (f := fun e => { e with accums := f e.accums }) hplace fun _ _ hq => hq

theorem State.accums_accumulated (s : State) (w : Slot) (causes : Nat) (f : List Accum → List Accum) :
    ((s.accumulated w causes f).elem s.site.r s.site.a).accums = f (s.elem s.site.r s.site.a).accums := by
  rw [State.accumulated, State.updAccums, State.elem_updElem, ← s.accums_taken w, State.setCauses_eq]
  rfl

section
variable (hfire : CanFire s w) (ha : s.site.a % 128 < 64) (hrule : w.fire ≠ 2) (hshape : Shape w [2] [0, 1] [0])
  (hcls : (inputOf s w).out.fmt.cls ≠ .raw)
include hfire ha hrule hshape hcls

/-- ACCUM opens with b. -/
theorem accum_opens {m : MsEntry} (hents : s.site.ents = [(1, m)]) (hkind : m.tok.kind = 0) (hfmt : (inputOf s w).b.fmt = (inputOf s w).out.fmt) :
    exec (.accum w) s = .next (s.accumulated w 0 (· ++ [openedAccum s w])) := by
  show execAccum w s = _
  unfold execAccum
  rw [State.gated_begins hfire (keeps_form ha hshape (by decide) (by decide) hrule)]
  simp only [State.fin_begun, State.site_begun, State.accumOpen, hents, List.head?_cons, Option.map_some, hkind, hfmt, beq_false_of_ne hcls,
    bne_self_eq_false]
  rfl

/-- ACCUM adds a. -/
theorem accum_steps {m : MsEntry} {z : Accum} (hents : s.site.ents = [(0, m)])
    (hz : (s.elem s.site.r s.site.a).accums.find? (fun z => z.slot == s.site.slot && z.ctx.toNat == tagCtx s.site.tag) = some z)
    (hnext : z.next - z.it0 ≤ (tagIter s.site.tag + 65536 - z.it0) % 65536) (hacls : (inputOf s w).a.fmt.cls = (inputOf s w).out.fmt.cls)
    (hlanes : (inputOf s w).a.fmt.lanes = (inputOf s w).out.fmt.lanes) :
    exec (.accum w) s = .next (((s.taken w).setCauses (s.coreOf s.site.r s.site.a) (accumAdd (inputOf s w) z.value).2).accumStep w
      { z with value := BitVec.ofNat 64 (accumAdd (inputOf s w) z.value).1 }) := by
  have hcore : (s.begun w).coreOf s.site.r s.site.a = s.coreOf s.site.r s.site.a := s.coreOf_taken w _
  show execAccum w s = _
  unfold execAccum
  rw [State.gated_begins hfire (keeps_form ha hshape (by decide) (by decide) hrule)]
  simp only [State.fin_begun, State.site_begun, hents, State.elem_begun, hz, Nat.not_lt.mpr hnext, hfire.clean, hacls, hlanes, hcore,
    beq_false_of_ne hcls, bne_self_eq_false]
  rfl

end

/-- An a without the last bit leaves its accumulation with the sum, one iteration on. -/
theorem State.accumStep_goes {z : Accum} (hlast : s.site.last = false) (hnext : z.next < z.it0 + 65535) (hsite : t.site = s.site) :
    t.accumStep w z = t.updAccums s.site.r s.site.a
      (replaceFirst z.same fun _ => { z with next := z.next + 1, past := joinPast z.past s.site.past }) := by
  have hroom : ¬ z.it0 + 65535 < z.next + 1 := by omega
  simp only [State.accumStep, hsite, hlast, hroom]
  rfl

/-- An a with the last bit ends its accumulation and sends the sum. -/
theorem State.accumStep_ends {z : Accum} (hlast : s.site.last = true) (hsite : t.site = s.site) :
    t.accumStep w z =
      (t.updAccums s.site.r s.site.a (removeFirst z.same)).emit w .both {
      kind := if z.poison.isSome then 7 else 0, pay := z.poison.getD z.value, tag := mkTag z.ctx.toNat z.it0, seq := z.seq,
      last := false, chan := w.out, past := joinPast z.past s.site.past } := by
  simp only [State.accumStep, hsite, hlast]
  rfl

/-- Settles O28: each instruction's effect, from the state in which its firing has taken its set. -/
theorem loopAndAccumElementsFire : Obligations.LoopAndAccumElementsFire := by
  unfold Obligations.LoopAndAccumElementsFire
  intro s w hfire ha hrule x r e c it
  refine ⟨?loopgen, ?loopret, ?accum⟩
  case loopgen =>
    intro hshape f n hkind hlanes hcap hf hn hend
    obtain ⟨hfired, hgens, hctl⟩ := loopgen_fires (s := s) (w := w) hfire.place rfl
    refine ⟨_, exec_loopgen hfire ha hrule hshape hkind hlanes hcap hf hn hend, hfired, hgens, hctl.trans ?_⟩
    refine congrArg (s.ctl ++ ·) ?_
    by_cases hz : n = 0
    · rw [if_pos hz]
      exact if_pos hz
    · rw [if_neg hz]
      exact if_neg hz
  case loopret => exact fun hshape hvalid hport hlanes l l' hl hl' => loopret_fires hfire ha hshape hvalid hport hlanes hl hl'
  case accum =>
    refine fun hshape => ⟨fun m hents hkind hcls hfmt => ?opens, ?adds⟩
    case opens =>
      exact ⟨_, accum_opens hfire ha hrule hshape hcls hents hkind hfmt, (firing_accumulated hfire.place ..).toFired, s.accums_accumulated ..⟩
    case adds =>
      intro m z hents hz hnext hcls hacls hlanes v past same
      have hexec := accum_steps hfire ha hrule hshape hcls hents hz hnext hacls hlanes
      have hsite : ((s.taken w).setCauses (s.coreOf s.site.r s.site.a) (accumAdd (inputOf s w) z.value).2).site = s.site := by simp
      refine ⟨fun hlast hroom => ?goes, fun hlast l hl => ?ends⟩
      case goes =>
        refine ⟨_, hexec.trans (congrArg Host.Outcome.next (State.accumStep_goes hlast hroom hsite)), ?_, s.accums_accumulated ..⟩
        exact (firing_accumulated hfire.place ..).toFired
      case ends =>
        have hended := firing_accumulated (w := w) hfire.place (accumAdd (inputOf s w) z.value).2 (removeFirst same)
        refine ⟨_, hexec.trans (congrArg Host.Outcome.next (State.accumStep_ends hlast hsite)), (hended.emit hl).toFired, ?_⟩
        exact (congrArg (fun u : State => (u.elem r s.site.a).accums) (hended.emit_eq hl)).trans (s.accums_accumulated ..)

end Sys2Proof.Machine
end

section
/-! SUPPORT. What the row and merge instructions of elements do (R149 to R151). -/
namespace Sys2Proof.Machine
open Sys2Proof.Claims

variable {s t : State} {w : Slot} {l l' : List Flight}

/-! ## Tokens to one destination, and many of them -/

theorem tokensOf_d0 {e : Emission} (h : tokenTo s w.d0 e = some l) : tokensOf s w .d0 e = some l := by
  simp [tokensOf, h]

theorem tokensOf_d1 {e : Emission} (h : tokenTo s w.d1 e = some l) : tokensOf s w .d1 e = some l := by
  simp [tokensOf, h]

/-- Results sent one after another send the tokens of each. -/
theorem Firing.emits {α : Type} (h : Firing s t l) {dst : Which} {e : α → Emission} {f : α → List Flight} (xs : List α)
    (hf : ∀ x ∈ xs, tokensOf s w dst (e x) = some (f x)) :
    Firing s (xs.foldl (fun t x => t.emit w dst (e x)) t) (l ++ xs.flatMap f) := by
  induction xs generalizing t l with
  | nil => rwa [List.flatMap_nil, List.append_nil]
  | cons x xs ih =>
    rw [List.flatMap_cons, ← List.append_assoc]
    exact ih (h.emit (hf x List.mem_cons_self)) fun y hy => hf y (List.mem_cons_of_mem _ hy)

theorem State.site_updElem (s : State) (r a : Nat) (f : ElemState → ElemState) : (s.updElem r a f).site = s.site := rfl

/-! ## COMPRESS and TOPK (R149, R150) -/

/-- The row that the slot of a firing is taking, or a new one. -/
def rowOf (s : State) : RowSel :=
  ((s.elem s.site.r s.site.a).rows.find? fun z => z.slot == s.site.slot).getD
    { slot := s.site.slot, tag := s.site.tag, taken := 0, lanes := 0, elems := [], dead := false }

/-- The row with the elements of the firing's token. -/
def grownRow (s : State) (w : Slot) : RowSel :=
  { rowOf s with taken := (rowOf s).taken + 1, lanes := (inputOf s w).a.fmt.lanes,
                 elems := (rowOf s).elems ++ (rowTake (inputOf s w) w (rowOf s).taken).1, past := joinPast (rowOf s).past s.site.past }

/-- Row `z` stands for its slot; no row does once a token has last set. -/
def putRow (x : Site) (z : RowSel) (l : List RowSel) : List RowSel :=
  if x.last then l.filter fun q => q.slot != x.slot else (l.filter fun q => q.slot != x.slot) ++ [z]

/-- The state of a firing that has taken its set and put its token's elements into their row. -/
def State.rowed (s : State) (w : Slot) : State :=
  ((s.taken w).setCauses (s.coreOf s.site.r s.site.a) (rowTake (inputOf s w) w (rowOf s).taken).2).updElem s.site.r s.site.a fun e =>
    { e with rows := putRow s.site (grownRow s w) e.rows }

theorem firing_rowed (hplace : s.site.a < 65536) : Firing s (s.rowed w) [] :=
  ((firing_taken w hplace).setCauses _ _).updElem hplace fun _ _ hq => hq

theorem State.rows_rowed (s : State) (w : Slot) :
    ((s.rowed w).elem s.site.r s.site.a).rows = putRow s.site (grownRow s w) (s.elem s.site.r s.site.a).rows := by
  rw [State.rowed, State.elem_updElem, ← s.rows_taken w, State.setCauses_eq]
  rfl

/-- A result token of a row. -/
def rowToken (w : Slot) (z : RowSel) (p : Word) (last : Bool) : Emission :=
  { kind := 0, pay := p, tag := z.tag, seq := 0, last := last, chan := w.out, past := z.past }

/-- The tokens of a row that ends: its entries, the last of them with last set, and their count. -/
def rowTokens (w : Slot) (z : RowSel) (f g : Emission → List Flight) (p : List Word × Nat) : List Flight :=
  ((p.1.zip (List.range p.1.length)).flatMap fun q => f (rowToken w z q.1 (q.2 + 1 == p.1.length))) ++
    g (rowToken w z (BitVec.ofNat 64 p.2) true)

theorem Firing.emitRow (h : Firing s t []) {z : RowSel} {f g : Emission → List Flight} (p : List Word × Nat)
    (hsent : ∀ q : Emission, q.kind = 0 → q.tag = z.tag → tokenTo s w.d0 q = some (f q) ∧ tokenTo s w.d1 q = some (g q)) :
    Firing s (t.emitRow w z.tag p z.past) (rowTokens w z f g p) :=
  (h.emits (p.1.zip (List.range p.1.length)) fun q _ => tokensOf_d0 (hsent (rowToken w z q.1 (q.2 + 1 == p.1.length)) rfl rfl).1).emit
    (tokensOf_d1 (hsent (rowToken w z (BitVec.ofNat 64 p.2) true) rfl rfl).2)

/-- A token of a row that is not Malformed adds its elements; the last ends the row. -/
theorem State.fireRow_eq {choose : Nat → List RowElem → List Word × Nat} (hfire : CanFire s w) (ha : s.site.a % 128 < 64) (hrule : w.fire ≠ 2)
    (hshape : Shape w [1] [0, 1] [0, 1]) (hlive : (rowOf s).dead = false) (hgood : rowBad (inputOf s w) w (rowOf s) = false) :
    s.fireRow w choose = .next (if s.site.last then
      (s.rowed w).emitRow w (rowOf s).tag (choose w.const.toNat (grownRow s w).elems) (grownRow s w).past else s.rowed w) := by
  have hrow : ((s.elem s.site.r s.site.a).rows.find? fun z => z.slot == s.site.slot).getD
    { slot := s.site.slot, tag := s.site.tag, taken := 0, lanes := 0, elems := [], dead := false } = rowOf s := rfl
  have hcore : (s.begun w).coreOf s.site.r s.site.a = s.coreOf s.site.r s.site.a := s.coreOf_taken w _
  have htaken : (s.begun w).consume w = s.taken w := rfl
  unfold State.fireRow
  rw [State.gated_begins hfire (keeps_form ha hshape (by decide) (by decide) hrule)]
  simp only [State.fin_begun, State.site_begun, State.elem_begun, hrow, hgood, hfire.clean, hcore, htaken, State.site_taken,
    State.site_setCauses, State.site_updElem]
  rw [if_neg (ne_true_of_eq_false hlive), if_neg Bool.false_ne_true, if_neg Bool.false_ne_true]
  rfl

/-- A row that ends sends its entries and their count. -/
theorem row_ends {i : Instr} {choose : Nat → List RowElem → List Word × Nat} (hplace : s.site.a < 65536) (hlast : s.site.last = true)
    (hexec : exec i s = .next (if s.site.last then
      (s.rowed w).emitRow w (rowOf s).tag (choose w.const.toNat (grownRow s w).elems) (grownRow s w).past else s.rowed w))
    {f g : Emission → List Flight} (hsent : ∀ q : Emission, q.kind = 0 → q.tag = (rowOf s).tag →
      tokenTo s w.d0 q = some (f q) ∧ tokenTo s w.d1 q = some (g q)) :
    Fires i s (rowTokens w (grownRow s w) f g (choose w.const.toNat (grownRow s w).elems)) := by
  rw [if_pos hlast] at hexec
  exact ⟨_, hexec, ((firing_rowed hplace).emitRow (z := grownRow s w) _ hsent).toFired⟩

/-! ## MERGE2 (R151) -/

/-- An instruction that reads p itself begins, whatever p holds. -/
theorem State.gated_own {ok : Bool} {k : State → Out} (hok : ok = true) : s.gated w ok true k = k (s.begun w) := by
  simp only [State.gated, hok, Bool.not_true, Bool.and_false, Bool.false_eq_true, if_false, State.begun, beq_iff_eq]

/-- The streams of a tag once a head is consumed. -/
def MergeSt.take (z : MergeSt) (q : Nat × MsEntry) : MergeSt :=
  let c := if q.2.tok.kind == 7 || mcoord q.2 == 0xFFFFFFFF then none else some (mcoord q.2)
  if q.1 == 0 then { z with lastA := if c.isSome then c else z.lastA, endA := z.endA || q.2.tok.last }
  else { z with lastB := if c.isSome then c else z.lastB, endB := z.endB || q.2.tok.last }

theorem MergeSt.same_take (z : MergeSt) (q : Nat × MsEntry) : (z.take q).slot = z.slot ∧ (z.take q).tag = z.tag := by
  unfold MergeSt.take
  dsimp only
  split <;> exact ⟨rfl, rfl⟩

theorem MergeSt.same_takes (z : MergeSt) (l : List (Nat × MsEntry)) : (l.foldl take z).slot = z.slot ∧ (l.foldl take z).tag = z.tag := by
  induction l generalizing z with
  | nil => exact ⟨rfl, rfl⟩
  | cons q l ih =>
    obtain ⟨hslot, htag⟩ := z.same_take q
    rw [List.foldl_cons, ← hslot, ← htag]
    exact ih _

theorem mergeOf_same (e : ElemState) (slot : Nat) (g : BitVec 24) : (mergeOf e slot g).slot = slot ∧ (mergeOf e slot g).tag = g := by
  unfold mergeOf
  cases h : e.merges.find? fun z => z.slot == slot && z.tag == g with
  | none => exact ⟨rfl, rfl⟩
  | some z => simpa using List.find?_some h

/-- The element once heads are consumed. -/
def ElemState.mergeTake (e : ElemState) (z : MergeSt) (l : List (Nat × MsEntry)) : ElemState :=
  { dropEnts e l with merges := ((dropEnts e l).merges.filter fun q => !(q.slot == (l.foldl MergeSt.take z).slot &&
      q.tag == (l.foldl MergeSt.take z).tag)) ++ [l.foldl MergeSt.take z] }

theorem State.mergeTake_eq (s : State) (z : MergeSt) (l : List (Nat × MsEntry)) :
    s.mergeTake z l = s.updElem s.site.r s.site.a fun e => e.mergeTake z l := rfl

/-- The streams of a tag after heads of it are consumed. -/
theorem mergeOf_mergeTake (e : ElemState) (z : MergeSt) (l : List (Nat × MsEntry)) :
    mergeOf (e.mergeTake z l) z.slot z.tag = l.foldl MergeSt.take z := by
  obtain ⟨hslot, htag⟩ := z.same_takes l
  have hnone : List.find? (fun q => q.slot == z.slot && q.tag == z.tag) ((dropEnts e l).merges.filter fun q =>
      !(q.slot == (l.foldl MergeSt.take z).slot && q.tag == (l.foldl MergeSt.take z).tag)) = none := by
    refine List.find?_eq_none.mpr fun q hq => ?_
    have hkept := (List.mem_filter.mp hq).2
    rw [hslot, htag] at hkept
    exact ne_true_of_eq_false (Bool.not_eq_true' _ ▸ hkept)
  rw [mergeOf, ElemState.mergeTake, List.find?_append, hnone]
  simp [hslot, htag]

/-- The heads of a firing taken, each stream's end noted. -/
theorem firing_mergeTake (hplace : s.site.a < 65536) (z : MergeSt) : Firing s ((s.begun w).mergeTake z s.site.ents) [] := by
  have hstart : (s.begun w).mergeTake z s.site.ents =
      { s with elems := ((s.begun w).mergeTake z s.site.ents).elems, regions := (s.begun w).regions, free := (s.begun w).free } := by
    rw [State.begun_eq]
    rfl
  refine ⟨⟨?_, fun m hm q hq => ?_, fun r a ha hne => ?_, State.readByte_congr ?_ ?_, ?_⟩, ?_⟩
  · rw [hstart, List.append_nil]
  · rw [State.mergeTake_eq, State.site_begun, State.elem_updElem] at hq
    exact stamp_of_mem_dropEnts hq m hm
  · rw [State.mergeTake_eq, State.site_begun, State.elem_updElem_other _ _ hplace ha hne, State.elem_begun]
  · rw [hstart]
  · rw [hstart]
  · rw [hstart]
  · exact (congrArg RegionState.ctxs (s.region_begun w) :)

/-- The streams of the tag of a firing of MERGE2. -/
def streamsOf (s : State) : MergeSt := mergeOf (s.elem s.site.r s.site.a) s.site.slot s.site.tag

/-- No terminator follows while a stream has not ended. -/
theorem State.mergeEnd_open (h : ((streamsOf t).endA && (streamsOf t).endB) = false) : t.mergeEnd w = t :=
  if_neg (ne_true_of_eq_false h)

/-- The terminator follows once both streams have ended. -/
theorem Firing.mergeEnd (h : Firing s t l) (hplace : s.site.a < 65536)
    (hl : (if (streamsOf t).endA && (streamsOf t).endB then tokensOf s w .both { s.out w 0xFFFFFFFF with last := true } else some []) = some l') :
    Firing s (t.mergeEnd w) (l ++ l') := by
  split at hl
  next hended =>
    have hdone := h.updElem hplace (f := fun e => { e with merges := e.merges.filter fun q =>
      !(q.slot == (streamsOf t).slot && q.tag == (streamsOf t).tag) }) fun _ _ hq => hq
    have hsent := hdone.emit (dst := .both) (State.out_congr hdone.site w _ ▸ hl)
    rw [← h.site] at hsent
    rw [show t.mergeEnd w = _ from if_pos hended]
    exact hsent
  next hopen =>
    rw [← Option.some.inj hl, List.append_nil, State.mergeEnd_open (Bool.eq_false_iff.mpr hopen)]
    exact h

/-- The token that a MERGE2 makes of the entry `m`. -/
def mergeToken (s : State) (w : Slot) (m : MsEntry) (p : Word) : Emission :=
  { kind := 0, pay := p, tag := s.site.tag, seq := m.tok.seq, last := m.tok.last, chan := w.out, past := s.site.past }

/-- The streams of the tag of a firing once it has taken heads. -/
theorem streamsOf_mergeTake (s : State) (w : Slot) (l : List (Nat × MsEntry)) :
    streamsOf ((s.begun w).mergeTake (streamsOf s) l) = l.foldl MergeSt.take (streamsOf s) := by
  have hsite : ((s.begun w).mergeTake (streamsOf s) l).site = s.site := s.site_begun w
  obtain ⟨hslot, htag⟩ := mergeOf_same (s.elem s.site.r s.site.a) s.site.slot s.site.tag
  have hstreams := mergeOf_mergeTake (s.elem s.site.r s.site.a) (streamsOf s) l
  rw [show (streamsOf s).slot = _ from hslot, show (streamsOf s).tag = _ from htag] at hstreams
  rw [streamsOf, hsite, State.mergeTake_eq, State.site_begun, State.elem_updElem, State.elem_begun, hstreams]

/-- Tokens that are sent change no stream. -/
theorem streamsOf_net (s : State) (l : List Flight) : streamsOf { s with net := l } = streamsOf s := rfl

theorem mcoord_eq (m : MsEntry) : mcoord m = m.tok.payload.toNat % 2 ^ 32 := by simp [mcoord, bitsOf]

theorem outOfOrder_of {o : Option Nat} {m : MsEntry} (h : ∀ c, o = some c → c < mcoord m) : outOfOrder o m = false := by
  cases o with
  | none => rfl
  | some c => simpa [outOfOrder] using h c rfl

/-- Two heads on which MERGE2 works: no poison, no terminator, in order, and both streams going on (R151). -/
structure TwoHeads (s : State) (w : Slot) (m n : MsEntry) : Prop where
  ents : s.site.ents = [(0, m), (1, n)]
  poisonA : m.tok.kind ≠ 7
  poisonB : n.tok.kind ≠ 7
  coordA : mcoord m ≠ 0xFFFFFFFF
  coordB : mcoord n ≠ 0xFFFFFFFF
  orderA : outOfOrder (streamsOf s).lastA m = false
  orderB : outOfOrder (streamsOf s).lastB n = false
  goesA : (streamsOf s).endA = false
  goesB : (streamsOf s).endB = false
  lanesA : ((inputOf s w).op 0).fmt.lanes = (inputOf s w).out.fmt.lanes
  lanesB : ((inputOf s w).op 1).fmt.lanes = (inputOf s w).out.fmt.lanes

/-- The state once MERGE2 has sent a head that both streams hold. -/
def State.mergeBoth (s : State) (w : Slot) (m n : MsEntry) : State :=
  (((s.begun w).mergeTake (streamsOf s) s.site.ents).emit w .d0 (mergeToken s w m m.tok.payload)).emit w .d1 (mergeToken s w m n.tok.payload)

/-- The state once MERGE2 has taken a head of the first stream alone; a union sends it, with its coordinate on the other side. -/
def State.mergeLow (s : State) (w : Slot) (m : MsEntry) : State :=
  if w.fn = 1 then (((s.begun w).mergeTake (streamsOf s) [(0, m)]).emit w .d0 (mergeToken s w m m.tok.payload)).emit w .d1
    (mergeToken s w m (BitVec.ofNat 64 (mcoord m)))
  else (s.begun w).mergeTake (streamsOf s) [(0, m)]

/-- Heads with the same coordinate are both taken, a lower head of the first stream alone. -/
theorem merge2_eq {m n : MsEntry} (h : TwoHeads s w m n) (ha : s.site.a % 128 < 64) (hrule : w.fire ≠ 2) (hshape : Shape w [2] [0, 1] [0])
    (hle : mcoord m ≤ mcoord n) :
    exec (.merge2 w) s = .next ((if mcoord m = mcoord n then s.mergeBoth w m n else s.mergeLow w m).mergeEnd w) := by
  have hz : mergeOf (s.elem s.site.r s.site.a) s.site.slot s.site.tag = streamsOf s := rfl
  show execMerge2 w s = _
  unfold execMerge2
  rw [State.gated_own (keeps_form ha hshape (by decide) (by decide) hrule)]
  simp only [State.fin_begun, State.site_begun, State.elem_begun, hz, h.ents, List.find?_cons, beq_false_of_ne h.poisonA,
    beq_false_of_ne h.poisonB, beq_false_of_ne h.coordA, beq_false_of_ne h.coordB, sameOut_of h.lanesA, sameOut_of h.lanesB,
    beq_self_eq_true, if_true, h.orderA, Nat.reduceBEq, Nat.one_ne_zero, if_false, h.orderB, List.find?_nil, Bool.not_true, Bool.or_false,
    Option.map_some, Slot.fnN_one, beq_iff_eq]
  rcases Nat.lt_or_eq_of_le hle with hlt | heq
  · rw [if_neg hlt.ne, if_neg hlt.ne, if_pos hlt]
    rfl
  · rw [if_pos heq, if_pos heq, State.mergeBoth, h.ents]
    rfl

/-- MERGE2's firing on two heads with the same coordinate, both streams' last bits ending it. -/
theorem merge2_both {m n : MsEntry} (h : TwoHeads s w m n) (hplace : s.site.a < 65536) (ha : s.site.a % 128 < 64) (hrule : w.fire ≠ 2)
    (hshape : Shape w [2] [0, 1] [0]) (heq : mcoord m = mcoord n) {l'' : List Flight}
    (hl : tokensOf s w .d0 (mergeToken s w m m.tok.payload) = some l) (hl' : tokensOf s w .d1 (mergeToken s w m n.tok.payload) = some l')
    (hend : (if m.tok.last && n.tok.last then tokensOf s w .both { s.out w 0xFFFFFFFF with last := true } else some []) = some l'') :
    Fires (.merge2 w) s (l ++ l' ++ l'') := by
  have hexec := merge2_eq h ha hrule hshape heq.le
  rw [if_pos heq] at hexec
  have htaken := firing_mergeTake (w := w) hplace (streamsOf s)
  have hboth : Firing s (s.mergeBoth w m n) (l ++ l') := (htaken.emit hl).emit hl'
  have hstreams : streamsOf (s.mergeBoth w m n) = ((streamsOf s).take (0, m)).take (1, n) := by
    rw [State.mergeBoth, (htaken.emit hl).emit_eq hl', htaken.emit_eq hl, streamsOf_net, streamsOf_net, streamsOf_mergeTake, h.ents]
    rfl
  refine ⟨_, hexec, (hboth.mergeEnd hplace ?_).toFired⟩
  rw [hstreams]
  simpa [MergeSt.take, h.goesA, h.goesB] using hend

theorem State.mergeLow_eq {m : MsEntry} (hl : tokensOf s w .d0 (mergeToken s w m m.tok.payload) = some l)
    (hl' : tokensOf s w .d1 (mergeToken s w m (BitVec.ofNat 64 (mcoord m))) = some l') :
    s.mergeLow w m = { (s.begun w).mergeTake (streamsOf s) [(0, m)] with net := s.net ++ if w.fn = 1 then l ++ l' else [] } := by
  have hsite : ((s.begun w).mergeTake (streamsOf s) [(0, m)]).site = s.site := s.site_begun w
  have hctxs : (((s.begun w).mergeTake (streamsOf s) [(0, m)]).region s.site.r).ctxs = (s.region s.site.r).ctxs :=
    (congrArg RegionState.ctxs (s.region_begun w) :)
  have hnet : ((s.begun w).mergeTake (streamsOf s) [(0, m)]).net = s.net := by
    refine Eq.trans (b := (s.begun w).net) rfl ?_
    rw [State.begun_eq]
  unfold State.mergeLow
  by_cases hun : w.fn = 1
  · rw [if_pos hun, if_pos hun, State.emit_tokensOf ((tokensOf_congr hsite hctxs ..).trans hl), ← List.append_assoc, ← hnet]
    exact State.emit_tokensOf ((tokensOf_congr (t := { (s.begun w).mergeTake (streamsOf s) [(0, m)] with
      net := ((s.begun w).mergeTake (streamsOf s) [(0, m)]).net ++ l }) hsite hctxs ..).trans hl')
  · rw [if_neg hun, if_neg hun, List.append_nil, ← hnet]

/-- MERGE2's firing on a lower head of the first stream: that entry alone leaves the store. -/
theorem merge2_lower {m n : MsEntry} (h : TwoHeads s w m n) (ha : s.site.a % 128 < 64) (hrule : w.fire ≠ 2)
    (hshape : Shape w [2] [0, 1] [0]) (hlt : mcoord m < mcoord n) (hl : tokensOf s w .d0 (mergeToken s w m m.tok.payload) = some l)
    (hl' : tokensOf s w .d1 (mergeToken s w m (BitVec.ofNat 64 (mcoord m))) = some l') :
    ∃ u, exec (.merge2 w) s = .next u ∧ u.net = s.net ++ (if w.fn = 1 then l ++ l' else []) ∧
      (u.elem s.site.r s.site.a).store = (s.elem s.site.r s.site.a).store.filter fun q => q.stamp != m.stamp := by
  have hexec := merge2_eq h ha hrule hshape hlt.le
  have hopen : (s.mergeLow w m).mergeEnd w = s.mergeLow w m := by
    rw [State.mergeLow_eq hl hl']
    refine State.mergeEnd_open ?_
    rw [streamsOf_net, streamsOf_mergeTake]
    simp [MergeSt.take, h.goesB]
  rw [if_neg hlt.ne, hopen, State.mergeLow_eq hl hl'] at hexec
  refine ⟨_, hexec, rfl, ?_⟩
  refine Eq.trans (b := (((s.begun w).mergeTake (streamsOf s) [(0, m)]).elem s.site.r s.site.a).store) rfl ?_
  rw [State.mergeTake_eq, State.site_begun, State.elem_updElem, State.elem_begun]
  simp [ElemState.mergeTake, dropEnts, bne, Bool.beq_comm]

/-- Settles O29: a token joins or ends its row, and the heads of two streams are compared by their coordinates. -/
theorem rowAndMergeElementsFire : Obligations.RowAndMergeElementsFire := by
  unfold Obligations.RowAndMergeElementsFire
  constructor
  · intro s w hfire ha hrule hshape x e z els past hlive hgood
    refine ⟨fun hlast i hi => ?goes, fun hlast f g hsent => ?ends⟩
    case goes =>
      have hexec : exec i s = .next (s.rowed w) := by
        rcases List.mem_pair.mp hi with rfl | rfl <;>
          exact (State.fireRow_eq hfire ha hrule hshape hlive hgood).trans (by rw [if_neg (ne_true_of_eq_false hlast)])
      refine ⟨_, hexec, (firing_rowed hfire.place).toFired, (s.rows_rowed w).trans ?_⟩
      rw [putRow, if_neg (ne_true_of_eq_false hlast)]
      rfl
    case ends =>
      have hcompress : exec (.compress w) s = _ := State.fireRow_eq (choose := compressEntries) hfire ha hrule hshape hlive hgood
      have htopk : exec (.topk w) s = _ := State.fireRow_eq (choose := topEntries) hfire ha hrule hshape hlive hgood
      exact ⟨row_ends hfire.place hlast hcompress hsent, row_ends hfire.place hlast htopk hsent⟩
  · intro s w m n hplace ha hrule hshape hents z x tok coord after hpm hpn hcm hcn horderA horderB hgoesA hgoesB hlanesA hlanesB
    have hheads : TwoHeads s w m n := {
      ents := hents, poisonA := hpm, poisonB := hpn, coordA := mcoord_eq m ▸ hcm, coordB := mcoord_eq n ▸ hcn
      orderA := outOfOrder_of fun c hc => mcoord_eq m ▸ horderA c hc, orderB := outOfOrder_of fun c hc => mcoord_eq n ▸ horderB c hc
      goesA := hgoesA, goesB := hgoesB, lanesA := hlanesA, lanesB := hlanesB }
    have hcoord : ∀ q, coord q = mcoord q := fun q => (mcoord_eq q).symm
    simp only [hcoord]
    exact ⟨fun heq l l' t hl hl' hend => merge2_both hheads hplace ha hrule hshape heq hl hl' hend,
      fun hlt l l' hl hl' => merge2_lower hheads ha hrule hshape hlt hl hl'⟩

end Sys2Proof.Machine
end

section
/-! SUPPORT. What the system instructions of elements do (R152 to R155, R157, R158). -/
namespace Sys2Proof.Machine
open Sys2Proof.Claims

variable {s t : State} {w : Slot} {l l' : List Flight}

/-! ## The first irrevocable act of a run (R335) -/

/-- A region but for its store buffer. -/
def RegionState.unbuffered (x : RegionState) : RegionState :=
  { x with storeBuf := [], storePoison := [], storeClear := [], buffering := false, idem := false }

theorem State.region_noteBuffer (s : State) (r j : Nat) : (s.noteBuffer r).region j = s.region j := by
  rw [State.noteBuffer_eq]
  rfl

theorem State.region_irrevocable (s : State) (r : Nat) : ((s.irrevocable r).region r).unbuffered = (s.region r).unbuffered := by
  unfold State.irrevocable
  split
  · rw [State.region_updRegion, State.flushStores, State.region_updRegion, ← s.region_noteBuffer r r]
    rfl
  · rfl

theorem State.ctxs_irrevocable (s : State) (r : Nat) : ((s.irrevocable r).region r).ctxs = (s.region r).ctxs :=
  (congrArg RegionState.ctxs (s.region_irrevocable r) :)

theorem State.task_irrevocable (s : State) (r : Nat) : ((s.irrevocable r).region r).task = (s.region r).task :=
  (congrArg RegionState.task (s.region_irrevocable r) :)

theorem State.triggered_irrevocable (s : State) (r : Nat) : ((s.irrevocable r).region r).triggered = (s.region r).triggered :=
  (congrArg RegionState.triggered (s.region_irrevocable r) :)

theorem State.vd_irrevocable (s : State) (r : Nat) : ((s.irrevocable r).region r).vd = (s.region r).vd :=
  (congrArg RegionState.vd (s.region_irrevocable r) :)

/-- A note of a write stays when the buffer of a region is noted. -/
theorem mem_unseen_noteBuffer {h : Unseen} (r : Nat) (hu : h ∈ s.unseen) : h ∈ (s.noteBuffer r).unseen := by
  unfold State.noteBuffer
  split
  · exact hu
  · next k ks hks =>
    generalize bufferRuns (s.region r).storeBuf = runs
    clear hks
    induction runs generalizing s with
    | nil => exact hu
    | cons q runs ih =>
      refine ih ?_
      exact List.mem_cons_of_mem _ hu

theorem mem_unseen_irrevocable {h : Unseen} (r : Nat) (hu : h ∈ s.unseen) : h ∈ (s.irrevocable r).unseen := by
  unfold State.irrevocable
  split
  · exact mem_unseen_noteBuffer r hu
  · exact hu

/-- A release performs the writes of its agent (R188). -/
theorem performed_of_unseen {x : Agent} (past : Past) (sc : Nat) (h : ∀ g ∈ s.unseen, g ∈ t.unseen) :
    Performed s (t.releaseAt x past sc) x sc :=
  fun g hg _ hmeets => ⟨g.released x sc, State.performed_releaseAt (h g hg) hmeets, g.sameWrite_released x sc, Unseen.mem_released ..⟩

/-- Sending a result, and the fault of one whose tag operation fails, leave a region's mark of its trigger. -/
theorem State.triggered_emitAt (s : State) (r a slot : Nat) (g : BitVec 24) (d : Dest) (e : Emission) (j : Nat) :
    ((s.emitAt r a slot g d e).region j).triggered = (s.region j).triggered := by
  unfold State.emitAt
  split
  · rfl
  · dsimp only
    split
    · exact State.triggered_raise ..
    · rfl

theorem State.triggered_pass (s : State) (w : Slot) (x : FireIn) (k j : Nat) :
    ((s.pass w x k .both id).region j).triggered = (s.region j).triggered :=
  (State.triggered_emitAt ..).trans ((State.triggered_emitAt ..).trans (congrArg RegionState.triggered (State.region_setCauses ..)))

/-! ## TOKOUT (R152) -/

theorem State.siteDie_begun (s : State) (w : Slot) : (s.begun w).siteDie = s.coreOf s.site.r s.site.a / 48 := by
  rw [State.siteDie, State.site_begun, show (s.begun w).coreOf _ _ = _ from s.coreOf_taken w s.site.a]
  exact Nat.div_div_eq_div_mul ..

/-- The port that TOKOUT names, other than the predictor's. -/
theorem State.tokPort_begun (hlt : w.const.toNat < 512) (hne : w.const.toNat ≠ 255) : (s.begun w).tokPort w =
    s.portOf (s.region s.site.r).vd (s.coreOf s.site.r s.site.a / 48) w.const.toNat := by
  unfold State.tokPort
  rw [Nat.mod_eq_of_lt hlt, State.siteDie_begun, State.site_begun, State.region_begun]
  rw [if_neg (by simpa using hne), State.begun_eq]
  rfl

theorem State.portTakes_begun (s : State) (w : Slot) (p : Nat) : (s.begun w).portTakes p = s.portTakes p := by
  rw [State.begun_eq]
  rfl

theorem State.portFifo_setFifo (s : State) (p : Nat) (l : List PortTok) : (s.setFifo p l).portFifo p = l := by
  unfold State.setFifo State.portFifo
  split
  · rw [State.port_updPort]
  · rw [State.serdexPort_updSerdex]

theorem State.net_setFifo (s : State) (p : Nat) (l : List PortTok) : (s.setFifo p l).net = s.net := by
  unfold State.setFifo
  split <;> rfl

/-- The token that TOKOUT adds to its port. -/
def State.leaving (s : State) (w : Slot) : PortTok :=
  { vd := (s.region s.site.r).vd, r := some s.site.r, tok := s.tokLeaves w (inputOf s w), past := s.site.past }

/-- Context and iteration make up the tag of a token. -/
theorem tokTag_of_parts {t : Token} {g : BitVec 24} (hctx : t.ctx = BitVec.ofNat 8 (tagCtx g)) (hiter : t.iter = BitVec.ofNat 16 (tagIter g)) :
    tokTag t = g := by
  rw [tokTag, hctx, hiter]
  exact tokTag_plainFlight 0 0 0 default { (default : Emission) with tag := g }

theorem State.tokTag_leaving (s : State) (w : Slot) : tokTag (s.leaving w).tok = s.site.tag :=
  tokTag_of_parts rfl rfl

section
variable (hfire : CanFire s w) (ha : s.site.a % 128 < 64) (hlanes : ((inputOf s w).op 0).fmt.lanes = (inputOf s w).out.fmt.lanes)
  (hshape : Shape w [1] [0] [0]) (hlt : w.const.toNat < 512) (h0 : w.d0.valid = false) (h1 : w.d1.valid = false)
  (hne : w.const.toNat ≠ 255)
include hfire ha hlanes hshape hlt h0 h1 hne

/-- TOKOUT by the port that it names, and by whether the port takes a token. -/
theorem exec_tokout : exec (.tokout w) s = match s.portOf (s.region s.site.r).vd (s.coreOf s.site.r s.site.a / 48) w.const.toNat with
    | none => .next ((s.taken w).siteFault fcAccessFault 0 (s.site.firstTok fun _ _ => true))
    | some p => .next (if s.portTakes p then
        ((s.taken w).irrevocable s.site.r).setFifo p (s.portFifo p ++ [s.leaving w]) else s.begun w) := by
  show execTokout w s = _
  unfold execTokout
  rw [State.flow_effect hfire (computeElem_form ha hshape (by decide) (by decide))]
  have hok : tokoutOk w (inputOf s w) = true := by simp [tokoutOk, hlt, h0, h1, sameOut_of hlanes]
  rw [hok, State.tokPort_begun hlt hne]
  cases s.portOf (s.region s.site.r).vd (s.coreOf s.site.r s.site.a / 48) w.const.toNat with
  | none =>
    simp only [State.consumeFault, State.site_begun]
    rfl
  | some p =>
    have hport : (w.const.toNat == 255) = false := beq_false_of_ne hne
    have hvd : ((s.begun w).region s.site.r).vd = (s.region s.site.r).vd := (congrArg RegionState.vd (s.region_begun w) :)
    have hleaves : (s.begun w).tokLeaves w (inputOf s w) = s.tokLeaves w (inputOf s w) := by
      rw [State.begun_eq]
      rfl
    have hfifo : ((s.taken w).irrevocable s.site.r).portFifo p = s.portFifo p := by
      rw [State.irrevocable_eq, State.taken_eq]
      rfl
    simp only [hport, State.portTakes_begun, State.site_begun, hvd, hleaves]
    by_cases htakes : s.portTakes p = true
    · rw [if_pos htakes, ← hfifo, htakes]
      rfl
    · rw [if_neg htakes, Bool.eq_false_iff.mpr htakes]
      rfl

/-- TOKOUT adds its token to a port that takes one. -/
theorem tokout_adds {p : Nat} (hp : s.portOf (s.region s.site.r).vd (s.coreOf s.site.r s.site.a / 48) w.const.toNat = some p)
    (htakes : s.portTakes p = true) : ∃ u, exec (.tokout w) s = .next u ∧ u.portFifo p = s.portFifo p ++ [s.leaving w] ∧ u.net = s.net := by
  have hexec := exec_tokout hfire ha hlanes hshape hlt h0 h1 hne
  rw [hp] at hexec
  refine ⟨_, hexec.trans (congrArg Host.Outcome.next (if_pos htakes)), State.portFifo_setFifo .., ?_⟩
  rw [State.net_setFifo, State.irrevocable_eq, State.taken_eq]

/-- TOKOUT waits at a port that takes no token. -/
theorem tokout_waits {p : Nat} (hp : s.portOf (s.region s.site.r).vd (s.coreOf s.site.r s.site.a / 48) w.const.toNat = some p)
    (hfull : s.portTakes p = false) : exec (.tokout w) s = .next (s.begun w) := by
  have hexec := exec_tokout hfire ha hlanes hshape hlt h0 h1 hne
  rw [hp] at hexec
  exact hexec.trans (congrArg Host.Outcome.next (if_neg (ne_true_of_eq_false hfull)))

/-- TOKOUT raises AccessFault where its port word names no port of the device. -/
theorem tokout_faults (hnone : s.portOf (s.region s.site.r).vd (s.coreOf s.site.r s.site.a / 48) w.const.toNat = none) :
    exec (.tokout w) s = .next ((s.taken w).raise s.site.r fcAccessFault s.site.a s.site.slot s.site.tag.toNat 0
      (s.site.firstTok fun _ _ => true)) := by
  have hexec := exec_tokout hfire ha hlanes hshape hlt h0 h1 hne
  rw [hnone] at hexec
  refine hexec.trans ?_
  simp only [State.siteFault, State.site_taken]

end

/-! ## TRAP (R153) -/

/-- The state of a TRAP that has raised its fault. -/
def State.trapped (s : State) (w : Slot) : State :=
  (s.begun w).raise s.site.r fcIllegal s.site.a s.site.slot s.site.tag.toNat (2 ^ 63 + w.const.toNat) (tokBits (s.tokenA w (inputOf s w)))

section
variable (hfire : CanFire s w) (ha : s.site.a % 128 < 64) (hlanes : ((inputOf s w).op 0).fmt.lanes = (inputOf s w).out.fmt.lanes)
include hfire ha hlanes

/-- TRAP raises its fault, then stops its slot or goes on as an instruction that passes a. -/
theorem exec_elemTrap (hshape : Shape w [1] [0, 1] [0]) (hconst : w.const.toNat < 2 ^ 15) : exec (.elemTrap w) s = .next (if w.fn = 1 then
    ((s.trapped w).consume w).pass w (inputOf s w) 0 .both id else (s.trapped w).stopSlotAt s.site.r s.site.a s.site.slot) := by
  have htoken : (s.begun w).tokenA w (inputOf s w) = s.tokenA w (inputOf s w) := by
    rw [State.begun_eq]
    rfl
  show execElemTrap w s = _
  unfold execElemTrap
  rw [State.flow_effect hfire (computeElem_form ha hshape (by decide) (by decide))]
  simp only [htoken, decide_eq_false (Nat.not_le.mpr hconst), sameOut_of hlanes, State.siteFault, State.site_begun, Slot.fnN_one, beq_iff_eq]
  by_cases hfn : w.fn = 1
  · rw [if_pos hfn, if_pos hfn]
    rfl
  · rw [if_neg hfn, if_neg hfn]
    rfl

theorem trap_stops (hshape : Shape w [1] [0] [0]) (hconst : w.const.toNat < 2 ^ 15) :
    exec (.elemTrap w) s = .next ((s.trapped w).stopSlotAt s.site.r s.site.a s.site.slot) := by
  obtain ⟨harity, hfn, hflags⟩ := hshape
  have hzero : ¬ w.fn = 1 := fun h => by simp [h] at hfn
  rw [exec_elemTrap hfire ha hlanes ⟨harity, by simp [List.mem_singleton.mp hfn], hflags⟩ hconst, if_neg hzero]

theorem trap_passes (hshape : Shape w [1] [1] [0]) (hconst : w.const.toNat < 2 ^ 15) :
    exec (.elemTrap w) s = .next (((s.trapped w).consume w).pass w (inputOf s w) 0 .both id) := by
  obtain ⟨harity, hfn, hflags⟩ := hshape
  have hone : w.fn = 1 := BitVec.eq_of_toNat_eq (List.mem_singleton.mp hfn)
  rw [exec_elemTrap hfire ha hlanes ⟨harity, by simp [hone], hflags⟩ hconst, if_pos hone]

end

theorem State.site_trapped (s : State) (w : Slot) : (s.trapped w).site = s.site := (reported_raise ..).site.trans (s.site_begun w)

theorem State.ctxs_trapped (s : State) (w : Slot) : ((s.trapped w).region s.site.r).ctxs = (s.region s.site.r).ctxs :=
  (State.ctxs_raise ..).trans (congrArg RegionState.ctxs (s.region_begun w) :)

/-- What follows the fault of a TRAP is a firing that passes a. -/
theorem firing_trapped (hfire : CanFire s w) (hl : tokensOf s w .both (s.out w (BitVec.ofNat 64 (payOf (inputOf s w) 0))) = some l) :
    Firing (s.trapped w) (((s.trapped w).consume w).pass w (inputOf s w) 0 .both id) l := by
  have hsite := s.site_trapped w
  have htaken : Firing (s.trapped w) ((s.trapped w).consume w) [] := firing_of_consume (w := w) (by rw [hsite]; exact hfire.place) rfl rfl
  refine htaken.pass (f := id) ?_
  rw [tokensOf_congr hsite (s.ctxs_trapped w), State.out_congr hsite]
  exact hl

/-! ## ETRIG (R154) -/

/-- The state of an ETRIG before it triggers its task: its set is taken, and what comes before it is released. -/
def State.triggering (s : State) (w : Slot) : State :=
  ((s.taken w).irrevocable s.site.r).releaseAt (s.streamAgent s.site.r s.site.a s.site.slot) s.site.past w.fnN

theorem State.task_triggering (s : State) (w : Slot) : ((s.triggering w).region s.site.r).task = (s.region s.site.r).task :=
  (State.task_irrevocable ..).trans (congrArg RegionState.task (s.region_taken w) :)

theorem State.triggered_triggering (s : State) (w : Slot) : ((s.triggering w).region s.site.r).triggered = (s.region s.site.r).triggered :=
  (State.triggered_irrevocable ..).trans (congrArg RegionState.triggered (s.region_taken w) :)

theorem State.vd_triggering (s : State) (w : Slot) : ((s.triggering w).region s.site.r).vd = (s.region s.site.r).vd :=
  (State.vd_irrevocable ..).trans (congrArg RegionState.vd (s.region_taken w) :)

theorem State.ctxs_triggering (s : State) (w : Slot) : ((s.triggering w).region s.site.r).ctxs = (s.region s.site.r).ctxs :=
  (State.ctxs_irrevocable ..).trans (congrArg RegionState.ctxs (s.region_taken w) :)

/-- What an ETRIG does before it triggers is a firing, but for the buffered writes and the notes on writes. -/
theorem firing_triggering (hplace : s.site.a < 65536) :
    Firing { s with mem := (s.triggering w).mem, poison := (s.triggering w).poison, unseen := (s.triggering w).unseen } (s.triggering w) [] := by
  refine firing_of_consume (w := w) hplace ?_ (s.ctxs_triggering w)
  unfold State.triggering
  rw [State.releaseAt_eq, State.irrevocable_eq, State.taken_eq]
  rfl

theorem performed_triggering (s : State) (w : Slot) :
    Performed s (s.triggering w) (s.streamAgent s.site.r s.site.a s.site.slot) w.fnN := by
  refine performed_of_unseen _ _ fun g hg => mem_unseen_irrevocable _ ?_
  rw [State.taken_eq]
  exact hg

/-- The state of an ETRIG that has triggered its task, where it had not before. -/
def State.etriggered (s : State) (w : Slot) : State :=
  match (s.region s.site.r).task with
  | some a => if (s.region s.site.r).triggered then s.triggering w
    else
      let q := (s.triggering w).triggerTask (s.region s.site.r).vd (s.site.r / 64)
        [(s.triggering w).releaseOf (s.streamAgent s.site.r s.site.a s.site.slot) s.site.past w.fnN] a
      q.1.updRegion s.site.r fun y => { y with triggered := q.2 == tsTriggered }
  | none => s.triggering w

theorem State.etriggered_idle (s : State) (w : Slot) (h : (s.region s.site.r).task = none ∨ (s.region s.site.r).triggered = true) :
    s.etriggered w = s.triggering w := by
  unfold State.etriggered
  cases htask : (s.region s.site.r).task with
  | none => rfl
  | some a =>
    rw [htask] at h
    exact if_pos (h.resolve_left (Option.some_ne_none a))

theorem State.etriggered_first (s : State) (w : Slot) {a : Word} (htask : (s.region s.site.r).task = some a)
    (h : (s.region s.site.r).triggered = false) : s.etriggered w =
      ((s.triggering w).triggerTask (s.region s.site.r).vd (s.site.r / 64)
        [(s.triggering w).releaseOf (s.streamAgent s.site.r s.site.a s.site.slot) s.site.past w.fnN] a).1.updRegion s.site.r fun y => { y with
          triggered := ((s.triggering w).triggerTask (s.region s.site.r).vd (s.site.r / 64)
            [(s.triggering w).releaseOf (s.streamAgent s.site.r s.site.a s.site.slot) s.site.past w.fnN] a).2 == tsTriggered } := by
  unfold State.etriggered
  rw [htask, h]
  rfl

theorem exec_elemEtrig (hfire : CanFire s w) (ha : s.site.a % 128 < 64)
    (hlanes : ((inputOf s w).op 0).fmt.lanes = (inputOf s w).out.fmt.lanes) (hshape : Shape w [1] [1, 2, 3, 4, 5] [0]) :
    exec (.elemEtrig w) s = .next ((s.etriggered w).pass w (inputOf s w) 0 .both id) := by
  show execElemEtrig w s = _
  unfold execElemEtrig
  rw [State.flow_effect hfire (computeElem_form ha hshape (by decide) (by decide))]
  have hagent : (s.begun w).streamAgent s.site.r s.site.a s.site.slot = s.streamAgent s.site.r s.site.a s.site.slot :=
    congrArg (Agent.stream · (s.site.a % 128) s.site.slot) (s.coreOf_taken w s.site.a)
  have htriggering : ((((s.begun w).consume w).irrevocable s.site.r).releaseAt (s.streamAgent s.site.r s.site.a s.site.slot) s.site.past w.fnN) =
    s.triggering w := rfl
  simp only [sameOut_of hlanes, State.site_begun, hagent, htriggering, State.task_triggering, State.triggered_triggering, State.vd_triggering]
  unfold State.etriggered
  cases (s.region s.site.r).task <;> rfl

/-- ETRIG passes a on where no task is left to trigger. -/
theorem net_pass_triggering (hplace : s.site.a < 65536) (hl : tokensOf s w .both (s.out w (BitVec.ofNat 64 (payOf (inputOf s w) 0))) = some l) :
    ((s.triggering w).pass w (inputOf s w) 0 .both id).net = s.net ++ l :=
  ((firing_triggering hplace).pass (f := id) ((tokensOf_congr (s := s) rfl rfl ..).trans hl)).net

/-! ## DONE (R155) -/

/-- DONE tells the sequencer of its region, unless another package steps it. -/
theorem exec_done (hfire : CanFire s w) (ha : s.site.a % 128 < 64)
    (hlanes : ((inputOf s w).op 0).fmt.lanes = (inputOf s w).out.fmt.lanes) (hshape : Shape w [1] [0, 1] [0]) :
    exec (.done w) s = .next (if (s.region s.site.r).lead.isSome then s.taken w
    else (s.taken w).takeDone s.site.r (w.fn == 1) s.site.tag.toNat (tokBits (doneToken s.site)) s.site.past) := by
  have hlead : ((s.taken w).region s.site.r).lead = (s.region s.site.r).lead := (congrArg RegionState.lead (s.region_taken w) :)
  have htaken : (s.begun w).consume w = s.taken w := rfl
  show execDone w s = _
  unfold execDone
  rw [State.flow_effect hfire (computeElem_form ha hshape (by decide) (by decide))]
  simp only [sameOut_of hlanes, State.site_begun, htaken, hlead, Slot.fnN_one]
  cases (s.region s.site.r).lead <;> rfl

/-- The sequencer takes the first DONE of a step. -/
theorem takeDone_first (hplace : s.site.a < 65536) (hfirst : (s.region s.site.r).doneRecv = false) (stop : Bool) (tag tok : Nat) (past : Past) :
    Firing s ((s.taken w).takeDone s.site.r stop tag tok past) [] ∧
      (((s.taken w).takeDone s.site.r stop tag tok past).region s.site.r).doneRecv = true ∧
      (((s.taken w).takeDone s.site.r stop tag tok past).region s.site.r).stopFlag = stop := by
  have hrecv : ((s.taken w).region s.site.r).doneRecv = false := (congrArg RegionState.doneRecv (s.region_taken w) :).trans hfirst
  rw [State.takeDone, if_neg (ne_true_of_eq_false hrecv), State.region_updRegion]
  exact ⟨(firing_taken w hplace).updRegion fun _ => rfl, rfl, rfl⟩

/-- A second DONE of a step is Malformed. -/
theorem takeDone_second (hsecond : (s.region s.site.r).doneRecv = true) (stop : Bool) (tag tok : Nat) (past : Past) :
    (s.taken w).takeDone s.site.r stop tag tok past = (s.taken w).raise s.site.r fcMalformed noElem noSlot tag 0 tok := by
  have hrecv : ((s.taken w).region s.site.r).doneRecv = true := (congrArg RegionState.doneRecv (s.region_taken w) :).trans hsecond
  rw [State.takeDone, if_pos hrecv]

/-! ## CNTWATCH (R157) -/

/-- The watch that CNTWATCH sets. -/
def watchOf (s : State) (w : Slot) : Watch :=
  { r := s.site.r, elem := s.site.a, slot := s.site.slot, tag := s.site.tag, seq := s.site.seq, last := s.site.last,
    addr := BitVec.ofNat 64 (payOf (inputOf s w) 0), target := BitVec.ofNat 64 (payOf (inputOf s w) 1), scope := w.fnN, d0 := w.d0,
    d1 := w.d1, chan := w.out, past := s.site.past }

/-- The state of a CNTWATCH that has set its watch. -/
def State.watching (s : State) (w : Slot) : State :=
  (s.taken w).updCore (s.coreOf s.site.r s.site.a) fun c => { c with watches := c.watches ++ [watchOf s w] }

/-- CNTWATCH sets its watch where one of the 8 is free. -/
theorem exec_cntwatch (hfire : CanFire s w) (ha : s.site.a % 128 < 64)
    (hlanes : ((inputOf s w).op 0).fmt.lanes = (inputOf s w).out.fmt.lanes) (hshape : Shape w [2] [1, 2, 3, 4, 5] [0]) : exec (.cntwatch w) s =
    .next (if 8 ≤ (s.core (s.coreOf s.site.r s.site.a)).watches.length then s.begun w else s.watching w) := by
  have hcoreOf : (s.begun w).coreOf s.site.r s.site.a = s.coreOf s.site.r s.site.a := s.coreOf_taken w _
  have hcore : ∀ k, (s.begun w).core k = s.core k := fun k => by
    rw [State.begun_eq]
    rfl
  show execCntwatch w s = _
  unfold execCntwatch
  rw [State.flow_effect hfire (computeElem_form ha hshape (by decide) (by decide))]
  simp only [sameOut_of hlanes, State.site_begun, hcoreOf, hcore]
  by_cases hfull : 8 ≤ (s.core (s.coreOf s.site.r s.site.a)).watches.length
  · rw [if_pos hfull, if_pos hfull]
    rfl
  · rw [if_neg hfull, if_neg hfull]
    rfl

theorem State.watches_watching (s : State) (w : Slot) : ((s.watching w).core (s.coreOf s.site.r s.site.a)).watches =
    (s.core (s.coreOf s.site.r s.site.a)).watches ++ [watchOf s w] := by
  rw [State.watching, State.core_updCore, State.taken_eq]
  rfl

/-! ## CHAIN (R158) -/

/-- A record appended to a bound queue of the device that is idle starts the queue at it. -/
theorem State.appendQueue_idle (x : Agent) {q vd : Nat} {rc : Word} (hvd : s.queueVd q = some vd) (hbound : (s.queue q).bound = true)
    (hrun : (s.queue q).run = false) (hstopped : (s.queue q).stopped = false) (halign : rc.toNat % 64 = 0) :
    s.appendQueue x q rc vd = .ok ((s.updQueue q fun y => { y with tail := rc }).startQueue q rc) := by
  have htail : s.tailLink q = none := by simp [State.tailLink, hrun, hstopped]
  simp [State.appendQueue, hvd, hbound, halign, htail]

theorem State.startQueue_eq (s : State) (q : Nat) (rc : Word) :
    ((s.startQueue q rc).queue q).run = true ∧ ((s.startQueue q rc).queue q).cur = rc ∧
      ((s.startQueue q rc).queue q).tail = (s.queue q).tail ∧ (s.startQueue q rc).net = s.net := by
  unfold State.startQueue
  dsimp only
  rw [State.queue_updQueue]
  split <;> exact ⟨rfl, rfl, rfl, rfl⟩

/-- CHAIN starts an idle queue at its record. -/
theorem elemChain_starts (hfire : CanFire s w) (ha : s.site.a % 128 < 64)
    (hlanes : ((inputOf s w).op 0).fmt.lanes = (inputOf s w).out.fmt.lanes) (hshape : Shape w [1] [0] [0])
    (hconst : w.const.toNat < 1024) (hgate : isEngineGate w.d0 = true)
    (hone : w.d1.valid = false) {q : Nat} (hq : q = 1024 * (s.coreOf s.site.r s.site.a / 48) + 64 * (w.const.toNat % 16) + w.const.toNat / 16)
    (hvd : s.queueVd q = some (s.region s.site.r).vd) (hbound : (s.queue q).bound = true) (hrun : (s.queue q).run = false)
    (hstopped : (s.queue q).stopped = false) (halign : payOf (inputOf s w) 0 % 64 = 0) :
    ∃ u, exec (.elemChain w) s = .next u ∧ (u.queue q).run = true ∧ (u.queue q).cur = BitVec.ofNat 64 (payOf (inputOf s w) 0) ∧
      (u.queue q).tail = BitVec.ofNat 64 (payOf (inputOf s w) 0) ∧ u.net = s.net := by
  have hacted : (s.taken w).irrevocable s.site.r = { s with
      mem := ((s.taken w).irrevocable s.site.r).mem, poison := ((s.taken w).irrevocable s.site.r).poison
      unseen := ((s.taken w).irrevocable s.site.r).unseen, regions := ((s.taken w).irrevocable s.site.r).regions
      elems := (s.taken w).elems, free := (s.taken w).free } := by
    rw [State.irrevocable_eq, State.taken_eq]
  have hqueue : ((s.taken w).irrevocable s.site.r).queue q = s.queue q := by
    rw [hacted]
    rfl
  have halign' : (BitVec.ofNat 64 (payOf (inputOf s w) 0)).toNat % 64 = 0 := by
    rw [BitVec.toNat_ofNat]
    omega
  have happend := State.appendQueue_idle (s := (s.taken w).irrevocable s.site.r) ((s.begun w).streamAgent s.site.r s.site.a s.site.slot)
    (vd := (s.region s.site.r).vd) (by rw [hacted]; exact hvd) (hqueue ▸ hbound) (hqueue ▸ hrun) (hqueue ▸ hstopped) halign'
  obtain ⟨hrun', hcur, htail, hnet⟩ := State.startQueue_eq (((s.taken w).irrevocable s.site.r).updQueue q fun y =>
    { y with tail := BitVec.ofNat 64 (payOf (inputOf s w) 0) }) q (BitVec.ofNat 64 (payOf (inputOf s w) 0))
  refine ⟨_, ?_, hrun', hcur, htail.trans (by rw [State.queue_updQueue]), hnet.trans (by rw [State.updQueue, hacted])⟩
  have hregion : ((s.begun w).region s.site.r).vd = (s.region s.site.r).vd := (congrArg RegionState.vd (s.region_begun w) :)
  have htaken : (s.begun w).consume w = s.taken w := rfl
  show execElemChain w s = _
  unfold execElemChain
  rw [State.flow_effect hfire (computeElem_form ha hshape (by decide) (by decide))]
  simp only [State.siteDie_begun, ← hq, State.site_begun, hregion, htaken, happend, decide_eq_false (Nat.not_le.mpr hconst), hgate, hone,
    sameOut_of hlanes]
  rfl

/-- Settles O30: each instruction's effect, from the state in which its firing has taken its set. -/
theorem systemElementsFire : Obligations.SystemElementsFire := by
  unfold Obligations.SystemElementsFire
  intro s w hfire ha x r core die out fits
  refine ⟨?tokout, ?trap, ?etrig, ?done, ?cntwatch, ?chain⟩
  case tokout =>
    intro hshape hlanes hlt h0 h1 hne
    refine ⟨fun hnone => ⟨_, (firing_taken w hfire.place).toFired, tokout_faults hfire ha hlanes hshape hlt h0 h1 hne hnone⟩,
      fun p hp => ⟨fun htakes => ?adds, fun hfull => ?waits⟩⟩
    case adds =>
      obtain ⟨u, hu, hfifo, hnet⟩ := tokout_adds hfire ha hlanes hshape hlt h0 h1 hne hp htakes
      refine ⟨u, s.leaving w, hu, hfifo, hnet, rfl, rfl, rfl, s.tokTag_leaving w, rfl, rfl, rfl⟩
    case waits =>
      exact ⟨_, tokout_waits hfire ha hlanes hshape hlt h0 h1 hne hp hfull, by rw [State.begun_eq], by rw [State.begun_eq],
        by rw [State.begun_eq]⟩
  case trap =>
    intro hconst raised
    refine ⟨fun hshape hlanes => ?stops, fun hshape hlanes l hl => ?passes⟩
    case stops =>
      exact ⟨s.begun w, by rw [State.begun_eq], by rw [State.begun_eq], trap_stops hfire ha hlanes hshape hconst⟩
    case passes =>
      refine ⟨s.begun w, _, by rw [State.begun_eq], by rw [State.begun_eq], trap_passes hfire ha hlanes hshape hconst, ?_⟩
      have hraised : { raised (s.begun w) with site := s.site } = s.trapped w := by
        rw [← s.site_trapped w]
        rfl
      rw [hraised]
      exact (firing_trapped hfire hl).toFired
  case etrig =>
    intro hshape hlanes
    have hexec := exec_elemEtrig hfire ha hlanes hshape
    refine ⟨fun hdone l hl => ?idle, fun a htask htriggered => ?triggers⟩
    case idle =>
      rw [s.etriggered_idle w hdone] at hexec
      exact ⟨_, hexec, net_pass_triggering hfire.place hl⟩
    case triggers =>
      rw [s.etriggered_first w htask htriggered] at hexec
      refine ⟨s.triggering w, _, (firing_triggering hfire.place).toFired, hexec, performed_triggering s w, ?_, rfl⟩
      rw [State.triggered_pass, State.region_updRegion]
      rfl
  case done =>
    intro hshape hlanes
    have hexec := exec_done hfire ha hlanes hshape
    refine ⟨fun hlead => ?far, fun hlead hfirst => ?first, fun hlead hsecond => ?second⟩
    case far =>
      rw [if_pos (Option.isSome_iff_ne_none.mpr hlead)] at hexec
      exact ⟨_, hexec, (firing_taken w hfire.place).toFired⟩
    case first =>
      rw [hlead] at hexec
      obtain ⟨hfiring, hrecv, hstop⟩ := takeDone_first (w := w) hfire.place hfirst (w.fn == 1) s.site.tag.toNat
        (tokBits (doneToken s.site)) s.site.past
      exact ⟨_, hexec, hfiring.toFired, hrecv, hstop⟩
    case second =>
      rw [hlead] at hexec
      exact ⟨_, (firing_taken w hfire.place).toFired, hexec.trans (congrArg Host.Outcome.next (takeDone_second hsecond ..))⟩
  case cntwatch =>
    intro hshape hlanes
    have hexec := exec_cntwatch hfire ha hlanes hshape
    refine ⟨fun hroom => ?sets, fun hfull => ?waits⟩
    case sets =>
      rw [if_neg (Nat.not_le.mpr hroom)] at hexec
      exact ⟨_, hexec, ((firing_taken w hfire.place).setCores _).toFired, s.watches_watching w⟩
    case waits =>
      rw [if_pos hfull] at hexec
      exact ⟨_, hexec, by rw [State.begun_eq], by rw [State.begun_eq]⟩
  case chain =>
    intro hshape hlanes hconst hgate hone q hvd hbound hrun hstopped halign
    exact elemChain_starts hfire ha hlanes hshape hconst hgate hone rfl hvd hbound hrun hstopped halign

end Sys2Proof.Machine
end

section
/-! SUPPORT. What learning, acquires and noted reads leave of the notes on writes (R168, R188, R195, R383 to R385). -/
namespace Sys2Proof.Machine
open Sys2Proof.Claims

variable {s t u : State} {x y : Agent} {l : Past} {sc : Nat}

/-! ## Notes that stay (R383) -/

/-- A note `g` tells of the same write as `h`, and knows of no less. -/
structure Unseen.Extends (h g : Unseen) : Prop where
  same : SameWrite g h
  who : g.who = h.who
  seen : ∀ y ∈ h.seen, y ∈ g.seen

theorem Unseen.extends_refl (h : Unseen) : h.Extends h := ⟨⟨rfl, rfl, rfl, rfl⟩, rfl, fun _ hy => hy⟩

theorem sameWrite_trans {f g h : Unseen} (a : SameWrite f g) (b : SameWrite g h) : SameWrite f h := by
  obtain ⟨hp, hn, hnew, htime⟩ := a
  obtain ⟨kp, kn, knew, ktime⟩ := b
  exact ⟨hp.trans kp, hn.trans kn, hnew.trans knew, htime.trans ktime⟩

theorem Unseen.Extends.trans {f g h : Unseen} (a : f.Extends g) (b : g.Extends h) : f.Extends h :=
  ⟨sameWrite_trans b.same a.same, b.who.trans a.who, fun y hy => b.seen y (a.seen y hy)⟩

theorem Unseen.Extends.known {h g : Unseen} (a : h.Extends g) (k : h.known x = true) : g.known x = true := by
  simp only [Unseen.known, Bool.or_eq_true, List.any_eq_true, a.who] at k ⊢
  exact k.imp_right fun ⟨y, hy, hm⟩ => ⟨y, a.seen y hy, hm⟩

theorem Unseen.Extends.inPast {h g : Unseen} (a : h.Extends g) (k : h.inPast l = true) : g.inPast l = true := by
  obtain ⟨_, _, _, htime⟩ := a.same
  simp only [Unseen.inPast, Unseen.knownAt, Unseen.madeBy, List.any_eq_true, Bool.or_eq_true, a.who, htime] at k ⊢
  obtain ⟨y, hy, hk⟩ := k
  exact ⟨y, hy, hk.imp_right fun ⟨z, hz, hm⟩ => ⟨z, a.seen z hz, hm⟩⟩

/-- No note of `s` is lost in `t`, and none knows less. -/
def Kept (s t : State) : Prop := ∀ h ∈ s.unseen, ∃ g ∈ t.unseen, h.Extends g

theorem Kept.trans (a : Kept s t) (b : Kept t u) : Kept s u := fun h hh =>
  have ⟨g, hg, hhg⟩ := a h hh
  have ⟨f, hf, hgf⟩ := b g hg
  ⟨f, hf, hhg.trans hgf⟩

theorem Kept.learned (a : Kept s t) (b : Claims.Learned t u x l) : Claims.Learned s u x l := fun h hh hn hp =>
  have ⟨g, hg, hhg⟩ := a h hh
  have ⟨f, hf, hsame, hk⟩ := b g hg (hhg.same.2.1 ▸ hn) (hhg.inPast hp)
  ⟨f, hf, sameWrite_trans hsame hhg.same, hk⟩

theorem Kept.learned_before (b : Kept t u) (a : Claims.Learned s t x l) : Claims.Learned s u x l := fun h hh hn hp =>
  have ⟨g, hg, hsame, hk⟩ := a h hh hn hp
  have ⟨f, hf, hgf⟩ := b g hg
  ⟨f, hf, sameWrite_trans hgf.same hsame, hgf.known hk⟩

/-- Where each note is mapped to one that tells of its write, none is lost. -/
theorem kept_of_map {f : Unseen → Unseen} (h : t.unseen = s.unseen.map f) (hf : ∀ h : Unseen, h.Extends (f h)) : Kept s t := fun g hg =>
  ⟨f g, h ▸ List.mem_map_of_mem hg, hf g⟩

/-! ## Learning (R383, link 3) -/

/-- What a note is once agent `x` has learned of the past `l` at time `t`. -/
def Unseen.learnedBy (x : Agent) (l : Past) (t : Nat) (h : Unseen) : Unseen :=
  if !(h.who.covers x || h.seen.any fun y => y.1.covers x) && h.inPast l && true then { h with seen := (x, t) :: h.seen } else h

theorem Unseen.extends_learnedBy (h : Unseen) (x : Agent) (l : Past) (t : Nat) : h.Extends (h.learnedBy x l t) := by
  unfold Unseen.learnedBy
  split
  · exact ⟨⟨rfl, rfl, rfl, rfl⟩, rfl, fun _ hy => List.mem_cons_of_mem _ hy⟩
  · exact h.extends_refl

theorem Unseen.known_learnedBy {h : Unseen} (t : Nat) (hp : h.inPast l = true) : (h.learnedBy x l t).known x = true := by
  unfold Unseen.learnedBy
  split
  · simp [Unseen.known, Agent.meets_self]
  next hcov =>
    have hk : (h.who.covers x || h.seen.any fun y => y.1.covers x) = true := by
      rw [hp, Bool.and_true, Bool.and_true, Bool.not_eq_true', Bool.not_eq_false] at hcov
      exact hcov
    simp only [Unseen.known, Agent.meets, Bool.or_eq_true, List.any_eq_true] at hk ⊢
    exact hk.imp .inl fun ⟨y, hy, hc⟩ => ⟨y, hy, .inl hc⟩

theorem Unseen.learnedBy_nil (h : Unseen) (x : Agent) (t : Nat) : h.learnedBy x [] t = h := by
  simp [Unseen.learnedBy, Unseen.inPast]

theorem State.unseen_learn (s : State) (x : Agent) (l : Past) : (s.learn x l).unseen = s.unseen.map (Unseen.learnedBy x l s.free) := by
  cases l with
  | nil => exact (List.map_id'' (fun h => Unseen.learnedBy_nil h x s.free) s.unseen).symm
  | cons y l => rfl

theorem kept_learn (s : State) (x : Agent) (l : Past) : Kept s (s.learn x l) :=
  kept_of_map (s.unseen_learn x l) fun h => h.extends_learnedBy x l s.free

theorem State.learned_learn (s : State) (x : Agent) (l : Past) : Claims.Learned s (s.learn x l) x l := fun h hh _ hp =>
  ⟨_, s.unseen_learn x l ▸ List.mem_map_of_mem hh, (h.extends_learnedBy x l s.free).same, Unseen.known_learnedBy s.free hp⟩

/-! ## Releases and acquires (R188, R384) -/

theorem Unseen.extends_released (h : Unseen) (x : Agent) (sc : Nat) : h.Extends (h.released x sc) := by
  refine ⟨h.sameWrite_released x sc, ?_, ?_⟩ <;> unfold Unseen.released <;> split
  · rfl
  · rfl
  · exact fun _ hy => hy
  · exact fun _ hy => hy

theorem kept_releaseAt (s : State) (x : Agent) (l : Past) (sc : Nat) : Kept s (s.releaseAt x l sc) :=
  kept_of_map (f := fun h => if h.who.meets x || l.any (fun y => h.madeBy y.1 y.2) then h.released x sc else h) rfl fun h => by
    split
    · exact h.extends_released x sc
    · exact h.extends_refl

theorem kept_releaseIf (s : State) (o : Nat) (x : Agent) (l : Past) (sc : Nat) : Kept s (s.releaseIf o x l sc) := by
  unfold State.releaseIf
  split
  · exact kept_releaseAt s x l sc
  · exact fun h hh => ⟨h, hh, h.extends_refl⟩

/-- A release performs the writes of its agent, whatever has been learned before it. -/
theorem performed_releaseAt_of_kept (h : Kept s t) (x : Agent) (l : Past) (sc : Nat) : Performed s (t.releaseAt x l sc) x sc := fun f hf _ hm =>
  have ⟨g, hg, hfg⟩ := h f hf
  ⟨g.released x sc, State.performed_releaseAt hg (hfg.who ▸ hm), sameWrite_trans (g.sameWrite_released x sc) hfg.same, g.mem_released x sc⟩

theorem kept_learns (x : Agent) (rel : List Release) (s : State) : Kept s (rel.foldl (fun s y => s.learn x y.past) s) := by
  induction rel generalizing s with
  | nil => exact fun h hh => ⟨h, hh, h.extends_refl⟩
  | cons y rel ih => exact (kept_learn s x y.past).trans (ih _)

theorem learned_learns (x : Agent) (rel : List Release) (s : State) :
    ∀ y ∈ rel, Claims.Learned s (rel.foldl (fun s y => s.learn x y.past) s) x y.past := by
  induction rel generalizing s with
  | nil => exact fun _ hy => nomatch hy
  | cons z rel ih =>
    intro y hy
    rcases List.mem_cons.mp hy with rfl | hy
    · exact (kept_learns x rel _).learned_before (s.learned_learn x y.past)
    · exact (kept_learn s x z.past).learned (ih _ y hy)

/-- An acquire learns of what each release released, where each scope holds the other agent (R384). -/
theorem acquired_acquireFrom (s : State) (x : Agent) (sc : Nat) (rel : List Release) : Acquired s (s.acquireFrom x sc rel) x sc rel :=
  fun y hy hheld hholds => learned_learns x _ s y (List.mem_filter.mpr ⟨hy, by simp [hheld, hholds]⟩)

/-! ## Noted reads (R195) -/

/-- What a note is once a read by agent `x` that synchronises with `rel` is noted. -/
def Unseen.readBy (x : Agent) (rel : List Release) (h : Unseen) : Unseen :=
  if h.n != 0 && h.sync.any rel.contains && !h.reads.contains x then { h with reads := x :: h.reads } else h

theorem Unseen.readBy_eq (x : Agent) (rel : List Release) (h : Unseen) : h.readBy x rel = { h with reads := (h.readBy x rel).reads } := by
  unfold Unseen.readBy
  split <;> rfl

theorem Unseen.readBy_nil (x : Agent) (h : Unseen) : h.readBy x [] = h := by
  simp [Unseen.readBy]

theorem State.noteRead_map (s : State) (x : Agent) (p n : Nat) :
    s.noteRead x p n = { s with unseen := s.unseen.map (Unseen.readBy x (s.seenSync x p n)) } := by
  unfold State.noteRead
  dsimp only
  cases hrel : s.seenSync x p n with
  | nil => rw [List.map_id'' (Unseen.readBy_nil x)]; rfl
  | cons y rel => rfl

theorem kept_noteRead (s : State) (x : Agent) (p n : Nat) : Kept s (s.noteRead x p n) := by
  rw [State.noteRead_map]
  refine kept_of_map (f := Unseen.readBy x (s.seenSync x p n)) rfl fun h => ?_
  rw [Unseen.readBy_eq]
  exact ⟨⟨rfl, rfl, rfl, rfl⟩, rfl, fun _ hy => hy⟩

/-- A noted read changes nothing of what a later one reads, but for the notes of it. -/
theorem State.readOne_readBy (s : State) (us : List Unseen) (y : Agent) (rel : List Release) (x : Agent) (q k : Nat) (l : List Unseen) (v : Nat) :
    State.readOne { s with unseen := us } x q k (l.map (Unseen.readBy y rel)) v =
      ((s.readOne x q k l v).1, (s.readOne x q k l v).2.map (Unseen.readBy y rel)) := by
  induction l generalizing v with
  | nil => rfl
  | cons h l ih =>
    have hsee : State.mustSee { s with unseen := us } x (h.readBy y rel) = s.mustSee x h := by
      rw [Unseen.readBy_eq]
      rfl
    have hp : (h.readBy y rel).p = h.p := by rw [Unseen.readBy_eq]
    have hn : (h.readBy y rel).n = h.n := by rw [Unseen.readBy_eq]
    have hbyte : ∀ w, (h.readBy y rel).byte w q = h.byte w q := fun w => by rw [Unseen.byte, hp, Unseen.byte]
    have hnew : (h.readBy y rel).new = h.new := by rw [Unseen.readBy_eq]
    have hold : (h.readBy y rel).old = h.old := by rw [Unseen.readBy_eq]
    simp only [List.map_cons, State.readOne, hsee, hp, hn, hbyte, hnew, hold, List.length_map, ih]
    repeat' split
    all_goals rfl

theorem State.seenSync_noteRead (s : State) (x : Agent) (p n : Nat) (y : Agent) (p' n' : Nat) :
    (s.noteRead y p' n').seenSync x p n = s.seenSync x p n := by
  have hbyte : ∀ q, (s.noteRead y p' n').seenByte x q = ((s.seenByte x q).1, (s.seenByte x q).2.map (Unseen.readBy y (s.seenSync y p' n'))) :=
    fun q => by
      rw [State.noteRead_map]
      exact s.readOne_readBy ..
  have hsync : ∀ h : Unseen, (h.readBy y (s.seenSync y p' n')).sync = h.sync := fun h => by rw [Unseen.readBy_eq]
  refine congrArg List.eraseDups (List.flatMap_congr fun i _ => ?_)
  rw [hbyte]
  cases (s.seenByte x (p + i)).2 with
  | none => rfl
  | some h => exact hsync h

/-- What an agent must see depends on the notes, and on the clusters of the queues. -/
theorem State.mustSee_congr (h : t.queues = s.queues) (x : Agent) (g : Unseen) : t.mustSee x g = s.mustSee x g := by
  have hcluster : ∀ y, t.agentCluster y = s.agentCluster y := fun y => by
    unfold State.agentCluster State.queue
    rw [h]
  have hlies : ∀ a k b, t.liesIn a k b = s.liesIn a k b := fun a k b => by
    unfold State.liesIn State.sameUnit
    simp only [hcluster]
  simp only [State.mustSee, hlies]

theorem State.readOne_congr (h : t.queues = s.queues) (x : Agent) (q k : Nat) (l : List Unseen) (v : Nat) :
    t.readOne x q k l v = s.readOne x q k l v := by
  induction l generalizing v with
  | nil => rfl
  | cons g l ih => simp only [State.readOne, State.mustSee_congr h, ih]

/-- An entry of an address cache changes nothing of what is read. -/
theorem State.seenSync_tlb (s : State) (tlb : List (Nat × Nat × Word × Nat × Nat)) (x : Agent) (p n : Nat) :
    State.seenSync { s with tlb := tlb } x p n = s.seenSync x p n := by
  have hbyte : ∀ q, State.seenByte { s with tlb := tlb } x q = s.seenByte x q := fun q =>
    State.readOne_congr (t := { s with tlb := tlb }) (s := s) rfl x q _ _ _
  simp only [State.seenSync, hbyte]

/-- What a load with acquire order leaves: the element has acquired what the value read releases. -/
theorem acquired_loadOrder (s : State) (x e : Agent) {o : Nat} (ho : o % 2 = 1) (sc p n : Nat) :
    Acquired s (s.loadOrder x e o sc p n) e sc (s.seenSync x p n) := by
  intro y hy hheld hholds
  have hlies : ∀ a k b, (s.noteRead x p n).liesIn a k b = s.liesIn a k b := fun a k b => by
    rw [State.noteRead_eq]
    rfl
  rw [State.loadOrder, if_pos (by simp [ho]), State.seenSync_noteRead]
  exact (kept_noteRead s x p n).learned (acquired_acquireFrom _ e sc _ y hy (hlies .. ▸ hheld) (hlies .. ▸ hholds))

theorem State.loadOrder_eq (s : State) (x e : Agent) (o sc p n : Nat) :
    s.loadOrder x e o sc p n = { s with unseen := (s.loadOrder x e o sc p n).unseen } := by
  unfold State.loadOrder
  dsimp only
  split
  · rw [State.acquireFrom_eq, State.noteRead_eq]
  · exact State.noteRead_eq ..

end Sys2Proof.Machine
end

section
/-! SUPPORT. How the request of a memory element issues and is performed, and how replies, store streams, contributions and watches go on
(R157, R167 to R170, R188, R190, R191, R194, R198, R383 to R386). -/
namespace Sys2Proof.Machine
open Sys2Proof.Claims

variable {s t u : State} {r a k : Nat} {q : MemReq}

/-! ## The token path and the release of a request (R188, R383) -/

/-- The state in which request `q` is performed: its token path has been followed, and it has released where its order says so. -/
def State.asked (s : State) (r a : Nat) (q : MemReq) : State :=
  (s.learn (s.streamAgent r a q.slot) q.past).releaseIf q.order (s.elemAgent r a) q.past q.scope

theorem State.asked_eq (s : State) (r a : Nat) (q : MemReq) : s.asked r a q = { s with unseen := (s.asked r a q).unseen } := by
  rw [State.asked, State.releaseIf_eq, State.learn_eq]

theorem learned_asked (s : State) (r a : Nat) (q : MemReq) : Claims.Learned s (s.asked r a q) (s.streamAgent r a q.slot) q.past :=
  (kept_releaseIf _ q.order _ q.past q.scope).learned_before (s.learned_learn _ q.past)

theorem performed_asked (s : State) (r a : Nat) {q : MemReq} (h : 2 ≤ q.order) : Performed s (s.asked r a q) (s.elemAgent r a) q.scope := by
  rw [State.asked, State.releaseIf, if_pos h]
  exact performed_releaseAt_of_kept (kept_learn s _ q.past) _ q.past q.scope

/-- What the outcome of performing request `q` leaves. -/
def State.settled (s : State) (r a : Nat) (q : MemReq) : Perf → State
  | .stall => s.rouseAll r (s.rangesOf r a q)
  | .fault c i => s.draw.parkReq r a q c i
  | .sent t => t.draw.updElem r a fun e => { e with queue := e.queue.map fun (y : MemReq) => if y.id == q.id then { y with sent := true } else y }
  | .part t l h b => t.draw.updElem r a fun e => { e with queue := e.queue.map fun (y : MemReq) =>
      if y.id == q.id then { y with left := some l, hits := h, bad := b, first := 0 } else y }
  | .done t outs =>
    let t := t.draw.updElem r a fun e => addReply (dropReq e q.id) q.slot q.slot q.tag outs (t.draw.pastOf (s.streamAgent r a q.slot) q.past)
    match q.op with
    | .fibAdv x _ => t.settleCtx r a x
    | .fibEnd x => t.settleCtx r a x
    | _ => t

theorem exec_memoryRequestIssue (hr : r < 256) (ha : a < 65536) (hk : k < 64) (hgoes : s.memGoes r a = true)
    (hq : (s.elem r a).queue[k]? = some q) (hmay : s.mayIssue r a k = true) :
    exec (.memoryRequestIssue r a k) s = .next (s.settled r a q ((s.asked r a q).perform r a q)) := by
  have hunit : ¬ (256 ≤ r ∨ 65536 ≤ a ∨ 68 ≤ k) := by omega
  show execMemoryRequestIssue r a k s = _
  simp only [execMemoryRequestIssue, hgoes, hk, State.issueAt, hq, hmay]
  rw [if_neg (by simpa [or_assoc] using hunit)]
  rfl

/-! ## Accesses (R170, R186) -/

theorem State.touched_off (h : s.dbg.vd = none) (r a slot : Nat) (tag : BitVec 24) (wr : Bool) (ea n : Nat) :
    s.touched r a slot tag wr ea n = s := by
  simp [State.touched, h]

/-- An access that resolves, and behind nothing that holds it, is made. -/
theorem State.place_ok {typed : Bool} {b off n al : Nat} {k : Kind} {f : Nat → Nat → Perf} {p x : Nat}
    (hp : s.effAddr r a typed b off n al k = .ok p x) (hblocked : s.blocked (s.region r).vd p n = false) (hrepair : s.repair = []) :
    s.place r a typed b off n al k f = f p x := by
  have hdivert : s.divertWait (s.region r).vd (eaOf b off) = false := by simp [State.divertWait, hrepair]
  simp [State.place, hp, hblocked, hdivert]

/-! ## Loads (R190, R385) -/

theorem State.readAt_unmarked {p n : Nat} (hreach : s.reach (s.region r).vd p ≠ .dead) (hmark : s.regMarked r p = false) :
    s.readAt r p n = .inl (s.regRead r p n) := by
  simp [State.readAt, beq_false_of_ne hreach, hmark]

theorem State.loadAt_unmarked {p n : Nat} (x : Agent) (hreach : s.reach (s.region r).vd p ≠ .dead) (hmark : s.regMarked r p = false) :
    s.loadAt x r p n = .inl (s.agentRead x r p n) := by
  simp [State.loadAt, State.readAt_unmarked hreach hmark]

/-- An agent that must see every write to the bytes reads the newest. -/
theorem State.agentRead_seen {x : Agent} {p n : Nat} (h : s.mayMiss x p n = []) : s.agentRead x r p n = s.regRead r p n := by
  simp [State.agentRead, h]

theorem State.regRead_congr {p n : Nat} (hm : t.mem = s.mem) (hv : t.vds = s.vds) (hr : t.regions = s.regions) :
    t.regRead r p n = s.regRead r p n := by
  induction n generalizing p with
  | zero => rfl
  | succ n ih =>
    have hbyte : t.regByte r p = s.regByte r p := by rw [State.regByte, State.regByte, State.region, hr, State.readByte_congr hm hv, State.region]
    rw [State.regRead, State.regRead, hbyte, ih]

/-- The state that a load leaves. -/
def State.loaded (s : State) (r a : Nat) (q : MemReq) (p : Nat) : State :=
  (s.fillTlb (s.whoElem r a) (BitVec.ofNat 64 (eaOf q.base q.off))).loadOrder (s.streamAgent r a q.slot) (s.elemAgent r a) q.order q.scope p q.size

theorem State.loaded_eq (s : State) (r a : Nat) (q : MemReq) (p : Nat) :
    s.loaded r a q p = { s with tlb := (s.loaded r a q p).tlb, unseen := (s.loaded r a q p).unseen } := by
  rw [State.loaded, State.loadOrder_eq, State.fillTlb_eq]

theorem acquired_loaded (s : State) (r a : Nat) {q : MemReq} (h : q.order % 2 = 1) (p : Nat) :
    Acquired s (s.loaded r a q p) (s.elemAgent r a) q.scope (s.seenSync (s.streamAgent r a q.slot) p q.size) := by
  rw [State.loaded, State.fillTlb_eq]
  intro y hy
  rw [← State.seenSync_tlb s (s.fillTlb (s.whoElem r a) (BitVec.ofNat 64 (eaOf q.base q.off))).tlb] at hy
  exact acquired_loadOrder _ _ _ h q.scope p q.size y hy

theorem State.perform_ld {p x : Nat} (hop : q.op = .ld) (hp : s.effAddr r a q.typed q.base q.off q.size q.size .rd = .ok p x)
    (hblocked : s.blocked (s.region r).vd p q.size = false) (hrepair : s.repair = []) (hreach : s.reach (s.region r).vd p ≠ .dead)
    (hdbg : s.dbg.vd = none) (hmark : s.regMarked r p = false) :
    s.perform r a q = .done (s.loaded r a q p) [out1 q (s.agentRead (s.streamAgent r a q.slot) r p q.size) false] := by
  have hoff : ∀ wr, (s.fillTlb (s.whoElem r a) (BitVec.ofNat 64 (eaOf q.base q.off))).touched r a q.slot q.tag wr (eaOf q.base q.off) q.size =
      s.fillTlb (s.whoElem r a) (BitVec.ofNat 64 (eaOf q.base q.off)) :=
    fun wr => State.touched_off (by rw [State.fillTlb_eq]; exact hdbg) ..
  simp only [State.perform, hop, State.doLd]
  rw [State.place_ok hp hblocked hrepair, State.loadAt_unmarked _ hreach hmark, hoff]
  rfl

/-! ## Stores (R191, R384) -/

theorem State.storeAt_plain {x : Agent} {sc p n v : Nat} {rel : List Release} (hreach : s.reach (s.region r).vd p ≠ .dead)
    (hmgmt : isMgmt p = false) (hfar : isFarMgmt p = false) (hbuf : (s.region r).buffering = false) :
    s.storeAt x r sc p n v rel = .ok (s.storeBy x sc p n v rel) := by
  simp [State.storeAt, beq_false_of_ne hreach, hmgmt, hfar, State.regWrite, hbuf]

/-- The bytes that a store writes. -/
theorem State.readN_storeBy (hs : Safe s) (x : Agent) (sc p n v : Nat) (rel : List Release) :
    Memory.readN (s.storeBy x sc p n v rel).mem p n = v % 2 ^ (8 * n) := by
  rw [State.storeBy_eq, Nat.pow_mul]
  exact Memory.readN_writeN_same hs p n v

/-- The bytes that a store leaves alone. -/
theorem State.readByte_storeBy (hs : Safe s) (x : Agent) (sc p n v : Nat) (rel : List Release) {b : Nat} (hb : b < p ∨ p + n ≤ b) :
    (s.storeBy x sc p n v rel).readByte b = s.readByte b := by
  rw [← State.readByte_writeNat_other hs v hb, State.storeBy_eq]
  exact State.readByte_congr rfl rfl b

theorem State.perform_st {p x : Nat} {v : Word} (hop : q.op = .st v)
    (hp : s.effAddr r a q.typed q.base q.off q.size q.size .wr = .ok p x) (hblocked : s.blocked (s.region r).vd p q.size = false)
    (hrepair : s.repair = []) (hreach : s.reach (s.region r).vd p ≠ .dead) (hdbg : s.dbg.vd = none) (hmgmt : isMgmt p = false)
    (hfar : isFarMgmt p = false) (hbuf : (s.region r).buffering = false) : ∃ outs, s.perform r a q =
      .done (s.storeBy (s.streamAgent r a q.slot) q.scope p q.size v.toNat (s.reqRel r a q)) outs := by
  have hoff : ∀ wr, (s.storeBy (s.streamAgent r a q.slot) q.scope p q.size v.toNat (s.reqRel r a q)).touched r a q.slot q.tag wr
      (eaOf q.base q.off) q.size = s.storeBy (s.streamAgent r a q.slot) q.scope p q.size v.toNat (s.reqRel r a q) :=
    fun wr => State.touched_off (by rw [State.storeBy_eq]; exact hdbg) ..
  refine ⟨[out1 q (s.storePay (s.region r).vd p q.size v.toNat).toNat false], ?_⟩
  simp only [State.perform, hop, State.doSt]
  rw [State.place_ok hp hblocked hrepair, State.storeAt_plain hreach hmgmt hfar hbuf]
  exact congrArg (Perf.done · _) (hoff true)

/-- The note of a store with release carries the release. -/
theorem release_mem_reqRel (s : State) (r a : Nat) {q : MemReq} (h : 2 ≤ q.order) :
    ∃ y ∈ s.reqRel r a q, IsRelease s (s.elemAgent r a) q.scope y := by
  rw [State.reqRel, State.releasesOf, if_pos h]
  exact ⟨_, List.mem_singleton_self _, isRelease_releaseOf ..⟩

/-! ## Loads and stores of a request (R167, R168) -/

theorem State.streamAgent_asked (s : State) (r a : Nat) (q : MemReq) (c : Nat) : (s.asked r a q).streamAgent r a c = s.streamAgent r a c := by
  rw [State.asked_eq]
  rfl

theorem State.elemAgent_asked (s : State) (r a : Nat) (q : MemReq) : (s.asked r a q).elemAgent r a = s.elemAgent r a := by
  rw [State.asked_eq]
  rfl

theorem State.region_asked (s : State) (r a : Nat) (q : MemReq) (j : Nat) : (s.asked r a q).region j = s.region j := by
  rw [State.asked_eq]
  rfl

/-- A request leaves the queue of its element, its reply behind those before it. -/
def replied (q : MemReq) (outs : List OutTok) (past : Past) (e : ElemState) : ElemState := addReply (dropReq e q.id) q.slot q.slot q.tag outs past

theorem queue_replied (q : MemReq) (outs : List OutTok) (past : Past) (e : ElemState) :
    (replied q outs past e).queue = e.queue.filter fun y => y.id != q.id := by
  unfold replied addReply
  split <;> rfl

theorem replies_replied {q : MemReq} {outs : List OutTok} (past : Past) (e : ElemState) (h : outs.isEmpty = false) :
    (replied q outs past e).replies = e.replies ++ [{ stream := q.slot, slot := q.slot, tag := q.tag, outs := outs, past := past }] := by
  rw [replied, addReply, h]
  rfl

/-- What a request that is done leaves, but for those of fibres. -/
theorem State.settled_done {outs : List OutTok} (hadv : ∀ x v, q.op ≠ .fibAdv x v) (hend : ∀ x, q.op ≠ .fibEnd x) :
    s.settled r a q (.done t outs) = t.draw.updElem r a (replied q outs (t.draw.pastOf (s.streamAgent r a q.slot) q.past)) := by
  dsimp only [State.settled]
  split
  · exact absurd ‹_› (hadv _ _)
  · exact absurd ‹_› (hend _)
  · rfl

/-- A request that may issue, of a memory element that goes. -/
structure Issuable (s : State) (r a k : Nat) (q : MemReq) : Prop where
  region : r < 256
  elem : a < 65536
  entry : k < 64
  goes : s.memGoes r a = true
  queued : (s.elem r a).queue[k]? = some q
  may : s.mayIssue r a k = true

theorem Issuable.exec (h : Issuable s r a k q) :
    exec (.memoryRequestIssue r a k) s = .next (s.settled r a q ((s.asked r a q).perform r a q)) :=
  exec_memoryRequestIssue h.region h.elem h.entry h.goes h.queued h.may

theorem Issuable.exec_of (h : Issuable s r a k q) {x : Perf} (hx : (s.asked r a q).perform r a q = x) :
    Machine.exec (.memoryRequestIssue r a k) s = .next (s.settled r a q x) :=
  hx ▸ h.exec

/-- What the access of a request needs: it resolves, and nothing holds it. -/
structure Reaches (s : State) (r a : Nat) (q : MemReq) (kind : Kind) (p : Nat) : Prop where
  place : ∃ x, s.effAddr r a q.typed q.base q.off q.size q.size kind = .ok p x
  unheld : s.blocked (s.region r).vd p q.size = false
  repair : s.repair = []
  reach : s.reach (s.region r).vd p ≠ .dead
  debug : s.dbg.vd = none

theorem Reaches.asked {kind : Kind} {p : Nat} (h : Reaches s r a q kind p) : Reaches (s.asked r a q) r a q kind p := by
  rw [State.asked_eq]
  exact ⟨h.place, h.unheld, h.repair, h.reach, h.debug⟩

/-- The state that a load request leaves. -/
def State.loadDone (s : State) (r a : Nat) (q : MemReq) (p : Nat) : State :=
  ((s.asked r a q).loaded r a q p).draw.updElem r a
    (replied q [out1 q ((s.asked r a q).agentRead (s.streamAgent r a q.slot) r p q.size) false]
      (((s.asked r a q).loaded r a q p).draw.pastOf (s.streamAgent r a q.slot) q.past))

theorem Issuable.exec_ld (h : Issuable s r a k q) {p : Nat} (hop : q.op = .ld) (hr : Reaches s r a q .rd p) (hmark : s.regMarked r p = false) :
    Machine.exec (.memoryRequestIssue r a k) s = .next (s.loadDone r a q p) := by
  obtain ⟨⟨x, hp⟩, hopen, hrepair, hreach, hdbg⟩ := hr.asked
  have hmark' : (s.asked r a q).regMarked r p = false := by
    rw [State.asked_eq]
    exact hmark
  have hperf := State.perform_ld hop hp hopen hrepair hreach hdbg hmark'
  rw [State.streamAgent_asked] at hperf
  rw [h.exec_of hperf, State.settled_done (by simp [hop]) (by simp [hop])]
  rfl

theorem State.elem_loaded (s : State) (r a : Nat) (q : MemReq) (p j b : Nat) : ((s.asked r a q).loaded r a q p).elem j b = s.elem j b := by
  rw [State.loaded_eq, State.asked_eq]
  rfl

theorem State.elem_loadDone (s : State) (r a : Nat) (q : MemReq) (p : Nat) : ∃ past, (s.loadDone r a q p).elem r a =
    replied q [out1 q ((s.asked r a q).agentRead (s.streamAgent r a q.slot) r p q.size) false] past (s.elem r a) := by
  rw [← s.elem_loaded r a q p]
  exact ⟨_, State.elem_updElem ..⟩

theorem State.readByte_loadDone (s : State) (r a : Nat) (q : MemReq) (p b : Nat) : (s.loadDone r a q p).readByte b = s.readByte b := by
  refine State.readByte_congr ?_ ?_ b <;> unfold State.loadDone <;> rw [State.loaded_eq, State.asked_eq] <;> rfl

theorem acquired_loadDone (s : State) (r a : Nat) {q : MemReq} (h : q.order % 2 = 1) (p : Nat) :
    Acquired (s.asked r a q) (s.loadDone r a q p) (s.elemAgent r a) q.scope
      ((s.asked r a q).seenSync (s.streamAgent r a q.slot) p q.size) := by
  have hacq := acquired_loaded (s.asked r a q) r a h p
  rw [State.elemAgent_asked, State.streamAgent_asked] at hacq
  exact hacq

/-- A load that sees every write to its bytes reads them as they stand. -/
theorem State.agentRead_asked {x : Agent} {p : Nat} (h : (s.asked r a q).mayMiss x p q.size = []) :
    (s.asked r a q).agentRead x r p q.size = s.regRead r p q.size := by
  rw [State.agentRead_seen h]
  refine State.regRead_congr ?_ ?_ ?_ <;> rw [State.asked_eq]

/-- The state that a store request leaves. -/
def State.storeDone (s : State) (r a : Nat) (q : MemReq) (p : Nat) (v : Word) (outs : List OutTok) (past : Past) : State :=
  ((s.asked r a q).storeBy (s.streamAgent r a q.slot) q.scope p q.size v.toNat ((s.asked r a q).reqRel r a q)).draw.updElem r a (replied q outs past)

theorem Issuable.exec_st (h : Issuable s r a k q) {p : Nat} {v : Word} (hop : q.op = .st v) (hr : Reaches s r a q .wr p)
    (hmgmt : isMgmt p = false) (hfar : isFarMgmt p = false) (hbuf : (s.region r).buffering = false) :
    ∃ outs past, Machine.exec (.memoryRequestIssue r a k) s = .next (s.storeDone r a q p v outs past) := by
  obtain ⟨⟨x, hp⟩, hopen, hrepair, hreach, hdbg⟩ := hr.asked
  obtain ⟨outs, hperf⟩ := State.perform_st hop hp hopen hrepair hreach hdbg hmgmt hfar (by rw [State.region_asked]; exact hbuf)
  rw [State.streamAgent_asked] at hperf
  exact ⟨outs, _, (h.exec_of hperf).trans (congrArg Host.Outcome.next (State.settled_done (by simp [hop]) (by simp [hop])))⟩

section
variable {p : Nat} {v : Word} {outs : List OutTok} {past : Past}

theorem State.queue_storeDone : ((s.storeDone r a q p v outs past).elem r a).queue = (s.elem r a).queue.filter fun y => y.id != q.id := by
  have helem : ((s.asked r a q).storeBy (s.streamAgent r a q.slot) q.scope p q.size v.toNat ((s.asked r a q).reqRel r a q)).elem r a =
      s.elem r a := by
    rw [State.storeBy_eq, State.asked_eq]
    rfl
  rw [State.storeDone, State.elem_updElem, queue_replied, ← helem]
  rfl

theorem State.bytes_storeDone (hs : Safe s) : Memory.readN (s.storeDone r a q p v outs past).mem p q.size = v.toNat % 2 ^ (8 * q.size) ∧
    ∀ b, b < p ∨ p + q.size ≤ b → (s.storeDone r a q p v outs past).readByte b = s.readByte b := by
  have hsafe : Safe (s.asked r a q) := by
    rw [State.asked_eq]
    exact hs
  refine ⟨State.readN_storeBy hsafe .., fun b hb => ?_⟩
  refine Eq.trans (b := ((s.asked r a q).storeBy (s.streamAgent r a q.slot) q.scope p q.size v.toNat ((s.asked r a q).reqRel r a q)).readByte b)
    (State.readByte_congr rfl rfl b) ?_
  rw [State.readByte_storeBy hsafe _ _ _ _ _ _ hb, State.asked_eq]
  rfl

/-- The newest note is that of the store, and carries its release. -/
theorem State.note_storeDone : ∃ g l, (s.storeDone r a q p v outs past).unseen = g :: l ∧ g.p = p ∧ g.n = q.size ∧
    g.who = s.streamAgent r a q.slot ∧ (2 ≤ q.order → ∃ y ∈ g.sync, IsRelease s (s.elemAgent r a) q.scope y) := by
  refine ⟨_, _, congrArg State.unseen (State.storeBy_eq ..), rfl, rfl, rfl, fun h => ?_⟩
  obtain ⟨y, hy, hrel⟩ := release_mem_reqRel (s.asked r a q) r a h
  refine ⟨y, List.mem_append_left _ hy, ?_⟩
  rw [State.elemAgent_asked, State.asked_eq] at hrel
  exact hrel

end

end Sys2Proof.Machine
end

section
/-! SUPPORT. How replies, store streams, contributions and watches go on (R157, R168, R169, R194, R198). -/
namespace Sys2Proof.Machine
open Sys2Proof.Claims

variable {s t u : State} {r a k : Nat}

/-! ## Replies (R168) -/

/-- The first reply of a request's stream sends its tokens. -/
theorem memoryReply_sends {y : MemReply} (hr : r < 256) (ha : a < 65536) (hy : (s.elem r a).replies[k]? = some y)
    (hgoes : s.regionGoes r = true) (hfirst : ∀ z ∈ (s.elem r a).replies.take k, z.stream ≠ y.stream) (hstream : y.stream < 32) :
    exec (.memoryReply r a k) s = .next (y.outs.foldl (fun s o => s.sendOut r a y.slot o y.past)
      (s.updElem r a fun e => { e with replies := removeAt e.replies k })) := by
  have hnone : ((s.elem r a).replies.take k).any (fun z => z.stream == y.stream) = false := by
    simpa [List.any_eq_false] using hfirst
  show execMemoryReply r a k s = _
  simp only [execMemoryReply, Nat.not_le.mpr hr, Nat.not_le.mpr ha, hy, hgoes, hnone, Nat.not_le.mpr hstream]
  rfl

/-! ## Store streams (R169, R198) -/

/-- The element of a stream that lies within its offsets is placed as an access at its offset. -/
theorem State.streamPlace_within {c : StreamCtx} {kind : Kind} {f : Nat → Nat → Perf} (hlow : 0 ≤ streamOff c c.next)
    (hhigh : streamOff c c.next < 2 ^ 41) : s.streamPlace r a c kind f =
      s.place r a c.typed (s.mbOf r a c.base) (streamOff c c.next).toNat c.size c.size kind f := by
  have hout : (decide (streamOff c c.next < 0) || decide (2 ^ 41 ≤ streamOff c c.next)) = false := by
    rw [decide_eq_false (Int.not_lt.mpr hlow), decide_eq_false (Int.not_le.mpr hhigh)]
    rfl
  simp only [State.streamPlace, hout]
  rfl

/-- The state of a store stream of context `x` that has stored its next element at `p`, from the entry `m`. -/
def State.streamStored (s : State) (r a x : Nat) (c : StreamCtx) (m : MsEntry) (p : Nat) : State :=
  (s.learn (s.streamAgent r a (32 + x)) (joinPast c.past m.past)).storeBy (s.streamAgent r a (32 + x)) 0 p c.size m.tok.payload.toNat

theorem State.streamStored_eq (s : State) (r a x : Nat) (c : StreamCtx) (m : MsEntry) (p : Nat) : s.streamStored r a x c m p =
    { s with mem := (s.streamStored r a x c m p).mem, unseen := (s.streamStored r a x c m p).unseen,
             poison := (s.streamStored r a x c m p).poison } := by
  rw [State.streamStored, State.storeBy_eq, State.learn_eq]

/-- What a store stream leaves once its element is stored: the context counts it, and the entry is taken. -/
def State.streamNext (s : State) (r a x : Nat) (c : StreamCtx) (m : MsEntry) (outs : List OutTok) (past : Past) : State :=
  ((s.draw.progress r).updCtx r a x fun c => { c with next := c.next + 1, first := 0 }).updElem r a fun e =>
    addReply (dropEnts e [(1, m)]) (32 + x) c.slot c.tag outs past

theorem State.entry_streamNext {x : Nat} {c d : StreamCtx} (m : MsEntry) (outs : List OutTok) (past : Past)
    (h : Sparse.entry? (s.elem r a).ctxs x = some d) :
    Sparse.entry? ((s.streamNext r a x c m outs past).elem r a).ctxs x = some { d with next := d.next + 1, first := 0 } := by
  have hctxs : ∀ e, (addReply (dropEnts e [(1, m)]) (32 + x) c.slot c.tag outs past).ctxs = e.ctxs := fun e => by
    unfold addReply
    split <;> rfl
  rw [State.streamNext, State.elem_updElem, hctxs]
  exact State.entry_updCtx (s := s.draw.progress r) _ h

theorem storeStreamData_stores {x p z : Nat} {c : StreamCtx} {m : MsEntry} (hr : r < 256) (ha : a < 65536) (hx : x < 4)
    (hc : Sparse.entry? (s.elem r a).ctxs x = some c) (hm : entryAt (entriesOf (s.elem r a) c.slot) 1 c.tag = some m)
    (hgoes : s.memGoes r a = true) (hmay : s.mayStore r a x c = true) (hkind : m.tok.kind ≠ 7) (hlow : 0 ≤ streamOff c c.next)
    (hhigh : streamOff c c.next < 2 ^ 41)
    (hp : s.effAddr r a c.typed (s.mbOf r a c.base) (streamOff c c.next).toNat c.size c.size .wr = .ok p z)
    (hblocked : s.blocked (s.region r).vd p c.size = false) (hrepair : s.repair = []) (hreach : s.reach (s.region r).vd p ≠ .dead)
    (hmgmt : isMgmt p = false) (hfar : isFarMgmt p = false) (hbuf : (s.region r).buffering = false) (hdbg : s.dbg.vd = none) :
    ∃ outs past, exec (.storeStreamData r a x) s = .next ((s.streamStored r a x c m p).streamNext r a x c m outs past) := by
  have hlearn := s.learn_eq (s.streamAgent r a (32 + x)) (joinPast c.past m.past)
  have hstore : (s.learn (s.streamAgent r a (32 + x)) (joinPast c.past m.past)).storeAt (s.streamAgent r a (32 + x)) r 0 p c.size
      m.tok.payload.toNat = .ok (s.streamStored r a x c m p) :=
    State.storeAt_plain (by rw [hlearn]; exact hreach) hmgmt hfar (by rw [hlearn]; exact hbuf)
  have hoff : ∀ wr ea, (s.streamStored r a x c m p).touched r a c.slot c.tag wr ea c.size = s.streamStored r a x c m p := fun wr ea =>
    State.touched_off (by rw [State.streamStored_eq]; exact hdbg) ..
  refine ⟨if c.next + 1 == c.stop then [countTok c] else [],
    (s.streamStored r a x c m p).draw.pastOf (s.streamAgent r a (32 + x)) (joinPast c.past m.past), ?_⟩
  show execStoreStreamData r a x s = _
  simp only [execStoreStreamData, Nat.not_le.mpr hr, Nat.not_le.mpr ha, Nat.not_le.mpr hx, hc, hm, hgoes, hmay, beq_false_of_ne hkind,
    State.streamPlace_within hlow hhigh, State.place_ok hp hblocked hrepair, hstore, hoff]
  rfl

theorem State.bytes_streamStored (hs : Safe s) (x : Nat) (c : StreamCtx) (m : MsEntry) (p : Nat) :
    Memory.readN (s.streamStored r a x c m p).mem p c.size = m.tok.payload.toNat % 2 ^ (8 * c.size) ∧
      ∀ b, b < p ∨ p + c.size ≤ b → (s.streamStored r a x c m p).readByte b = s.readByte b := by
  have hsafe : Safe (s.learn (s.streamAgent r a (32 + x)) (joinPast c.past m.past)) := by
    rw [State.learn_eq]
    exact hs
  refine ⟨State.readN_storeBy hsafe .., fun b hb => ?_⟩
  rw [State.streamStored, State.readByte_storeBy hsafe _ _ _ _ _ _ hb, State.learn_eq]
  rfl

/-! ## Reductions at their home slice (R194) -/

variable {c : Nat} {m : RedMsg}

/-- A slice without message `k`. -/
def State.redTaken (s : State) (c k : Nat) : State := s.updCluster c fun x => { x with redMsgs := removeAt x.redMsgs k }

/-- A reduction with the contribution `m`. -/
def RedOpen.plus (o : RedOpen) (m : RedMsg) : RedOpen := { o with terms := Sparse.put o.terms m.x m.val, rel := o.rel ++ m.rel }

/-- A reduction that the contribution `m` opens. -/
def redOpened (m : RedMsg) : RedOpen := { pa := m.pa, size := m.size, n := m.n, fadd := m.fadd, fmt := m.fmt, terms := [] }

/-- The acknowledgement of a contribution, after its access is noted. -/
def State.acked (s : State) (m : RedMsg) (pay : Nat) (rel : List Release) : State :=
  (s.touched m.r m.elem m.slot m.tag true m.ea m.size).ackRed m pay m.scope rel

theorem State.ackRed_eq (s : State) (m : RedMsg) (pay sc : Nat) (rel : List Release) : s.ackRed m pay sc rel =
    { s with unseen := (s.ackRed m pay sc rel).unseen, elems := (s.ackRed m pay sc rel).elems } := by
  unfold State.ackRed
  split
  · rfl
  · rw [State.acquireFrom_eq]
    rfl

theorem State.acked_eq (s : State) (m : RedMsg) (pay : Nat) (rel : List Release) : s.acked m pay rel =
    { s with unseen := (s.acked m pay rel).unseen, elems := (s.acked m pay rel).elems, dbg := (s.acked m pay rel).dbg,
             regions := (s.acked m pay rel).regions } := by
  rw [State.acked, State.ackRed_eq, State.touched_eq]

/-- The state once reduction `o` has all its terms: its result is written. -/
def State.redEnded (s : State) (c k : Nat) (m : RedMsg) (o : RedOpen) : State :=
  (((s.redTaken c k).updCluster c fun x => { x with reds := x.reds.filter fun z => z.pa != o.pa }).storeBy (s.elemAgent m.r m.elem) m.scope
    o.pa o.size (redValue o) o.rel).acked m 1 o.rel

/-- The state once reduction `o` stands with one term more. -/
def State.redKept (s : State) (c k : Nat) (m : RedMsg) (o : RedOpen) : State :=
  ((s.redTaken c k).updCluster c fun x => { x with reds := (x.reds.filter fun z => z.pa != o.pa) ++ [o] }).acked m 0 []

/-- The state once the contribution `m` has joined reduction `o`. -/
def State.redJoined (s : State) (c k : Nat) (m : RedMsg) (o : RedOpen) : State :=
  if (o.plus m).terms.length == (o.plus m).n then s.redEnded c k m (o.plus m) else s.redKept c k m (o.plus m)

theorem State.redJoined_ends {o : RedOpen} (h : (o.plus m).terms.length = (o.plus m).n) :
    s.redJoined c k m o = s.redEnded c k m (o.plus m) := if_pos (beq_iff_eq.mpr h)

theorem State.redJoined_goes {o : RedOpen} (h : (o.plus m).terms.length ≠ (o.plus m).n) :
    s.redJoined c k m o = s.redKept c k m (o.plus m) := if_neg (by simpa using h)

/-- A reduction of one term holds it as soon as it opens. -/
theorem plus_redOpened_one (hx : m.x < m.n) (hn : m.n = 1) : (redOpened m).plus m =
    { pa := m.pa, size := m.size, n := 1, fadd := m.fadd, fmt := m.fmt, terms := [(0, m.val)], rel := m.rel } := by
  have hzero : m.x = 0 := by omega
  simp only [RedOpen.plus, redOpened, hzero, hn]
  rfl

/-- Whether a contribution belongs to a reduction that is open at its place, which still lacks its term. -/
def RedFits (o : RedOpen) (m : RedMsg) : Prop :=
  o.pa = m.pa ∧ o.size = m.size ∧ o.n = m.n ∧ o.fadd = m.fadd ∧ o.fmt = m.fmt ∧ Sparse.entry? o.terms m.x = none

theorem State.cluster_acked (s : State) (m : RedMsg) (pay : Nat) (rel : List Release) (c : Nat) : (s.acked m pay rel).cluster c = s.cluster c := by
  rw [State.acked_eq]
  rfl

theorem State.readByte_acked (s : State) (m : RedMsg) (pay : Nat) (rel : List Release) (b : Nat) :
    (s.acked m pay rel).readByte b = s.readByte b := by
  rw [State.acked_eq]
  rfl

theorem State.mem_acked (s : State) (m : RedMsg) (pay : Nat) (rel : List Release) : (s.acked m pay rel).mem = s.mem := by
  rw [State.acked_eq]

/-- A slice once a reduction has ended. -/
theorem State.cluster_redEnded (s : State) (c k : Nat) (m : RedMsg) (o : RedOpen) :
    ((s.redEnded c k m o).cluster c).redMsgs = removeAt (s.cluster c).redMsgs k ∧
      ((s.redEnded c k m o).cluster c).reds = (s.cluster c).reds.filter fun z => z.pa != o.pa := by
  have hcluster : (s.redEnded c k m o).cluster c =
      ((s.redTaken c k).updCluster c fun x => { x with reds := x.reds.filter fun z => z.pa != o.pa }).cluster c := by
    rw [State.redEnded, State.cluster_acked, State.storeBy_eq]
    rfl
  rw [hcluster, State.cluster_updCluster, State.redTaken, State.cluster_updCluster]
  exact ⟨rfl, rfl⟩

/-- The result that a reduction writes as it ends, and no other byte. -/
theorem State.bytes_redEnded (hs : Safe s) (c k : Nat) (m : RedMsg) (o : RedOpen) :
    Memory.readN (s.redEnded c k m o).mem o.pa o.size = redValue o % 2 ^ (8 * o.size) ∧
      ∀ b, b < o.pa ∨ o.pa + o.size ≤ b → (s.redEnded c k m o).readByte b = s.readByte b := by
  have hsafe : Safe ((s.redTaken c k).updCluster c fun x => { x with reds := x.reds.filter fun z => z.pa != o.pa }) := hs
  refine ⟨?_, fun b hb => ?_⟩
  · rw [State.redEnded, State.mem_acked]
    exact State.readN_storeBy hsafe ..
  · rw [State.redEnded, State.readByte_acked, State.readByte_storeBy hsafe _ _ _ _ _ _ hb]
    rfl

/-- A slice once a contribution has joined a reduction that goes on. -/
theorem State.cluster_redKept (s : State) (c k : Nat) (m : RedMsg) (o : RedOpen) :
    ((s.redKept c k m o).cluster c).redMsgs = removeAt (s.cluster c).redMsgs k ∧ o ∈ ((s.redKept c k m o).cluster c).reds := by
  rw [State.redKept, State.cluster_acked, State.cluster_updCluster, State.redTaken, State.cluster_updCluster]
  exact ⟨rfl, List.mem_append_right _ (List.mem_singleton_self _)⟩

theorem State.readByte_redKept (s : State) (c k : Nat) (m : RedMsg) (o : RedOpen) (b : Nat) : (s.redKept c k m o).readByte b = s.readByte b := by
  rw [State.redKept, State.readByte_acked]
  rfl

section
variable (hc : c < 4) (hm : (s.cluster c).redMsgs[k]? = some m) (hx : m.x < m.n) (hr : m.r < 256)
include hc hm hx hr

/-- A contribution to no open reduction opens one, where one of the 256 places is free. -/
theorem redContribution_opens (hnone : ∀ o ∈ (s.cluster c).reds, overlap (o.pa, o.size) (m.pa, m.size) = false) :
    exec (.redContribution c k) s = .next (if 256 ≤ (s.cluster c).reds.length then s
      else s.redJoined c k m (redOpened m)) := by
  have hmiss : (s.cluster c).reds.find? (fun o => overlap (o.pa, o.size) (m.pa, m.size)) = none :=
    List.find?_eq_none.mpr fun o ho => by simp [hnone o ho]
  show execRedContribution c k s = _
  simp only [execRedContribution, Nat.not_le.mpr hc, hm, hmiss, Nat.not_le.mpr hx, Nat.not_le.mpr hr]
  by_cases hfull : 256 ≤ (s.cluster c).reds.length
  · rw [if_pos hfull, if_pos hfull]
    rfl
  · rw [if_neg hfull, if_neg hfull]
    rfl

/-- A contribution that fits an open reduction joins it. -/
theorem redContribution_joins {o : RedOpen}
    (ho : (s.cluster c).reds.find? (fun o => overlap (o.pa, o.size) (m.pa, m.size)) = some o) (hfits : RedFits o m) :
    exec (.redContribution c k) s = .next (s.redJoined c k m o) := by
  obtain ⟨hpa, hsize, hn, hfadd, hfmt, hterm⟩ := hfits
  have hfit : (o.pa != m.pa || o.size != m.size || o.n != m.n || o.fadd != m.fadd || o.fmt != m.fmt || decide (m.n ≤ m.x) ||
      (Sparse.entry? o.terms m.x).isSome) = false := by
    simp [hpa, hsize, hn, hfadd, hfmt, hterm, hx]
  show execRedContribution c k s = _
  simp only [execRedContribution, Nat.not_le.mpr hc, hm, ho, hfit, Nat.not_le.mpr hr]
  rfl

omit hr in
/-- A contribution that does not fit the open reduction at its place is rejected. -/
theorem redContribution_rejects {o : RedOpen}
    (ho : (s.cluster c).reds.find? (fun o => overlap (o.pa, o.size) (m.pa, m.size)) = some o) (hfits : ¬ RedFits o m) :
    exec (.redContribution c k) s = .next ((s.redTaken c k).rejectRed m) := by
  have hbad : (o.pa != m.pa || o.size != m.size || o.n != m.n || o.fadd != m.fadd || o.fmt != m.fmt || decide (m.n ≤ m.x) ||
      (Sparse.entry? o.terms m.x).isSome) = true := by
    by_contra h
    refine hfits ?_
    simpa [hx, RedFits, and_assoc] using h
  show execRedContribution c k s = _
  simp only [execRedContribution, Nat.not_le.mpr hc, hm, ho, hbad]
  rfl

section
variable (hnone : ∀ o ∈ (s.cluster c).reds, overlap (o.pa, o.size) (m.pa, m.size) = false)
include hnone

/-- A reduction of one term writes it as its result. -/
theorem redContribution_one (hs : Safe s) (hone : m.n = 1) (hroom : (s.cluster c).reds.length < 256) :
    ∃ u, exec (.redContribution c k) s = .next u ∧
      Memory.readN u.mem m.pa m.size =
        redValue { pa := m.pa, size := m.size, n := 1, fadd := m.fadd, fmt := m.fmt, terms := [(0, m.val)] } % 2 ^ (8 * m.size) ∧
      (∀ b, b < m.pa ∨ m.pa + m.size ≤ b → u.readByte b = s.readByte b) ∧ (u.cluster c).redMsgs = removeAt (s.cluster c).redMsgs k := by
  have hexec := redContribution_opens hc hm hx hr hnone
  rw [if_neg (Nat.not_le.mpr hroom), State.redJoined_ends (by rw [plus_redOpened_one hx hone]; rfl), plus_redOpened_one hx hone] at hexec
  obtain ⟨hwritten, hothers⟩ := State.bytes_redEnded hs c k m
    { pa := m.pa, size := m.size, n := 1, fadd := m.fadd, fmt := m.fmt, terms := [(0, m.val)], rel := m.rel }
  exact ⟨_, hexec, hwritten, hothers, (s.cluster_redEnded c k m _).1⟩

/-- A reduction of more terms stands with its first. -/
theorem redContribution_many (hmany : 1 < m.n) (hroom : (s.cluster c).reds.length < 256) :
    ∃ u, exec (.redContribution c k) s = .next u ∧ (u.cluster c).redMsgs = removeAt (s.cluster c).redMsgs k ∧
      (∃ o ∈ (u.cluster c).reds, o.pa = m.pa ∧ o.n = m.n ∧ o.terms = [(m.x, m.val)]) ∧ ∀ b, u.readByte b = s.readByte b := by
  have hexec := redContribution_opens hc hm hx hr hnone
  rw [if_neg (Nat.not_le.mpr hroom), State.redJoined_goes (o := redOpened m) (Nat.ne_of_lt hmany)] at hexec
  obtain ⟨hmsgs, hopen⟩ := s.cluster_redKept c k m ((redOpened m).plus m)
  exact ⟨_, hexec, hmsgs, ⟨_, hopen, rfl, rfl, rfl⟩, s.readByte_redKept c k m _⟩

end

section
variable {o : RedOpen} (ho : (s.cluster c).reds.find? (fun o => overlap (o.pa, o.size) (m.pa, m.size)) = some o)
include ho

/-- A reduction that lacks terms stands with one more. -/
theorem redContribution_goes (hfits : RedFits o m) (hmore : (Sparse.put o.terms m.x m.val).length ≠ m.n) :
    ∃ u, exec (.redContribution c k) s = .next u ∧ (u.cluster c).redMsgs = removeAt (s.cluster c).redMsgs k ∧
      (∃ z ∈ (u.cluster c).reds, z.pa = m.pa ∧ z.n = m.n ∧ z.terms = Sparse.put o.terms m.x m.val) ∧ ∀ b, u.readByte b = s.readByte b := by
  have hexec := redContribution_joins hc hm hx hr ho hfits
  obtain ⟨hpa, hsize, hn, _⟩ := hfits
  rw [State.redJoined_goes (o := o) (fun h => hmore (h.trans hn))] at hexec
  obtain ⟨hmsgs, hopen⟩ := s.cluster_redKept c k m (o.plus m)
  exact ⟨_, hexec, hmsgs, ⟨_, hopen, hpa, hn, rfl⟩, s.readByte_redKept c k m _⟩

/-- A reduction that has all its terms writes their result and leaves its slice. -/
theorem redContribution_ends (hs : Safe s) (hfits : RedFits o m) (hall : (Sparse.put o.terms m.x m.val).length = m.n) :
    ∃ u, exec (.redContribution c k) s = .next u ∧ (u.cluster c).redMsgs = removeAt (s.cluster c).redMsgs k ∧
      (u.cluster c).reds = (s.cluster c).reds.filter (fun z => z.pa != m.pa) ∧
      Memory.readN u.mem m.pa m.size = redValue { o with terms := Sparse.put o.terms m.x m.val } % 2 ^ (8 * m.size) ∧
      ∀ b, b < m.pa ∨ m.pa + m.size ≤ b → u.readByte b = s.readByte b := by
  have hexec := redContribution_joins hc hm hx hr ho hfits
  obtain ⟨hpa, hsize, hn, _⟩ := hfits
  rw [State.redJoined_ends (o := o) (hall.trans hn.symm)] at hexec
  obtain ⟨hmsgs, hreds⟩ := s.cluster_redEnded c k m (o.plus m)
  obtain ⟨hwritten, hothers⟩ := State.bytes_redEnded hs c k m (o.plus m)
  rw [show (o.plus m).pa = m.pa from hpa, show (o.plus m).size = m.size from hsize] at hwritten hothers
  rw [show (o.plus m).pa = m.pa from hpa] at hreds
  exact ⟨_, hexec, hmsgs, hreds, hwritten, hothers⟩

end

end

/-! ## Counter watches (R157) -/

/-- The state once a watch has read a counter that has reached its target. -/
def State.watchDone (s : State) (core k : Nat) (y : Watch) (p : Nat) : State :=
  ({ (s.learn (s.streamAgent y.r y.elem y.slot) y.past).acquireAt (s.streamAgent y.r y.elem y.slot) y.scope p 8 with
    cores := (s.updCore core fun c => { c with watches := removeAt c.watches k }).cores } : State).draw

theorem State.watchDone_eq (s : State) (core k : Nat) (y : Watch) (p : Nat) : s.watchDone core k y p =
    { s with cores := (s.updCore core fun c => { c with watches := removeAt c.watches k }).cores, unseen := (s.watchDone core k y p).unseen,
             free := (s.watchDone core k y p).free } := by
  rw [State.watchDone, State.acquireAt_eq, State.learn_eq]
  rfl

/-- What a watch reads. -/
def watchValue (s : State) (y : Watch) (p : Nat) : Nat :=
  (s.learn (s.streamAgent y.r y.elem y.slot) y.past).agentRead (s.streamAgent y.r y.elem y.slot) y.r p 8

/-- The token of a watch that has read `v`. -/
def watchToken (y : Watch) (v : Nat) : OutTok :=
  { dst := .dests y.d0 y.d1 y.chan, which := 2, tag := y.tag, seq := y.seq, last := y.last, pay := BitVec.ofNat 64 v, poison := false }

/-- A watch reads its counter, and sends the count once it has reached the target. -/
theorem counterWatchComplete_reads {core p x : Nat} {y : Watch} (hcore : core < 96) (hy : (s.core core).watches[k]? = some y)
    (hgoes : s.regionGoes y.r = true) (hdrained : (s.region y.r).drained = false) (hfrozen : (s.region y.r).frozenEnd = false)
    (hdbg : s.dbg.vd = none) (hp : s.effAddr y.r y.elem false y.addr.toNat 0 8 8 .rd = .ok p x)
    (hblocked : s.blocked (s.region y.r).vd p 8 = false) (hrepair : s.repair = []) (hmark : s.regMarked y.r p = false) :
    exec (.counterWatchComplete core k) s = .next (if watchValue s y p < y.target.toNat then
        (s.learn (s.streamAgent y.r y.elem y.slot) y.past).draw
      else (s.watchDone core k y p).sendOut y.r y.elem y.slot (watchToken y (watchValue s y p))
        ((s.watchDone core k y p).pastOf (s.streamAgent y.r y.elem y.slot) y.past)) := by
  have hdivert : s.divertWait (s.region y.r).vd y.addr.toNat = false := by simp [State.divertWait, hrepair]
  have hoff : ∀ wr ea, (s.watchDone core k y p).touched y.r y.elem y.slot y.tag wr ea 8 = s.watchDone core k y p := fun wr ea =>
    State.touched_off (by rw [State.watchDone_eq]; exact hdbg) ..
  have hvalue : (s.learn (s.streamAgent y.r y.elem y.slot) y.past).agentRead (s.streamAgent y.r y.elem y.slot) y.r p 8 = watchValue s y p :=
    rfl
  show execCounterWatchComplete core k s = _
  simp only [execCounterWatchComplete, Nat.not_le.mpr hcore, hy, hgoes, hdrained, hfrozen, hp, hblocked, hdivert, hmark, hvalue]
  by_cases hlow : watchValue s y p < y.target.toNat
  · rw [if_pos hlow, if_pos hlow]
    rfl
  · rw [if_neg hlow, if_neg hlow, ← hoff false y.addr.toNat]
    rfl

/-- A watch whose counter has reached the target has acquired what the value releases. -/
theorem acquired_watchDone (s : State) (core k : Nat) (y : Watch) (p : Nat) :
    Acquired (s.learn (s.streamAgent y.r y.elem y.slot) y.past) (s.watchDone core k y p) (s.streamAgent y.r y.elem y.slot) y.scope
      ((s.learn (s.streamAgent y.r y.elem y.slot) y.past).seenSync (s.streamAgent y.r y.elem y.slot) p 8) :=
  acquired_acquireFrom _ _ _ _

theorem watchValue_seen {y : Watch} {p : Nat}
    (h : (s.learn (s.streamAgent y.r y.elem y.slot) y.past).mayMiss (s.streamAgent y.r y.elem y.slot) p 8 = []) :
    watchValue s y p = s.regRead y.r p 8 := by
  rw [watchValue, State.agentRead_seen h]
  refine State.regRead_congr ?_ ?_ ?_ <;> rw [State.learn_eq]

/-! ## Memory requests are performed -/

/-- Settles O40: a request by its outcome, a load and a store by what they leave, and the other steps by their own rules above. -/
theorem memoryRequestsArePerformed : Obligations.MemoryRequestsArePerformed := by
  unfold Obligations.MemoryRequestsArePerformed
  refine ⟨?request, ?reply, ?stream, ?reduction, ?watch⟩
  case request =>
    intro s r a k q hr ha hk hgoes hq hmay x e b
    have hissue : Issuable s r a k q := ⟨hr, ha, hk, hgoes, hq, hmay⟩
    refine ⟨⟨learned_asked s r a q, performed_asked s r a⟩, fun h => hissue.exec_of h, fun c i h => hissue.exec_of h,
      fun t h => ⟨_, hissue.exec_of h, ?sent⟩, fun t l hits bad h => ⟨_, hissue.exec_of h, ?part⟩, fun t outs h hadv hend => ?done,
      fun p t hp hblocked hrepair hreach hdbg => ⟨?load, ?store⟩⟩
    case sent => exact (congrArg ElemState.queue (State.elem_updElem ..) :)
    case part => exact ⟨fun p => State.readByte_congr rfl rfl p, (congrArg ElemState.queue (State.elem_updElem ..) :)⟩
    case done => exact (hissue.exec_of h).trans (congrArg Host.Outcome.next (State.settled_done hadv hend))
    case load =>
      intro hop hmark
      rw [if_pos hop] at hp
      obtain ⟨past, helem⟩ := s.elem_loadDone r a q p
      have hreplies := (congrArg ElemState.replies helem).trans (replies_replied past _ rfl)
      refine ⟨_, hissue.exec_ld hop ⟨⟨t, hp⟩, hblocked, hrepair, hreach, hdbg⟩ hmark, ⟨_, hreplies, rfl, fun hseen => ?_⟩,
        fun h => acquired_loadDone s r a h p, ?_, s.readByte_loadDone r a q p⟩
      · exact congrArg (fun v => [out1 q v false]) (State.agentRead_asked hseen)
      · rw [helem, queue_replied]
    case store =>
      intro v hop hmgmt hfar hs hbuf
      rw [if_neg (by simp [hop])] at hp
      obtain ⟨outs, past, hexec⟩ := hissue.exec_st hop ⟨⟨t, hp⟩, hblocked, hrepair, hreach, hdbg⟩ hmgmt hfar hbuf
      obtain ⟨hwritten, hothers⟩ := State.bytes_storeDone hs
      exact ⟨_, hexec, hwritten, hothers, State.note_storeDone, State.queue_storeDone⟩
  case reply => exact fun s r a k y hr ha hy hgoes hfirst hstream => memoryReply_sends hr ha hy hgoes hfirst hstream
  case stream =>
    intro s r a x c m p t hr ha hx hc hm hgoes hmay hkind hlow hhigh hp hblocked hrepair hreach hmgmt hfar hs hbuf hdbg
    obtain ⟨outs, past, hexec⟩ := storeStreamData_stores hr ha hx hc hm hgoes hmay hkind hlow hhigh hp hblocked hrepair hreach hmgmt hfar
      hbuf hdbg
    obtain ⟨hwritten, hothers⟩ := s.bytes_streamStored hs x c m p
    refine ⟨_, hexec, hwritten, fun b hb => (State.readByte_congr rfl rfl b).trans (hothers b hb), State.entry_streamNext m outs past ?_⟩
    rw [State.streamStored_eq]
    exact hc
  case reduction =>
    intro s c k m hc hm hx hr hs rest hit
    refine ⟨fun hnone => ?opens, fun o ho => ?joins⟩
    case opens =>
      refine ⟨fun hfull => ?_, redContribution_one hc hm hx hr hnone hs, redContribution_many hc hm hx hr hnone⟩
      rw [redContribution_opens hc hm hx hr hnone, if_pos hfull]
    case joins =>
      intro fits terms
      exact ⟨redContribution_rejects hc hm hx ho, redContribution_goes hc hm hx hr ho, redContribution_ends hc hm hx hr ho hs⟩
  case watch =>
    intro s core k y p t hcore hy hgoes hdrained hfrozen hdbg hp hblocked hrepair hmark x u v
    have hexec := counterWatchComplete_reads hcore hy hgoes hdrained hfrozen hdbg hp hblocked hrepair hmark
    exact ⟨fun hseen => watchValue_seen hseen, fun hlow => hexec.trans (congrArg Host.Outcome.next (if_pos hlow)),
      fun hend => ⟨s.watchDone core k y p, acquired_watchDone s core k y p, s.watchDone_eq core k y p,
        hexec.trans (congrArg Host.Outcome.next (if_neg (Nat.not_lt.mpr hend)))⟩⟩

end Sys2Proof.Machine
end
